-- ==== Sys2Proof/Word.lean ====
section
/-! DEFINITION. Word.lean: the words the manual works in (R4, R6, R12) and their plainest arithmetic. -/

namespace Sys2Proof

/-- A byte. -/
abbrev Byte := BitVec 8

/-- A 64-bit register or descriptor word (R6). -/
abbrev Word := BitVec 64

/-- A Dial value (R12): [71:8] whole nanoseconds, [7:0] units of 1/256 ns. -/
abbrev Dial := BitVec 72

/-- The Dial counter with its 24 hidden bits (R33): units of 2^-32 ns. -/
abbrev DialCount := BitVec 96

/-- One nanosecond of a Dial value, in 1/256 ns (R12). -/
abbrev nsUnits : Nat := 256

/-- One whole second, in ns. -/
abbrev nsPerSecond : Nat := 1000000000

/-- The whole nanoseconds of a Dial value (R12). -/
def Dial.ns (d : Dial) : Nat := d.toNat / 256

/-- The visible Dial value of a count: bits below 1/256 ns are hidden (R33). -/
def DialCount.visible (c : DialCount) : Dial := BitVec.ofNat 72 (c.toNat / 2 ^ 24)

/-- The count that a visible Dial value stands for, its hidden bits 0. -/
def Dial.count (d : Dial) : DialCount := BitVec.ofNat 96 (d.toNat * 2 ^ 24)

/-- Bits [hi:lo] of a word, as a number (R4). -/
def bits {w : Nat} (x : BitVec w) (hi lo : Nat) : Nat := x.toNat / 2 ^ lo % 2 ^ (hi + 1 - lo)

/-- Bit i of a word (R4). -/
def bit {w : Nat} (x : BitVec w) (i : Nat) : Bool := x.getLsbD i

/-- The word with bits [hi:lo] replaced by the low bits of v. -/
def setBits {w : Nat} (x : BitVec w) (hi lo v : Nat) : BitVec w :=
  BitVec.ofNat w (x.toNat - bits x hi lo * 2 ^ lo + (v % 2 ^ (hi + 1 - lo)) * 2 ^ lo)

/-- A number as a register word. -/
def word (n : Nat) : Word := BitVec.ofNat 64 n

/-- A bit as a number. -/
def b2n (b : Bool) : Nat := if b then 1 else 0

/-- The signed value of the low w bits of a number. -/
def signed (w n : Nat) : Int := (BitVec.ofNat w n).toInt

/-- The two's complement bits of an integer, as a register word (sign-extended to 64 bits). -/
def wordOfInt (i : Int) : Word := BitVec.ofInt 64 i

/-- A quotient rounded up. -/
def divUp (a b : Nat) : Nat := (a + b - 1) / b

/-- A value held between two limits ("values outside act as the nearer limit"). -/
def clampNat (lo hi v : Nat) : Nat := max lo (min hi v)

/-- An integer held between two limits. -/
def clampInt (lo hi v : Int) : Int := max lo (min hi v)

/-- Bytes as a number, byte offset 0 holding bits [7:0] (R6). -/
def leNat : List Byte → Nat
  | [] => 0
  | b :: bs => b.toNat + 256 * leNat bs

/-- Bytes as a number, most significant byte first (network order, R6). -/
def beNat (bs : List Byte) : Nat := bs.foldl (fun a b => a * 256 + b.toNat) 0

/-- The low n bytes of a number, byte offset 0 first (R6). -/
def leBytes : Nat → Nat → List Byte
  | 0, _ => []
  | n + 1, v => BitVec.ofNat 8 v :: leBytes n (v / 256)

/-- The low n bytes of a number, most significant first. -/
def beBytes (n v : Nat) : List Byte := (leBytes n v).reverse

/-- n bytes of zero. -/
def zeros (n : Nat) : List Byte := List.replicate n 0

/-- Bytes off .. off + n - 1 of a byte list; bytes beyond its end read 0. -/
def slice (bs : List Byte) (off n : Nat) : List Byte :=
  let t := (bs.drop off).take n
  t ++ zeros (n - t.length)

/-- A little-endian field of a descriptor or record: n bytes at off (R6). -/
def leField (bs : List Byte) (off n : Nat) : Nat := leNat (slice bs off n)

/-- A field of a frame in network byte order: n bytes at off (R6). -/
def beField (bs : List Byte) (off n : Nat) : Nat := beNat (slice bs off n)

/-- Bytes xor-ed pairwise, to the shorter length. -/
def xorBytes (a b : List Byte) : List Byte := List.zipWith (· ^^^ ·) a b

end Sys2Proof
end

