-- ==== Sys2Proof/Syntax.lean ====
section
/-! DEFINITION. Syntax.lean: the commands of the Moafa, one constructor per row of the opcode table, with what each
carries from outside the block: who writes, which instance is meant, and the bytes a read from outside returned. -/

namespace Sys2Proof

/-- The parties that access registers or own rings (Actors of 00_scope; R38, R338, R356, R359). -/
inductive Party where
  | pf (p : Nat)        -- the physical function of PF index p
  | vf (p v : Nat)      -- virtual function v (1 to 2,048) of PF index p
  | cores               -- firmware on the cores
  | foreman             -- the management microcontroller
  | sideband            -- the board management controller
  deriving DecidableEq, Repr

/-- A frame as its lane delivers it (R49, R50): the Dial of the TIME cycle of its SFD strobe, the converter code of
the strobe edge, the line-bit offset b of its first SFD bit, and its bytes from destination address through FCS.
For a preempted frame (R127) these are those of its first fragment and of the whole reassembled frame. -/
structure RxFrame where
  lane   : Nat
  strobe : Dial
  code   : Byte
  offset : Nat
  bytes  : List Byte
  deriving DecidableEq, Repr

/-- The record a standby receives from its primary (R112, R288): the fields of the SEQUENCED record and the message. -/
structure MirrorRec where
  seq       : Word
  stamp     : Dial
  stackPort : Nat
  arrival   : BitVec 32
  flags     : BitVec 12
  bytes     : List Byte
  deriving DecidableEq, Repr

/-- A message of a pre-merged stream (R317): the link it came by, the device it goes to, its key fields, its bytes, whether
it is a reject and with what reason and bitmap, and whether the sender marked it as breaking condition 3 (R107) and as
needing a second replay (R309). -/
structure StreamMsg where
  link      : Nat
  dest      : Nat
  domain    : Nat
  stackPort : Nat
  stamp     : Dial
  arrival   : BitVec 32
  reason    : Byte
  rejectMap : Byte
  long      : Bool
  replay2   : Bool
  bytes     : List Byte
  deriving DecidableEq, Repr

/-- The hello message of a Gallery peer (R310): its link version offers (major, minor), tag, DEV_ID and strap state. -/
structure Hello where
  versions : List (Nat × Nat)
  tag      : Nat
  devId    : Nat
  strapErr : Bool
  deriving DecidableEq, Repr

/-- What a relay says of its own hop to the Dial authority: the delay and the offset of its exchange, in 1/256 ns (R313;
log entry 68). -/
structure Hop where
  delay  : Int
  offset : Int
  deriving DecidableEq, Repr

/-- A completed Dial sample exchange with a link's peer (R313): the four instants, in 1/256 ns, the DEV_ID of the authority
that the peer follows, whether the peer reports Dial lock in it (R315), the DEV_IDs to which the peer holds an UP link, and,
where the peer relays the authority's samples, its own hop (log entry 68). -/
structure DialSample where
  t1 : Dial
  t2 : Dial
  t3 : Dial
  t4 : Dial
  authority : Nat
  locked    : Bool
  reach     : BitVec 8
  hop       : Option Hop
  deriving DecidableEq, Repr

/-- An NVMe command as fetched from a submission queue (R261): function, queue, command identifier, namespace, first PRP
entry, command words 10 to 12, second PRP entry, the entries of the PRP list that this points to, in order, and the FUSE
and PSDT fields. -/
structure NvmeCmd where
  fn    : Party
  sq    : Nat
  cid   : Nat
  nsid  : Nat
  prp   : Nat
  cdw10 : BitVec 32
  cdw11 : BitVec 32
  cdw12 : BitVec 32
  prp2  : Nat
  prps  : List Nat
  fuse  : Nat
  psdt  : Nat
  deriving DecidableEq, Repr

/-- What came of one backing part (R268): it completed (with the data read, for a Read), failed with an error of the
target, or its target is unreachable. -/
inductive PartResult where
  | ok (data : List Byte)
  | error
  | unreachable
  deriving DecidableEq, Repr

/-- The errors of R227: those of a DMA read completion, then those of its link, then correctable ones. -/
inductive BusError where
  | poisoned | timeout | completerAbort | unsupported
  | unexpected | malformed | receiverOverflow | flowControl | dataLink | internal
  | receiver | badTlp | badDllp | replayRollover | replayTimer | advisory | correctedInternal | headerOverflow
  deriving DecidableEq, Repr

/-- The configuration registers that a function's software writes beside Bus Master Enable and VF Enable: those with RW1C
fields (R223), and those whose settings R218, R225 and R227 name. -/
inductive CfgReg where
  | uncorrStatus | corrStatus | device | command | laneError | uncorrMask | uncorrSeverity | corrMask | device2
  deriving DecidableEq, Repr

/-- The PLLs of R343. -/
inductive Pll where
  | system | cluster (k : Nat) | time | hbm | cipher | trace | alwaysOn
  deriving DecidableEq, Repr

/-- What the MEMORY_SCRUB reads (R30): the memories protected by SECDED. -/
inductive ScrubTarget where
  | packetBuffer | l2 | l3 | retention | hbm | ledger | hostLink
  deriving DecidableEq, Repr

/-- The outcome of a scrub read of one word or row (R30). -/
inductive EccResult where
  | clean | corrected | uncorrectable
  deriving DecidableEq, Repr

/-- What a row of a scrubbed memory holds where an error of it has an effect of its own (R30): a frame that waits in an
egress queue; a message on its way to the hold store, or in it; the frame of a release posting; the frame that stands at a
place of a pipeline's exception share; a part of the retained image; what a core cannot do without (R401); or what a party
is reading from the HBM. -/
inductive RowItem where
  | other
  | queued (slot queue i : Nat)
  | arriving (pipe i : Nat)
  | held (d i : Nat)
  | release (rel : Nat)
  | exception (pipe i : Nat)
  | retained
  | core (c : Nat)
  | read (who : Party)
  deriving DecidableEq, Repr

/-- A row that the scrubber reads, and what it holds. -/
structure ScrubPlace where
  row  : Nat
  item : RowItem
  deriving DecidableEq, Repr

/-- The frames with bytes in a codeword: how many it drops when it is bad, how many of those had their stamp, and whether
another has begun and not ended at its end (R65, R67). -/
structure TouchedFrames where
  dropped : Nat
  stamped : Nat
  partway : Bool
  deriving DecidableEq, Repr

/-- A DMA read (R228): the ring it serves, and the number of the entry whose read it is; none is the ring's own fetch. -/
structure HostRead where
  ring  : Nat
  entry : Option (BitVec 32)
  deriving DecidableEq, Repr

/-- What a register write carries: its value, and whether it comes poisoned (R227). -/
structure BusValue where
  value    : Word
  poisoned : Bool
  deriving DecidableEq, Repr

/-- An image in a flash bank, in retention SRAM or uploaded, as the boot checks read it (R326, R327): whether the
flash answers, the header bytes, the CRC table and the three sections' bytes. -/
structure Image where
  answers  : Bool
  header   : List Byte
  crcTable : List Byte
  stage1   : List Byte
  coreFw   : List Byte
  provision : List Byte
  deriving DecidableEq, Repr

/-- What a start finds (R311, R340, R341): STACK_ID, STACK_MASTER, the reference, and each bank of the flash where something
beside the Moafa has changed it; the flash keeps what it held otherwise. -/
structure StartInputs where
  stackId     : Nat
  stackMaster : Bool
  refPresent  : Bool
  bankA       : Option Image
  bankB       : Option Image
  /-- The sensors as Stage 0 reads them, in °C (R347, R352). -/
  sensors     : List Int
  /-- The samples of each noise source's start-up test, 4,096 of each (R209). -/
  samplesA    : Option (List Byte)
  samplesB    : Option (List Byte)
  /-- The cores that fail their start-up self-test, and the rows of SRAM that do (R401). -/
  coresFailed : List Nat
  rowsFailed  : List (ScrubTarget × Nat)
  deriving DecidableEq, Repr

/-- One command. The constructors stand in the order of the opcode table. -/
inductive Instr where
  | dialTick
  | slewComplete
  | timeDialNsRead (who : Party)
  | timeAdjFreqWrite (who : Party) (v : Word)
  | timeAdjPhaseWrite (who : Party) (v : Word)
  | timeCfgWrite (who : Party) (v : Word)
  | timeDiscWrite (who : Party) (v : Word)
  | step (who : Party)
  | absoluteLoad (who : Party)
  | stepComplete
  | refLoss
  | refReturn
  | ppsEdge (falling : Bool) (strobe : Dial) (code : Byte)
  | ppsMissing
  | ppsOutEdge
  | utcOffsetApply
  | recalUpdate (octet : Nat) (target : List Int)
  | tdcRecal (lane : Nat) (table : List Byte)
  | frameReceived (f : RxFrame)
  | pfcPauseExpiry (slot prio : Nat)
  | pfcRefresh (slot : Nat)
  | pfcWatchdog (slot prio : Nat)
  | codewordDecoded (lane symbols : Nat) (touched : TouchedFrames) (frames : List RxFrame) (stomped : List Nat)
  | portModeWrite (who : Party) (slot : Nat) (v : Word)
  | alignmentAchieved (slot : Nat) (deskew : Option (List Nat))
  | upHoldExpiry (slot : Nat)
  | alignmentLost (slot : Nat) (cut : Bool)
  | localFault (slot : Nat) (cut : Bool)
  | remoteFault (slot : Nat) (cut : Bool)
  | trainTimeout (slot : Nat)
  | admitSet (ring : Nat)
  | pipeTmplW0Write (who : Party) (i : Nat) (v : Word)
  | wholeDialSecond
  | holdStoreArrival (pipe : Nat)
  | musterRelease (d : Nat)
  | backlogDelivery (d : Nat) (reject : Bool)
  | seqFeedWrite (who : Party) (d m : Nat) (v : Word)
  | seqDomainCfgWrite (who : Party) (d : Nat) (v : Word)
  | seqNextWrite (who : Party) (d : Nat) (v : Word)
  | seqCfgSet (ring : Nat)
  | open (who : Party) (d : Nat)
  | close (who : Party) (d : Nat)
  | forceClose (who : Party) (d : Nat)
  | domainOpens (d : Nat)
  | domainCloses (d : Nat)
  | takeover (who : Party) (v : Word)
  | mirrorRecord (d : Nat) (r : MirrorRec)
  | releasePost (ring : Nat)
  | releaseAcceptance (ring : Nat) (frame : Option (List Byte))
  | guardBegin (slot rel : Nat)
  | launcherCommit (slot rel : Nat)
  | copyEnd (slot rel : Nat)
  | releaseCompletion (ring : Nat)
  | txSchedule (slot : Nat)
  | shaperRefill
  | relPortShaperWrite (who : Party) (slot : Nat) (v : Word)
  | relQShaperWrite (who : Party) (slot q : Nat) (v : Word)
  | portHoldExpiry (slot : Nat)
  | frameTxPost (ring : Nat) (frame : Option (List Byte))
  | tableRead (ring : Nat) (buf : Option (List Byte))
  | tableLock (ring : Nat)
  | tableWrite (ring : Nat) (image : Option (List Byte))
  | tableUnlock (ring : Nat)
  | tableInsert (ring : Nat) (image : Option (List Byte))
  | tableDelete (ring : Nat) (image : Option (List Byte))
  | oldContentsRelease (table inst index : Nat)
  | sweepPass (pipe : Nat)
  | sweepOverrun (pipe : Nat)
  | tableScrub (table inst index : Nat)
  | epochTimeout
  | sealNow (who : Party)
  | newChain (who : Party)
  | drainResume (who : Party)
  | drainWrite
  | drainWriteComplete (target : Nat) (ok : Bool)
  | drainRetry (target : Nat)
  | audDrainAckWrite (who : Party) (v : Word)
  | audDrainTgtWrite (who : Party) (m : Nat) (v : Word)
  | powerFail
  | droopTrip
  | keyLoad (ring : Nat) (blob : Option (List Byte))
  | keyGenerate (ring : Nat)
  | keyEcdhGen (ring : Nat)
  | keyAgree (ring : Nat) (point info : Option (List Byte))
  | keyDeriveMka (ring : Nat) (ckn : Option (List Byte))
  | keyExport (ring : Nat)
  | keySeal (ring : Nat) (m1 m2 : Option (List Byte))
  | keyDestroy (ring : Nat)
  | keyQuery (ring : Nat)
  | lampSaWrite (who : Party) (slot off : Nat) (v : Word)
  | encodingAnWrite (who : Party) (slot : Nat) (v : Word)
  | cbc (ring : Nat) (src aux : Option (List Byte))
  | ctr (ring : Nat) (src aux : Option (List Byte))
  | cfb8 (ring : Nat) (src aux : Option (List Byte))
  | cfb128 (ring : Nat) (src aux : Option (List Byte))
  | ofb (ring : Nat) (src aux : Option (List Byte))
  | gcm (ring : Nat) (src aux : Option (List Byte))
  | ccm (ring : Nat) (src aux : Option (List Byte))
  | xts (ring : Nat) (src aux : Option (List Byte))
  | cmac (ring : Nat) (src aux : Option (List Byte))
  | sha384 (ring : Nat) (src : Option (List Byte))
  | sha512 (ring : Nat) (src : Option (List Byte))
  | sealVerify (ring : Nat) (src aux : Option (List Byte))
  | digestVerify (ring : Nat) (src aux : Option (List Byte))
  | random (ring : Nat)
  | jobPreempt (engine : Nat)
  | noiseSample (source : Nat) (v : Byte)
  | sourceRetest (source : Nat) (samples : List Byte)
  | graceSpent
  | drbgReseed
  | maskReseed (datapath : Nat)
  | perstAssert (n : Nat)
  | perstDeassert (n : Nat)
  | hostLinkUp (p rate width : Nat) (flit : Bool)
  | hostLinkDown (p : Nat)
  | vfEnable (p numVfs : Nat)
  | vfDisable (p : Nat)
  | flr (fn : Party)
  | flrComplete (fn : Party)
  | busMasterDisable (fn : Party) (d3 : Bool)
  | busMasterEnable (fn : Party)
  | aerStatusWrite (fn : Party) (reg : CfgReg) (v : BitVec 32)
  | dmaCompletion (read : HostRead) (err : Option BusError)
  | completionTimeout (read : HostRead)
  | hostFreezeRelease (who : Party) (link : Nat)
  | ringDoorbell (who : Party) (c : Nat)
  | periodicScan (c : Nat)
  | descriptorFetch (c : Nat) (entries : List (Option (List Byte)))
  | piRead (c : Nat) (pi : Option (BitVec 32)) (entries : List (Option (List Byte)))
  | ringEnable (who : Party) (c : Nat)
  | ringDisable (who : Party) (c : Nat)
  | ringConfigWrite (who : Party) (c reg : Nat) (v : Word)
  | irqHoldoff (c : Nat)
  | ringSnapshot (ring : Nat)
  | identify (cmd : NvmeCmd)
  | getFeatures (cmd : NvmeCmd)
  | setFeatures (cmd : NvmeCmd)
  | createIoSq (cmd : NvmeCmd)
  | createIoCq (cmd : NvmeCmd)
  | deleteIoSq (cmd : NvmeCmd)
  | deleteIoCq (cmd : NvmeCmd)
  | getLogPage (cmd : NvmeCmd)
  | abort (cmd : NvmeCmd)
  | asynchronousEventRequest (cmd : NvmeCmd)
  | nvmeRead (cmd : NvmeCmd)
  | nvmeWrite (cmd : NvmeCmd) (data : Option (List Byte))
  | flush (cmd : NvmeCmd)
  | writeZeroes (cmd : NvmeCmd)
  | datasetManagement (cmd : NvmeCmd) (ranges : Option (List (Nat × Nat)))
  | ccEnClear (fn : Party)
  | nsCreate (ring : Nat) (extents : Option (List Byte))
  | nsDelete (ring : Nat)
  | nsAttach (ring : Nat)
  | nsDetach (ring : Nat)
  | journalSlotTaken
  | partComplete (piece part : Nat) (r : PartResult)
  | partTimeout (piece part : Nat)
  | partRetry (piece part : Nat)
  | nsReadyRetry (piece : Nat) (ok : Bool)
  | psEntryDone (fn : Party)
  | driveRemoved (s : Nat)
  | driveReturned (s nsid lbas : Nat) (fmt4k : Bool)
  | qpCreate (ring : Nat)
  | qpModify (ring : Nat) (attr : Option (List Byte))
  | qpQuery (ring : Nat)
  | qpDestroy (ring : Nat)
  | mrReg (ring : Nat)
  | mrDereg (ring : Nat)
  | rdmaDoorbell (who : Party) (qpn : Nat) (rq : Bool)
  | send (qpn : Nat) (entry : BitVec 32) (data : Option (List Byte))
  | sendImm (qpn : Nat) (entry : BitVec 32) (data : Option (List Byte))
  | rdmaWrite (qpn : Nat) (entry : BitVec 32) (data : Option (List Byte))
  | writeImm (qpn : Nat) (entry : BitVec 32) (data : Option (List Byte))
  | rdmaRead (qpn : Nat) (entry : BitVec 32)
  | ackTimeout (qpn : Nat)
  | rnrDelayExpiry (qpn : Nat)
  | triggeredStart (qpn : Nat)
  | vfShareSet (ring : Nat) (block : Option (List Byte))
  | shrink (p v : Nat)
  | graceExpired (p v : Nat)
  | shrinkComplete (p v : Nat)
  | vfMboxDoorbell (p v : Nat)
  | vfMboxAck (p v : Nat)
  | vfmMboxDoorbell (p : Nat)
  | vfmMboxAck (p : Nat)
  | vfmResWrite (p w : Nat) (x : Word)
  | genAbiOfferWrite (who : Party) (v : Word)
  | hello (link : Nat) (h : Hello)
  | galTrainRetry (link : Nat)
  | galLinkLoss (link : Nat)
  | dialSampleSend (link : Nat)
  | dialSample (link : Nat) (x : DialSample)
  | sampleTimeout
  | peerLost (dev : Nat)
  | streamSend (d : Nat)
  | streamMessage (m : StreamMsg)
  | galSucceed (who : Party)
  | powerOn (inp : StartInputs)
  | resetNAssert (inp : StartInputs)
  | watchdog (inp : StartInputs)
  | wake (inp : StartInputs)
  | check
  | boot
  | programA
  | programB
  | recActionComplete (readBackOk : Bool)
  | bootRecWinWrite (who : Party) (off : Nat) (v : Word)
  | fuseRaise (ring : Nat)
  | bootFuseConfirmWrite (who : Party) (v : Word)
  | noConfirm
  | fuseProgramDone (blown : Bool)
  | lifeQuery (ring : Nat)
  | sensorSample (readings : List Int)
  | thermtripRecheck (readings : List Int) (inp : StartInputs)
  | ladderStep
  | powerAverage (deciwatts : Nat)
  | pwrSprintReqWrite (who : Party) (v : Word)
  | deepRestEnter (who : Party)
  | seqErr
  | registerWrite (who : Party) (addr : Nat) (size : Nat) (v : BusValue)
  | lowHalfWrite (who : Party) (addr : Nat) (v : BitVec 32)
  | highHalfWrite (who : Party) (addr : Nat) (v : BitVec 32)
  | voteScrub (key : Nat)
  | headcount (who : Party) (v : Word)
  | capture (bank : Nat)
  | bankFilled (bank : Nat)
  | periodicDump
  | logRecordWrite
  | hoursTick
  | lifeAverageUpdate (tj : Int) (util : Nat)
  | dialSync (core : Nat)
  | powerGap (core : Nat) (powerGated : Bool) (unsent : Nat)
  | idleExit (core : Nat)
  | laneMarginCheck (lane : Nat) (low : Bool)
  | ageingCheck (margins : List Nat)
  | releaseInstant (rel : Nat)
  | supplyCollapse (written : Nat)
  | pllLockLoss (pll : Pll)
  | jobCompletion (engine : Nat) (written : Bool)
  | exceptionFrameConsumed (pipe : Nat)
  | nvmeDoorbell (who : Party) (q : Nat) (cq : Bool) (v : BitVec 32)
  | ccEnSet (fn : Party)
  | memoryScrub (t : ScrubTarget) (place : ScrubPlace) (r : EccResult)
  deriving DecidableEq, Repr

end Sys2Proof
end

