-- ==== Sys2Proof/Decode.lean ====
section
/-! DEFINITION. Decode.lean: the commands that words spell. The table gives none of its rows any bits: a command comes
from a pin, a wire, a bus or a clock, never from a word. -/

namespace Sys2Proof

/-- The command that a word of the opcode table's bits spells: none, since no row of the table has bits. -/
def decodeTableWord (_nbits _w : Nat) : Option Instr := none

end Sys2Proof
end

