-- ==== Sys2Proof/Machine/Aes.lean ====
section
/-! DEFINITION. Machine/Aes.lean: the block cipher that R185, R189 and R201 name (AES, FIPS 197; log entry 30). A
block is 16 bytes in the standard's order, column by column. -/

namespace Sys2Proof.Machine.Aes

/-- Multiplication by x in GF(2^8). -/
def xtime (b : Byte) : Byte := (b <<< 1) ^^^ (if b.getLsbD 7 then 0x1B else 0)

/-- The product in GF(2^8) with the AES polynomial. -/
def gmul (a b : Byte) : Byte :=
  ((List.range 8).foldl
    (fun (p : Byte × Byte) i => (if b.getLsbD i then p.1 ^^^ p.2 else p.1, xtime p.2)) (0, a)).1

/-- The multiplicative inverse, a^254; 0 for 0. -/
def ginv (a : Byte) : Byte :=
  let a2 := gmul a a
  let a4 := gmul a2 a2
  let a8 := gmul a4 a4
  let a16 := gmul a8 a8
  let a32 := gmul a16 a16
  let a64 := gmul a32 a32
  let a128 := gmul a64 a64
  gmul a2 (gmul a4 (gmul a8 (gmul a16 (gmul a32 (gmul a64 a128)))))

/-- The S-box. -/
def sub (a : Byte) : Byte :=
  let b := ginv a
  b ^^^ b.rotateLeft 1 ^^^ b.rotateLeft 2 ^^^ b.rotateLeft 3 ^^^ b.rotateLeft 4 ^^^ 0x63

/-- The inverse S-box. -/
def invSub (y : Byte) : Byte := ginv (y.rotateLeft 1 ^^^ y.rotateLeft 3 ^^^ y.rotateLeft 6 ^^^ 0x05)

/-- A byte of a block. -/
def at_ (b : List Byte) (i : Nat) : Byte := b.getD i 0

/-- ShiftRows. -/
def shiftRows (b : List Byte) : List Byte := (List.range 16).map fun i => at_ b ((i + 4 * (i % 4)) % 16)

/-- The inverse of ShiftRows. -/
def invShiftRows (b : List Byte) : List Byte := (List.range 16).map fun i => at_ b ((i + 16 - 4 * (i % 4)) % 16)

/-- A column mixed with the coefficients of its first row. -/
def mix (c : List Byte) (b : List Byte) : List Byte :=
  (List.range 16).map fun i =>
    (List.range 4).foldl (fun x k => x ^^^ gmul (at_ c ((k + 4 - i % 4) % 4)) (at_ b (4 * (i / 4) + k))) 0

/-- The next word of the key schedule: the word Nk back, and the previous word, rotated and substituted as its place
asks. -/
def nextWord (nk i : Nat) (back prev : List Byte) (rcon : Byte) : List Byte :=
  let t :=
    if i % nk = 0 then
      match (prev.drop 1 ++ prev.take 1).map sub with
      | h :: r => (h ^^^ rcon) :: r
      | [] => []
    else if nk = 8 ∧ i % nk = 4 then prev.map sub
    else prev
  xorBytes back t

/-- The key schedule as words, newest first. -/
def schedule (key : List Byte) : List (List Byte) :=
  let nk := key.length / 4
  let first := ((List.range nk).map fun i => slice key (4 * i) 4).reverse
  ((List.range (4 * (nk + 7) - nk)).foldl
    (fun (p : List (List Byte) × Byte) j =>
      let i := nk + j
      let w := nextWord nk i (p.1.getD (nk - 1) []) (p.1.getD 0 []) p.2
      (w :: p.1, if i % nk = 0 then xtime p.2 else p.2))
    (first, 1)).1

/-- The round keys, first round first. -/
def roundKeys (key : List Byte) : List (List Byte) :=
  let ws := (schedule key).reverse
  (List.range (ws.length / 4)).map fun r => (ws.drop (4 * r)).take 4 |>.flatten

/-- One block through the cipher under its round keys. -/
def encWith (rks : List (List Byte)) (b : List Byte) : List Byte :=
  let n := rks.length - 1
  let s := (List.range (n - 1)).foldl
    (fun s r => xorBytes (mix [2, 3, 1, 1] (shiftRows (s.map sub))) (rks.getD (r + 1) [])) (xorBytes b (rks.getD 0 []))
  xorBytes (shiftRows (s.map sub)) (rks.getD n [])

/-- One block through the inverse cipher under its round keys. -/
def decWith (rks : List (List Byte)) (b : List Byte) : List Byte :=
  let n := rks.length - 1
  let s := (List.range (n - 1)).foldl
    (fun s r => mix [14, 11, 13, 9] (xorBytes ((invShiftRows s).map invSub) (rks.getD (n - 1 - r) [])))
    (xorBytes b (rks.getD n []))
  xorBytes ((invShiftRows s).map invSub) (rks.getD 0 [])

/-- AES encryption of one block under a key of 16 or 32 bytes. -/
def enc (key b : List Byte) : List Byte := encWith (roundKeys key) b

/-- AES decryption of one block. -/
def dec (key b : List Byte) : List Byte := decWith (roundKeys key) b

end Sys2Proof.Machine.Aes
end

