-- ==== Sys2Proof/Machine/Sha.lean ====
section
/-! DEFINITION. Machine/Sha.lean: SHA-384 and SHA-512 (R188, R201, R328; FIPS 180-4, log entry 30). The constants are
the fractional bits of square and cube roots of primes, as the standard defines them. -/

namespace Sys2Proof.Machine.Sha

/-- The first n primes at or after k, by trial division. -/
def primesFrom : Nat → Nat → Nat → List Nat
  | 0, _, _ => []
  | _, _, 0 => []
  | fuel + 1, k, n + 1 =>
    if (List.range (Nat.sqrt k + 1)).all (fun d => d < 2 || k % d != 0) then k :: primesFrom fuel (k + 1) n
    else primesFrom fuel (k + 1) (n + 1)

/-- The largest number of b bits or fewer whose cube is at most v. -/
def icbrt (v b : Nat) : Nat :=
  (List.range b).foldl (fun r i => let t := r + 2 ^ (b - 1 - i); if t * t * t ≤ v then t else r) 0

/-- The round constants: fractional bits of the cube roots of the first eighty primes. -/
def consts : List Word := (primesFrom 500 2 80).map fun p => word (icbrt (p * 2 ^ 192) 68)

/-- The initial hash values of SHA-512: fractional bits of the square roots of the first eight primes. -/
def init512 : List Word := (primesFrom 500 2 8).map fun p => word (Nat.sqrt (p * 2 ^ 128))

/-- The initial hash values of SHA-384: those of the ninth to the sixteenth prime. -/
def init384 : List Word := ((primesFrom 500 2 16).drop 8).map fun p => word (Nat.sqrt (p * 2 ^ 128))

/-- The message schedule, newest first, from the sixteen words of a block. -/
def schedule (ws : List Word) : List Word :=
  (List.range 64).foldl
    (fun w _ =>
      let g := fun i => w.getD i 0
      let s0 := (g 14).rotateRight 1 ^^^ (g 14).rotateRight 8 ^^^ (g 14 >>> 7)
      let s1 := (g 1).rotateRight 19 ^^^ (g 1).rotateRight 61 ^^^ (g 1 >>> 6)
      (s1 + g 6 + s0 + g 15) :: w)
    ws.reverse

/-- One round. -/
def round (h : List Word) (kw : Word × Word) : List Word :=
  match h with
  | [a, b, c, d, e, f, g, h] =>
    let t1 := h + (e.rotateRight 14 ^^^ e.rotateRight 18 ^^^ e.rotateRight 41) + ((e &&& f) ^^^ (~~~e &&& g)) + kw.1 + kw.2
    let t2 := (a.rotateRight 28 ^^^ a.rotateRight 34 ^^^ a.rotateRight 39) + ((a &&& b) ^^^ (a &&& c) ^^^ (b &&& c))
    [t1 + t2, a, b, c, d + t1, e, f, g]
  | _ => h

/-- One block of 128 bytes. -/
def block (h : List Word) (b : List Byte) : List Word :=
  let ws := (List.range 16).map fun i => word (beField b (8 * i) 8)
  List.zipWith (· + ·) h ((consts.zip (schedule ws).reverse).foldl round h)

/-- The message padded to whole blocks. -/
def pad (m : List Byte) : List Byte :=
  m ++ [0x80] ++ zeros ((239 - m.length % 128) % 128) ++ beBytes 16 (8 * m.length)

/-- The hash of a message from an initial value. -/
def hash (h0 : List Word) (m : List Byte) : List Byte :=
  let p := pad m
  ((List.range (p.length / 128)).foldl (fun h i => block h (slice p (128 * i) 128)) h0).flatMap
    (fun w => beBytes 8 w.toNat)

/-- SHA-512. -/
def sha512 (m : List Byte) : List Byte := hash init512 m

/-- SHA-384. -/
def sha384 (m : List Byte) : List Byte := (hash init384 m).take 48

end Sys2Proof.Machine.Sha
end

