-- ==== Sys2Proof/Machine/Modes.lean ====
section
/-! DEFINITION. Machine/Modes.lean: the modes of operation of R201, the key wrap of R189 and the derivations of R166
and R188, under the standards those rules name (log entry 30). -/

namespace Sys2Proof.Machine.Modes

/-- A byte list cut into pieces of n bytes, the last one shorter. -/
def chunks (n : Nat) (bs : List Byte) : List (List Byte) :=
  (List.range (divUp bs.length n)).map fun i => (bs.drop (n * i)).take n

/-- Bytes xor-ed with the front of a key stream. -/
def xorStream (a k : List Byte) : List Byte := xorBytes a (k.take a.length)

/-- A sixteen-byte block xor-ed with another, the shorter one taken as if followed by zeros. -/
def xorBlock (a b : List Byte) : List Byte := xorBytes (slice a 0 16) (slice b 0 16)

/-! ## CBC, CTR, CFB, OFB -/

/-- CBC encryption of whole blocks. -/
def cbcEnc (key iv m : List Byte) : List Byte :=
  let rk := Aes.roundKeys key
  ((chunks 16 m).foldl (fun (p : List Byte × List Byte) b => let c := Aes.encWith rk (xorBytes p.1 b); (c, p.2 ++ c))
    (iv, [])).2

/-- CBC decryption of whole blocks. -/
def cbcDec (key iv m : List Byte) : List Byte :=
  let rk := Aes.roundKeys key
  ((chunks 16 m).foldl (fun (p : List Byte × List Byte) c => (c, p.2 ++ xorBytes (Aes.decWith rk c) p.1)) (iv, [])).2

/-- A counter block with its low w bits raised by one. -/
def incr (w : Nat) (b : List Byte) : List Byte :=
  let v := beNat b
  beBytes 16 (v - v % 2 ^ w + (v % 2 ^ w + 1) % 2 ^ w)

/-- n blocks of key stream from an initial counter block whose low w bits count. -/
def ctrStream (rk : List (List Byte)) (w : Nat) : Nat → List Byte → List Byte
  | 0, _ => []
  | n + 1, b => Aes.encWith rk b ++ ctrStream rk w n (incr w b)

/-- CTR, either direction. -/
def ctr (key iv m : List Byte) : List Byte :=
  xorStream m (ctrStream (Aes.roundKeys key) 128 (divUp m.length 16) iv)

/-- CFB with segments of n bytes: n = 1 is CFB-8, n = 16 CFB-128. -/
def cfb (n : Nat) (decrypt : Bool) (key iv m : List Byte) : List Byte :=
  let rk := Aes.roundKeys key
  ((chunks n m).foldl
    (fun (p : List Byte × List Byte) b =>
      let o := xorStream b (Aes.encWith rk p.1)
      ((p.1 ++ (if decrypt then b else o)).drop b.length, p.2 ++ o)) (iv, [])).2

/-- OFB, either direction. -/
def ofb (key iv m : List Byte) : List Byte :=
  let rk := Aes.roundKeys key
  ((chunks 16 m).foldl
    (fun (p : List Byte × List Byte) b => let k := Aes.encWith rk p.1; (k, p.2 ++ xorStream b k)) (iv, [])).2

/-! ## GCM and GMAC -/

/-- The product in GF(2^128) of GCM, bit 0 of the standard being the most significant bit here. -/
def ghashMul (x y : BitVec 128) : BitVec 128 :=
  ((List.range 128).foldl
    (fun (p : BitVec 128 × BitVec 128) i =>
      (if x.getLsbD (127 - i) then p.1 ^^^ p.2 else p.1,
       if p.2.getLsbD 0 then (p.2 >>> 1) ^^^ (0xE1 <<< 120) else p.2 >>> 1)) (0, y)).1

/-- GHASH of whole or short blocks, a short one taken as if followed by zeros. -/
def ghash (h : BitVec 128) (y : BitVec 128) (m : List Byte) : BitVec 128 :=
  (chunks 16 m).foldl (fun y b => ghashMul (y ^^^ BitVec.ofNat 128 (beField b 0 16)) h) y

/-- The first counter block of GCM for a 96-bit IV. -/
def gcmJ0 (iv : List Byte) : List Byte := slice iv 0 12 ++ [0, 0, 0, 1]

/-- The GCM tag over additional data and ciphertext. -/
def gcmTag (key iv aad c : List Byte) : List Byte :=
  let rk := Aes.roundKeys key
  let h := BitVec.ofNat 128 (beNat (Aes.encWith rk (zeros 16)))
  let y := ghash h (ghash h (ghash h 0 aad) c) (beBytes 8 (8 * aad.length) ++ beBytes 8 (8 * c.length))
  xorBytes (beBytes 16 y.toNat) (Aes.encWith rk (gcmJ0 iv))

/-- The GCM stream applied to a message: encryption and decryption alike. -/
def gcmCrypt (key iv m : List Byte) : List Byte :=
  xorStream m (ctrStream (Aes.roundKeys key) 32 (divUp m.length 16) (incr 32 (gcmJ0 iv)))

/-- GMAC: the GCM tag with empty plaintext (R166, R170). -/
def gmac (key iv aad : List Byte) : List Byte := gcmTag key iv aad []

/-! ## CCM -/

/-- CBC-MAC over blocks, a short one taken as if followed by zeros. -/
def cbcMac (rk : List (List Byte)) (y : List Byte) (m : List Byte) : List Byte :=
  (chunks 16 m).foldl (fun y b => Aes.encWith rk (xorBlock y b)) y

/-- The CCM tag before encryption, for a nonce of 7 to 13 bytes, additional data and plaintext. -/
def ccmMac (key nonce aad m : List Byte) (t : Nat) : List Byte :=
  let rk := Aes.roundKeys key
  let q := 15 - nonce.length
  let flags := (if aad = [] then 0 else 64) + 8 * ((t - 2) / 2) + (q - 1)
  let b0 := BitVec.ofNat 8 flags :: (nonce ++ beBytes q m.length)
  let a := if aad = [] then [] else
    (if aad.length < 0xFF00 then beBytes 2 aad.length else [0xFF, 0xFE] ++ beBytes 4 aad.length) ++ aad
  cbcMac rk (cbcMac rk (cbcMac rk (zeros 16) b0) a) m

/-- The CCM counter block i. -/
def ccmCtr (nonce : List Byte) (i : Nat) : List Byte :=
  let q := 15 - nonce.length
  BitVec.ofNat 8 (q - 1) :: (nonce ++ beBytes q i)

/-- The CCM stream applied to a message. -/
def ccmCrypt (key nonce m : List Byte) : List Byte :=
  xorStream m (ctrStream (Aes.roundKeys key) (8 * (15 - nonce.length)) (divUp m.length 16) (ccmCtr nonce 1))

/-- The encrypted CCM tag of t bytes. -/
def ccmTag (key nonce aad m : List Byte) (t : Nat) : List Byte :=
  (xorBytes (ccmMac key nonce aad m t) (Aes.enc key (ccmCtr nonce 0))).take t

/-! ## XTS -/

/-- A tweak multiplied by x (IEEE 1619: byte 0 least significant). -/
def xtsDouble (t : List Byte) : List Byte :=
  let v := leNat t
  leBytes 16 ((2 * v) % 2 ^ 128 ^^^ (if v.testBit 127 then 0x87 else 0))

/-- The tweak of block i. -/
def xtsTweak (t0 : List Byte) (i : Nat) : List Byte := (List.range i).foldl (fun t _ => xtsDouble t) t0

/-- One block of XTS under a tweak. -/
def xtsBlock (f : List Byte → List Byte) (t b : List Byte) : List Byte := xorBytes (f (xorBytes b t)) t

/-- XTS of one data unit of 16 bytes or more, with ciphertext stealing. -/
def xts (decrypt : Bool) (key tweak m : List Byte) : List Byte :=
  let half := key.length / 2
  let rk := Aes.roundKeys (key.take half)
  let t0 := Aes.enc (key.drop half) tweak
  let f := if decrypt then Aes.decWith rk else Aes.encWith rk
  let full := m.length / 16
  let rest := m.length % 16
  let body := if rest = 0 then full else full - 1
  let out := ((List.range body).foldl
    (fun (p : List Byte × List Byte) i => (xtsDouble p.1, p.2 ++ xtsBlock f p.1 (slice m (16 * i) 16))) (t0, [])).2
  if rest = 0 then out
  else
    let ta := xtsTweak t0 body
    let tb := xtsDouble ta
    let (t1, t2) := if decrypt then (tb, ta) else (ta, tb)
    let c := xtsBlock f t1 (slice m (16 * body) 16)
    let tail := (m.drop (16 * full)).take rest
    out ++ xtsBlock f t2 (tail ++ c.drop rest) ++ c.take rest

/-! ## CMAC and the derivations built on it -/

/-- The doubling of CMAC subkeys. -/
def cmacDouble (b : List Byte) : List Byte :=
  let v := beNat b
  beBytes 16 ((2 * v) % 2 ^ 128 ^^^ (if v.testBit 127 then 0x87 else 0))

/-- CMAC of a message. -/
def cmac (key m : List Byte) : List Byte :=
  let rk := Aes.roundKeys key
  let k1 := cmacDouble (Aes.encWith rk (zeros 16))
  let n := if m = [] then 0 else (m.length - 1) / 16
  let last := m.drop (16 * n)
  let lastB := if last.length = 16 then xorBytes last k1 else xorBlock (last ++ [0x80]) (cmacDouble k1)
  Aes.encWith rk (xorBytes (cbcMac rk (zeros 16) (m.take (16 * n))) lastB)

/-- The IEEE 802.1X-2020 KDF of KEY_DERIVE_MKA (R188): label, 16-byte context, and a result of n bytes. -/
def kdf8021x (key : List Byte) (label : List Byte) (context : List Byte) (n : Nat) : List Byte :=
  ((List.range (divUp n 16)).flatMap fun i =>
    cmac key (BitVec.ofNat 8 (i + 1) :: (label ++ [0] ++ context ++ beBytes 2 (8 * n)))).take n

/-- The one-step KDF of SP 800-56C with SHA-384 (R188), 32 bytes. -/
def oneStepKdf (z info : List Byte) : List Byte := (Sha.sha384 (beBytes 4 1 ++ z ++ info)).take 32

/-! ## Key wrap with padding (SP 800-38F) -/

/-- One of the 6n steps of the wrapping function W: the state is A and the semiblocks R. -/
def wrapStep (rk : List (List Byte)) (n : Nat) (s : List Byte × List (List Byte)) (t : Nat) :
    List Byte × List (List Byte) :=
  let i := (t - 1) % n
  let b := Aes.encWith rk (s.1 ++ s.2.getD i [])
  (beBytes 8 (beNat (b.take 8) ^^^ t), s.2.set i (b.drop 8))

/-- One step of the unwrapping function. -/
def unwrapStep (rk : List (List Byte)) (n : Nat) (s : List Byte × List (List Byte)) (t : Nat) :
    List Byte × List (List Byte) :=
  let i := (t - 1) % n
  let b := Aes.decWith rk (beBytes 8 (beNat s.1 ^^^ t) ++ s.2.getD i [])
  (b.take 8, s.2.set i (b.drop 8))

/-- The AES key wrap with padding of a plaintext. -/
def kwpWrap (key m : List Byte) : List Byte :=
  let a := [0xA6, 0x59, 0x59, 0xA6] ++ beBytes 4 m.length
  let p := m ++ zeros ((8 - m.length % 8) % 8)
  if p.length = 8 then Aes.enc key (a ++ p)
  else
    let n := p.length / 8
    let r := (List.range (6 * n)).foldl (fun s j => wrapStep (Aes.roundKeys key) n s (j + 1)) (a, chunks 8 p)
    r.1 ++ r.2.flatten

/-- The plaintext of a wrapped blob, or none when its integrity check fails. -/
def kwpUnwrap (key c : List Byte) : Option (List Byte) :=
  if c.length < 16 ∨ c.length % 8 ≠ 0 then none
  else
    let n := c.length / 8 - 1
    let (a, p) :=
      if n = 1 then let b := Aes.dec key c; (b.take 8, b.drop 8)
      else
        let r := (List.range (6 * n)).foldl (fun s j => unwrapStep (Aes.roundKeys key) n s (6 * n - j))
          (c.take 8, chunks 8 (c.drop 8))
        (r.1, r.2.flatten)
    let len := beNat (a.drop 4)
    if a.take 4 = [0xA6, 0x59, 0x59, 0xA6] ∧ 8 * (n - 1) < len ∧ len ≤ 8 * n ∧ (p.drop len).all (· == 0) then
      some (p.take len)
    else none

end Sys2Proof.Machine.Modes
end

