-- ==== Sys2Proof/Config.lean ====
section
/-! DEFINITION. Config.lean: the values the manual leaves open, as constants without a body. No proof can see what they
are. Each draw applies one to State.free, which the draw advances. -/

namespace Sys2Proof

/-- The n-th byte of the DRBG's output and of every other value the manual calls random (R210, R213). -/
opaque Config.freeByte : Nat → Byte

/-- The n-th value that the manual leaves open as a number. -/
opaque Config.freeNat : Nat → Nat

/-- The largest L_max among the slots that another stack device (its DEV_ID) feeds to a stacked domain, in ns; no
register of this device shows it (R97, R316; log entry 40). -/
opaque Config.peerLmax : Nat → Nat → Nat

/-- Whether a slot of another stack device is in that device's feed of a stacked domain (device, domain, slot), its
admission limit RATE, and the rate in force there at a Dial in ns (R22, R103, R107, R116, R316; log entry 40). -/
opaque Config.peerFeed : Nat → Nat → Nat → Bool
opaque Config.peerAdmit : Nat → Nat → Nat
opaque Config.peerInForce : Nat → Nat → Nat → Nat

/-- The number of launch points that alignment markers take at the front of a codeword: by SPEED, FEC and the number of
the codeword from Dial 0 (R125; log entry 44). -/
opaque Config.markerPoints : Nat → Nat → Nat → Nat

/-- The member lane of a bonded port that carries the first preamble bit of a frame starting at a launch point: by the
lane count and the launch point's Dial in 1/6,400 ns (R125; log entry 43). -/
opaque Config.launchMember : Nat → Nat → Nat

/-- The number of line bits between a frame's first preamble bit and its first SFD bit: by SPEED, FEC and the Dial of
its start (R53; log entry 48). -/
opaque Config.sfdBits : Nat → Nat → Nat → Nat

/-- The LBAs of a backing namespace on a remote target, 0 where there is none, and whether they are 4 KiB; firmware on
the cores keeps the connection and no command brings them (R262, R263; log entry 62). -/
opaque Config.remoteLbas : Nat → Nat → Nat
opaque Config.remoteIs4k : Nat → Nat → Bool

/-- Limits of a virtual controller that the manual does not give: 0 outstanding Asynchronous Event Requests, 1 Error
Information entries, each less one (R261; log entry 63). -/
opaque Config.nvmeLimit : Nat → Nat

/-- The number of spare rows of each SRAM array (R401; log entry 77). -/
opaque Config.spareRows : ScrubTarget → Nat

/-- The rate that the link of a storage root port falls back to, as a RATE code; no command brings it (R270, R272; log
entry 73). -/
opaque Config.rootLink : Nat → Nat

/-- What the value of a Provision record of a TYPE sets: registers by their keys, and table entries by theirs; the manual
names what each record sets and gives no layout of its value (R333; log entry 70). -/
opaque Config.provisionRegs : Nat → List Byte → List (Nat × BitVec 64)
opaque Config.provisionTables : List Byte → List (Nat × BitVec 512)

/-- The LPM prefixes in the value of a TABLES record: pair, whether LPM6, length, leading bits as a number, next hop
(R142, R333; log entry 70). -/
opaque Config.provisionPrefixes : List Byte → List (Nat × Bool × Nat × Nat × Nat)

/-- The subsystem ID in the value of a HOST_PORTS record (R220, R333; log entry 70). -/
opaque Config.provisionSubsystem : List Byte → Option (BitVec 16)

/-- The blob of a persistent slot: its plaintext (R189) encrypted under the key derived from the fused secret and a sealed
measurement. R192 names neither the derivation nor the cipher, and nothing reads the secret (log entry 90). -/
opaque Config.sealBlob : List Byte → List Byte → List Byte

/-- Whether the responder at the address of a DGID is a Moafa: nothing tells the block (R285; log entry 60). -/
opaque Config.peerIsMoafa : List (BitVec 8) → Bool

/-- The reliable connected QP that firmware on the cores keeps to a remote target (R263; log entry 62). -/
opaque Config.remoteQp : Nat → Nat

end Sys2Proof
end

