-- ==== Sys2Proof/Machine/Crc.lean ====
section
/-! DEFINITION. Machine/Crc.lean: the check codes of the manual: CRC-32C with the parameters of R145, CRC-64/ECMA-182
(R176, R326), and the frame check sequence of the Ethernet lanes (R69). -/

namespace Sys2Proof.Machine

/-- One bit step of a reflected CRC with polynomial p. -/
def crcBit (p : BitVec 32) (r : BitVec 32) : BitVec 32 :=
  if r.getLsbD 0 then (r >>> 1) ^^^ p else r >>> 1

/-- One byte of a reflected 32-bit CRC. -/
def crcByte (p r : BitVec 32) (b : Byte) : BitVec 32 :=
  (List.range 8).foldl (fun x _ => crcBit p x) (r ^^^ b.setWidth 32)

/-- A reflected 32-bit CRC with initial value and final XOR 0xFFFF_FFFF. -/
def crcReflected (p : BitVec 32) (bs : List Byte) : BitVec 32 :=
  bs.foldl (crcByte p) 0xFFFFFFFF ^^^ 0xFFFFFFFF

/-- CRC-32C: the Castagnoli polynomial, reflected (R145). -/
def crc32c (bs : List Byte) : BitVec 32 := crcReflected 0x82F63B78 bs

/-- The frame check sequence of IEEE 802.3 (R61, R69; log entry 31). -/
def crc32 (bs : List Byte) : BitVec 32 := crcReflected 0xEDB88320 bs

/-- The four FCS bytes as they stand in a frame. -/
def fcsBytes (bs : List Byte) : List Byte := leBytes 4 (crc32 bs).toNat

/-- One byte of CRC-64/ECMA-182, most significant bit first. -/
def crc64Byte (r : Word) (b : Byte) : Word :=
  (List.range 8).foldl (fun x _ => if x.getLsbD 63 then (x <<< 1) ^^^ 0x42F0E1EBA9EA3693 else x <<< 1)
    (r ^^^ (b.setWidth 64 <<< 56))

/-- CRC-64/ECMA-182 (R176). -/
def crc64 (bs : List Byte) : Word := bs.foldl crc64Byte 0

end Sys2Proof.Machine
end

