-- ==== Sys2Proof/Machine/RegMap.lean ====
section
/-! DEFINITION. Machine/RegMap.lean: the register maps of the manual as data (R58, R86, R88, R118, R138, R158, R183,
R214, R235, R258, R271, R289, R307, R323, R338, R356, R370, R389, R391, R392), one key function and one row per
register, under the manual's own names, and the partial decoders of R358 to R363. -/

namespace Sys2Proof.Machine

/-- The access codes of R8. -/
inductive Access where
  | ro | rw | rv | wo | rf
  deriving DecidableEq, Repr

/-- What a committed write of a register does, beyond storing its writable bits (plain) or being ignored (none).
Each name stands for the rule that governs the register. -/
inductive WriteKind where
  | none | plain | timeCfg | adjFreq | adjPhase | stepCtl | disc | laneRxCal | laneTxCal | laneExt | portMode | slotPlain | pipePlain | tmplW0 | tmplStage | domainCfg | domainCtl | seqNext | seqFeed | takeover | portShaper | queueShaper | audCtl | drainTgt | drainAck | lampTxSc | lampSa | hostFreeze | perPf | ringWindow | ringDoorbell | rdmaDoorbell | seqCopy | portPfc | vfmRes | vfmMboxCtl | vfmMboxTo | galSucceed | galDom | galAsym | pwrPlain | sprintReq | restCtl | bootPolicy | fuseConfirm | recOffset | bootPlain | recCtl | abiOffer | logRate | logWinBase | hcCtl
  deriving DecidableEq, Repr

/-- One register of a block map: its name, block slot, slot offset of its first instance, number of that instance,
its instance dimensions (count, stride) from the widest stride to the narrowest, access code, writable bits, reset
value, whether it is a counter (its name contains _CNT_, R372) and the effect of a write. -/
structure RegRow where
  name   : String
  slot   : Nat
  base   : Nat
  first  : Nat
  dims   : List (Nat × Nat)
  access : Access
  mask   : Word
  reset  : Word
  counter : Bool
  write  : WriteKind
  deriving DecidableEq, Repr

namespace Reg

/-- The key of PF p's own copy of a register held once per PF (R359, R258). -/
def perPf (p a : Nat) : Nat := a + 0x2000000 * (p + 1)

/-- The key of a register of VF v of PF index p at offset o of its VF BAR0 (R306). -/
def vf (p v o : Nat) : Nat := 0x40000000 + 0x10000 * (4096 * p + v) + o

/-- R58 -/
def TIME_CFG : Nat := 0x100000
/-- R58 -/
def TIME_STATUS : Nat := 0x100008
/-- R58 -/
def TIME_DIAL_NS : Nat := 0x100010
/-- R58 -/
def TIME_DIAL_FRAC : Nat := 0x100018
/-- R58 -/
def TIME_ADJ_FREQ : Nat := 0x100020
/-- R58 -/
def TIME_ADJ_PHASE : Nat := 0x100028
/-- R58 -/
def TIME_PHASE_REMAIN : Nat := 0x100030
/-- R58 -/
def TIME_STEP_LO : Nat := 0x100038
/-- R58 -/
def TIME_STEP_HI : Nat := 0x100040
/-- R58 -/
def TIME_STEP_CTL : Nat := 0x100048
/-- R58 -/
def TIME_STEP_RESULT : Nat := 0x100050
/-- R58 -/
def TIME_UTC_OFFSET : Nat := 0x100058
/-- R58 -/
def TIME_UTC_EFFECTIVE : Nat := 0x100060
/-- R58 -/
def TIME_PPS_CAL : Nat := 0x100068
/-- R58 -/
def TIME_PPS_ERR : Nat := 0x100070
/-- R58 -/
def TIME_PPS_OUT : Nat := 0x100078
/-- R58 -/
def TIME_DISC : Nat := 0x100080
/-- R58 -/
def TIME_LANE_RX_CAL (n : Nat) : Nat := 0x101000 + 0x8 * n
/-- R58 -/
def TIME_LANE_TX_CAL (n : Nat) : Nat := 0x101800 + 0x8 * n
/-- R58 -/
def TIME_LANE_EXT (n : Nat) : Nat := 0x102000 + 0x8 * n
/-- R58 -/
def TIME_LANE_TEMP (n : Nat) : Nat := 0x102800 + 0x8 * n
/-- R58 -/
def TIME_CNT_FREQ_CLAMPED : Nat := 0x103000
/-- R58 -/
def TIME_CNT_ADJ_IGNORED : Nat := 0x103008
/-- R58 -/
def TIME_CNT_ADJ_WRITES : Nat := 0x103010
/-- R58 -/
def TIME_CNT_STEPS : Nat := 0x103018
/-- R58 -/
def TIME_CNT_STEP_REFUSED : Nat := 0x103020
/-- R58 -/
def TIME_CNT_PPS_EDGES : Nat := 0x103028
/-- R58 -/
def TIME_CNT_PPS_OUTLIER : Nat := 0x103030
/-- R58 -/
def TIME_CNT_PPS_MISSING : Nat := 0x103038
/-- R58 -/
def TIME_CNT_REF_LOSS : Nat := 0x103040
/-- R58 -/
def TIME_CNT_DIAL_CORRECTED : Nat := 0x103048
/-- R58 -/
def TIME_CNT_RECAL_UPDATES : Nat := 0x103050
/-- R58 -/
def TIME_CNT_STAMP_INVALID : Nat := 0x103058
/-- R58 -/
def TIME_CNT_CAL_REFUSED : Nat := 0x103060
/-- R86 -/
def PORT_MODE (n : Nat) : Nat := 0x200000 + 0x800 * n
/-- R86 -/
def PORT_STATUS (n : Nat) : Nat := 0x200008 + 0x800 * n
/-- R86 -/
def PORT_FRAME (n : Nat) : Nat := 0x200010 + 0x800 * n
/-- R86 -/
def PORT_LINK_CFG (n : Nat) : Nat := 0x200018 + 0x800 * n
/-- R86 -/
def PORT_CNT_RX_FRAMES (n : Nat) : Nat := 0x200100 + 0x800 * n
/-- R86 -/
def PORT_CNT_RX_BYTES (n : Nat) : Nat := 0x200108 + 0x800 * n
/-- R86 -/
def PORT_CNT_RX_FCS_ERR (n : Nat) : Nat := 0x200110 + 0x800 * n
/-- R86 -/
def PORT_CNT_RX_RUNT (n : Nat) : Nat := 0x200118 + 0x800 * n
/-- R86 -/
def PORT_CNT_RX_OVERSIZE (n : Nat) : Nat := 0x200120 + 0x800 * n
/-- R86 -/
def PORT_CNT_RX_ABORTED (n : Nat) : Nat := 0x200128 + 0x800 * n
/-- R86 -/
def PORT_CNT_FEC_CW (n : Nat) : Nat := 0x200130 + 0x800 * n
/-- R86 -/
def PORT_CNT_FEC_CW_CORR (n : Nat) : Nat := 0x200138 + 0x800 * n
/-- R86 -/
def PORT_CNT_FEC_SYM_CORR (n : Nat) : Nat := 0x200140 + 0x800 * n
/-- R86 -/
def PORT_CNT_FEC_CW_UNCORR (n : Nat) : Nat := 0x200148 + 0x800 * n
/-- R86 -/
def PORT_CNT_FEC_FRAME_DROP (n : Nat) : Nat := 0x200150 + 0x800 * n
/-- R86 -/
def PORT_CNT_STAMP_DISCARD (n : Nat) : Nat := 0x200158 + 0x800 * n
/-- R86 -/
def PORT_CNT_HISER (n : Nat) : Nat := 0x200160 + 0x800 * n
/-- R86 -/
def PORT_CNT_ALIGN_LOSS (n : Nat) : Nat := 0x200168 + 0x800 * n
/-- R86 -/
def PORT_CNT_LINK_DOWN (n : Nat) : Nat := 0x200170 + 0x800 * n
/-- R86 -/
def PORT_CNT_RETRAIN (n : Nat) : Nat := 0x200178 + 0x800 * n
/-- R86 -/
def PORT_CNT_TRAIN_TIMEOUT (n : Nat) : Nat := 0x200180 + 0x800 * n
/-- R86 -/
def PORT_CNT_PAUSE_IGNORED (n : Nat) : Nat := 0x200188 + 0x800 * n
/-- R86 -/
def PORT_CNT_TX_FRAMES (n : Nat) : Nat := 0x200190 + 0x800 * n
/-- R86 -/
def PORT_CNT_TX_BYTES (n : Nat) : Nat := 0x200198 + 0x800 * n
/-- R86 -/
def PORT_CNT_TX_STOMPED (n : Nat) : Nat := 0x2001A0 + 0x800 * n
/-- R86 -/
def PORT_CNT_MODE_REFUSED : Nat := 0x280000
/-- R86 -/
def PORT_CNT_IDLE_SLOT_WRITES : Nat := 0x280008
/-- R86 -/
def PORT_LINK_MAP (m : Nat) : Nat := 0x280100 + 0x8 * m
/-- R88 -/
def PIPE_STATUS (k : Nat) : Nat := 0x300008 + 0x10000 * k
/-- R88 -/
def PIPE_ADMIT (n : Nat) : Nat := 0x301000 + 0x10000 * (n / 32) + 0x40 * (n % 32)
/-- R88 -/
def PIPE_ADMIT_FLOOR (n : Nat) : Nat := 0x301008 + 0x10000 * (n / 32) + 0x40 * (n % 32)
/-- R88 -/
def PIPE_EXC_LIMIT (n : Nat) : Nat := 0x301010 + 0x10000 * (n / 32) + 0x40 * (n % 32)
/-- R88 -/
def PIPE_ADMIT_EFF (n : Nat) : Nat := 0x301018 + 0x10000 * (n / 32) + 0x40 * (n % 32)
/-- R88 -/
def PIPE_CNT_ORDER (n : Nat) : Nat := 0x304000 + 0x10000 * (n / 32) + 0x80 * (n % 32)
/-- R88 -/
def PIPE_CNT_ADMIT_DROP (n : Nat) : Nat := 0x304008 + 0x10000 * (n / 32) + 0x80 * (n % 32)
/-- R88 -/
def PIPE_CNT_REJECT (n : Nat) : Nat := 0x304010 + 0x10000 * (n / 32) + 0x80 * (n % 32)
/-- R88 -/
def PIPE_CNT_EXC_SENT (n : Nat) : Nat := 0x304018 + 0x10000 * (n / 32) + 0x80 * (n % 32)
/-- R88 -/
def PIPE_CNT_EXC_DROP_LIMIT (n : Nat) : Nat := 0x304020 + 0x10000 * (n / 32) + 0x80 * (n % 32)
/-- R88 -/
def PIPE_CNT_EXC_DROP_FULL (n : Nat) : Nat := 0x304028 + 0x10000 * (n / 32) + 0x80 * (n % 32)
/-- R88 -/
def PIPE_CNT_ORDER_LONG (n : Nat) : Nat := 0x304030 + 0x10000 * (n / 32) + 0x80 * (n % 32)
/-- R88 -/
def PIPE_CNT_FRAG (n : Nat) : Nat := 0x304038 + 0x10000 * (n / 32) + 0x80 * (n % 32)
/-- R88 -/
def PIPE_CNT_CLASS_DROP (n : Nat) : Nat := 0x304040 + 0x10000 * (n / 32) + 0x80 * (n % 32)
/-- R88 -/
def PIPE_CNT_FORWARD (n : Nat) : Nat := 0x304048 + 0x10000 * (n / 32) + 0x80 * (n % 32)
/-- R88 -/
def PIPE_CNT_HOST_DROP (n : Nat) : Nat := 0x304050 + 0x10000 * (n / 32) + 0x80 * (n % 32)
/-- R88 -/
def PIPE_CNT_REJECT_REASON (k : Nat) (r : Nat) : Nat := 0x306000 + 0x10000 * k + 0x8 * r
/-- R88 -/
def PIPE_CNT_EXC_REASON (k : Nat) (r : Nat) : Nat := 0x306080 + 0x10000 * k + 0x8 * r
/-- R88 -/
def PIPE_CNT_UPDATE_LATE (k : Nat) : Nat := 0x306108 + 0x10000 * k
/-- R88 -/
def PIPE_TMPL_W0 (i : Nat) : Nat := 0x380000 + 0x20 * i
/-- R88 -/
def PIPE_TMPL_W1 (i : Nat) : Nat := 0x380008 + 0x20 * i
/-- R88 -/
def PIPE_TMPL_W2 (i : Nat) : Nat := 0x380010 + 0x20 * i
/-- R88 -/
def PIPE_TMPL_W3 (i : Nat) : Nat := 0x380018 + 0x20 * i
/-- R88 -/
def PIPE_CNT_TMPL_REFUSED : Nat := 0x388000
/-- R118 -/
def SEQ_DOMAIN_CFG (d : Nat) : Nat := 0x400000 + 0x1000 * d
/-- R118 -/
def SEQ_DOMAIN_CTL (d : Nat) : Nat := 0x400008 + 0x1000 * d
/-- R118 -/
def SEQ_DOMAIN_STATUS (d : Nat) : Nat := 0x400010 + 0x1000 * d
/-- R118 -/
def SEQ_OPEN_AT (d : Nat) : Nat := 0x400018 + 0x1000 * d
/-- R118 -/
def SEQ_CLOSE_AT (d : Nat) : Nat := 0x400020 + 0x1000 * d
/-- R118 -/
def SEQ_NEXT (d : Nat) : Nat := 0x400028 + 0x1000 * d
/-- R118 -/
def SEQ_LAST_NUMBER (d : Nat) : Nat := 0x400030 + 0x1000 * d
/-- R118 -/
def SEQ_FRONTIER (d : Nat) : Nat := 0x400038 + 0x1000 * d
/-- R118 -/
def SEQ_MUSTER_MIN (d : Nat) : Nat := 0x400040 + 0x1000 * d
/-- R118 -/
def SEQ_BACKLOG (d : Nat) : Nat := 0x400048 + 0x1000 * d
/-- R118 -/
def SEQ_RINGS (d : Nat) : Nat := 0x400050 + 0x1000 * d
/-- R118 -/
def SEQ_HALT_INFO (d : Nat) : Nat := 0x400058 + 0x1000 * d
/-- R118 -/
def SEQ_OPEN_RESULT (d : Nat) : Nat := 0x400060 + 0x1000 * d
/-- R118 -/
def SEQ_FEED (d : Nat) (m : Nat) : Nat := 0x400080 + 0x1000 * d + 0x8 * m
/-- R118 -/
def SEQ_CNT_MESSAGES (d : Nat) : Nat := 0x400800 + 0x1000 * d
/-- R118 -/
def SEQ_CNT_REJECTS (d : Nat) : Nat := 0x400808 + 0x1000 * d
/-- R118 -/
def SEQ_CNT_TIES (d : Nat) : Nat := 0x400810 + 0x1000 * d
/-- R118 -/
def SEQ_CNT_LATE_APPEND (d : Nat) : Nat := 0x400818 + 0x1000 * d
/-- R118 -/
def SEQ_CNT_LATE_DROP (d : Nat) : Nat := 0x400820 + 0x1000 * d
/-- R118 -/
def SEQ_CNT_OUTSIDE (d : Nat) : Nat := 0x400828 + 0x1000 * d
/-- R118 -/
def SEQ_CNT_NOT_FED (d : Nat) : Nat := 0x400830 + 0x1000 * d
/-- R118 -/
def SEQ_CNT_HALT_DROP (d : Nat) : Nat := 0x400838 + 0x1000 * d
/-- R118 -/
def SEQ_CNT_COND_RELEASES (d : Nat) : Nat := 0x400840 + 0x1000 * d
/-- R118 -/
def SEQ_CNT_BACKLOG_WAIT (d : Nat) : Nat := 0x400848 + 0x1000 * d
/-- R118 -/
def SEQ_CNT_CLOSE_DISCARD (d : Nat) : Nat := 0x400850 + 0x1000 * d
/-- R118 -/
def SEQ_CNT_VOTE_CORRECTED (d : Nat) : Nat := 0x400858 + 0x1000 * d
/-- R118 -/
def SEQ_CNT_FENCES (d : Nat) : Nat := 0x400860 + 0x1000 * d
/-- R118 -/
def SEQ_CNT_HALTS (d : Nat) : Nat := 0x400868 + 0x1000 * d
/-- R118 -/
def SEQ_CNT_MIRROR_MISMATCH (d : Nat) : Nat := 0x400870 + 0x1000 * d
/-- R118 -/
def SEQ_CNT_CFG_REFUSED (d : Nat) : Nat := 0x400878 + 0x1000 * d
/-- R118 -/
def SEQ_STATUS : Nat := 0x420000
/-- R118 -/
def SEQ_TAKEOVER : Nat := 0x420008
/-- R118 -/
def SEQ_TAKEOVER_AT : Nat := 0x420010
/-- R118 -/
def SEQ_TAKEOVER_RESULT : Nat := 0x420018
/-- R118 -/
def SEQ_CNT_TAKEOVERS : Nat := 0x420020
/-- R138 -/
def REL_CFG : Nat := 0x500000
/-- R138 -/
def REL_STATUS : Nat := 0x500008
/-- R138 -/
def REL_BUF_USED : Nat := 0x500010
/-- R138 -/
def REL_ARMED : Nat := 0x500018
/-- R138 -/
def REL_CNT_ACCEPTED : Nat := 0x500100
/-- R138 -/
def REL_CNT_ALL_SENT : Nat := 0x500108
/-- R138 -/
def REL_CNT_PARTIAL : Nat := 0x500110
/-- R138 -/
def REL_CNT_NONE_SENT : Nat := 0x500118
/-- R138 -/
def REL_CNT_REFUSED (c : Nat) : Nat := 0x500120 + 0x8 * c
/-- R138 -/
def REL_PORT_SCHED (n : Nat) : Nat := 0x510000 + 0x200 * n
/-- R138 -/
def REL_PORT_STATUS (n : Nat) : Nat := 0x510008 + 0x200 * n
/-- R138 -/
def REL_PORT_GUARD (n : Nat) : Nat := 0x510010 + 0x200 * n
/-- R138 -/
def REL_PORT_SHAPER (n : Nat) : Nat := 0x510018 + 0x200 * n
/-- R138 -/
def REL_Q_SHAPER (n : Nat) (q : Nat) : Nat := 0x510040 + 0x200 * n + 0x8 * q
/-- R138 -/
def REL_Q_CFG (n : Nat) (q : Nat) : Nat := 0x510080 + 0x200 * n + 0x8 * q
/-- R138 -/
def REL_CNT_COPY_SENT (n : Nat) : Nat := 0x510100 + 0x200 * n
/-- R138 -/
def REL_CNT_COPY_DOWN (n : Nat) : Nat := 0x510108 + 0x200 * n
/-- R138 -/
def REL_CNT_COPY_LONG (n : Nat) : Nat := 0x510110 + 0x200 * n
/-- R138 -/
def REL_CNT_COPY_COLLIDE (n : Nat) : Nat := 0x510118 + 0x200 * n
/-- R138 -/
def REL_CNT_COPY_LATE_ARM (n : Nat) : Nat := 0x510120 + 0x200 * n
/-- R138 -/
def REL_CNT_COPY_LAUNCH_FULL (n : Nat) : Nat := 0x510128 + 0x200 * n
/-- R138 -/
def REL_CNT_COPY_SECURE (n : Nat) : Nat := 0x510130 + 0x200 * n
/-- R138 -/
def REL_CNT_COPY_DIAL (n : Nat) : Nat := 0x510138 + 0x200 * n
/-- R138 -/
def REL_CNT_COPY_ABORTED (n : Nat) : Nat := 0x510140 + 0x200 * n
/-- R138 -/
def REL_CNT_GUARD_DEFER (n : Nat) : Nat := 0x510148 + 0x200 * n
/-- R138 -/
def REL_CNT_PREEMPT (n : Nat) : Nat := 0x510150 + 0x200 * n
/-- R138 -/
def REL_CNT_HOLD_RESUME (n : Nat) : Nat := 0x510158 + 0x200 * n
/-- R138 -/
def REL_CNT_HOLD_FLUSH (n : Nat) : Nat := 0x510160 + 0x200 * n
/-- R138 -/
def REL_CNT_DOWN_DROP (n : Nat) : Nat := 0x510168 + 0x200 * n
/-- R138 -/
def REL_CNT_TX_ABORTED (n : Nat) : Nat := 0x510170 + 0x200 * n
/-- R138 -/
def REL_CNT_SHAPER_RESET (n : Nat) : Nat := 0x510178 + 0x200 * n
/-- R138 -/
def REL_CNT_Q_SENT (n : Nat) (q : Nat) : Nat := 0x510180 + 0x200 * n + 0x8 * q
/-- R138 -/
def REL_CNT_Q_DROP (n : Nat) (q : Nat) : Nat := 0x5101C0 + 0x200 * n + 0x8 * q
/-- R158 -/
def TBL_CFG : Nat := 0x600000
/-- R158 -/
def TBL_STATUS : Nat := 0x600008
/-- R158 -/
def TBL_PARITY_LAST : Nat := 0x600010
/-- R158 -/
def TBL_PARITY_DIAL : Nat := 0x600018
/-- R158 -/
def TBL_CNT_PARITY (t : Nat) : Nat := 0x600100 + 0x8 * t
/-- R158 -/
def TBL_CNT_UPDATES : Nat := 0x600140
/-- R158 -/
def TBL_CNT_UPD_REFUSED (s : Nat) : Nat := 0x600180 + 0x8 * s
/-- R158 -/
def TBL_CNT_SWEEP_OVERRUN : Nat := 0x600200
/-- R158 -/
def TBL_CNT_GROUP_INVALID : Nat := 0x600208
/-- R158 -/
def TBL_MAC_USED (k : Nat) : Nat := 0x610000 + 0x1000 * k
/-- R158 -/
def TBL_SIDE_USED (k : Nat) : Nat := 0x610008 + 0x1000 * k
/-- R158 -/
def TBL_CNT_LEARN (k : Nat) : Nat := 0x610100 + 0x1000 * k
/-- R158 -/
def TBL_CNT_LEARN_FULL (k : Nat) : Nat := 0x610108 + 0x1000 * k
/-- R158 -/
def TBL_CNT_LEARN_SKIP (k : Nat) : Nat := 0x610110 + 0x1000 * k
/-- R158 -/
def TBL_CNT_LEARN_MOVE (k : Nat) : Nat := 0x610118 + 0x1000 * k
/-- R158 -/
def TBL_CNT_STATIC_CONFLICT (k : Nat) : Nat := 0x610120 + 0x1000 * k
/-- R158 -/
def TBL_CNT_AGED (k : Nat) : Nat := 0x610128 + 0x1000 * k
/-- R158 -/
def TBL_CNT_FLOOD (k : Nat) : Nat := 0x610130 + 0x1000 * k
/-- R158 -/
def TBL_CNT_FILTERED (k : Nat) : Nat := 0x610138 + 0x1000 * k
/-- R158 -/
def TBL_CNT_ROUTE_MISS (k : Nat) : Nat := 0x610140 + 0x1000 * k
/-- R158 -/
def TBL_CNT_TTL (k : Nat) : Nat := 0x610148 + 0x1000 * k
/-- R158 -/
def TBL_CNT_NH_MISS (k : Nat) : Nat := 0x610150 + 0x1000 * k
/-- R158 -/
def TBL_LPM_PREFIXES (p : Nat) : Nat := 0x620000 + 0x100 * p
/-- R158 -/
def TBL_LPM_BLOCKS (p : Nat) : Nat := 0x620008 + 0x100 * p
/-- R183 -/
def AUD_CFG : Nat := 0x700000
/-- R183 -/
def AUD_STATUS : Nat := 0x700008
/-- R183 -/
def AUD_CTL : Nat := 0x700010
/-- R183 -/
def AUD_CTL_RESULT : Nat := 0x700018
/-- R183 -/
def AUD_CHAIN : Nat := 0x700020
/-- R183 -/
def AUD_EPOCH : Nat := 0x700028
/-- R183 -/
def AUD_NEXT_INDEX : Nat := 0x700030
/-- R183 -/
def AUD_HEAD : Nat := 0x700038
/-- R183 -/
def AUD_TAIL : Nat := 0x700040
/-- R183 -/
def AUD_FILL : Nat := 0x700048
/-- R183 -/
def AUD_LAST_SEAL : Nat := 0x700050
/-- R183 -/
def AUD_RECOVERY_INFO : Nat := 0x700058
/-- R183 -/
def AUD_START_COUNT : Nat := 0x700060
/-- R183 -/
def AUD_WIN_BASE : Nat := 0x700100
/-- R183 -/
def AUD_DRAIN_TGT (m : Nat) : Nat := 0x700140 + 0x8 * m
/-- R183 -/
def AUD_DRAIN_BASE (m : Nat) : Nat := 0x700150 + 0x8 * m
/-- R183 -/
def AUD_DRAIN_SLOTS : Nat := 0x700160
/-- R183 -/
def AUD_DRAIN_NEXT : Nat := 0x700168
/-- R183 -/
def AUD_DRAIN_ACK : Nat := 0x700170
/-- R183 -/
def AUD_OPEN_COUNT (d : Nat) : Nat := 0x700200 + 0x8 * d
/-- R183 -/
def AUD_CNT_RECORDS : Nat := 0x700400
/-- R183 -/
def AUD_CNT_SEALS : Nat := 0x700408
/-- R183 -/
def AUD_CNT_PRESSURE : Nat := 0x700410
/-- R183 -/
def AUD_CNT_LOST : Nat := 0x700418
/-- R183 -/
def AUD_CNT_GAPS : Nat := 0x700420
/-- R183 -/
def AUD_CNT_SEGMENTS : Nat := 0x700428
/-- R183 -/
def AUD_CNT_DRAIN_RETRY : Nat := 0x700430
/-- R183 -/
def AUD_CNT_DRAIN_FAIL : Nat := 0x700438
/-- R183 -/
def AUD_CNT_ECC_CORR : Nat := 0x700440
/-- R183 -/
def AUD_CNT_ECC_UNCORR : Nat := 0x700448
/-- R183 -/
def AUD_CNT_CTL_REFUSED : Nat := 0x700450
/-- R214 -/
def LAMP_POLICY : Nat := 0x800000
/-- R214 -/
def LAMP_STATUS : Nat := 0x800008
/-- R214 -/
def LAMP_GRACE_LEFT : Nat := 0x800010
/-- R214 -/
def LAMP_SLOTS_USED : Nat := 0x800018
/-- R214 -/
def LAMP_CTX_USED : Nat := 0x800020
/-- R214 -/
def LAMP_ENGINES : Nat := 0x800028
/-- R214 -/
def LAMP_PN_THRESH : Nat := 0x800030
/-- R214 -/
def LAMP_CNT_JOBS : Nat := 0x800100
/-- R214 -/
def LAMP_CNT_JOB_STATUS (s : Nat) : Nat := 0x800108 + 0x8 * s
/-- R214 -/
def LAMP_CNT_PREEMPT : Nat := 0x800160
/-- R214 -/
def LAMP_CNT_KEYCMD : Nat := 0x800168
/-- R214 -/
def LAMP_CNT_KEYCMD_REFUSED : Nat := 0x800170
/-- R214 -/
def LAMP_CNT_SA_WRITE_REFUSED : Nat := 0x800178
/-- R214 -/
def LAMP_CNT_SRC_FAIL (x : Nat) : Nat := 0x800180 + 0x8 * x
/-- R214 -/
def LAMP_CNT_SRC_RESTORE (x : Nat) : Nat := 0x800190 + 0x8 * x
/-- R214 -/
def LAMP_CNT_RESEED : Nat := 0x8001A0
/-- R214 -/
def LAMP_SLOT_INFO (i : Nat) : Nat := 0x840000 + 0x8 * i
/-- R214 -/
def LAMP_TX_SC (n : Nat) : Nat := 0x880000 + 0x800 * n
/-- R214 -/
def LAMP_TX_SCI (n : Nat) : Nat := 0x880008 + 0x800 * n
/-- R214 -/
def LAMP_TX_SA (n : Nat) (a : Nat) : Nat := 0x880040 + 0x800 * n + 0x10 * a
/-- R214 -/
def LAMP_TX_PN (n : Nat) (a : Nat) : Nat := 0x880048 + 0x800 * n + 0x10 * a
/-- R214 -/
def LAMP_RX_SCI (n : Nat) (c : Nat) : Nat := 0x880100 + 0x800 * n + 0x80 * c
/-- R214 -/
def LAMP_RX_SC (n : Nat) (c : Nat) : Nat := 0x880108 + 0x800 * n + 0x80 * c
/-- R214 -/
def LAMP_RX_SA (n : Nat) (c : Nat) (a : Nat) : Nat := 0x880140 + 0x800 * n + 0x80 * c + 0x10 * a
/-- R214 -/
def LAMP_RX_PN (n : Nat) (c : Nat) (a : Nat) : Nat := 0x880148 + 0x800 * n + 0x80 * c + 0x10 * a
/-- R214 -/
def LAMP_CNT_TX_PROTECTED (n : Nat) : Nat := 0x880600 + 0x800 * n
/-- R214 -/
def LAMP_CNT_TX_MASK_STOP (n : Nat) : Nat := 0x880608 + 0x800 * n
/-- R214 -/
def LAMP_CNT_RX_VERIFIED (n : Nat) : Nat := 0x880610 + 0x800 * n
/-- R214 -/
def LAMP_CNT_RX_NO_TAG (n : Nat) : Nat := 0x880618 + 0x800 * n
/-- R214 -/
def LAMP_CNT_RX_NO_SA (n : Nat) : Nat := 0x880620 + 0x800 * n
/-- R214 -/
def LAMP_CNT_RX_REPLAY (n : Nat) : Nat := 0x880628 + 0x800 * n
/-- R214 -/
def LAMP_CNT_RX_BAD_ICV (n : Nat) : Nat := 0x880630 + 0x800 * n
/-- R214 -/
def LAMP_CNT_RX_MASK_STOP (n : Nat) : Nat := 0x880638 + 0x800 * n
/-- R235 -/
def HOST_PORT_CFG (p : Nat) : Nat := 0x900000 + 0x10000 * p
/-- R235 -/
def HOST_LINK_STATUS (p : Nat) : Nat := 0x900008 + 0x10000 * p
/-- R235 -/
def HOST_FREEZE (p : Nat) : Nat := 0x900010 + 0x10000 * p
/-- R235 -/
def HOST_FREEZE_INFO (p : Nat) : Nat := 0x900018 + 0x10000 * p
/-- R235 -/
def HOST_ERR_NEXT (p : Nat) : Nat := 0x900020 + 0x10000 * p
/-- R235 -/
def HOST_ERR_LOG_W0 (p : Nat) (i : Nat) : Nat := 0x900100 + 0x10000 * p + 0x10 * i
/-- R235 -/
def HOST_ERR_LOG_W1 (p : Nat) (i : Nat) : Nat := 0x900108 + 0x10000 * p + 0x10 * i
/-- R235 -/
def HOST_CNT_CORR (p : Nat) : Nat := 0x900800 + 0x10000 * p
/-- R235 -/
def HOST_CNT_NONFATAL (p : Nat) : Nat := 0x900808 + 0x10000 * p
/-- R235 -/
def HOST_CNT_FATAL (p : Nat) : Nat := 0x900810 + 0x10000 * p
/-- R235 -/
def HOST_CNT_MMIO_UR (p : Nat) : Nat := 0x900818 + 0x10000 * p
/-- R235 -/
def HOST_CNT_LINK_DOWN (p : Nat) : Nat := 0x900820 + 0x10000 * p
/-- R235 -/
def HOST_CNT_DEGRADED (p : Nat) : Nat := 0x900828 + 0x10000 * p
/-- R235 -/
def HOST_CNT_FLR (p : Nat) : Nat := 0x900830 + 0x10000 * p
/-- R235 -/
def HOST_CNT_VF_REFUSED (p : Nat) : Nat := 0x900838 + 0x10000 * p
/-- R235 -/
def HOST_CNT_FREEZES (p : Nat) : Nat := 0x900840 + 0x10000 * p
/-- R235 -/
def HOST_CNT_FROZEN_WRITE (p : Nat) : Nat := 0x900848 + 0x10000 * p
/-- R235 -/
def HOST_CNT_RELEASE_IGNORED (p : Nat) : Nat := 0x900850 + 0x10000 * p
/-- R235 -/
def HOST_CNT_DMA_RD_FAIL (p : Nat) : Nat := 0x900858 + 0x10000 * p
/-- R258 -/
def RING_SEL (p : Nat) : Nat := perPf p (0xA00000)
/-- R258 -/
def RING_BASE : Nat := 0xA00100
/-- R258 -/
def RING_CFG : Nat := 0xA00108
/-- R258 -/
def RING_PI_ADDR : Nat := 0xA00110
/-- R258 -/
def RING_IRQ : Nat := 0xA00118
/-- R258 -/
def RING_CTL : Nat := 0xA00120
/-- R258 -/
def RING_STATUS : Nat := 0xA00128
/-- R258 -/
def RING_CUR : Nat := 0xA00130
/-- R258 -/
def RING_OWNER : Nat := 0xA00138
/-- R258 -/
def RING_HAMPER : Nat := 0xA00140
/-- R258 -/
def RING_TALLY_NEXT : Nat := 0xA01000
/-- R258 -/
def RING_TALLY_WIN_BASE : Nat := 0xA01008
/-- R258 -/
def RING_CNT_DOORBELLS (p : Nat) : Nat := perPf p (0xA01100)
/-- R258 -/
def RING_CNT_DOORBELL_IGNORED (p : Nat) : Nat := perPf p (0xA01108)
/-- R258 -/
def RING_CNT_STALE_DISCARD (p : Nat) : Nat := perPf p (0xA01110)
/-- R258 -/
def RING_CNT_OWN_MISMATCH (p : Nat) : Nat := perPf p (0xA01118)
/-- R258 -/
def RING_CNT_PI_ERROR (p : Nat) : Nat := perPf p (0xA01120)
/-- R258 -/
def RING_CNT_DESC_FETCH_FAIL (p : Nat) : Nat := perPf p (0xA01128)
/-- R258 -/
def RING_CNT_CFG_REFUSED (p : Nat) : Nat := perPf p (0xA01130)
/-- R258 -/
def RING_CNT_HOST_LOST (p : Nat) : Nat := perPf p (0xA01138)
/-- R258 -/
def RING_CNT_ABANDONED (p : Nat) : Nat := perPf p (0xA01140)
/-- R258 -/
def RING_CNT_TALLY (p : Nat) : Nat := perPf p (0xA01148)
/-- R258 -/
def RING_DOORBELL (c : Nat) : Nat := 0xA80000 + 0x8 * c
/-- R271 -/
def NVME_SEL (p : Nat) : Nat := perPf p (0xB40000)
/-- R271 -/
def NVME_CTRL_STATUS : Nat := 0xB40008
/-- R271 -/
def NVME_STATUS : Nat := 0xB40010
/-- R271 -/
def NVME_JOURNAL : Nat := 0xB40018
/-- R271 -/
def NVME_CNT_COMMANDS : Nat := 0xB40100
/-- R271 -/
def NVME_CNT_READ_BYTES : Nat := 0xB40108
/-- R271 -/
def NVME_CNT_WRITE_BYTES : Nat := 0xB40110
/-- R271 -/
def NVME_CNT_OVERLAP_WAIT : Nat := 0xB40118
/-- R271 -/
def NVME_CNT_JOURNAL_WAIT : Nat := 0xB40120
/-- R271 -/
def NVME_CNT_REPLAYED : Nat := 0xB40128
/-- R271 -/
def NVME_CNT_EXTENT_FAIL : Nat := 0xB40130
/-- R271 -/
def NVME_CNT_ROLLBACK : Nat := 0xB40138
/-- R271 -/
def NVME_CNT_ROLLBACK_FAIL : Nat := 0xB40140
/-- R271 -/
def NVME_CNT_PS_DELAYED : Nat := 0xB40148
/-- R271 -/
def NVME_RP_CFG (s : Nat) : Nat := 0xB50000 + 0x100 * s
/-- R271 -/
def NVME_RP_STATUS (s : Nat) : Nat := 0xB50008 + 0x100 * s
/-- R271 -/
def NVME_RP_CNT_ERR (s : Nat) : Nat := 0xB50010 + 0x100 * s
/-- R271 -/
def NVME_RP_CNT_REMOVED (s : Nat) : Nat := 0xB50018 + 0x100 * s
/-- R289 -/
def RDMA_CFG : Nat := 0xC00000
/-- R289 -/
def RDMA_STATUS : Nat := 0xC00008
/-- R289 -/
def RDMA_QP_USED : Nat := 0xC00010
/-- R289 -/
def RDMA_MR_USED : Nat := 0xC00018
/-- R289 -/
def RDMA_DOORBELL : Nat := 0xC00020
/-- R289 -/
def RDMA_SEQ_COPY (d : Nat) : Nat := 0xC00100 + 0x8 * d
/-- R289 -/
def RDMA_CNT_DOORBELL_IGNORED : Nat := 0xC00200
/-- R289 -/
def RDMA_CNT_WR_STATUS (s : Nat) : Nat := 0xC00208 + 0x8 * s
/-- R289 -/
def RDMA_CNT_RETRANSMIT : Nat := 0xC00270
/-- R289 -/
def RDMA_CNT_RNR_SENT : Nat := 0xC00278
/-- R289 -/
def RDMA_CNT_TRIGGERED : Nat := 0xC00280
/-- R289 -/
def RDMA_CNT_COPY_DROP : Nat := 0xC00288
/-- R289 -/
def RDMA_CNT_CFG_REFUSED : Nat := 0xC00290
/-- R289 -/
def RDMA_CNT_CTX_MISS : Nat := 0xC00298
/-- R289 -/
def RDMA_PORT_PFC (n : Nat) : Nat := 0xC20000 + 0x20 * n
/-- R289 -/
def RDMA_PORT_MAC (n : Nat) : Nat := 0xC20008 + 0x20 * n
/-- R289 -/
def RDMA_CNT_LOSSLESS_DROP (n : Nat) : Nat := 0xC20010 + 0x20 * n
/-- R289 -/
def RDMA_CNT_WD_DROP (n : Nat) : Nat := 0xC20018 + 0x20 * n
/-- R307 -/
def VFM_SEL (p : Nat) : Nat := perPf p (0xD00000)
/-- R307 -/
def VFM_CFG : Nat := 0xD00008
/-- R307 -/
def VFM_POOL : Nat := 0xD00010
/-- R307 -/
def VFM_RES (w : Nat) : Nat := 0xD00100 + 0x8 * w
/-- R307 -/
def VFM_MBOX_CTL : Nat := 0xD00180
/-- R307 -/
def VFM_MBOX_STATUS : Nat := 0xD00188
/-- R307 -/
def VFM_MBOX_FROM_VF (w : Nat) : Nat := 0xD00200 + 0x8 * w
/-- R307 -/
def VFM_MBOX_TO_VF (w : Nat) : Nat := 0xD00240 + 0x8 * w
/-- R307 -/
def VFM_MBOX_PEND (m : Nat) : Nat := 0xD00400 + 0x8 * m
/-- R307 -/
def VFM_CNT_MBOX_TO_PF : Nat := 0xD01000
/-- R307 -/
def VFM_CNT_MBOX_TO_VF : Nat := 0xD01008
/-- R307 -/
def VFM_CNT_MBOX_IGNORED : Nat := 0xD01010
/-- R307 -/
def VFM_CNT_SHRINKS : Nat := 0xD01018
/-- R307 -/
def VFM_CNT_GRACE_EXPIRED : Nat := 0xD01020
/-- R307 -/
def VFM_CNT_LATE_ACK : Nat := 0xD01028
/-- R307 -/
def VFM_CNT_CFG_REFUSED : Nat := 0xD01030
/-- R323 -/
def GAL_CFG : Nat := 0xE00000
/-- R323 -/
def GAL_STATUS : Nat := 0xE00008
/-- R323 -/
def GAL_DIAL_OFFSET : Nat := 0xE00010
/-- R323 -/
def GAL_SUCCEED : Nat := 0xE00018
/-- R323 -/
def GAL_SUCCEED_RESULT : Nat := 0xE00020
/-- R323 -/
def GAL_DOM (d : Nat) : Nat := 0xE00040 + 0x8 * d
/-- R323 -/
def GAL_PREMERGE_NS (d : Nat) : Nat := 0xE00100 + 0x8 * d
/-- R323 -/
def GAL_CNT_PEER_LOST : Nat := 0xE00200
/-- R323 -/
def GAL_CNT_SUCCEED : Nat := 0xE00208
/-- R323 -/
def GAL_CNT_DIAL_LOCK_LOSS : Nat := 0xE00210
/-- R323 -/
def GAL_CNT_CFG_REFUSED : Nat := 0xE00218
/-- R323 -/
def GAL_LINK_CFG (n : Nat) : Nat := 0xE10000 + 0x100 * n
/-- R323 -/
def GAL_LINK_STATUS (n : Nat) : Nat := 0xE10008 + 0x100 * n
/-- R323 -/
def GAL_LINK_DELAY (n : Nat) : Nat := 0xE10010 + 0x100 * n
/-- R323 -/
def GAL_LINK_ASYM (n : Nat) : Nat := 0xE10018 + 0x100 * n
/-- R323 -/
def GAL_CNT_LINK_DOWN (n : Nat) : Nat := 0xE10040 + 0x100 * n
/-- R323 -/
def GAL_CNT_TRAIN_FAIL (n : Nat) : Nat := 0xE10048 + 0x100 * n
/-- R323 -/
def GAL_CNT_REPLAY (n : Nat) : Nat := 0xE10050 + 0x100 * n
/-- R323 -/
def GAL_CNT_REPLAY2 (n : Nat) : Nat := 0xE10058 + 0x100 * n
/-- R323 -/
def GAL_CNT_STREAM_MSGS (n : Nat) : Nat := 0xE10060 + 0x100 * n
/-- R338 -/
def BOOT_POLICY : Nat := 0x1000000
/-- R338 -/
def BOOT_STATUS : Nat := 0x1000008
/-- R338 -/
def BOOT_IMAGE : Nat := 0x1000010
/-- R338 -/
def BOOT_PROV_VERSION : Nat := 0x1000018
/-- R338 -/
def BOOT_FUSE : Nat := 0x1000020
/-- R338 -/
def BOOT_FUSE_CONFIRM : Nat := 0x1000028
/-- R338 -/
def BOOT_BANK_INFO (b : Nat) : Nat := 0x1000030 + 0x8 * b
/-- R338 -/
def BOOT_MEASURE (w : Nat) : Nat := 0x1000040 + 0x8 * w
/-- R338 -/
def BOOT_REC_OFFSET : Nat := 0x1000080
/-- R338 -/
def BOOT_REC_LEN : Nat := 0x1000088
/-- R338 -/
def BOOT_REC_CTL : Nat := 0x1000090
/-- R338 -/
def BOOT_REC_RESULT : Nat := 0x1000098
/-- R338 -/
def BOOT_CNT_COLD : Nat := 0x1000100
/-- R338 -/
def BOOT_CNT_WAKE_FAST : Nat := 0x1000108
/-- R338 -/
def BOOT_CNT_WAKE_FULL : Nat := 0x1000110
/-- R338 -/
def BOOT_CNT_BANK_FAIL : Nat := 0x1000118
/-- R338 -/
def BOOT_CNT_FUSE_RAISE : Nat := 0x1000120
/-- R338 -/
def BOOT_CNT_REFUSED : Nat := 0x1000128
/-- R356 -/
def PWR_CFG : Nat := 0xF00000
/-- R356 -/
def PWR_STATUS : Nat := 0xF00008
/-- R356 -/
def PWR_TJ : Nat := 0xF00010
/-- R356 -/
def PWR_POWER : Nat := 0xF00018
/-- R356 -/
def PWR_SPRINT_REQ : Nat := 0xF00020
/-- R356 -/
def PWR_SPRINT_LEFT : Nat := 0xF00028
/-- R356 -/
def PWR_CLUSTER_FREQ (k : Nat) : Nat := 0xF00040 + 0x8 * k
/-- R356 -/
def PWR_REST_CTL : Nat := 0xF00080
/-- R356 -/
def PWR_REST_RESULT : Nat := 0xF00088
/-- R356 -/
def PWR_RESET_CAUSE : Nat := 0xF00090
/-- R356 -/
def PWR_TEMP (s : Nat) : Nat := 0xF00100 + 0x8 * s
/-- R356, beside PWR_TEMP[32] (log entry 82) -/
def PWR_CNT_SPRINTS : Nat := 0xF01200
/-- R356, beside PWR_TEMP[33] (log entry 82) -/
def PWR_CNT_SPRINT_CAPPED : Nat := 0xF01208
/-- R356, beside PWR_TEMP[34] (log entry 82) -/
def PWR_CNT_CAP : Nat := 0xF01210
/-- R356, beside PWR_TEMP[35] (log entry 82) -/
def PWR_CNT_SHED_CORES : Nat := 0xF01218
/-- R356, beside PWR_TEMP[36] (log entry 82) -/
def PWR_CNT_SHED_CIPHER : Nat := 0xF01220
/-- R356, beside PWR_TEMP[37] (log entry 82) -/
def PWR_CNT_HOT : Nat := 0xF01228
/-- R356, beside PWR_TEMP[38] (log entry 82) -/
def PWR_CNT_THERMTRIP : Nat := 0xF01230
/-- R356, beside PWR_TEMP[39] (log entry 82) -/
def PWR_CNT_REST : Nat := 0xF01238
/-- R356 -/
def PWR_CNT_REST_REFUSED : Nat := 0xF00240
/-- R356 -/
def PWR_CNT_WATCHDOG : Nat := 0xF00248
/-- R356 -/
def PWR_CNT_DROOP : Nat := 0xF00250
/-- R370 -/
def GEN_ALIVE : Nat := 0x0
/-- R370 -/
def GEN_ABI_OFFER (p : Nat) : Nat := perPf p (0x8)
/-- R370 -/
def GEN_ABI (p : Nat) : Nat := perPf p (0x10)
/-- R370 -/
def GEN_ID : Nat := 0x18
/-- R370 -/
def GEN_SERIAL : Nat := 0x20
/-- R370 -/
def GEN_PF : Nat := 0x28
/-- R370 -/
def GEN_STATUS : Nat := 0x30
/-- R370 -/
def GEN_CNT_IGNORED : Nat := 0x100
/-- R370 -/
def GEN_CNT_ALIAS : Nat := 0x108
/-- R370 -/
def GEN_CNT_SPLIT_DISCARD : Nat := 0x110
/-- R370 -/
def GEN_CNT_VOTE_CORR (k : Nat) : Nat := 0x140 + 0x8 * k
/-- R389 -/
def PMU_HC_CTL : Nat := 0x1200000
/-- R389 -/
def PMU_STATUS : Nat := 0x1200008
/-- R389 -/
def PMU_HC_AT : Nat := 0x1200010
/-- R389 -/
def PMU_HC_RESULT : Nat := 0x1200018
/-- R389 -/
def PMU_BANK_INFO (b : Nat) : Nat := 0x1200020 + 0x10 * b
/-- R389 -/
def PMU_BANK_AT (b : Nat) : Nat := 0x1200028 + 0x10 * b
/-- R389 -/
def PMU_BANK_SEL : Nat := 0x1200040
/-- R389 -/
def PMU_BANK_COUNT : Nat := 0x1200048
/-- R389 -/
def PMU_DUMP_CFG : Nat := 0x1200050
/-- R389 -/
def PMU_DUMP_BASE : Nat := 0x1200058
/-- R389 -/
def PMU_DUMP_SEQ : Nat := 0x1200060
/-- R389 -/
def PMU_BLOCK_FIRST (s : Nat) : Nat := 0x1200100 + 0x8 * s
/-- R389 -/
def PMU_CNT_HEADCOUNTS : Nat := 0x1200200
/-- R389 -/
def PMU_CNT_HC_REFUSED : Nat := 0x1200208
/-- R389 -/
def PMU_CNT_DUMPS : Nat := 0x1200210
/-- R389 -/
def PMU_CNT_DUMP_SKIP : Nat := 0x1200218
/-- R389 -/
def PMU_CNT_CYCLES (c : Nat) : Nat := 0x1210000 + 0x40 * c
/-- R389 -/
def PMU_CNT_INSTRET (c : Nat) : Nat := 0x1210008 + 0x40 * c
/-- R389 -/
def PMU_CNT_SLOTS_RETIRED (c : Nat) : Nat := 0x1210010 + 0x40 * c
/-- R389 -/
def PMU_CNT_SLOTS_BAD_SPEC (c : Nat) : Nat := 0x1210018 + 0x40 * c
/-- R389 -/
def PMU_CNT_SLOTS_FRONTEND (c : Nat) : Nat := 0x1210020 + 0x40 * c
/-- R389 -/
def PMU_CNT_SLOTS_BACKEND (c : Nat) : Nat := 0x1210028 + 0x40 * c
/-- R391 -/
def LOG_RATE : Nat := 0x1100000
/-- R391 -/
def LOG_STATUS : Nat := 0x1100008
/-- R391 -/
def LOG_TOTAL : Nat := 0x1100010
/-- R391 -/
def LOG_HOURS : Nat := 0x1100018
/-- R391 -/
def LOG_POWER_CYCLES : Nat := 0x1100020
/-- R391 -/
def LOG_WIN_BASE : Nat := 0x1100028
/-- R391 -/
def LOG_FORMAT : Nat := 0x1100030
/-- R391 -/
def LOG_CNT_RECORDS : Nat := 0x1100100
/-- R391 -/
def LOG_CNT_SUPPRESSED : Nat := 0x1100108
/-- R391 -/
def LOG_CNT_QUEUE_DROP : Nat := 0x1100110
/-- R392 -/
def TRC_CFG : Nat := 0x1300000
/-- R392 -/
def TRC_STATUS : Nat := 0x1300008
/-- R392 -/
def TRC_EN : Nat := 0x1300010
/-- R392 -/
def TRC_BUF_BASE : Nat := 0x1300018
/-- R392 -/
def TRC_BUF_SIZE : Nat := 0x1300020
/-- R392 -/
def TRC_BUF_WPTR : Nat := 0x1300028
/-- R392 -/
def TRC_CNT_FRAMES : Nat := 0x1300100
/-- R392 -/
def TRC_CNT_OVERFLOW : Nat := 0x1300108
/-- R392 -/
def TRC_CNT_GAPS : Nat := 0x1300110
/-- R306 -/
def VF_GEN_ALIVE (p v : Nat) : Nat := vf p v 0x0
/-- R306 -/
def VF_GEN_ABI_OFFER (p v : Nat) : Nat := vf p v 0x8
/-- R306 -/
def VF_GEN_ABI (p v : Nat) : Nat := vf p v 0x10
/-- R306 -/
def VF_MBOX_CTL (p v : Nat) : Nat := vf p v 0x100
/-- R306 -/
def VF_MBOX_STATUS (p v : Nat) : Nat := vf p v 0x108
/-- R306 -/
def VF_MBOX_CFG (p v : Nat) : Nat := vf p v 0x110
/-- R306 -/
def VF_MBOX_OUT (p v w : Nat) : Nat := vf p v (0x140 + 8 * w)
/-- R306 -/
def VF_MBOX_IN (p v w : Nat) : Nat := vf p v (0x180 + 8 * w)
/-- R306 -/
def VF_SHARE (p v w : Nat) : Nat := vf p v (0x200 + 8 * w)
/-- R306 -/
def VF_SHARE_NEXT (p v w : Nat) : Nat := vf p v (0x280 + 8 * w)
/-- R306 -/
def VF_RING_SEL (p v : Nat) : Nat := vf p v 0x400
/-- R306 -/
def VF_DOORBELL (p v w : Nat) : Nat := vf p v (0x1000 + 8 * w)
/-- R306 -/
def VF_RDMA_DOORBELL (p v : Nat) : Nat := vf p v 0x4000
/-- R379 -/
def VF_CNT_DOORBELLS (p v : Nat) : Nat := vf p v 0x8000
/-- R379 -/
def VF_CNT_DOORBELL_IGNORED (p v : Nat) : Nat := vf p v 0x8008
/-- R379 -/
def VF_CNT_STALE_DISCARD (p v : Nat) : Nat := vf p v 0x8010
/-- R379 -/
def VF_CNT_OWN_MISMATCH (p v : Nat) : Nat := vf p v 0x8018
/-- R379 -/
def VF_CNT_DESC_FETCH_FAIL (p v : Nat) : Nat := vf p v 0x8020
/-- R379 -/
def VF_CNT_ABANDONED (p v : Nat) : Nat := vf p v 0x8028
/-- R379 -/
def VF_CNT_TALLY (p v : Nat) : Nat := vf p v 0x8030
/-- R379 -/
def VF_CNT_JOBS (p v : Nat) : Nat := vf p v 0x8038
/-- R379 -/
def VF_CNT_KEYCMD_REFUSED (p v : Nat) : Nat := vf p v 0x80A0
/-- R379 -/
def VF_CNT_NVME_COMMANDS (p v : Nat) : Nat := vf p v 0x8140
/-- R379 -/
def VF_CNT_NVME_READ_BYTES (p v : Nat) : Nat := vf p v 0x8148
/-- R379 -/
def VF_CNT_NVME_WRITE_BYTES (p v : Nat) : Nat := vf p v 0x8150
/-- R379 -/
def VF_CNT_MBOX_SENT (p v : Nat) : Nat := vf p v 0x8160
/-- R379 -/
def VF_CNT_MBOX_RECEIVED (p v : Nat) : Nat := vf p v 0x8168
/-- R379 -/
def VF_CNT_JOB_STATUS (p v i : Nat) : Nat := vf p v (0x8040 + 8 * i)
/-- R379 -/
def VF_CNT_WR_STATUS (p v i : Nat) : Nat := vf p v (0x80C0 + 8 * i)
/-- R379 -/
def VF_CNT_RING_TAKEN (p v i : Nat) : Nat := vf p v (0x8200 + 8 * i)
/-- R379: the Dial of the capture the VF sees. -/
def VF_HC_AT (p v : Nat) : Nat := vf p v 0xBFF0
/-- R379: the number of that capture. -/
def VF_HC_NUMBER (p v : Nat) : Nat := vf p v 0xBFF8

end Reg

/-- The GEN register rows. -/
def rowsGen : List RegRow := [
  ⟨"GEN_ALIVE", 0, 0x0, 0, [], .ro, 0x0, 0x5A5AC3C3, false, .none⟩,
  ⟨"GEN_ABI_OFFER", 0, 0x8, 0, [], .rw, 0xFFFFFF, 0x0, false, .abiOffer⟩,
  ⟨"GEN_ABI", 0, 0x10, 0, [], .ro, 0x0, 0x0, false, .none⟩,
  ⟨"GEN_ID", 0, 0x18, 0, [], .ro, 0x0, 0x1015A601E4A, false, .none⟩,
  ⟨"GEN_SERIAL", 0, 0x20, 0, [], .ro, 0x0, 0x0, false, .none⟩,
  ⟨"GEN_PF", 0, 0x28, 0, [], .ro, 0x0, 0x0, false, .none⟩,
  ⟨"GEN_STATUS", 0, 0x30, 0, [], .rf, 0x0, 0x0, false, .none⟩,
  ⟨"GEN_CNT_IGNORED", 0, 0x100, 0, [], .ro, 0x0, 0x0, true, .none⟩,
  ⟨"GEN_CNT_ALIAS", 0, 0x108, 0, [], .ro, 0x0, 0x0, true, .none⟩,
  ⟨"GEN_CNT_SPLIT_DISCARD", 0, 0x110, 0, [], .ro, 0x0, 0x0, true, .none⟩,
  ⟨"GEN_CNT_VOTE_CORR", 0, 0x140, 0, [(7, 0x8)], .ro, 0x0, 0x0, true, .none⟩]

/-- The TIME register rows. -/
def rowsTime : List RegRow := [
  ⟨"TIME_CFG", 1, 0x0, 0, [], .rv, 0xFFFF0000FF3F, 0xA7C500006420, false, .timeCfg⟩,
  ⟨"TIME_STATUS", 1, 0x8, 0, [], .rf, 0x0, 0x0, false, .none⟩,
  ⟨"TIME_DIAL_NS", 1, 0x10, 0, [], .ro, 0x0, 0x0, false, .none⟩,
  ⟨"TIME_DIAL_FRAC", 1, 0x18, 0, [], .ro, 0x0, 0x0, false, .none⟩,
  ⟨"TIME_ADJ_FREQ", 1, 0x20, 0, [], .rw, 0xFFFFFFFF, 0x0, false, .adjFreq⟩,
  ⟨"TIME_ADJ_PHASE", 1, 0x28, 0, [], .wo, 0x0, 0x0, false, .adjPhase⟩,
  ⟨"TIME_PHASE_REMAIN", 1, 0x30, 0, [], .ro, 0x0, 0x0, false, .none⟩,
  ⟨"TIME_STEP_LO", 1, 0x38, 0, [], .rw, 0xFFFFFFFFFFFFFFFF, 0x0, false, .plain⟩,
  ⟨"TIME_STEP_HI", 1, 0x40, 0, [], .rw, 0xFF, 0x0, false, .plain⟩,
  ⟨"TIME_STEP_CTL", 1, 0x48, 0, [], .wo, 0x0, 0x0, false, .stepCtl⟩,
  ⟨"TIME_STEP_RESULT", 1, 0x50, 0, [], .ro, 0x0, 0x0, false, .none⟩,
  ⟨"TIME_UTC_OFFSET", 1, 0x58, 0, [], .rw, 0xFFFFFFFF, 0x250025, false, .plain⟩,
  ⟨"TIME_UTC_EFFECTIVE", 1, 0x60, 0, [], .rw, 0xFFFFFFFFFFFFFFFF, 0x0, false, .plain⟩,
  ⟨"TIME_PPS_CAL", 1, 0x68, 0, [], .rw, 0xFFFFFFFF, 0x0, false, .plain⟩,
  ⟨"TIME_PPS_ERR", 1, 0x70, 0, [], .ro, 0x0, 0x0, false, .none⟩,
  ⟨"TIME_PPS_OUT", 1, 0x78, 0, [], .rw, 0xFFFFFFFF0000FF01, 0x6400, false, .plain⟩,
  ⟨"TIME_DISC", 1, 0x80, 0, [], .rw, 0x1, 0x0, false, .disc⟩,
  ⟨"TIME_LANE_RX_CAL", 1, 0x1000, 0, [(256, 0x8)], .rw, 0xFFFFF, 0x0, false, .laneRxCal⟩,
  ⟨"TIME_LANE_TX_CAL", 1, 0x1800, 0, [(256, 0x8)], .rw, 0xFFFFF, 0x0, false, .laneTxCal⟩,
  ⟨"TIME_LANE_EXT", 1, 0x2000, 0, [(256, 0x8)], .rw, 0xFFFF, 0x0, false, .laneExt⟩,
  ⟨"TIME_LANE_TEMP", 1, 0x2800, 0, [(256, 0x8)], .ro, 0x0, 0x0, false, .none⟩,
  ⟨"TIME_CNT_FREQ_CLAMPED", 1, 0x3000, 0, [], .ro, 0x0, 0x0, true, .none⟩,
  ⟨"TIME_CNT_ADJ_IGNORED", 1, 0x3008, 0, [], .ro, 0x0, 0x0, true, .none⟩,
  ⟨"TIME_CNT_ADJ_WRITES", 1, 0x3010, 0, [], .ro, 0x0, 0x0, true, .none⟩]

/-- The TIME register rows. -/
def rowsTimeB : List RegRow := [
  ⟨"TIME_CNT_STEPS", 1, 0x3018, 0, [], .ro, 0x0, 0x0, true, .none⟩,
  ⟨"TIME_CNT_STEP_REFUSED", 1, 0x3020, 0, [], .ro, 0x0, 0x0, true, .none⟩,
  ⟨"TIME_CNT_PPS_EDGES", 1, 0x3028, 0, [], .ro, 0x0, 0x0, true, .none⟩,
  ⟨"TIME_CNT_PPS_OUTLIER", 1, 0x3030, 0, [], .ro, 0x0, 0x0, true, .none⟩,
  ⟨"TIME_CNT_PPS_MISSING", 1, 0x3038, 0, [], .ro, 0x0, 0x0, true, .none⟩,
  ⟨"TIME_CNT_REF_LOSS", 1, 0x3040, 0, [], .ro, 0x0, 0x0, true, .none⟩,
  ⟨"TIME_CNT_DIAL_CORRECTED", 1, 0x3048, 0, [], .ro, 0x0, 0x0, true, .none⟩,
  ⟨"TIME_CNT_RECAL_UPDATES", 1, 0x3050, 0, [], .ro, 0x0, 0x0, true, .none⟩,
  ⟨"TIME_CNT_STAMP_INVALID", 1, 0x3058, 0, [], .ro, 0x0, 0x0, true, .none⟩,
  ⟨"TIME_CNT_CAL_REFUSED", 1, 0x3060, 0, [], .ro, 0x0, 0x0, true, .none⟩]

/-- The PORT register rows. -/
def rowsPort : List RegRow := [
  ⟨"PORT_MODE", 2, 0x0, 0, [(256, 0x800)], .rv, 0x3FF, 0x26, false, .portMode⟩,
  ⟨"PORT_STATUS", 2, 0x8, 0, [(256, 0x800)], .rf, 0x0, 0x0, false, .none⟩,
  ⟨"PORT_FRAME", 2, 0x10, 0, [(256, 0x800)], .rw, 0x3FFF, 0x5EE, false, .slotPlain⟩,
  ⟨"PORT_LINK_CFG", 2, 0x18, 0, [(256, 0x800)], .rw, 0xFFFFFF01, 0x1F40101, false, .slotPlain⟩,
  ⟨"PORT_CNT_RX_FRAMES", 2, 0x100, 0, [(256, 0x800)], .ro, 0x0, 0x0, true, .none⟩,
  ⟨"PORT_CNT_RX_BYTES", 2, 0x108, 0, [(256, 0x800)], .ro, 0x0, 0x0, true, .none⟩,
  ⟨"PORT_CNT_RX_FCS_ERR", 2, 0x110, 0, [(256, 0x800)], .ro, 0x0, 0x0, true, .none⟩,
  ⟨"PORT_CNT_RX_RUNT", 2, 0x118, 0, [(256, 0x800)], .ro, 0x0, 0x0, true, .none⟩,
  ⟨"PORT_CNT_RX_OVERSIZE", 2, 0x120, 0, [(256, 0x800)], .ro, 0x0, 0x0, true, .none⟩,
  ⟨"PORT_CNT_RX_ABORTED", 2, 0x128, 0, [(256, 0x800)], .ro, 0x0, 0x0, true, .none⟩,
  ⟨"PORT_CNT_FEC_CW", 2, 0x130, 0, [(256, 0x800)], .ro, 0x0, 0x0, true, .none⟩,
  ⟨"PORT_CNT_FEC_CW_CORR", 2, 0x138, 0, [(256, 0x800)], .ro, 0x0, 0x0, true, .none⟩,
  ⟨"PORT_CNT_FEC_SYM_CORR", 2, 0x140, 0, [(256, 0x800)], .ro, 0x0, 0x0, true, .none⟩,
  ⟨"PORT_CNT_FEC_CW_UNCORR", 2, 0x148, 0, [(256, 0x800)], .ro, 0x0, 0x0, true, .none⟩,
  ⟨"PORT_CNT_FEC_FRAME_DROP", 2, 0x150, 0, [(256, 0x800)], .ro, 0x0, 0x0, true, .none⟩,
  ⟨"PORT_CNT_STAMP_DISCARD", 2, 0x158, 0, [(256, 0x800)], .ro, 0x0, 0x0, true, .none⟩,
  ⟨"PORT_CNT_HISER", 2, 0x160, 0, [(256, 0x800)], .ro, 0x0, 0x0, true, .none⟩,
  ⟨"PORT_CNT_ALIGN_LOSS", 2, 0x168, 0, [(256, 0x800)], .ro, 0x0, 0x0, true, .none⟩,
  ⟨"PORT_CNT_LINK_DOWN", 2, 0x170, 0, [(256, 0x800)], .ro, 0x0, 0x0, true, .none⟩,
  ⟨"PORT_CNT_RETRAIN", 2, 0x178, 0, [(256, 0x800)], .ro, 0x0, 0x0, true, .none⟩,
  ⟨"PORT_CNT_TRAIN_TIMEOUT", 2, 0x180, 0, [(256, 0x800)], .ro, 0x0, 0x0, true, .none⟩,
  ⟨"PORT_CNT_PAUSE_IGNORED", 2, 0x188, 0, [(256, 0x800)], .ro, 0x0, 0x0, true, .none⟩,
  ⟨"PORT_CNT_TX_FRAMES", 2, 0x190, 0, [(256, 0x800)], .ro, 0x0, 0x0, true, .none⟩,
  ⟨"PORT_CNT_TX_BYTES", 2, 0x198, 0, [(256, 0x800)], .ro, 0x0, 0x0, true, .none⟩]

/-- The PORT register rows. -/
def rowsPortB : List RegRow := [
  ⟨"PORT_CNT_TX_STOMPED", 2, 0x1A0, 0, [(256, 0x800)], .ro, 0x0, 0x0, true, .none⟩,
  ⟨"PORT_CNT_MODE_REFUSED", 2, 0x80000, 0, [], .ro, 0x0, 0x0, true, .none⟩,
  ⟨"PORT_CNT_IDLE_SLOT_WRITES", 2, 0x80008, 0, [], .ro, 0x0, 0x0, true, .none⟩,
  ⟨"PORT_LINK_MAP", 2, 0x80100, 0, [(4, 0x8)], .rf, 0x0, 0x0, false, .none⟩]

/-- The PIPE register rows. -/
def rowsPipe : List RegRow := [
  ⟨"PIPE_STATUS", 3, 0x8, 0, [(8, 0x10000)], .rf, 0x0, 0x0, false, .none⟩,
  ⟨"PIPE_ADMIT", 3, 0x1000, 0, [(8, 0x10000), (32, 0x40)], .ro, 0x0, 0x40000F4240, false, .none⟩,
  ⟨"PIPE_ADMIT_FLOOR", 3, 0x1008, 0, [(8, 0x10000), (32, 0x40)], .rw, 0xFFFFFFFF, 0x186A0, false, .pipePlain⟩,
  ⟨"PIPE_EXC_LIMIT", 3, 0x1010, 0, [(8, 0x10000), (32, 0x40)], .rw, 0xFFFF000FFFFF, 0x100000186A0, false, .pipePlain⟩,
  ⟨"PIPE_ADMIT_EFF", 3, 0x1018, 0, [(8, 0x10000), (32, 0x40)], .ro, 0x0, 0xF4240, false, .none⟩,
  ⟨"PIPE_CNT_ORDER", 3, 0x4000, 0, [(8, 0x10000), (32, 0x80)], .ro, 0x0, 0x0, true, .none⟩,
  ⟨"PIPE_CNT_ADMIT_DROP", 3, 0x4008, 0, [(8, 0x10000), (32, 0x80)], .ro, 0x0, 0x0, true, .none⟩,
  ⟨"PIPE_CNT_REJECT", 3, 0x4010, 0, [(8, 0x10000), (32, 0x80)], .ro, 0x0, 0x0, true, .none⟩,
  ⟨"PIPE_CNT_EXC_SENT", 3, 0x4018, 0, [(8, 0x10000), (32, 0x80)], .ro, 0x0, 0x0, true, .none⟩,
  ⟨"PIPE_CNT_EXC_DROP_LIMIT", 3, 0x4020, 0, [(8, 0x10000), (32, 0x80)], .ro, 0x0, 0x0, true, .none⟩,
  ⟨"PIPE_CNT_EXC_DROP_FULL", 3, 0x4028, 0, [(8, 0x10000), (32, 0x80)], .ro, 0x0, 0x0, true, .none⟩,
  ⟨"PIPE_CNT_ORDER_LONG", 3, 0x4030, 0, [(8, 0x10000), (32, 0x80)], .ro, 0x0, 0x0, true, .none⟩,
  ⟨"PIPE_CNT_FRAG", 3, 0x4038, 0, [(8, 0x10000), (32, 0x80)], .ro, 0x0, 0x0, true, .none⟩,
  ⟨"PIPE_CNT_CLASS_DROP", 3, 0x4040, 0, [(8, 0x10000), (32, 0x80)], .ro, 0x0, 0x0, true, .none⟩,
  ⟨"PIPE_CNT_FORWARD", 3, 0x4048, 0, [(8, 0x10000), (32, 0x80)], .ro, 0x0, 0x0, true, .none⟩,
  ⟨"PIPE_CNT_HOST_DROP", 3, 0x4050, 0, [(8, 0x10000), (32, 0x80)], .ro, 0x0, 0x0, true, .none⟩,
  ⟨"PIPE_CNT_REJECT_REASON", 3, 0x6008, 1, [(8, 0x10000), (8, 0x8)], .ro, 0x0, 0x0, true, .none⟩,
  ⟨"PIPE_CNT_EXC_REASON", 3, 0x6088, 1, [(8, 0x10000), (10, 0x8)], .ro, 0x0, 0x0, true, .none⟩,
  ⟨"PIPE_CNT_UPDATE_LATE", 3, 0x6108, 0, [(8, 0x10000)], .ro, 0x0, 0x0, true, .none⟩,
  ⟨"PIPE_TMPL_W0", 3, 0x80000, 0, [(1024, 0x20)], .rw, 0xFFFFFFFFFFFF0003, 0x0, false, .tmplW0⟩,
  ⟨"PIPE_TMPL_W1", 3, 0x80008, 0, [(1024, 0x20)], .rw, 0xFFFFFFFF, 0x0, false, .tmplStage⟩,
  ⟨"PIPE_TMPL_W2", 3, 0x80010, 0, [(1024, 0x20)], .rw, 0xFFFFFFFFFFFFFFFF, 0x0, false, .tmplStage⟩,
  ⟨"PIPE_TMPL_W3", 3, 0x80018, 0, [(1024, 0x20)], .rw, 0xFFFFFFFFFFFFFFFF, 0x0, false, .tmplStage⟩,
  ⟨"PIPE_CNT_TMPL_REFUSED", 3, 0x88000, 0, [], .ro, 0x0, 0x0, true, .none⟩]

/-- The SEQ register rows. -/
def rowsSeq : List RegRow := [
  ⟨"SEQ_DOMAIN_CFG", 4, 0x0, 0, [(16, 0x1000)], .rv, 0x1FFF007FFFFF, 0x100000001F4, false, .domainCfg⟩,
  ⟨"SEQ_DOMAIN_CTL", 4, 0x8, 0, [(16, 0x1000)], .wo, 0x0, 0x0, false, .domainCtl⟩,
  ⟨"SEQ_DOMAIN_STATUS", 4, 0x10, 0, [(16, 0x1000)], .rf, 0x0, 0x0, false, .none⟩,
  ⟨"SEQ_OPEN_AT", 4, 0x18, 0, [(16, 0x1000)], .rw, 0xFFFFFFFFFFFFFFFF, 0x0, false, .plain⟩,
  ⟨"SEQ_CLOSE_AT", 4, 0x20, 0, [(16, 0x1000)], .rw, 0xFFFFFFFFFFFFFFFF, 0x0, false, .plain⟩,
  ⟨"SEQ_NEXT", 4, 0x28, 0, [(16, 0x1000)], .rw, 0xFFFFFFFFFFFFFFFF, 0x1, false, .seqNext⟩,
  ⟨"SEQ_LAST_NUMBER", 4, 0x30, 0, [(16, 0x1000)], .ro, 0x0, 0x0, false, .none⟩,
  ⟨"SEQ_FRONTIER", 4, 0x38, 0, [(16, 0x1000)], .ro, 0x0, 0x0, false, .none⟩,
  ⟨"SEQ_MUSTER_MIN", 4, 0x40, 0, [(16, 0x1000)], .ro, 0x0, 0x0, false, .none⟩,
  ⟨"SEQ_BACKLOG", 4, 0x48, 0, [(16, 0x1000)], .ro, 0x0, 0x0, false, .none⟩,
  ⟨"SEQ_RINGS", 4, 0x50, 0, [(16, 0x1000)], .rw, 0xFFFFFFFF, 0x0, false, .plain⟩,
  ⟨"SEQ_HALT_INFO", 4, 0x58, 0, [(16, 0x1000)], .ro, 0x0, 0x0, false, .none⟩,
  ⟨"SEQ_OPEN_RESULT", 4, 0x60, 0, [(16, 0x1000)], .ro, 0x0, 0x0, false, .none⟩,
  ⟨"SEQ_FEED", 4, 0x80, 0, [(16, 0x1000), (4, 0x8)], .rw, 0xFFFFFFFFFFFFFFFF, 0x0, false, .seqFeed⟩,
  ⟨"SEQ_CNT_MESSAGES", 4, 0x800, 0, [(16, 0x1000)], .ro, 0x0, 0x0, true, .none⟩,
  ⟨"SEQ_CNT_REJECTS", 4, 0x808, 0, [(16, 0x1000)], .ro, 0x0, 0x0, true, .none⟩,
  ⟨"SEQ_CNT_TIES", 4, 0x810, 0, [(16, 0x1000)], .ro, 0x0, 0x0, true, .none⟩,
  ⟨"SEQ_CNT_LATE_APPEND", 4, 0x818, 0, [(16, 0x1000)], .ro, 0x0, 0x0, true, .none⟩,
  ⟨"SEQ_CNT_LATE_DROP", 4, 0x820, 0, [(16, 0x1000)], .ro, 0x0, 0x0, true, .none⟩,
  ⟨"SEQ_CNT_OUTSIDE", 4, 0x828, 0, [(16, 0x1000)], .ro, 0x0, 0x0, true, .none⟩,
  ⟨"SEQ_CNT_NOT_FED", 4, 0x830, 0, [(16, 0x1000)], .ro, 0x0, 0x0, true, .none⟩,
  ⟨"SEQ_CNT_HALT_DROP", 4, 0x838, 0, [(16, 0x1000)], .ro, 0x0, 0x0, true, .none⟩,
  ⟨"SEQ_CNT_COND_RELEASES", 4, 0x840, 0, [(16, 0x1000)], .ro, 0x0, 0x0, true, .none⟩,
  ⟨"SEQ_CNT_BACKLOG_WAIT", 4, 0x848, 0, [(16, 0x1000)], .ro, 0x0, 0x0, true, .none⟩]

/-- The SEQ register rows. -/
def rowsSeqB : List RegRow := [
  ⟨"SEQ_CNT_CLOSE_DISCARD", 4, 0x850, 0, [(16, 0x1000)], .ro, 0x0, 0x0, true, .none⟩,
  ⟨"SEQ_CNT_VOTE_CORRECTED", 4, 0x858, 0, [(16, 0x1000)], .ro, 0x0, 0x0, true, .none⟩,
  ⟨"SEQ_CNT_FENCES", 4, 0x860, 0, [(16, 0x1000)], .ro, 0x0, 0x0, true, .none⟩,
  ⟨"SEQ_CNT_HALTS", 4, 0x868, 0, [(16, 0x1000)], .ro, 0x0, 0x0, true, .none⟩,
  ⟨"SEQ_CNT_MIRROR_MISMATCH", 4, 0x870, 0, [(16, 0x1000)], .ro, 0x0, 0x0, true, .none⟩,
  ⟨"SEQ_CNT_CFG_REFUSED", 4, 0x878, 0, [(16, 0x1000)], .ro, 0x0, 0x0, true, .none⟩,
  ⟨"SEQ_STATUS", 4, 0x20000, 0, [], .rf, 0x0, 0x0, false, .none⟩,
  ⟨"SEQ_TAKEOVER", 4, 0x20008, 0, [], .wo, 0x0, 0x0, false, .takeover⟩,
  ⟨"SEQ_TAKEOVER_AT", 4, 0x20010, 0, [], .rw, 0xFFFFFFFFFFFFFFFF, 0x0, false, .plain⟩,
  ⟨"SEQ_TAKEOVER_RESULT", 4, 0x20018, 0, [], .ro, 0x0, 0x0, false, .none⟩,
  ⟨"SEQ_CNT_TAKEOVERS", 4, 0x20020, 0, [], .ro, 0x0, 0x0, true, .none⟩]

/-- The REL register rows. -/
def rowsRel : List RegRow := [
  ⟨"REL_CFG", 5, 0x0, 0, [], .rv, 0xFFFF0001, 0x7D00001, false, .plain⟩,
  ⟨"REL_STATUS", 5, 0x8, 0, [], .rf, 0x0, 0x0, false, .none⟩,
  ⟨"REL_BUF_USED", 5, 0x10, 0, [], .ro, 0x0, 0x0, false, .none⟩,
  ⟨"REL_ARMED", 5, 0x18, 0, [], .ro, 0x0, 0x0, false, .none⟩,
  ⟨"REL_CNT_ACCEPTED", 5, 0x100, 0, [], .ro, 0x0, 0x0, true, .none⟩,
  ⟨"REL_CNT_ALL_SENT", 5, 0x108, 0, [], .ro, 0x0, 0x0, true, .none⟩,
  ⟨"REL_CNT_PARTIAL", 5, 0x110, 0, [], .ro, 0x0, 0x0, true, .none⟩,
  ⟨"REL_CNT_NONE_SENT", 5, 0x118, 0, [], .ro, 0x0, 0x0, true, .none⟩,
  ⟨"REL_CNT_REFUSED", 5, 0x138, 3, [(9, 0x8)], .ro, 0x0, 0x0, true, .none⟩,
  ⟨"REL_PORT_SCHED", 5, 0x10000, 0, [(256, 0x200)], .rw, 0x3FFFFF01, 0xFA1400, false, .slotPlain⟩,
  ⟨"REL_PORT_STATUS", 5, 0x10008, 0, [(256, 0x200)], .rf, 0x0, 0x0, false, .none⟩,
  ⟨"REL_PORT_GUARD", 5, 0x10010, 0, [(256, 0x200)], .ro, 0x0, 0x7B0B, false, .none⟩,
  ⟨"REL_PORT_SHAPER", 5, 0x10018, 0, [(256, 0x200)], .rw, 0x81FFFFFFFFFFFFFF, 0x0, false, .portShaper⟩,
  ⟨"REL_Q_SHAPER", 5, 0x10040, 0, [(256, 0x200), (8, 0x8)], .rw, 0x80FFFFFFFFFFFFFF, 0x0, false, .queueShaper⟩,
  ⟨"REL_Q_CFG", 5, 0x10080, 0, [(256, 0x200), (8, 0x8)], .rw, 0xFFFFFF0000FFFF, 0x4000000000600, false, .slotPlain⟩,
  ⟨"REL_CNT_COPY_SENT", 5, 0x10100, 0, [(256, 0x200)], .ro, 0x0, 0x0, true, .none⟩,
  ⟨"REL_CNT_COPY_DOWN", 5, 0x10108, 0, [(256, 0x200)], .ro, 0x0, 0x0, true, .none⟩,
  ⟨"REL_CNT_COPY_LONG", 5, 0x10110, 0, [(256, 0x200)], .ro, 0x0, 0x0, true, .none⟩,
  ⟨"REL_CNT_COPY_COLLIDE", 5, 0x10118, 0, [(256, 0x200)], .ro, 0x0, 0x0, true, .none⟩,
  ⟨"REL_CNT_COPY_LATE_ARM", 5, 0x10120, 0, [(256, 0x200)], .ro, 0x0, 0x0, true, .none⟩,
  ⟨"REL_CNT_COPY_LAUNCH_FULL", 5, 0x10128, 0, [(256, 0x200)], .ro, 0x0, 0x0, true, .none⟩,
  ⟨"REL_CNT_COPY_SECURE", 5, 0x10130, 0, [(256, 0x200)], .ro, 0x0, 0x0, true, .none⟩,
  ⟨"REL_CNT_COPY_DIAL", 5, 0x10138, 0, [(256, 0x200)], .ro, 0x0, 0x0, true, .none⟩,
  ⟨"REL_CNT_COPY_ABORTED", 5, 0x10140, 0, [(256, 0x200)], .ro, 0x0, 0x0, true, .none⟩]

/-- The REL register rows. -/
def rowsRelB : List RegRow := [
  ⟨"REL_CNT_GUARD_DEFER", 5, 0x10148, 0, [(256, 0x200)], .ro, 0x0, 0x0, true, .none⟩,
  ⟨"REL_CNT_PREEMPT", 5, 0x10150, 0, [(256, 0x200)], .ro, 0x0, 0x0, true, .none⟩,
  ⟨"REL_CNT_HOLD_RESUME", 5, 0x10158, 0, [(256, 0x200)], .ro, 0x0, 0x0, true, .none⟩,
  ⟨"REL_CNT_HOLD_FLUSH", 5, 0x10160, 0, [(256, 0x200)], .ro, 0x0, 0x0, true, .none⟩,
  ⟨"REL_CNT_DOWN_DROP", 5, 0x10168, 0, [(256, 0x200)], .ro, 0x0, 0x0, true, .none⟩,
  ⟨"REL_CNT_TX_ABORTED", 5, 0x10170, 0, [(256, 0x200)], .ro, 0x0, 0x0, true, .none⟩,
  ⟨"REL_CNT_SHAPER_RESET", 5, 0x10178, 0, [(256, 0x200)], .ro, 0x0, 0x0, true, .none⟩,
  ⟨"REL_CNT_Q_SENT", 5, 0x10180, 0, [(256, 0x200), (8, 0x8)], .ro, 0x0, 0x0, true, .none⟩,
  ⟨"REL_CNT_Q_DROP", 5, 0x101C0, 0, [(256, 0x200), (8, 0x8)], .ro, 0x0, 0x0, true, .none⟩]

/-- The TBL register rows. -/
def rowsTbl : List RegRow := [
  ⟨"TBL_CFG", 6, 0x0, 0, [], .rw, 0x3000FFFFF, 0x3000186A0, false, .plain⟩,
  ⟨"TBL_STATUS", 6, 0x8, 0, [], .rf, 0x0, 0x0, false, .none⟩,
  ⟨"TBL_PARITY_LAST", 6, 0x10, 0, [], .ro, 0x0, 0x0, false, .none⟩,
  ⟨"TBL_PARITY_DIAL", 6, 0x18, 0, [], .ro, 0x0, 0x0, false, .none⟩,
  ⟨"TBL_CNT_PARITY", 6, 0x100, 0, [(8, 0x8)], .ro, 0x0, 0x0, true, .none⟩,
  ⟨"TBL_CNT_UPDATES", 6, 0x140, 0, [], .ro, 0x0, 0x0, true, .none⟩,
  ⟨"TBL_CNT_UPD_REFUSED", 6, 0x188, 1, [(11, 0x8)], .ro, 0x0, 0x0, true, .none⟩,
  ⟨"TBL_CNT_SWEEP_OVERRUN", 6, 0x200, 0, [], .ro, 0x0, 0x0, true, .none⟩,
  ⟨"TBL_CNT_GROUP_INVALID", 6, 0x208, 0, [], .ro, 0x0, 0x0, true, .none⟩,
  ⟨"TBL_MAC_USED", 6, 0x10000, 0, [(8, 0x1000)], .ro, 0x0, 0x0, false, .none⟩,
  ⟨"TBL_SIDE_USED", 6, 0x10008, 0, [(8, 0x1000)], .ro, 0x0, 0x0, false, .none⟩,
  ⟨"TBL_CNT_LEARN", 6, 0x10100, 0, [(8, 0x1000)], .ro, 0x0, 0x0, true, .none⟩,
  ⟨"TBL_CNT_LEARN_FULL", 6, 0x10108, 0, [(8, 0x1000)], .ro, 0x0, 0x0, true, .none⟩,
  ⟨"TBL_CNT_LEARN_SKIP", 6, 0x10110, 0, [(8, 0x1000)], .ro, 0x0, 0x0, true, .none⟩,
  ⟨"TBL_CNT_LEARN_MOVE", 6, 0x10118, 0, [(8, 0x1000)], .ro, 0x0, 0x0, true, .none⟩,
  ⟨"TBL_CNT_STATIC_CONFLICT", 6, 0x10120, 0, [(8, 0x1000)], .ro, 0x0, 0x0, true, .none⟩,
  ⟨"TBL_CNT_AGED", 6, 0x10128, 0, [(8, 0x1000)], .ro, 0x0, 0x0, true, .none⟩,
  ⟨"TBL_CNT_FLOOD", 6, 0x10130, 0, [(8, 0x1000)], .ro, 0x0, 0x0, true, .none⟩,
  ⟨"TBL_CNT_FILTERED", 6, 0x10138, 0, [(8, 0x1000)], .ro, 0x0, 0x0, true, .none⟩,
  ⟨"TBL_CNT_ROUTE_MISS", 6, 0x10140, 0, [(8, 0x1000)], .ro, 0x0, 0x0, true, .none⟩,
  ⟨"TBL_CNT_TTL", 6, 0x10148, 0, [(8, 0x1000)], .ro, 0x0, 0x0, true, .none⟩,
  ⟨"TBL_CNT_NH_MISS", 6, 0x10150, 0, [(8, 0x1000)], .ro, 0x0, 0x0, true, .none⟩,
  ⟨"TBL_LPM_PREFIXES", 6, 0x20000, 0, [(4, 0x100)], .ro, 0x0, 0x0, false, .none⟩,
  ⟨"TBL_LPM_BLOCKS", 6, 0x20008, 0, [(4, 0x100)], .ro, 0x0, 0x0, false, .none⟩]

/-- The AUD register rows. -/
def rowsAud : List RegRow := [
  ⟨"AUD_CFG", 7, 0x0, 0, [], .rw, 0x3FFF0000FF01, 0x4B01, false, .plain⟩,
  ⟨"AUD_STATUS", 7, 0x8, 0, [], .rf, 0x0, 0x0, false, .none⟩,
  ⟨"AUD_CTL", 7, 0x10, 0, [], .wo, 0x0, 0x0, false, .audCtl⟩,
  ⟨"AUD_CTL_RESULT", 7, 0x18, 0, [], .ro, 0x0, 0x0, false, .none⟩,
  ⟨"AUD_CHAIN", 7, 0x20, 0, [], .ro, 0x0, 0x0, false, .none⟩,
  ⟨"AUD_EPOCH", 7, 0x28, 0, [], .ro, 0x0, 0x0, false, .none⟩,
  ⟨"AUD_NEXT_INDEX", 7, 0x30, 0, [], .ro, 0x0, 0x0, false, .none⟩,
  ⟨"AUD_HEAD", 7, 0x38, 0, [], .ro, 0x0, 0x0, false, .none⟩,
  ⟨"AUD_TAIL", 7, 0x40, 0, [], .ro, 0x0, 0x0, false, .none⟩,
  ⟨"AUD_FILL", 7, 0x48, 0, [], .ro, 0x0, 0x0, false, .none⟩,
  ⟨"AUD_LAST_SEAL", 7, 0x50, 0, [], .ro, 0x0, 0x0, false, .none⟩,
  ⟨"AUD_RECOVERY_INFO", 7, 0x58, 0, [], .ro, 0x0, 0x0, false, .none⟩,
  ⟨"AUD_START_COUNT", 7, 0x60, 0, [], .ro, 0x0, 0x0, false, .none⟩,
  ⟨"AUD_WIN_BASE", 7, 0x100, 0, [], .rw, 0x3FFF0000, 0x0, false, .plain⟩,
  ⟨"AUD_DRAIN_TGT", 7, 0x140, 0, [(2, 0x8)], .rw, 0xFFFFFFFF000000F1, 0x0, false, .drainTgt⟩,
  ⟨"AUD_DRAIN_BASE", 7, 0x150, 0, [(2, 0x8)], .rw, 0xFFFFFFFFFFFFFFFF, 0x0, false, .plain⟩,
  ⟨"AUD_DRAIN_SLOTS", 7, 0x160, 0, [], .rw, 0x1FFFFFFFF, 0x100000400, false, .plain⟩,
  ⟨"AUD_DRAIN_NEXT", 7, 0x168, 0, [], .ro, 0x0, 0x0, false, .none⟩,
  ⟨"AUD_DRAIN_ACK", 7, 0x170, 0, [], .rw, 0xFFFFFFFFFFFFFFFF, 0x0, false, .drainAck⟩,
  ⟨"AUD_OPEN_COUNT", 7, 0x200, 0, [(16, 0x8)], .ro, 0x0, 0x0, false, .none⟩,
  ⟨"AUD_CNT_RECORDS", 7, 0x400, 0, [], .ro, 0x0, 0x0, true, .none⟩,
  ⟨"AUD_CNT_SEALS", 7, 0x408, 0, [], .ro, 0x0, 0x0, true, .none⟩,
  ⟨"AUD_CNT_PRESSURE", 7, 0x410, 0, [], .ro, 0x0, 0x0, true, .none⟩,
  ⟨"AUD_CNT_LOST", 7, 0x418, 0, [], .ro, 0x0, 0x0, true, .none⟩]

/-- The AUD register rows. -/
def rowsAudB : List RegRow := [
  ⟨"AUD_CNT_GAPS", 7, 0x420, 0, [], .ro, 0x0, 0x0, true, .none⟩,
  ⟨"AUD_CNT_SEGMENTS", 7, 0x428, 0, [], .ro, 0x0, 0x0, true, .none⟩,
  ⟨"AUD_CNT_DRAIN_RETRY", 7, 0x430, 0, [], .ro, 0x0, 0x0, true, .none⟩,
  ⟨"AUD_CNT_DRAIN_FAIL", 7, 0x438, 0, [], .ro, 0x0, 0x0, true, .none⟩,
  ⟨"AUD_CNT_ECC_CORR", 7, 0x440, 0, [], .ro, 0x0, 0x0, true, .none⟩,
  ⟨"AUD_CNT_ECC_UNCORR", 7, 0x448, 0, [], .ro, 0x0, 0x0, true, .none⟩,
  ⟨"AUD_CNT_CTL_REFUSED", 7, 0x450, 0, [], .ro, 0x0, 0x0, true, .none⟩]

/-- The LAMP register rows. -/
def rowsLamp : List RegRow := [
  ⟨"LAMP_POLICY", 8, 0x0, 0, [], .rv, 0x3, 0x0, false, .plain⟩,
  ⟨"LAMP_STATUS", 8, 0x8, 0, [], .rf, 0x0, 0x0, false, .none⟩,
  ⟨"LAMP_GRACE_LEFT", 8, 0x10, 0, [], .ro, 0x0, 0x100000, false, .none⟩,
  ⟨"LAMP_SLOTS_USED", 8, 0x18, 0, [], .ro, 0x0, 0x0, false, .none⟩,
  ⟨"LAMP_CTX_USED", 8, 0x20, 0, [], .ro, 0x0, 0x0, false, .none⟩,
  ⟨"LAMP_ENGINES", 8, 0x28, 0, [], .ro, 0x0, 0xFFFF, false, .none⟩,
  ⟨"LAMP_PN_THRESH", 8, 0x30, 0, [], .rw, 0xFFFFFFFFFFFFFFFF, 0xC0000000C0000000, false, .plain⟩,
  ⟨"LAMP_CNT_JOBS", 8, 0x100, 0, [], .ro, 0x0, 0x0, true, .none⟩,
  ⟨"LAMP_CNT_JOB_STATUS", 8, 0x110, 1, [(10, 0x8)], .ro, 0x0, 0x0, true, .none⟩,
  ⟨"LAMP_CNT_PREEMPT", 8, 0x160, 0, [], .ro, 0x0, 0x0, true, .none⟩,
  ⟨"LAMP_CNT_KEYCMD", 8, 0x168, 0, [], .ro, 0x0, 0x0, true, .none⟩,
  ⟨"LAMP_CNT_KEYCMD_REFUSED", 8, 0x170, 0, [], .ro, 0x0, 0x0, true, .none⟩,
  ⟨"LAMP_CNT_SA_WRITE_REFUSED", 8, 0x178, 0, [], .ro, 0x0, 0x0, true, .none⟩,
  ⟨"LAMP_CNT_SRC_FAIL", 8, 0x180, 0, [(2, 0x8)], .ro, 0x0, 0x0, true, .none⟩,
  ⟨"LAMP_CNT_SRC_RESTORE", 8, 0x190, 0, [(2, 0x8)], .ro, 0x0, 0x0, true, .none⟩,
  ⟨"LAMP_CNT_RESEED", 8, 0x1A0, 0, [], .ro, 0x0, 0x0, true, .none⟩,
  ⟨"LAMP_SLOT_INFO", 8, 0x40000, 0, [(16384, 0x8)], .ro, 0x0, 0x0, false, .none⟩,
  ⟨"LAMP_TX_SC", 8, 0x80000, 0, [(256, 0x800)], .rw, 0x307, 0x4, false, .lampTxSc⟩,
  ⟨"LAMP_TX_SCI", 8, 0x80008, 0, [(256, 0x800)], .rw, 0xFFFFFFFFFFFFFFFF, 0x0, false, .lampSa⟩,
  ⟨"LAMP_TX_SA", 8, 0x80040, 0, [(256, 0x800), (4, 0x10)], .rw, 0xFFFFFFFF0001FFFD, 0x0, false, .lampSa⟩,
  ⟨"LAMP_TX_PN", 8, 0x80048, 0, [(256, 0x800), (4, 0x10)], .rw, 0xFFFFFFFFFFFFFFFF, 0x1, false, .lampSa⟩,
  ⟨"LAMP_RX_SCI", 8, 0x80100, 0, [(256, 0x800), (8, 0x80)], .rw, 0xFFFFFFFFFFFFFFFF, 0x0, false, .lampSa⟩,
  ⟨"LAMP_RX_SC", 8, 0x80108, 0, [(256, 0x800), (8, 0x80)], .rw, 0x3FFFFFFF00000003, 0x2, false, .lampSa⟩,
  ⟨"LAMP_RX_SA", 8, 0x80140, 0, [(256, 0x800), (8, 0x80), (4, 0x10)], .rw, 0xFFFFFFFF0001FFFD, 0x0, false, .lampSa⟩]

/-- The LAMP register rows. -/
def rowsLampB : List RegRow := [
  ⟨"LAMP_RX_PN", 8, 0x80148, 0, [(256, 0x800), (8, 0x80), (4, 0x10)], .rw, 0xFFFFFFFFFFFFFFFF, 0x1, false, .lampSa⟩,
  ⟨"LAMP_CNT_TX_PROTECTED", 8, 0x80600, 0, [(256, 0x800)], .ro, 0x0, 0x0, true, .none⟩,
  ⟨"LAMP_CNT_TX_MASK_STOP", 8, 0x80608, 0, [(256, 0x800)], .ro, 0x0, 0x0, true, .none⟩,
  ⟨"LAMP_CNT_RX_VERIFIED", 8, 0x80610, 0, [(256, 0x800)], .ro, 0x0, 0x0, true, .none⟩,
  ⟨"LAMP_CNT_RX_NO_TAG", 8, 0x80618, 0, [(256, 0x800)], .ro, 0x0, 0x0, true, .none⟩,
  ⟨"LAMP_CNT_RX_NO_SA", 8, 0x80620, 0, [(256, 0x800)], .ro, 0x0, 0x0, true, .none⟩,
  ⟨"LAMP_CNT_RX_REPLAY", 8, 0x80628, 0, [(256, 0x800)], .ro, 0x0, 0x0, true, .none⟩,
  ⟨"LAMP_CNT_RX_BAD_ICV", 8, 0x80630, 0, [(256, 0x800)], .ro, 0x0, 0x0, true, .none⟩,
  ⟨"LAMP_CNT_RX_MASK_STOP", 8, 0x80638, 0, [(256, 0x800)], .ro, 0x0, 0x0, true, .none⟩]

/-- The HOST register rows. -/
def rowsHost : List RegRow := [
  ⟨"HOST_PORT_CFG", 9, 0x0, 0, [(16, 0x10000)], .ro, 0x0, 0x4, false, .none⟩,
  ⟨"HOST_LINK_STATUS", 9, 0x8, 0, [(16, 0x10000)], .rf, 0x0, 0x0, false, .none⟩,
  ⟨"HOST_FREEZE", 9, 0x10, 0, [(16, 0x10000)], .wo, 0x0, 0x0, false, .hostFreeze⟩,
  ⟨"HOST_FREEZE_INFO", 9, 0x18, 0, [(16, 0x10000)], .ro, 0x0, 0x0, false, .none⟩,
  ⟨"HOST_ERR_NEXT", 9, 0x20, 0, [(16, 0x10000)], .ro, 0x0, 0x0, false, .none⟩,
  ⟨"HOST_ERR_LOG_W0", 9, 0x100, 0, [(16, 0x10000), (64, 0x10)], .ro, 0x0, 0x0, false, .none⟩,
  ⟨"HOST_ERR_LOG_W1", 9, 0x108, 0, [(16, 0x10000), (64, 0x10)], .ro, 0x0, 0x0, false, .none⟩,
  ⟨"HOST_CNT_CORR", 9, 0x800, 0, [(16, 0x10000)], .ro, 0x0, 0x0, true, .none⟩,
  ⟨"HOST_CNT_NONFATAL", 9, 0x808, 0, [(16, 0x10000)], .ro, 0x0, 0x0, true, .none⟩,
  ⟨"HOST_CNT_FATAL", 9, 0x810, 0, [(16, 0x10000)], .ro, 0x0, 0x0, true, .none⟩,
  ⟨"HOST_CNT_MMIO_UR", 9, 0x818, 0, [(16, 0x10000)], .ro, 0x0, 0x0, true, .none⟩,
  ⟨"HOST_CNT_LINK_DOWN", 9, 0x820, 0, [(16, 0x10000)], .ro, 0x0, 0x0, true, .none⟩,
  ⟨"HOST_CNT_DEGRADED", 9, 0x828, 0, [(16, 0x10000)], .ro, 0x0, 0x0, true, .none⟩,
  ⟨"HOST_CNT_FLR", 9, 0x830, 0, [(16, 0x10000)], .ro, 0x0, 0x0, true, .none⟩,
  ⟨"HOST_CNT_VF_REFUSED", 9, 0x838, 0, [(16, 0x10000)], .ro, 0x0, 0x0, true, .none⟩,
  ⟨"HOST_CNT_FREEZES", 9, 0x840, 0, [(16, 0x10000)], .ro, 0x0, 0x0, true, .none⟩,
  ⟨"HOST_CNT_FROZEN_WRITE", 9, 0x848, 0, [(16, 0x10000)], .ro, 0x0, 0x0, true, .none⟩,
  ⟨"HOST_CNT_RELEASE_IGNORED", 9, 0x850, 0, [(16, 0x10000)], .ro, 0x0, 0x0, true, .none⟩,
  ⟨"HOST_CNT_DMA_RD_FAIL", 9, 0x858, 0, [(16, 0x10000)], .ro, 0x0, 0x0, true, .none⟩]

/-- The RING register rows. -/
def rowsRing : List RegRow := [
  ⟨"RING_SEL", 10, 0x0, 0, [], .rw, 0xFFFF, 0x0, false, .perPf⟩,
  ⟨"RING_BASE", 10, 0x100, 0, [], .rw, 0xFFFFFFFFFFFFF000, 0x0, false, .ringWindow⟩,
  ⟨"RING_CFG", 10, 0x108, 0, [], .rw, 0xFFFF01FF, 0x0, false, .ringWindow⟩,
  ⟨"RING_PI_ADDR", 10, 0x110, 0, [], .rw, 0xFFFFFFFFFFFFFFF8, 0x0, false, .ringWindow⟩,
  ⟨"RING_IRQ", 10, 0x118, 0, [], .rw, 0xFFFFFFFF87FF, 0x100000000, false, .ringWindow⟩,
  ⟨"RING_CTL", 10, 0x120, 0, [], .rw, 0x1, 0x0, false, .ringWindow⟩,
  ⟨"RING_STATUS", 10, 0x128, 0, [], .rf, 0x0, 0x1, false, .none⟩,
  ⟨"RING_CUR", 10, 0x130, 0, [], .ro, 0x0, 0x0, false, .none⟩,
  ⟨"RING_OWNER", 10, 0x138, 0, [], .ro, 0x0, 0x0, false, .none⟩,
  ⟨"RING_HAMPER", 10, 0x140, 0, [], .ro, 0x0, 0x0, false, .none⟩,
  ⟨"RING_TALLY_NEXT", 10, 0x1000, 0, [], .ro, 0x0, 0x1, false, .none⟩,
  ⟨"RING_TALLY_WIN_BASE", 10, 0x1008, 0, [], .rw, 0x1FF0000, 0x0, false, .plain⟩,
  ⟨"RING_CNT_DOORBELLS", 10, 0x1100, 0, [], .ro, 0x0, 0x0, true, .none⟩,
  ⟨"RING_CNT_DOORBELL_IGNORED", 10, 0x1108, 0, [], .ro, 0x0, 0x0, true, .none⟩,
  ⟨"RING_CNT_STALE_DISCARD", 10, 0x1110, 0, [], .ro, 0x0, 0x0, true, .none⟩,
  ⟨"RING_CNT_OWN_MISMATCH", 10, 0x1118, 0, [], .ro, 0x0, 0x0, true, .none⟩,
  ⟨"RING_CNT_PI_ERROR", 10, 0x1120, 0, [], .ro, 0x0, 0x0, true, .none⟩,
  ⟨"RING_CNT_DESC_FETCH_FAIL", 10, 0x1128, 0, [], .ro, 0x0, 0x0, true, .none⟩,
  ⟨"RING_CNT_CFG_REFUSED", 10, 0x1130, 0, [], .ro, 0x0, 0x0, true, .none⟩,
  ⟨"RING_CNT_HOST_LOST", 10, 0x1138, 0, [], .ro, 0x0, 0x0, true, .none⟩,
  ⟨"RING_CNT_ABANDONED", 10, 0x1140, 0, [], .ro, 0x0, 0x0, true, .none⟩,
  ⟨"RING_CNT_TALLY", 10, 0x1148, 0, [], .ro, 0x0, 0x0, true, .none⟩,
  ⟨"RING_DOORBELL", 10, 0x80000, 0, [(65536, 0x8)], .wo, 0x0, 0x0, false, .ringDoorbell⟩]

/-- The NVME register rows. -/
def rowsNvme : List RegRow := [
  ⟨"NVME_SEL", 11, 0x40000, 0, [], .rw, 0xFFFF, 0x0, false, .perPf⟩,
  ⟨"NVME_CTRL_STATUS", 11, 0x40008, 0, [], .rf, 0x0, 0x0, false, .none⟩,
  ⟨"NVME_STATUS", 11, 0x40010, 0, [], .rf, 0x0, 0x0, false, .none⟩,
  ⟨"NVME_JOURNAL", 11, 0x40018, 0, [], .ro, 0x0, 0x0, false, .none⟩,
  ⟨"NVME_CNT_COMMANDS", 11, 0x40100, 0, [], .ro, 0x0, 0x0, true, .none⟩,
  ⟨"NVME_CNT_READ_BYTES", 11, 0x40108, 0, [], .ro, 0x0, 0x0, true, .none⟩,
  ⟨"NVME_CNT_WRITE_BYTES", 11, 0x40110, 0, [], .ro, 0x0, 0x0, true, .none⟩,
  ⟨"NVME_CNT_OVERLAP_WAIT", 11, 0x40118, 0, [], .ro, 0x0, 0x0, true, .none⟩,
  ⟨"NVME_CNT_JOURNAL_WAIT", 11, 0x40120, 0, [], .ro, 0x0, 0x0, true, .none⟩,
  ⟨"NVME_CNT_REPLAYED", 11, 0x40128, 0, [], .ro, 0x0, 0x0, true, .none⟩,
  ⟨"NVME_CNT_EXTENT_FAIL", 11, 0x40130, 0, [], .ro, 0x0, 0x0, true, .none⟩,
  ⟨"NVME_CNT_ROLLBACK", 11, 0x40138, 0, [], .ro, 0x0, 0x0, true, .none⟩,
  ⟨"NVME_CNT_ROLLBACK_FAIL", 11, 0x40140, 0, [], .ro, 0x0, 0x0, true, .none⟩,
  ⟨"NVME_CNT_PS_DELAYED", 11, 0x40148, 0, [], .ro, 0x0, 0x0, true, .none⟩,
  ⟨"NVME_RP_CFG", 11, 0x50000, 0, [(16, 0x100)], .ro, 0x0, 0x3, false, .none⟩,
  ⟨"NVME_RP_STATUS", 11, 0x50008, 0, [(16, 0x100)], .rf, 0x0, 0x0, false, .none⟩,
  ⟨"NVME_RP_CNT_ERR", 11, 0x50010, 0, [(16, 0x100)], .ro, 0x0, 0x0, true, .none⟩,
  ⟨"NVME_RP_CNT_REMOVED", 11, 0x50018, 0, [(16, 0x100)], .ro, 0x0, 0x0, true, .none⟩]

/-- The RDMA register rows. -/
def rowsRdma : List RegRow := [
  ⟨"RDMA_CFG", 12, 0x0, 0, [], .rw, 0x1FFFF, 0x0, false, .plain⟩,
  ⟨"RDMA_STATUS", 12, 0x8, 0, [], .rf, 0x0, 0x0, false, .none⟩,
  ⟨"RDMA_QP_USED", 12, 0x10, 0, [], .ro, 0x0, 0x0, false, .none⟩,
  ⟨"RDMA_MR_USED", 12, 0x18, 0, [], .ro, 0x0, 0x0, false, .none⟩,
  ⟨"RDMA_DOORBELL", 12, 0x20, 0, [], .wo, 0x0, 0x0, false, .rdmaDoorbell⟩,
  ⟨"RDMA_SEQ_COPY", 12, 0x100, 0, [(16, 0x8)], .rw, 0x1FFFFFF01FFFFFF, 0x0, false, .seqCopy⟩,
  ⟨"RDMA_CNT_DOORBELL_IGNORED", 12, 0x200, 0, [], .ro, 0x0, 0x0, true, .none⟩,
  ⟨"RDMA_CNT_WR_STATUS", 12, 0x210, 1, [(12, 0x8)], .ro, 0x0, 0x0, true, .none⟩,
  ⟨"RDMA_CNT_RETRANSMIT", 12, 0x270, 0, [], .ro, 0x0, 0x0, true, .none⟩,
  ⟨"RDMA_CNT_RNR_SENT", 12, 0x278, 0, [], .ro, 0x0, 0x0, true, .none⟩,
  ⟨"RDMA_CNT_TRIGGERED", 12, 0x280, 0, [], .ro, 0x0, 0x0, true, .none⟩,
  ⟨"RDMA_CNT_COPY_DROP", 12, 0x288, 0, [], .ro, 0x0, 0x0, true, .none⟩,
  ⟨"RDMA_CNT_CFG_REFUSED", 12, 0x290, 0, [], .ro, 0x0, 0x0, true, .none⟩,
  ⟨"RDMA_CNT_CTX_MISS", 12, 0x298, 0, [], .ro, 0x0, 0x0, true, .none⟩,
  ⟨"RDMA_PORT_PFC", 12, 0x20000, 0, [(256, 0x20)], .rw, 0xFFF0FFFFFFFFFFF, 0x0, false, .portPfc⟩,
  ⟨"RDMA_PORT_MAC", 12, 0x20008, 0, [(256, 0x20)], .rw, 0xFFFFFFFFFFFF, 0x0, false, .slotPlain⟩,
  ⟨"RDMA_CNT_LOSSLESS_DROP", 12, 0x20010, 0, [(256, 0x20)], .ro, 0x0, 0x0, true, .none⟩,
  ⟨"RDMA_CNT_WD_DROP", 12, 0x20018, 0, [(256, 0x20)], .ro, 0x0, 0x0, true, .none⟩]

/-- The VFM register rows. -/
def rowsVfm : List RegRow := [
  ⟨"VFM_SEL", 13, 0x0, 0, [], .rw, 0xFFF, 0x1, false, .perPf⟩,
  ⟨"VFM_CFG", 13, 0x8, 0, [], .rw, 0x3FF07FF, 0xA0000, false, .plain⟩,
  ⟨"VFM_POOL", 13, 0x10, 0, [], .ro, 0x0, 0x0, false, .none⟩,
  ⟨"VFM_RES", 13, 0x100, 0, [(10, 0x8)], .rv, 0xFFFFFFFFFFFFFFFF, 0x0, false, .vfmRes⟩,
  ⟨"VFM_MBOX_CTL", 13, 0x180, 0, [], .wo, 0x0, 0x0, false, .vfmMboxCtl⟩,
  ⟨"VFM_MBOX_STATUS", 13, 0x188, 0, [], .rf, 0x0, 0x0, false, .none⟩,
  ⟨"VFM_MBOX_FROM_VF", 13, 0x200, 0, [(8, 0x8)], .ro, 0x0, 0x0, false, .none⟩,
  ⟨"VFM_MBOX_TO_VF", 13, 0x240, 0, [(8, 0x8)], .rw, 0xFFFFFFFFFFFFFFFF, 0x0, false, .vfmMboxTo⟩,
  ⟨"VFM_MBOX_PEND", 13, 0x400, 0, [(32, 0x8)], .rf, 0x0, 0x0, false, .none⟩,
  ⟨"VFM_CNT_MBOX_TO_PF", 13, 0x1000, 0, [], .ro, 0x0, 0x0, true, .none⟩,
  ⟨"VFM_CNT_MBOX_TO_VF", 13, 0x1008, 0, [], .ro, 0x0, 0x0, true, .none⟩,
  ⟨"VFM_CNT_MBOX_IGNORED", 13, 0x1010, 0, [], .ro, 0x0, 0x0, true, .none⟩,
  ⟨"VFM_CNT_SHRINKS", 13, 0x1018, 0, [], .ro, 0x0, 0x0, true, .none⟩,
  ⟨"VFM_CNT_GRACE_EXPIRED", 13, 0x1020, 0, [], .ro, 0x0, 0x0, true, .none⟩,
  ⟨"VFM_CNT_LATE_ACK", 13, 0x1028, 0, [], .ro, 0x0, 0x0, true, .none⟩,
  ⟨"VFM_CNT_CFG_REFUSED", 13, 0x1030, 0, [], .ro, 0x0, 0x0, true, .none⟩]

/-- The GAL register rows. -/
def rowsGal : List RegRow := [
  ⟨"GAL_CFG", 14, 0x0, 0, [], .ro, 0x0, 0x0, false, .none⟩,
  ⟨"GAL_STATUS", 14, 0x8, 0, [], .rf, 0x0, 0x0, false, .none⟩,
  ⟨"GAL_DIAL_OFFSET", 14, 0x10, 0, [], .ro, 0x0, 0x0, false, .none⟩,
  ⟨"GAL_SUCCEED", 14, 0x18, 0, [], .wo, 0x0, 0x0, false, .galSucceed⟩,
  ⟨"GAL_SUCCEED_RESULT", 14, 0x20, 0, [], .ro, 0x0, 0x0, false, .none⟩,
  ⟨"GAL_DOM", 14, 0x40, 0, [(16, 0x8)], .rw, 0xFFFF, 0x0, false, .galDom⟩,
  ⟨"GAL_PREMERGE_NS", 14, 0x100, 0, [(16, 0x8)], .ro, 0x0, 0x0, false, .none⟩,
  ⟨"GAL_CNT_PEER_LOST", 14, 0x200, 0, [], .ro, 0x0, 0x0, true, .none⟩,
  ⟨"GAL_CNT_SUCCEED", 14, 0x208, 0, [], .ro, 0x0, 0x0, true, .none⟩,
  ⟨"GAL_CNT_DIAL_LOCK_LOSS", 14, 0x210, 0, [], .ro, 0x0, 0x0, true, .none⟩,
  ⟨"GAL_CNT_CFG_REFUSED", 14, 0x218, 0, [], .ro, 0x0, 0x0, true, .none⟩,
  ⟨"GAL_LINK_CFG", 14, 0x10000, 0, [(8, 0x100)], .ro, 0x0, 0x0, false, .none⟩,
  ⟨"GAL_LINK_STATUS", 14, 0x10008, 0, [(8, 0x100)], .rf, 0x0, 0x0, false, .none⟩,
  ⟨"GAL_LINK_DELAY", 14, 0x10010, 0, [(8, 0x100)], .ro, 0x0, 0x0, false, .none⟩,
  ⟨"GAL_LINK_ASYM", 14, 0x10018, 0, [(8, 0x100)], .rw, 0xFFFF, 0x0, false, .galAsym⟩,
  ⟨"GAL_CNT_LINK_DOWN", 14, 0x10040, 0, [(8, 0x100)], .ro, 0x0, 0x0, true, .none⟩,
  ⟨"GAL_CNT_TRAIN_FAIL", 14, 0x10048, 0, [(8, 0x100)], .ro, 0x0, 0x0, true, .none⟩,
  ⟨"GAL_CNT_REPLAY", 14, 0x10050, 0, [(8, 0x100)], .ro, 0x0, 0x0, true, .none⟩,
  ⟨"GAL_CNT_REPLAY2", 14, 0x10058, 0, [(8, 0x100)], .ro, 0x0, 0x0, true, .none⟩,
  ⟨"GAL_CNT_STREAM_MSGS", 14, 0x10060, 0, [(8, 0x100)], .ro, 0x0, 0x0, true, .none⟩]

/-- The PWR register rows. -/
def rowsPwr : List RegRow := [
  ⟨"PWR_CFG", 15, 0x0, 0, [], .rw, 0x7FF007F03FFFF01, 0x19021C3C01, false, .pwrPlain⟩,
  ⟨"PWR_STATUS", 15, 0x8, 0, [], .rf, 0x0, 0x0, false, .none⟩,
  ⟨"PWR_TJ", 15, 0x10, 0, [], .ro, 0x0, 0x0, false, .none⟩,
  ⟨"PWR_POWER", 15, 0x18, 0, [], .ro, 0x0, 0x0, false, .none⟩,
  ⟨"PWR_SPRINT_REQ", 15, 0x20, 0, [], .rw, 0xFF, 0x0, false, .sprintReq⟩,
  ⟨"PWR_SPRINT_LEFT", 15, 0x28, 0, [], .ro, 0x0, 0x4E20, false, .none⟩,
  ⟨"PWR_CLUSTER_FREQ", 15, 0x40, 0, [(8, 0x8)], .ro, 0x0, 0x0, false, .none⟩,
  ⟨"PWR_REST_CTL", 15, 0x80, 0, [], .wo, 0x0, 0x0, false, .restCtl⟩,
  ⟨"PWR_REST_RESULT", 15, 0x88, 0, [], .ro, 0x0, 0x0, false, .none⟩,
  ⟨"PWR_RESET_CAUSE", 15, 0x90, 0, [], .ro, 0x0, 0x0, false, .none⟩,
  ⟨"PWR_TEMP", 15, 0x100, 0, [(40, 0x8)], .ro, 0x0, 0x0, false, .none⟩,
  ⟨"PWR_CNT_SPRINTS", 15, 0x1200, 0, [], .ro, 0x0, 0x0, true, .none⟩,
  ⟨"PWR_CNT_SPRINT_CAPPED", 15, 0x1208, 0, [], .ro, 0x0, 0x0, true, .none⟩,
  ⟨"PWR_CNT_CAP", 15, 0x1210, 0, [], .ro, 0x0, 0x0, true, .none⟩,
  ⟨"PWR_CNT_SHED_CORES", 15, 0x1218, 0, [], .ro, 0x0, 0x0, true, .none⟩,
  ⟨"PWR_CNT_SHED_CIPHER", 15, 0x1220, 0, [], .ro, 0x0, 0x0, true, .none⟩,
  ⟨"PWR_CNT_HOT", 15, 0x1228, 0, [], .ro, 0x0, 0x0, true, .none⟩,
  ⟨"PWR_CNT_THERMTRIP", 15, 0x1230, 0, [], .ro, 0x0, 0x0, true, .none⟩,
  ⟨"PWR_CNT_REST", 15, 0x1238, 0, [], .ro, 0x0, 0x0, true, .none⟩,
  ⟨"PWR_CNT_REST_REFUSED", 15, 0x240, 0, [], .ro, 0x0, 0x0, true, .none⟩,
  ⟨"PWR_CNT_WATCHDOG", 15, 0x248, 0, [], .ro, 0x0, 0x0, true, .none⟩,
  ⟨"PWR_CNT_DROOP", 15, 0x250, 0, [], .ro, 0x0, 0x0, true, .none⟩]

/-- The BOOT register rows. -/
def rowsBoot : List RegRow := [
  ⟨"BOOT_POLICY", 16, 0x0, 0, [], .rv, 0x33, 0x10, false, .bootPolicy⟩,
  ⟨"BOOT_STATUS", 16, 0x8, 0, [], .rf, 0x0, 0x0, false, .none⟩,
  ⟨"BOOT_IMAGE", 16, 0x10, 0, [], .ro, 0x0, 0x0, false, .none⟩,
  ⟨"BOOT_PROV_VERSION", 16, 0x18, 0, [], .ro, 0x0, 0x1000100, false, .none⟩,
  ⟨"BOOT_FUSE", 16, 0x20, 0, [], .ro, 0x0, 0x0, false, .none⟩,
  ⟨"BOOT_FUSE_CONFIRM", 16, 0x28, 0, [], .rw, 0xFFFF01FF, 0x0, false, .fuseConfirm⟩,
  ⟨"BOOT_BANK_INFO", 16, 0x30, 0, [(2, 0x8)], .ro, 0x0, 0x0, false, .none⟩,
  ⟨"BOOT_MEASURE", 16, 0x40, 0, [(6, 0x8)], .ro, 0x0, 0x0, false, .none⟩,
  ⟨"BOOT_REC_OFFSET", 16, 0x80, 0, [], .rw, 0x1FC0000, 0x0, false, .recOffset⟩,
  ⟨"BOOT_REC_LEN", 16, 0x88, 0, [], .rw, 0x1FFFFFF, 0x0, false, .bootPlain⟩,
  ⟨"BOOT_REC_CTL", 16, 0x90, 0, [], .wo, 0x0, 0x0, false, .recCtl⟩,
  ⟨"BOOT_REC_RESULT", 16, 0x98, 0, [], .ro, 0x0, 0x0, false, .none⟩,
  ⟨"BOOT_CNT_COLD", 16, 0x100, 0, [], .ro, 0x0, 0x0, true, .none⟩,
  ⟨"BOOT_CNT_WAKE_FAST", 16, 0x108, 0, [], .ro, 0x0, 0x0, true, .none⟩,
  ⟨"BOOT_CNT_WAKE_FULL", 16, 0x110, 0, [], .ro, 0x0, 0x0, true, .none⟩,
  ⟨"BOOT_CNT_BANK_FAIL", 16, 0x118, 0, [], .ro, 0x0, 0x0, true, .none⟩,
  ⟨"BOOT_CNT_FUSE_RAISE", 16, 0x120, 0, [], .ro, 0x0, 0x0, true, .none⟩,
  ⟨"BOOT_CNT_REFUSED", 16, 0x128, 0, [], .ro, 0x0, 0x0, true, .none⟩]

/-- The LOG register rows. -/
def rowsLog : List RegRow := [
  ⟨"LOG_RATE", 17, 0x0, 0, [], .rw, 0xFFFFFFFF, 0x400010, false, .logRate⟩,
  ⟨"LOG_STATUS", 17, 0x8, 0, [], .rf, 0x0, 0x0, false, .none⟩,
  ⟨"LOG_TOTAL", 17, 0x10, 0, [], .ro, 0x0, 0x0, false, .none⟩,
  ⟨"LOG_HOURS", 17, 0x18, 0, [], .ro, 0x0, 0x0, false, .none⟩,
  ⟨"LOG_POWER_CYCLES", 17, 0x20, 0, [], .ro, 0x0, 0x0, false, .none⟩,
  ⟨"LOG_WIN_BASE", 17, 0x28, 0, [], .rw, 0x7F, 0x0, false, .logWinBase⟩,
  ⟨"LOG_FORMAT", 17, 0x30, 0, [], .ro, 0x0, 0x100, false, .none⟩,
  ⟨"LOG_CNT_RECORDS", 17, 0x100, 0, [], .ro, 0x0, 0x0, true, .none⟩,
  ⟨"LOG_CNT_SUPPRESSED", 17, 0x108, 0, [], .ro, 0x0, 0x0, true, .none⟩,
  ⟨"LOG_CNT_QUEUE_DROP", 17, 0x110, 0, [], .ro, 0x0, 0x0, true, .none⟩]

/-- The PMU register rows. -/
def rowsPmu : List RegRow := [
  ⟨"PMU_HC_CTL", 18, 0x0, 0, [], .wo, 0x0, 0x0, false, .hcCtl⟩,
  ⟨"PMU_STATUS", 18, 0x8, 0, [], .rf, 0x0, 0x0, false, .none⟩,
  ⟨"PMU_HC_AT", 18, 0x10, 0, [], .rw, 0xFFFFFFFFFFFFFFFF, 0x0, false, .plain⟩,
  ⟨"PMU_HC_RESULT", 18, 0x18, 0, [], .ro, 0x0, 0x0, false, .none⟩,
  ⟨"PMU_BANK_INFO", 18, 0x20, 0, [(2, 0x10)], .ro, 0x0, 0x0, false, .none⟩,
  ⟨"PMU_BANK_AT", 18, 0x28, 0, [(2, 0x10)], .ro, 0x0, 0x0, false, .none⟩,
  ⟨"PMU_BANK_SEL", 18, 0x40, 0, [], .rw, 0x1, 0x0, false, .plain⟩,
  ⟨"PMU_BANK_COUNT", 18, 0x48, 0, [], .ro, 0x0, 0x0, false, .none⟩,
  ⟨"PMU_DUMP_CFG", 18, 0x50, 0, [], .rw, 0x800F01FF000FFFFF, 0x1000F4240, false, .plain⟩,
  ⟨"PMU_DUMP_BASE", 18, 0x58, 0, [], .rw, 0xFFFFFFFFFFFFF000, 0x0, false, .plain⟩,
  ⟨"PMU_DUMP_SEQ", 18, 0x60, 0, [], .ro, 0x0, 0x0, false, .none⟩,
  ⟨"PMU_BLOCK_FIRST", 18, 0x100, 0, [(20, 0x8)], .ro, 0x0, 0x0, false, .none⟩,
  ⟨"PMU_CNT_HEADCOUNTS", 18, 0x200, 0, [], .ro, 0x0, 0x0, true, .none⟩,
  ⟨"PMU_CNT_HC_REFUSED", 18, 0x208, 0, [], .ro, 0x0, 0x0, true, .none⟩,
  ⟨"PMU_CNT_DUMPS", 18, 0x210, 0, [], .ro, 0x0, 0x0, true, .none⟩,
  ⟨"PMU_CNT_DUMP_SKIP", 18, 0x218, 0, [], .ro, 0x0, 0x0, true, .none⟩,
  ⟨"PMU_CNT_CYCLES", 18, 0x10000, 0, [(64, 0x40)], .ro, 0x0, 0x0, true, .none⟩,
  ⟨"PMU_CNT_INSTRET", 18, 0x10008, 0, [(64, 0x40)], .ro, 0x0, 0x0, true, .none⟩,
  ⟨"PMU_CNT_SLOTS_RETIRED", 18, 0x10010, 0, [(64, 0x40)], .ro, 0x0, 0x0, true, .none⟩,
  ⟨"PMU_CNT_SLOTS_BAD_SPEC", 18, 0x10018, 0, [(64, 0x40)], .ro, 0x0, 0x0, true, .none⟩,
  ⟨"PMU_CNT_SLOTS_FRONTEND", 18, 0x10020, 0, [(64, 0x40)], .ro, 0x0, 0x0, true, .none⟩,
  ⟨"PMU_CNT_SLOTS_BACKEND", 18, 0x10028, 0, [(64, 0x40)], .ro, 0x0, 0x0, true, .none⟩,
  ⟨"PMU_BANK", 18, 0x80000, 0, [(20258, 0x8)], .ro, 0x0, 0x0, false, .none⟩]

/-- The TRC register rows. -/
def rowsTrc : List RegRow := [
  ⟨"TRC_CFG", 19, 0x0, 0, [], .rw, 0xFFFF003F, 0x3E8003C, false, .plain⟩,
  ⟨"TRC_STATUS", 19, 0x8, 0, [], .rf, 0x0, 0x0, false, .none⟩,
  ⟨"TRC_EN", 19, 0x10, 0, [], .rw, 0xFFFFFFFFFFFFFFFF, 0x0, false, .plain⟩,
  ⟨"TRC_BUF_BASE", 19, 0x18, 0, [], .rw, 0xFFFFFFFFFFFFF000, 0x0, false, .plain⟩,
  ⟨"TRC_BUF_SIZE", 19, 0x20, 0, [], .rw, 0x3F, 0x0, false, .plain⟩,
  ⟨"TRC_BUF_WPTR", 19, 0x28, 0, [], .ro, 0x0, 0x0, false, .none⟩,
  ⟨"TRC_CNT_FRAMES", 19, 0x100, 0, [], .ro, 0x0, 0x0, true, .none⟩,
  ⟨"TRC_CNT_OVERFLOW", 19, 0x108, 0, [], .ro, 0x0, 0x0, true, .none⟩,
  ⟨"TRC_CNT_GAPS", 19, 0x110, 0, [], .ro, 0x0, 0x0, true, .none⟩]

/-- The registers of a block slot (R358); slots from 0x14 hold none of their own. -/
def slotRows : Nat → List RegRow
  | 0 => rowsGen
  | 1 => rowsTime ++ rowsTimeB
  | 2 => rowsPort ++ rowsPortB
  | 3 => rowsPipe
  | 4 => rowsSeq ++ rowsSeqB
  | 5 => rowsRel ++ rowsRelB
  | 6 => rowsTbl
  | 7 => rowsAud ++ rowsAudB
  | 8 => rowsLamp ++ rowsLampB
  | 9 => rowsHost
  | 10 => rowsRing
  | 11 => rowsNvme
  | 12 => rowsRdma
  | 13 => rowsVfm
  | 14 => rowsGal
  | 15 => rowsPwr
  | 16 => rowsBoot
  | 17 => rowsLog
  | 18 => rowsPmu
  | 19 => rowsTrc
  | _ => []

/-- The instance indices of an offset above a row's base, or none when it is not one of the row's instances. -/
def instanceOf : List (Nat × Nat) → Nat → Option (List Nat)
  | [], o => if o = 0 then some [] else none
  | (c, s) :: ds, o =>
    if o / s < c then (instanceOf ds (o % s)).map (o / s :: ·) else none

/-- The instance indices of an offset within a row, counted from the row's first instance number. -/
def RegRow.indices (r : RegRow) (o : Nat) : Option (List Nat) :=
  if o < r.base then none else instanceOf r.dims (o - r.base)

/-- The row and the instance that a canonical offset of a slot names (R359). -/
def findReg (slot o : Nat) : Option (RegRow × List Nat) :=
  (slotRows slot).findSome? fun r => (r.indices o).map (r, ·)

/-- The reset value of the register with a key (R8, R58 and the other maps); keys of per-PF copies reset as their
register does, and VF registers reset as R306 states. -/
def resetOf (k : Nat) : Word :=
  if 0x40000000 ≤ k then (if k % 0x10000 = 0 then 0x5A5AC3C3 else 0)
  else
    let a := k % 0x2000000
    match findReg (a / 0x100000) (a % 0x100000) with
    | some (r, _) => r.reset
    | none => 0

/-- The decode width of each slot (R360). -/
def decodeWidth (slot : Nat) : Nat :=
  [12, 14, 20, 20, 18, 18, 18, 20, 20, 20, 20, 19, 18, 13, 17, 12, 19, 16, 20, 12].getD slot 12

/-- The slot a BAR0 address selects: slots 0x14 to 0x1F select GEN (R358). -/
def slotOf (a : Nat) : Nat := let s := a / 0x100000 % 32; if s < 0x14 then s else 0

/-- The link a HOST slot offset names, and the offset within its registers (R363). -/
def hostOffset (o : Nat) : Nat := 0x10000 * (o / 0x10000) + o % 0x1000

/-- The slot offset a BAR0 address decodes to (R360, R363). -/
def decodedOffset (a : Nat) : Nat :=
  let o := a % 0x100000 % 2 ^ decodeWidth (slotOf a)
  if slotOf a = 9 then hostOffset o else o

/-- The canonical slot offset of a decoded HOST register (R363). -/
def hostCanonical (o : Nat) : Nat := if o / 0x10000 = 8 then 0x89000 + o % 0x1000 else o

/-- Whether a slot offset lies in a window that never aliases (R362, and the NVMe windows of R260). -/
def inWindow (slot o : Nat) : Bool :=
  (slot == 11 && decide (o % 0x80000 < 0x20000)) || (slot == 9 && decide (0x80000 ≤ o ∧ o < 0x88800)) ||
  (slot == 7 && decide (0x80000 ≤ o ∧ o < 0x90000)) || (slot == 10 && decide (0x40000 ≤ o ∧ o < 0x50000)) ||
  (slot == 16 && decide (0x40000 ≤ o % 0x80000 ∧ o % 0x80000 < 0x80000)) || (slot == 17 && decide (0x8000 ≤ o % 0x10000))

/-- The slot offset of the register that an unimplemented decoded offset reaches, by the alias rule of R360. -/
def aliasOffset (slot o : Nat) : Nat :=
  match slot with
  | 0 => 0x30
  | 1 => 0x8
  | 2 => if o < 0x80000 then 0x800 * (o / 0x800) + 0x8 else 0x80100
  | 3 => if o < 0x80000 then 0x10000 * (o / 0x10000) + 0x8 else 0x88000
  | 4 => if o < 0x10000 then 0x1000 * (o / 0x1000) + 0x10 else 0x20000
  | 5 => if 0x10000 ≤ o ∧ o < 0x30000 then 0x10000 + 0x200 * ((o - 0x10000) / 0x200) + 0x8 else 0x8
  | 6 => if 0x10000 ≤ o ∧ o < 0x18000 then 0x10000 + 0x1000 * ((o - 0x10000) / 0x1000)
         else if 0x20000 ≤ o ∧ o < 0x20400 then 0x20000 + 0x100 * ((o - 0x20000) / 0x100) else 0x8
  | 7 => 0x8
  | 8 => if o < 0x80000 then 0x8 else 0x80000 + 0x800 * ((o - 0x80000) / 0x800) + 0x600
  | 9 => 0x10000 * (o / 0x10000) + 0x8
  | 10 => 0x128
  | 11 => if 0x50000 ≤ o ∧ o < 0x51000 then 0x50000 + 0x100 * ((o - 0x50000) / 0x100) + 0x8 else 0x40010
  | 12 => 0x8
  | 13 => 0x10
  | 14 => if 0x10000 ≤ o ∧ o < 0x10800 then 0x10000 + 0x100 * ((o - 0x10000) / 0x100) + 0x8 else 0x8
  | 15 => 0x8
  | 16 => 0x8
  | 17 => 0x8
  | 18 => 0x8
  | _ => 0x8

/-- Where a BAR0 access lands: the row and instance it reaches, and whether it got there through a repeat, an alias
or an unassigned slot (R361). -/
structure Landing where
  row     : RegRow
  idx     : List Nat
  offset  : Nat
  counted : Bool
  deriving DecidableEq, Repr

/-- The landing of an aligned BAR0 access outside the windows of R362 (R358 to R363). -/
def landing (a : Nat) : Option Landing :=
  let a8 := a - a % 8
  let slot := slotOf a8
  let o := decodedOffset a8
  let canon := if slot = 9 then hostCanonical o else o
  let repeated := decide (a8 / 0x100000 % 32 ≠ slot) || decide (a8 % 0x100000 ≠ canon)
  match findReg slot o with
  | some (r, i) => some ⟨r, i, o, repeated⟩
  | none => (findReg slot (aliasOffset slot o)).map fun (r, i) => ⟨r, i, aliasOffset slot o, true⟩

/-- The key of the register instance at a decoded slot offset. -/
def regKey (slot o : Nat) : Nat := 0x100000 * slot + o

/-- Every instance offset of a row, lowest first. -/
def offsetsOf : List (Nat × Nat) → Nat → List Nat
  | [], b => [b]
  | (c, s) :: ds, b => (List.range c).flatMap fun i => offsetsOf ds (b + s * i)

/-- The device counter list (R373): slot order, then ascending canonical offset, one entry per instance, as keys. The
eight PWR counters whose offsets are PWR_TEMP's have keys past their slot's window (log entry 82). -/
def counterList : List Nat :=
  (List.range 20).flatMap fun s =>
    ((((slotRows s).filter (·.counter)).flatMap (fun r =>
      (offsetsOf r.dims r.base).map (fun o =>
        (if s = 9 then hostCanonical o else if s = 15 then o % 0x1000 else o, o)))).mergeSort
        (fun x y => decide (x.1 ≤ y.1))).map (fun x => regKey s x.2)

end Sys2Proof.Machine
end

