-- ==== Sys2Proof/Machine/Store.lean ====
section
/-! DEFINITION. Machine/Store.lean: sparse data by key in one canonical form: keys strictly rising, and no entry equal
to what an unlisted key reads as. Registers, memories and per-instance records of State are held so. -/

namespace Sys2Proof.Machine

/-- A sparse store: (key, value) pairs in canonical form. -/
abbrev Store (α : Type) := List (Nat × α)

/-- The value at a key; an unlisted key reads as dflt gives it. -/
def Store.get {α : Type} (dflt : Nat → α) : Store α → Nat → α
  | [], k => dflt k
  | (j, v) :: m, k => if j = k then v else Store.get dflt m k

/-- The store without a key. -/
def Store.erase {α : Type} (k : Nat) (m : Store α) : Store α := m.filter (fun e => e.1 != k)

/-- The store with an entry put at its place in key order. -/
def Store.ins {α : Type} (k : Nat) (v : α) : Store α → Store α
  | [] => [(k, v)]
  | (j, w) :: m => if k < j then (k, v) :: (j, w) :: m else (j, w) :: Store.ins k v m

/-- Writing a value at a key: writing what an unlisted key reads as removes the entry. -/
def Store.put {α : Type} [DecidableEq α] (dflt : Nat → α) (k : Nat) (v : α) (m : Store α) : Store α :=
  if v = dflt k then Store.erase k m else Store.ins k v (Store.erase k m)

/-- The canonical form: keys strictly rising, and no entry equal to its default. -/
def Store.wf {α : Type} [DecidableEq α] (dflt : Nat → α) : Store α → Bool
  | [] => true
  | (k, v) :: m => decide (v ≠ dflt k) && m.all (fun e => decide (k < e.1)) && Store.wf dflt m

end Sys2Proof.Machine
end

