-- ==== Sys2Proof/Machine/State.lean ====
section
/-! DEFINITION. Machine/State.lean: what the Moafa holds, as plain data: its registers, memories, queues, counters and
modes; why a command can stop; and the state after reset. -/

namespace Sys2Proof.Machine

/-- Why a command stops: it never does. The manual gives every command an effect or none; errors that it names (an AER
status, a halted domain, a refusal code) are values of State. -/
inductive Fault where
  deriving DecidableEq, Repr

/-- Why the model has no meaning for a command. -/
inductive Refusal where
  /-- Raised by an arm of exec that has no meaning yet. Safe: the model stops. -/
  | notModelled (mnemonic : String)
  deriving DecidableEq, Repr

/-- The phases of the whole device (R342, R351 to R354, R179, R231). -/
inductive Phase where
  | starting | running | recovery | powerFailed | rest | tripped | seqHeld | off
  deriving DecidableEq, Repr

/-- What leaves the device, newest first in State.out. -/
inductive Out where
  /-- A posted write to host memory by a function, with its RO bit (R224, R225). -/
  | dmaWrite (fn : Party) (addr : Nat) (bytes : List Byte) (ro : Bool)
  /-- A DMA read request to host memory (R226): what it is for is known from the ring. -/
  | dmaRead (fn : Party) (ring addr len : Nat)
  /-- An MSI-X message (R222): its address and data. -/
  | msix (fn : Party) (vector : Nat) (addr data : Word)
  /-- A frame put on a port's wire (R131), or a release copy (R125). -/
  | frame (slot : Nat) (bytes : List Byte)
  | copy (slot rel : Nat) (bytes : List Byte)
  /-- A PFC frame (R283). -/
  | pfc (slot mask quanta : Nat)
  /-- A frame cut short with an invalid FCS (R67, R132, R137). -/
  | stomped (slot : Nat)
  /-- An exception record written to a pipeline's share (R85); a PTP frame or an event for the cores (R73, R197, R69). -/
  | exception (pipe : Nat) (bytes : List Byte)
  | ptp (slot : Nat) (stamp : Option Dial) (bytes : List Byte)
  | eapol (slot : Nat) (bytes : List Byte)
  | pnNearEnd (slot an : Nat)
  /-- Storage traffic: an audit segment write (R175), a part on a local drive (R266, R268; op 0 read, 1 write,
  2 zeroes, 3 deallocate), a power state (R269). -/
  | drain (target port nsid segment lba blocks : Nat) (fua : Bool) (header data : List Byte)
  | backing (piece part target nsid lba blocks op : Nat) (fua : Bool) (data : List Byte)
  | drivePower (target ps : Nat)
  /-- A command capsule to a remote target on a QP (R263): of a piece's part, or a Flush; the 64 bytes of the command, and
  the data of the region that its keyed SGL names. -/
  | capsule (part : Option (Nat × Nat)) (qpn : Nat) (sqe data : List Byte)
  /-- Gallery traffic: a sample, a stream message (R313, R317). -/
  | galSample (link : Nat) (dial : Dial) (authority : Nat) (locked : Bool) (reach : BitVec 8) (hop : Option Hop)
  | galStream (dev : Nat) (m : StreamMsg)
  /-- RDMA packets (R278, R282): kind, destination QP, PSN and payload. -/
  | rdma (slot qpn psn : Nat) (kind : String) (payload : List Byte)
  /-- A read of the HBM that returned poisoned data, which the requester reports as an error (R30). -/
  | poisonedRead (who : Party) (row : Nat)
  /-- A trace frame (R386), its header included: at the trace port, or at an address of the buffer in core memory. -/
  | trace (bytes : List Byte)
  | traceBuffer (addr : Nat) (bytes : List Byte)
  /-- The completion of a register read (R219, R364). -/
  | readData (who : Party) (value : Word)
  /-- An error message of a function (R227, R228): 0 ERR_COR, 1 ERR_NONFATAL, 2 ERR_FATAL. -/
  | errMsg (fn : Party) (cls : Nat)
  /-- A pin or sideband alert changes level (R43, R351, R353). -/
  | pin (name : String) (level : Bool)
  deriving DecidableEq, Repr

/-! ## Time -/

/-- The discipline states of R39. -/
inductive Disc where
  | freerun | acquire | locked | holdover | fault
  deriving DecidableEq, Repr

/-- A step or absolute load that GO has been accepted for (R44, R46). -/
structure StepReq where
  absolute : Bool
  value    : Dial
  deriving DecidableEq, Repr

/-- The TIME block beside its registers (R33 to R56). -/
structure TimeState where
  a : DialCount                     -- the three Dial copies (R30, R35)
  b : DialCount
  c : DialCount
  disc : Disc
  slew : Int                        -- slew remainder, 2^-32 ns (R44)
  refPresent : Bool                 -- TIME_REF_10M is present
  pllLocked  : Bool                 -- the time PLL is locked to it (R39)
  byRefLoss  : Bool                 -- the HOLDOVER in force was begun by the loss of the reference (R39)
  dialFault  : Bool                 -- DIAL_FAULT (R30)
  pending    : Option StepReq       -- STEP_PENDING (R46)
  ppsGood    : Nat                  -- consecutive edges within 2.0 ns (R39)
  ppsBad     : Nat                  -- consecutive expected edges missing or outliers (R39)
  outliers   : List Int             -- errors of the consecutive outliers, 1/256 ns (R41)
  ppsSeen    : Bool                 -- the last expected edge came and was no outlier (R41, R60)
  ppsOut     : Bool                 -- the PPS_OUT pin (R43)
  second     : Nat                  -- the last whole Dial second acted on
  tdc        : Store (List Byte)    -- code-density tables; unlisted: the code itself (R56)
  stepped    : Option (Dial × Dial) -- the Dial before and after a step in the current TIME cycle (R45)
  elapsed   : Dial                  -- the TIME cycles that have passed, as nanoseconds: no step moves it (log entry 97)
  deriving DecidableEq, Repr

/-! ## Ports and pipelines -/

/-- Link states (R64). -/
inductive Link where
  | disabled | training | upHold | up | down
  deriving DecidableEq, Repr

/-- A port slot beside its registers (R64, R51, R349). -/
structure PortState where
  link        : Link
  aligned     : Bool
  hiSer       : Bool
  localFault  : Bool
  remoteFault : Bool
  deskewFail  : Bool
  deskew      : List Nat            -- deskew delay of each member lane, 1/256 ns (R51)
  window      : List Bool           -- the last codewords, newest first: uncorrectable or not (R64)
  badAt       : List Dial           -- invalid 66-bit blocks of a mode without FEC, newest first, by State.clock (R64)
  receiving   : Bool                -- a frame has begun and not ended in the codewords decoded so far (R65)
  deriving DecidableEq, Repr

/-- A slot before it is enabled. -/
def PortState.reset : PortState := ⟨.disabled, false, false, false, false, false, [], [], [], false⟩

/-- A stamp-driven token bucket (R79, R84): tokens in 1/(256 × 10^9), the last stamp, and the rate and depth in force. -/
structure Bucket where
  tokens : Nat
  last   : Option Dial
  rate   : Nat
  burst  : Nat
  deriving DecidableEq, Repr

/-- The admission policer of a slot (R79, R80): its bucket, changes waiting for a whole Dial second (second, rate,
burst), and drops since its last written record. -/
structure Policer where
  bucket  : Bucket
  changes : List (Nat × Nat × Nat)
  drops   : Nat
  fresh   : Bool                    -- a drop fell in the current Dial second
  deriving DecidableEq, Repr

/-- One whole token of a stamp-driven bucket. -/
abbrev tokenUnit : Nat := 256 * 1000000000

/-- A bucket full at its depth, before any frame. -/
def Bucket.full (rate burst : Nat) : Bucket := ⟨burst * tokenUnit, none, rate, burst⟩

/-- The policer of a slot at reset (R88). -/
def Policer.reset : Policer := ⟨Bucket.full 1000000 64, [], 0, false⟩

/-- An order-class message or reject on its way to the merge (R75, R82, R93): domain, stack port number (the slot on a
device that is not stacked), true stamp, arrival index, first failing check and bitmap (0 for a message), whether it
breaks condition 3 (R107) or needed a second Gallery replay (R309), and its bytes as delivered. -/
structure Msg where
  domain    : Nat
  port      : Nat
  stamp     : Dial
  arrival   : BitVec 32
  reason    : Byte
  rejectMap : Byte
  long      : Bool
  replay2   : Bool
  bytes     : List Byte
  deriving DecidableEq, Repr

/-- A pipeline beside its registers: the FIFO to SEQ (R26), its exception share (R84), the messages each session
passed in a Dial millisecond (R81), and the Dial and the lane of the address it learned last (R146). -/
structure PipeState where
  fifo      : List Msg
  excFrames : List Nat              -- record lengths held in the share, oldest first
  sessions  : Store (Nat × Nat)     -- session token: (Dial millisecond, messages)
  learnt    : Option (Dial × Nat)
  hitNow    : List (Dial × Nat)     -- the MAC entries hit in the current cycle, by State.clock (R155)
  deriving DecidableEq, Repr

/-- A pipeline at reset. -/
def PipeState.reset : PipeState := ⟨[], [], [], none, []⟩

/-! ## Sequencer -/

/-- Domain states (R115). -/
inductive DomPhase where
  | closed | opening | opened | closing | halted
  deriving DecidableEq, Repr

/-- A message in the hold store (R93, R105): its key stamp, whether it is late, and whether the pre-merged stream has
carried it (R317). -/
structure Held where
  msg      : Msg
  keyStamp : Dial
  late     : Bool
  streamed : Bool
  deriving DecidableEq, Repr

/-- A numbered message (R99): its number, its flags (R164) and the Dial of its release. -/
structure Numbered where
  msg       : Msg
  seq       : Word
  flags     : BitVec 12
  releaseNs : Nat
  deriving DecidableEq, Repr

/-- A sequence domain beside its registers (R90 to R117). -/
structure DomState where
  phase     : DomPhase
  openAt    : Dial                  -- T_o (R116)
  closeAt   : Dial                  -- T_c
  frontier  : Dial                  -- the Dial at which F last advanced: F is that less MUSTER_NS (R98)
  held      : List Held
  copyA     : Word                  -- the three sequence counters (R110)
  copyB     : Word
  copyC     : Word
  fenced    : BitVec 3
  disagree  : List (Nat × Nat)      -- (copy, Dial ns) of disagreements not yet fenced (R110)
  backM     : List Numbered         -- backlog of the matching ring (R101), oldest first
  backR     : List Numbered         -- backlog of the reject ring
  kept      : List Numbered         -- a standby's kept messages (R112), oldest first
  mirrors   : List MirrorRec        -- the primary's records not yet compared (R113)
  mirrorSeq : Option Word           -- number of the last mirror record (R288)
  mismatch  : Bool                  -- a mismatch since the domain opened (R113)
  takeover  : Bool                  -- the next delivered message carries TAKEOVER (R114)
  outside   : Nat                   -- messages outside the session since the last OUTSIDE record (R115)
  outsideNew : Bool                 -- one of them fell in the current Dial second
  lastStamp : Option Dial           -- stamp of the previous emission (SEQ_CNT_TIES)
  condLast  : BitVec 4              -- the COND bits as last recorded (R108)
  treeA     : List Held             -- what each copy of the merge tree holds released and not emitted (R110)
  treeB     : List Held
  treeC     : List Held
  suspect   : BitVec 3              -- copies fenced when the domain was reopened, until its first release (R32)
  unsent    : List Held             -- own messages that the merge has taken before their stream frontier (R317)
  deriving DecidableEq, Repr

/-- A closed domain. -/
def DomState.reset : DomState :=
  ⟨.closed, 0, 0, 0, [], 1, 1, 1, 0, [], [], [], [], [], none, false, false, 0, false, none, 0, [], [], [], 0, []⟩

/-! ## Release and egress -/

/-- A release copy's life (R128): armed, committed at its launcher, sent in full, or dropped for a reason code. -/
inductive CopyState where
  | armed | committed | sent | dropped (reason : Nat)
  deriving DecidableEq, Repr

/-- One target of a posting (R123, R125): slot, δ in 1/6,400 ns, and its life. -/
structure Copy where
  slot  : Nat
  delta : Nat
  st    : CopyState
  deriving DecidableEq, Repr

/-- A release posting from taking to completion (R121 to R129). status is none while it is neither refused nor
complete. -/
structure Posting where
  ring     : Nat
  cursor   : BitVec 32
  rel      : Nat                    -- release number; 0 before acceptance (R163)
  tRel     : Dial
  length   : Nat
  group    : Nat
  single   : Bool
  tag      : Word
  acceptNs : Nat
  frame    : List Byte
  copies   : List Copy
  audited  : Bool                   -- its RELEASE record is produced (R129)
  status   : Option Nat
  written  : Bool                   -- its completion is written (R129)
  deriving DecidableEq, Repr

/-- A frame in an egress queue: its bytes without FCS; for a FRAME_TX entry, its ring, cursor and whether the
transmit stamp is wanted (R251); for a received lossless frame, its ingress slot and its number in that slot's pool
(R283); and the pipeline that wrote it into the forwarding buffer (R21). -/
structure QFrame where
  bytes : List Byte
  queue : Nat
  entry : Option (Nat × BitVec 32 × Bool)
  pool  : Option (Nat × Nat)
  pipe  : Option Nat
  deriving DecidableEq, Repr

/-- A port's scheduler (R126 to R137, R283, R284). Pause lists are indexed by priority 0 to 7. -/
structure EgressState where
  queues   : List (List QFrame)
  deficit  : List Nat
  turn     : Nat                    -- the queue whose turn it is in the round robin
  inTurn   : Bool                   -- its quantum has been added this turn
  qTokens  : List Int               -- 1/256 byte (R134)
  qShaper  : List Word              -- REL_Q_SHAPER as in force since the last refill (R134)
  tokens   : Int                    -- port shaper (R135)
  wire     : Option QFrame          -- the frame on the wire
  wireAt   : Dial                   -- its transmit stamp (R53)
  wireEnd  : Dial                   -- when it and its inter-frame gap have left, by State.clock
  resume   : Option (QFrame × Nat)  -- a preempted frame and the rest of its bytes (R127)
  holdFrom : Option Dial            -- the port left UP then, by State.clock, its queues held (R137)
  wireBytes : Nat                   -- the bytes of it, or of the fragment of it that is on the wire, FCS included (R127)
  preempt  : Bool                   -- verification has succeeded (R127)
  addFrag  : Nat                    -- addFragSize of the partner
  pauseEnd : List (Option Dial)     -- when the quanta run out, by State.clock (R284)
  pausedAt : List (Option Dial)     -- paused without a gap since (R284)
  wdUntil  : List (Option Dial)     -- the watchdog ignores PFC until here (R284)
  pool     : List (Nat × Nat × Nat) -- the frames in the lossless pool: number, bytes and copies still held (R283)
  xoff     : Bool                   -- a PFC pause is in force toward the partner
  pfcAt    : Dial                   -- the Dial at which it was last sent
  deferred : List Nat               -- queues whose head a guard has counted as deferred (R126)
  maskHeld : List Nat               -- queues whose head MASK_FAIL = STOP has counted as not sent (R213)
  stomped  : Bool                   -- the frame on the wire is one that MAX_FRAME ends (R132)
  deriving DecidableEq, Repr

/-- A port's scheduler at reset. -/
def EgressState.reset : EgressState :=
  ⟨List.replicate 8 [], List.replicate 6 0, 0, false, List.replicate 8 0, List.replicate 8 0, 0, none, 0, 0, none, none,
   0, false, 0,
   List.replicate 8 none, List.replicate 8 none, List.replicate 8 none, [], false, 0, [], [], false⟩

/-! ## Tables -/

/-- Contents kept for older stamps (R83): the old image with its COUNTs, the instant the new one is in force from, and,
once that instant has come and a port mode has changed since, the margin of each pipeline in ns as it stood. -/
structure OldContents where
  img       : BitVec 512
  counts    : List Nat
  effective : Dial
  margins   : Option (List Nat)
  deriving DecidableEq, Repr

/-- A table entry (R143, R151, R156, R157): its image without COUNT and state, a COUNT and a side count per copy. Bit i
of parity and of reported is for the copy of pipeline i of a replicated table; other entries have copy 0 alone. -/
structure Entry where
  img      : BitVec 512
  counts   : List Nat
  lock     : Bool
  side     : List Nat
  sideHit  : Bool
  hit      : Bool
  mark     : Bool
  parity   : BitVec 8               -- the stored copies that fail their parity check
  reported : BitVec 8               -- the bad copies that have been reported (R156)
  old      : Option OldContents
  deriving DecidableEq, Repr

/-- An entry as the tables hold it before anything is written. -/
def Entry.empty : Entry := ⟨0, [], false, [], false, false, false, 0, 0, none⟩

/-- An installed LPM prefix (R147, R148): its pair, whether LPM6, its leading bits as a number, length, next hop. -/
structure Prefix where
  pair    : Nat
  v6      : Bool
  value   : Nat
  length  : Nat
  nexthop : Nat
  deriving DecidableEq, Repr

/-- A trie node that fails its parity check (R147, R156): its pair, whether LPM6, its level as the number of address bits
looked at up to it, their value, and whether it has been reported. -/
structure BadNode where
  pair     : Nat
  v6       : Bool
  level    : Nat
  value    : Nat
  reported : Bool
  deriving DecidableEq, Repr

/-- TBL beside its entries and prefixes: the passes that each pipeline's sweeper has begun and not ended, the next
SWEEP_MS boundary in ms of Dial (R157), and the bad trie nodes (R156). -/
structure TblState where
  passes   : Store Nat
  boundary : Nat
  badNodes : List BadNode
  deriving DecidableEq, Repr

/-- TBL at reset: the first boundary of the reset SWEEP_MS lies ahead (R157, R159). -/
def TblState.reset : TblState := ⟨[], 100000, []⟩

/-- A table-update operation held at its ring's head (R83, R152): a WRITE behind kept old contents, with its image as
read, or an UNLOCK. -/
structure HeldUpdate where
  ring   : Nat
  key    : Nat
  unlock : Bool
  image  : Option (List Byte)
  deriving DecidableEq, Repr

/-! ## Audit and ledger -/

/-- The open audit epoch (R168, R170): its opening production Dial and its records, newest first, as stored. -/
structure Epoch where
  opened  : Dial
  records : List (List Byte)
  deriving DecidableEq, Repr

/-- A segment being drained (R175): its number, the targets not yet complete, those complete, and the failed writes of
each target (target, failures). -/
structure Drain where
  segment : Nat
  waiting : List Nat
  done    : List Nat
  fails   : List (Nat × Nat)
  due     : List (Nat × Nat)        -- targets whose failed write awaits its retry, and when it failed, in ns of State.clock
  deriving DecidableEq, Repr

/-- The record kinds of R163. -/
inductive AuditKind where
  | sequenced | lateDrop | release | missedRelease | dialAdjust | dialAdjustExt | domainEvent | heartbeat | start
  | powerFail | recovery | gap | genesis
  deriving DecidableEq, Repr

/-- An audit record before it has an index (R162). -/
structure AuditRec where
  kind   : AuditKind
  domain : Nat
  flags  : Nat
  slot   : Nat
  stamp  : Dial
  seq    : Word
  digest : List Byte
  deriving DecidableEq, Repr

/-- AUD beside its registers (R162 to R180). -/
structure AudState where
  epoch    : Option Epoch
  prevTag  : List Byte              -- TAG of the last seal
  lost     : Nat                    -- records lost since FULL rose (R174)
  lostAt   : Dial
  pressure : Bool
  full     : Bool
  drainFault : Bool
  pwrFail  : Bool
  drain    : Option Drain
  queue    : List (Nat × Word)      -- word writes on their way to the ledger, oldest first (R161)
  segs     : List (Nat × Nat × Nat) -- first index, epoch and CHAIN_ID of each segment begun, newest first (R176)
  keySlot  : Option Nat             -- the lamp-room slot whose key the chain runs under; none: unkeyed (R171)
  torn     : List Nat               -- ledger words found uncorrectable and not written since, by address (R30)
  cycle    : List AuditRec          -- the open epoch's records of one TIME cycle, in ring order (R167)
  cycleAt  : Dial                   -- the Dial of that cycle
  deriving DecidableEq, Repr

/-! ## Lamp room -/

/-- Key slot states (R186). -/
inductive KeyState where
  | empty | active | closed | exhausted
  deriving DecidableEq, Repr

/-- A key slot (R185, R192, R193): TYPE, LEN code, key, salt, attributes, counter, reservation mark and measurements. -/
structure KeySlot where
  type       : Nat
  len        : Nat                  -- 0 16, 1 32, 2 64 bytes, 3 P-384
  key        : List Byte
  salt       : List Byte
  exportable : Bool
  persistent : Bool
  state      : KeyState
  fixed      : BitVec 32
  counter    : Word
  place      : Nat                  -- the record of its blob in the ledger, while it is persistent
  seals      : List (List Byte)     -- the measurements it is sealed to
  dying      : Option (List (Nat × BitVec 32))  -- it is being zeroised; the KEY_DESTROYs that wait: ring and cursor
  deriving DecidableEq, Repr

/-- An EMPTY key slot. -/
def KeySlot.none : KeySlot := ⟨0, 0, [], [], false, false, .empty, 0, 0, 0, [], Option.none⟩

/-- What a started job has computed (R201 to R205): its output, what it writes to its AUX buffer, its status, its
OUT_LEN, the counter value it used, and the slot whose key it holds. -/
structure JobResult where
  output     : List Byte
  auxWrites  : List (Nat × List Byte)
  status     : Nat
  outLen     : Nat
  invocation : Word
  keySlot    : Option Nat
  deriving DecidableEq, Repr

/-- A lookaside job at the cipher queue or on an engine (R199 to R206): where it came from, its descriptor and input,
its rank, and, once started, its result. -/
structure Job where
  ring       : Nat
  cursor     : BitVec 32
  owner      : Party
  desc       : List Byte
  src        : Option (List Byte)
  aux        : Option (List Byte)
  urgency    : Nat                  -- 2 for host software, 3 for the cores (R199)
  priority   : Nat
  arrival    : Nat                  -- place at the cipher queue
  result     : Option JobResult
  preempted  : Bool
  abandoned  : Bool                 -- its function was reset (R205): no completion
  keyless    : Bool                 -- its slot was filled after it was taken (R191)
  granted    : Bool                 -- it was taken under a share that has been reduced since (R298)
  deriving DecidableEq, Repr

/-- The health tests of one noise source (R209). -/
structure Source where
  failed   : Bool
  last     : Option Byte
  repeats  : Nat
  aptFirst : Option Byte
  aptCount : Nat
  aptSeen  : Nat
  deriving DecidableEq, Repr

/-- LAMP beside its registers (R185 to R213). -/
structure LampState where
  slots    : Store KeySlot
  engines  : List (Option Job)      -- the sixteen engines (R199)
  waiting  : List Job               -- preempted jobs and jobs waiting for an engine (R206)
  arrivals : Nat
  srcA     : Source
  srcB     : Source
  canary   : Nat                    -- 0 HEALTHY, 1 DEGRADED, 2 GRACE, 3 SPENT (R211)
  instantiated : Bool               -- the DRBG has been instantiated (R212)
  calls    : Nat                    -- generate calls since the last reseed (R210)
  shed     : Nat                    -- engines out of service for the ladder (R348)
  pllLost  : Bool                   -- the cipher PLL is unlocked (R343)
  seeds    : Store (List Byte)      -- the last seed of each datapath's mask generator (R208)
  deriving DecidableEq, Repr

/-! ## Host links, functions and rings -/

/-- What a function would send and may not now (R232, R233): its urgency class (R20), the ring it belongs to (65,536 for
none), the cursor of the entry whose OWN it returns, and the request itself. -/
structure HeldOut where
  fn    : Party
  cls   : Nat
  ring  : Nat
  entry : Option (BitVec 32)
  out   : Out
  deriving DecidableEq, Repr

/-- A host link (R216 to R234). -/
structure HostLink where
  dlActive : Bool
  perst    : Bool
  rate     : Nat
  width    : Nat
  flit     : Bool
  degraded : Bool
  frozen   : Bool
  waits    : List Instr             -- completions that arrived during a freeze (R233), oldest first
  held     : List HeldOut           -- requests held by a freeze or by Bus Master Enable = 0, oldest first
  deriving DecidableEq, Repr

/-- A link that does not exist or is down. -/
def HostLink.down : HostLink := ⟨false, false, 0, 0, false, false, false, [], []⟩

/-- A PCI Express function (R220 to R232). RS status bits are kept as their register words. -/
structure Function where
  vfEnable  : Bool
  numVfs    : Nat
  busMaster : Bool
  d3        : Bool
  flr       : Bool                  -- an FLR is in progress (R232)
  uncorr    : BitVec 32             -- AER uncorrectable status (R223)
  corr      : BitVec 32             -- AER correctable status
  devStatus : BitVec 32             -- Device Status error bits
  header    : Option (List Byte)    -- the header log (R227)
  uncorrMask : BitVec 32
  uncorrSev  : BitVec 32            -- AER uncorrectable severity: 1 fatal (R227)
  corrMask   : BitVec 32
  devCtl    : BitVec 16             -- Device Control: [3:0] error reporting, [4] Enable Relaxed Ordering (R218, R225)
  devCtl2   : BitVec 16             -- Device Control 2: [3:0] completion timeout value, [4] disable (R218)
  command   : BitVec 16             -- Command beside Bus Master Enable: [8] SERR# Enable
  laneErr   : BitVec 16             -- Lane Error Status of the link (R223)
  pba       : List Nat              -- pending vectors (R222)
  table     : Store Word            -- the MSI-X table in 8-byte words (R222); unlisted: see msixDefault
  status    : BitVec 16             -- header Status error bits (R223)
  deriving DecidableEq, Repr

/-- A function before its link comes up: the mask, severity and control registers at the Base Specification's defaults
(log entry 32). -/
def Function.reset : Function :=
  ⟨false, 0, false, false, false, 0, 0, 0, none, 0x00400000, 0x00462030, 0x0000E000, 0x2810, 0, 0, 0, [], [], 0⟩

/-- An MSI-X table word before it is written: word 1 of an entry holds its mask bit, 1 (log entry 32). -/
def msixDefault (i : Nat) : Word := if i % 2 = 1 then 0x100000000 else 0

/-- Ring states (R244). -/
inductive RingPhase where
  | disabled | active | draining | hostLost | error
  deriving DecidableEq, Repr

/-- An entry taken from a ring (R237, R254): its number among all entries its context has taken, by which the work it
asked for names it; its ring cursor, its 64 bytes, its tally number, the Dial it was taken, whether the device has begun
to act on it, whether HOST_LOST has abandoned it (R245), whether its completion is decided and its OWN write held (R232,
R233), for a delivery ring's entry the domain and the message it carries, for a job that the slot it names was filled since
(R191), and that it is judged by the share of the time it was taken (R298). -/
structure Taken where
  cursor   : BitVec 32
  entry    : BitVec 32
  desc     : List Byte
  tally    : Word
  acceptNs : Nat
  started  : Bool
  abandoned : Bool
  held     : Bool
  msg      : Option (Nat × Numbered)
  keyless  : Bool
  granted  : Bool
  deriving DecidableEq, Repr

/-- A ring context (R237 to R259). -/
structure Ring where
  owner   : Party
  base    : Word
  cfg     : Word
  piAddr  : Word
  irq     : Word
  enable  : Bool                    -- RING_CTL.ENABLE as last written (R258)
  phase   : RingPhase
  cause   : Nat
  devCur  : BitVec 32
  doneCur : BitVec 32
  hamper  : List (List Byte)
  taken   : List Taken              -- taken and not completed, in ring order
  serial  : BitVec 32               -- entries the context has taken since the device started
  fetching : Bool                   -- a scan or PI read is running
  again    : Bool                   -- doorbells merged into one further fetch (R240)
  backs    : Nat                    -- write-backs since the last message (R252)
  backsAt  : Option Dial            -- the first of them, by State.clock
  deriving DecidableEq, Repr

/-- A ring context at reset (R258): owned by PF index 0 until the shares name another owner. -/
def Ring.reset : Ring := ⟨.pf 0, 0, 0, 0, 0x100000000, false, .disabled, 0, 0, 0, [], [], 0, false, false, 0, none⟩

/-! ## Virtual NVMe -/

/-- What an NVMe command asks (R261); a Write carries its data and a Dataset Management its ranges. -/
inductive NvmeOp where
  | identify | getFeatures | setFeatures | createSq | createCq | deleteSq | deleteCq | getLogPage | abort | asyncEvent
  | read | write (data : Option (List Byte)) | flush | zeroes
  | deallocate (ranges : Option (List (Nat × Nat)))
  deriving DecidableEq, Repr

/-- An NVMe queue (R261): identifier, size in entries, head and tail, its CQ (for an SQ) or vector (for a CQ),
its base, the phase tag a CQ writes next, whether a CQ interrupts, and the ring context it occupies. -/
structure NvQueue where
  qid    : Nat
  size   : Nat
  head   : Nat
  tail   : Nat
  link   : Nat
  base   : Nat
  phase  : Bool
  irq    : Bool
  ring   : Nat
  deriving DecidableEq, Repr

/-- A completion waiting for room in its CQ: the queue, the command, the result dword and the status. -/
structure NvPost where
  cq     : Nat
  cmd    : NvmeCmd
  result : Nat
  status : Nat
  deriving DecidableEq, Repr

/-- A virtual controller (R260, R261, R269). -/
structure Ctrl where
  enabled : Bool                    -- CC.EN
  ready   : Bool                    -- CSTS.RDY
  props   : Store Word              -- its writable NVMe registers, by window offset: CC, AQA, ASQ, ACQ
  sqs     : List NvQueue
  cqs     : List NvQueue
  posts   : List NvPost             -- completions that wait for room, oldest first
  ps      : Nat
  psTarget : Option (Nat × NvmeCmd) -- a power state entry in progress, and its command
  delayed : List (NvmeCmd × NvmeOp) -- commands that arrived during it
  aers    : List NvmeCmd            -- outstanding Asynchronous Event Requests
  features : Store Word
  errors  : List (Nat × NvmeCmd × Nat)  -- Error Information, newest first: error number, command, status
  deriving DecidableEq, Repr

/-- A controller that is not enabled. -/
def Ctrl.reset : Ctrl := ⟨false, false, [], [], [], [], 0, none, [], [], [], []⟩

/-- One extent of a namespace (R262). -/
structure Extent where
  remote : Bool
  target : Nat
  nsid   : Nat
  start  : Nat
  count  : Nat
  deriving DecidableEq, Repr

/-- A namespace (R262): its LBA format, extents, the function and NSID it is attached to, and a pending detach. -/
structure Namespace where
  fmt4k    : Bool
  extents  : List Extent
  attached : Option (Party × Nat)
  detach   : Option (List (Nat × BitVec 32))  -- the NS_DETACHes that wait: ring and cursor
  deriving DecidableEq, Repr

/-- Where a backing part stands (R268): not issued, at its target, failed and awaiting its retry, completed, or
failed. -/
inductive PartState where
  | idle | flying | due | ok | failed (unreachable : Bool)
  deriving DecidableEq, Repr

/-- A backing part of a piece (R264, R268): its extent, backing LBA, LBA offset in the namespace, its length, the data
it writes or has read, its state, and whether it has been retried. -/
structure Part where
  extent : Extent
  lba    : Nat
  off    : Nat
  blocks : Nat
  data   : List Byte
  st     : PartState
  retried : Bool
  deriving DecidableEq, Repr

/-- What a command in the storage engine does (R264 to R268). -/
inductive PieceKind where
  | read | write | zeroes | deallocate
  deriving DecidableEq, Repr

/-- Where a piece stands (R265 to R268): it waits for an earlier command; for a journal slot; reads its before-image;
has its parts issued; writes the before-image back; keeps its slot, its namespace not ready; or has ended. -/
inductive PiecePhase where
  | overlap | journal | before | issued | rolling | kept | ended
  deriving DecidableEq, Repr

/-- A piece of a command in flight (R264 to R268). -/
structure Piece where
  id      : Nat
  group   : Nat                     -- the id of its command's first piece
  cmd     : NvmeCmd
  ns      : Nat
  kind    : PieceKind
  start   : Nat                     -- LBA range of its command, for conflicts (R265)
  blocks  : Nat
  small   : Bool                    -- its command is 64 KiB or less (R266)
  phase   : PiecePhase
  slot    : Option Nat              -- its journal slot (R266)
  before  : Option Nat              -- the slot of its before-image
  image   : List (List Byte)        -- the before-image of each part
  status  : Option Nat              -- of the first failing part
  orphan  : Bool                    -- its controller was reset: no completion (R261)
  replay  : Bool                    -- it comes from the journal of an earlier start (R267)
  wasKept : Bool                    -- its slot has been kept, its namespace not ready since (R267, R268)
  parts   : List Part
  deriving DecidableEq, Repr

/-- A drive behind a storage root port (R270): its namespaces as (NSID, LBAs, 4 KiB format). -/
structure Drive where
  active : Bool
  ready  : Bool
  spaces : List (Nat × Nat × Bool)
  deriving DecidableEq, Repr

/-- A root port without a drive. -/
def Drive.absent : Drive := ⟨false, false, []⟩

/-! ## Remote memory access -/

/-- Queue pair states (R276). -/
inductive QpPhase where
  | reset | init | rtr | rts | err
  deriving DecidableEq, Repr

/-- A send entry taken and not completed (R278, R279). -/
structure Wqe where
  cursor : BitVec 32
  entry  : List Byte
  opcode : Nat
  psn    : Nat                      -- first PSN
  npkts  : Nat
  data   : List Byte
  sent   : Bool
  sentAt : Dial                     -- the Dial when its packets were last sent (R281)
  ended  : Bool                     -- its end is known
  status : Nat                      -- and this is the status
  wait   : Nat                      -- WAIT (R286): 0 none or triggered, 1 met when the entry was taken, 2 not met then
  deriving DecidableEq, Repr

/-- What a responder has still to send, behind a READ whose host memory cannot be read now (R232, R233, R282). -/
inductive QpReply where
  | read (psn len msn : Nat)
  | ack (psn syndrome msn : Nat)
  deriving DecidableEq, Repr

/-- A queue pair (R274 to R287). -/
structure Qp where
  owner    : Party
  phase    : QpPhase
  device   : Bool                   -- DEVICE_POSTED
  log2sq   : Nat
  log2rq   : Nat
  sqBase   : Word
  rqBase   : Word
  sqPi     : Word
  rqPi     : Word
  attr     : List Byte              -- the attribute block in force (R276)
  sqDev    : BitVec 32
  sqDone   : BitVec 32
  rqDev    : BitVec 32
  rqDone   : BitVec 32              -- RQ_DONE (R279)
  wqes     : List Wqe
  recvs    : List (List Byte)       -- receive entries the device owns, in order
  sendPsn  : Nat
  ackPsn   : Nat
  recvPsn  : Nat
  rxOp     : Nat                    -- the message being received: 0 none, 1 SEND, 2 WRITE (R282)
  rxAddr   : Nat                    -- where its next byte goes
  rxLeft   : Nat                    -- what is left of its length
  rxBytes  : Nat                    -- what has been placed of it
  rxKey    : Nat                    -- the key of its RETH (R275, R282)
  msn      : Nat                    -- messages completed as responder, modulo 2^24
  nakSent  : Bool                   -- one NAK Sequence Error per gap (R282)
  retries  : Nat
  rnrs     : Nat
  rnrUntil : Option Dial            -- an RNR NAK delays resending until then (R281)
  created  : Nat                    -- order of creation (R293)
  sqReads  : Nat                    -- reads of the SQ's PI word that have not returned (R242, R277)
  rqReads  : Nat
  fetched  : List (List Byte)       -- send entries fetched and not begun, in order
  replies  : List QpReply           -- responses that wait for host memory, oldest first (R232, R233)
  deriving DecidableEq, Repr

/-- A QP that does not exist. -/
def Qp.none : Qp :=
  ⟨.cores, .reset, false, 0, 0, 0, 0, 0, 0, [], 0, 0, 0, 0, [], [], 0, 0, 0, 0, 0, 0, 0, 0, 0, false, 0, 0, Option.none, 0, 0,
    0, [], []⟩

/-- A memory region (R275). -/
structure Mr where
  owner : Party
  live  : Bool
  gen   : BitVec 8
  rights : Nat                      -- [0] LOCAL_WRITE; [1] REMOTE_WRITE; [2] REMOTE_READ
  start : Nat
  len   : Nat
  dying : Option (Nat × BitVec 32)  -- an MR_DEREG waiting for work requests
  deriving DecidableEq, Repr

/-- An unused memory region. -/
def Mr.none : Mr := ⟨.cores, false, 0, 0, 0, 0, Option.none⟩

/-- RDMA beside its registers. -/
structure RdmaState where
  qps      : Store Qp
  mrs      : Store Mr
  creates  : Nat
  copyQ    : Store (List (List Byte))  -- record queues of R288: key 2d mirror, 2d + 1 drop copy
  broken   : BitVec 16              -- MIRROR_BROKEN
  deriving DecidableEq, Repr

/-! ## Virtual functions -/

/-- A reduction in progress (R297): the command, its new share words, and how far it is. -/
structure Shrink where
  ring     : Nat
  cursor   : BitVec 32
  tally    : Word
  new      : List Word
  expires  : Nat                    -- Dial ns at which VF_GRACE expires (R301)
  placed   : Bool                   -- the SHRINK message is in VF_MBOX_IN
  acked    : Bool
  expired  : Bool
  enforced : Bool
  deriving DecidableEq, Repr

/-- A VF's mailbox and reduction (R297 to R302). -/
structure VfState where
  outBusy : Bool
  outTally : Word
  inFull  : Bool
  inShrink : Bool                   -- the message in VF_MBOX_IN is the Moafa's SHRINK
  lateShrink : Bool                 -- VF_GRACE expired before its ACK (R298)
  shrink  : Option Shrink
  owed    : List (List Word)        -- the SHRINK messages of finished reductions that wait for VF_MBOX_IN (R298)
  deriving DecidableEq, Repr

/-- A VF with empty buffers. -/
def VfState.reset : VfState := ⟨false, 0, false, false, false, none, []⟩

/-! ## Gallery -/

/-- A Gallery link's state (R310). -/
inductive GalPhase where
  | disabled | training | hello | up
  deriving DecidableEq, Repr

/-- A Gallery link (R309 to R313). -/
structure GalLink where
  phase  : GalPhase
  peer   : Nat
  relay  : Bool
  refuse : Nat
  major  : Nat
  minor  : Nat
  deriving DecidableEq, Repr

/-- A link not in use. -/
def GalLink.off : GalLink := ⟨.disabled, 0, false, 0, 0, 0⟩

/-- GAL beside its registers (R311 to R322). -/
structure GalState where
  devId     : Nat
  master    : Bool
  strapErr  : Bool
  authority : Nat
  present   : BitVec 8
  dialLock  : Bool
  good      : Nat                   -- consecutive samples in bound
  bad       : Nat                   -- consecutive samples out of bound
  lastSample : Option Dial          -- the last sample of the authority, by State.clock
  joined    : Bool
  masterLost : Bool
  locks     : BitVec 8              -- the devices that reported Dial lock in their last sample (R315)
  reach     : List (Option (BitVec 8)) -- the UP links of each device, as its last sample said (R312)
  links     : List GalLink
  joinOk    : Bool                  -- no domain was open and no release armed as the first link came UP (R314)
  cutAt     : Store Nat             -- since when a device has had no UP link, in ns of State.clock (R319)
  lost      : BitVec 8              -- devices lost to this one (R319)
  deriving DecidableEq, Repr

/-! ## Boot, power, logbook, PMU, trace -/

/-- A pending FUSE_RAISE (R331): command, new count, when confirmation is due, and whether programming has begun. -/
structure FuseCmd where
  ring    : Nat
  cursor  : BitVec 32
  tally   : Word
  count   : Nat
  due     : Nat
  confirmed : Bool
  deriving DecidableEq, Repr

/-- BOOT beside its registers (R325 to R339). -/
structure BootState where
  recovery   : Bool
  flashNewer : Bool
  busy       : Option (Nat × Bool × Nat)  -- the action running, whether its checks passed, and the reason (R332)
  bootedFrom : Nat
  fastWake   : Bool
  bankA      : Image
  bankB      : Image
  retained   : Option Image         -- the image in the staging area, while nothing was written over it (R21, R332)
  digest     : Option (List Byte)   -- the retained digest, while it is valid (R332, R336)
  running    : Option Image
  fuse       : Option FuseCmd
  confirms   : List (Nat × Word)    -- writes of BOOT_FUSE_CONFIRM, with their Dial ns, newest first (R331)
  fuseA      : BitVec 256           -- the two elements of each bit of the roll-back fuse (R330)
  fuseB      : BitVec 256
  deriving DecidableEq, Repr

/-- The power state (R340 to R355). -/
structure PowerState where
  level    : Nat
  below    : Nat                    -- consecutive samples under the exit condition (R348)
  sprint   : BitVec 8               -- clusters that sprint
  capped   : Bool
  capAt    : Option Nat             -- ns of State.clock at which level 1 reached 0.8 GHz on every cluster (R348)
  average  : Nat                    -- 1 ms average package power, 0.1 W
  tj       : Int
  seqErr   : Bool
  restReady : Bool
  trip     : Bool                   -- THERMTRIP_N asserted
  hotSensor : Nat
  stopped  : BitVec 8               -- clusters stopped by their PLL (R343)
  rise     : Nat                    -- ladder steps since clusters last rose (R348)
  tripNote : Option (Nat × Int)     -- a trip recorded and not yet counted: sensor and Tj (R351)
  deriving DecidableEq, Repr

/-- A logbook event (R381, R385). -/
structure LogEvent where
  number : Nat
  block  : Nat
  params : List Nat
  dial   : Dial
  deriving DecidableEq, Repr

/-- LOG beside its registers (R381 to R385): the event queue, oldest first; each number's bucket (what it
lacks of BURST, in 1/1,024 token, and the Dial ns of its last refill); suppressed occurrences (count, first Dial); the 1/1,024 h ticks are LOG_HOURS. -/
structure LogState where
  queue      : List LogEvent
  buckets    : Store (Nat × Nat)
  suppressed : Store (Nat × Dial)
  splits     : List Nat             -- RV registers whose three-way disagreement has been recorded (R368)
  deriving DecidableEq, Repr

/-- A headcount bank's state (R376). -/
inductive BankPhase where
  | empty | pending | filling | valid
  deriving DecidableEq, Repr

/-- A headcount bank (R374 to R376): its capture and its counters as (key, value). -/
structure Bank where
  phase  : BankPhase
  rearm  : Bool
  at_    : Nat                      -- the capture instant, 1/256 ns of Dial
  number : Nat
  values : Store Word
  stale  : Bool                     -- the Dial has been stepped or loaded since the capture (R375)
  deriving DecidableEq, Repr

/-- PMU and TRC beside their registers (R374 to R388). -/
structure PmuState where
  bank0   : Bank
  bank1   : Bank
  number  : Nat                     -- captures so far
  dumpAt  : Option Nat              -- the last dump boundary that Dial has passed or acted on, Dial ns (R377)
  dumpTaken : Option Nat            -- the capture instant of the dumps' own bank, 1/256 ns (R388)
  skipped : Nat                     -- dumps skipped since the last one written (R377)
  stated  : Nat                     -- how many of them the last dump begun states
  dumps   : Nat
  idle    : BitVec 64               -- cores in idle
  lostPkts : Store Nat              -- packets lost since the core's last OVERFLOW
  bufNeed : Nat                     -- the size of the frame that found no room in the trace buffer; 0 for none
  syncAt  : Store Nat               -- the Dial ns of each core's last DIAL_SYNC, plus one; 0 for none (R386)
  portStopped : Bool                -- the trace PLL is unlocked (R343)
  dumpBank : Store Word             -- the bank of the dumps, which no register shows: its last capture (R388)
  deriving DecidableEq, Repr

/-- Service-life records (R401, R402). -/
structure LifeState where
  tjSum    : Int                    -- the samples of Tj, °C, added up, of all complete operating hours (R400)
  samples  : Nat                    -- how many samples that are
  lineBytes : Nat                   -- bytes received and transmitted in those hours, and what enabled slots could carry
  lineRoom  : Nat
  hourTj   : Int                    -- the same four of the hour that runs
  hourN    : Nat
  hourBytes : Nat
  hourRoom  : Nat
  bytesSeen : Nat                   -- the slots' byte counters together at the last sample, modulo 2^48
  tick     : Nat                    -- sensor samples since the last sample of the averages (R347)
  spares   : Nat
  stopped  : List Nat               -- cores retired and not replaced by a spare
  rows     : List (ScrubTarget × Nat) -- the SRAM repair map: rows that a spare row stands for
  margin   : Nat
  lowLanes : List Nat
  rowHits  : Store (List Nat)       -- corrections of a row, in LOG_HOURS units
  coreFaults : Nat
  eccCorr   : Nat
  eccUncorr : Nat
  ingressErr : Nat                  -- order-class messages lost to one before their sequencing (R30)
  deriving DecidableEq, Repr

/-- The state of the Moafa. regs holds every register's stored value, the first copy of an RV register; copyB and
copyC hold the second and third copies (R8, R367). -/
structure State where
  pending : List Instr              -- the waiting commands, first in, first out
  phase   : Phase
  regs    : Store Word
  copyB   : Store Word
  copyC   : Store Word
  latches : Store (Nat × BitVec 32) -- split-write latches: register address and staged low half (R365)
  staged  : Store Word              -- staged template words (R88)
  free    : Nat                     -- the model's own counter of free values drawn
  time    : TimeState
  ports   : Store PortState
  policers : Store Policer
  excBuckets : Store Bucket
  arrivals : Store (BitVec 32)      -- arrival index of each slot (R93)
  pipes   : Store PipeState
  floorOn : Bool                    -- the AUDIT_PRESSURE floor is in force (R80)
  openWait : List Nat               -- domains whose OPEN waits for the pending step, in order of arrival (R45, R116);
                                    -- 16 is a NEW_CHAIN that came after one of them (R182)
  doms    : Store DomState
  postings : List Posting           -- in order of taking
  relNext : Nat                     -- the next release number (R163)
  egress  : Store EgressState
  tables  : Store Entry
  lpm     : List Prefix
  heldUpd : List HeldUpdate
  tbl     : TblState
  aud     : AudState
  ledger  : List Host.Cell          -- the 1 GiB MRAM (R160)
  retention : List Host.Cell        -- the recovery staging area (R332)
  lamp    : LampState
  links   : Store HostLink
  funs    : Store Function
  rings   : Store Ring
  ctrls   : Store Ctrl
  spaces  : Store (Option Namespace)
  pieces  : List Piece
  pieceNext : Nat
  drives  : Store Drive
  rdma    : RdmaState
  vfs     : Store VfState
  gal     : GalState
  boot    : BootState
  power   : PowerState
  log     : LogState
  pmu     : PmuState
  life    : LifeState
  out     : List Out
  deriving DecidableEq, Repr

/-- An image that is not there: the flash does not answer. -/
def Image.none : Image := ⟨false, [], [], [], [], []⟩

/-- A noise source before its first sample. -/
def Source.reset : Source := ⟨false, none, 0, none, 0, 0⟩

/-- A headcount bank at reset. -/
def Bank.reset : Bank := ⟨.empty, false, 0, 0, [], false⟩

/-- TIME at reset (R36): the Dial counter at 0, FREERUN. -/
def TimeState.reset : TimeState :=
  ⟨0, 0, 0, .freerun, 0, true, true, false, false, none, 0, 0, [], true, false, 0, [], none, 0⟩

/-- AUD at reset. -/
def AudState.reset : AudState :=
  ⟨none, zeros 16, 0, 0, false, false, false, false, none, [], [], none, [], [], 0⟩

/-- LAMP at reset. -/
def LampState.reset : LampState :=
  ⟨[], List.replicate 16 none, [], 0, Source.reset, Source.reset, 0, false, 0, 0, false, []⟩

/-- GAL at reset. -/
def GalState.reset : GalState :=
  ⟨0, false, false, 0, 0, false, 0, 0, none, false, false, 0, List.replicate 8 none, List.replicate 8 GalLink.off, false, [], 0⟩

/-- BOOT at reset (R339): booted from none. -/
def BootState.reset : BootState :=
  ⟨false, false, none, 3, false, Image.none, Image.none, none, none, none, none, [], 0, 0⟩

/-- PWR at reset. -/
def PowerState.reset : PowerState := ⟨0, 0, 0, false, none, 0, 0, false, false, false, 0, 0, 0, none⟩

/-- PMU and TRC at reset. -/
def PmuState.reset : PmuState := ⟨Bank.reset, Bank.reset, 0, none, none, 0, 0, 0, 0, [], 0, [], false, []⟩

/-- The service-life records of a new device (R401: 4 spare cores). -/
def LifeState.reset : LifeState := ⟨0, 0, 0, 0, 0, 0, 0, 0, 0, 0, 4, [], [], 100, [], [], 0, 0, 0, 0⟩

/-- The Moafa right after reset (R8, R36): every register at its reset value, Dial at 0, every domain closed, the
device not yet started. -/
def State.reset : State where
  pending := []
  phase := .starting
  regs := []
  copyB := []
  copyC := []
  latches := []
  staged := []
  free := 0
  time := TimeState.reset
  ports := []
  policers := []
  excBuckets := []
  arrivals := []
  pipes := []
  floorOn := false
  openWait := []
  doms := []
  postings := []
  relNext := 1
  egress := []
  tables := []
  lpm := []
  heldUpd := []
  tbl := TblState.reset
  aud := AudState.reset
  ledger := []
  retention := []
  lamp := LampState.reset
  links := []
  funs := []
  rings := []
  ctrls := []
  spaces := []
  pieces := []
  pieceNext := 1
  drives := []
  rdma := ⟨[], [], 0, [], 0⟩
  vfs := []
  gal := GalState.reset
  boot := BootState.reset
  power := PowerState.reset
  log := ⟨[], [], [], []⟩
  pmu := PmuState.reset
  life := LifeState.reset
  out := []

end Sys2Proof.Machine
end

