-- ==== Sys2Proof/WellFormed.lean ====
section
/-! DEFINITION. WellFormed.lean: which commands a device can be given: every instance they name exists (R10). -/

namespace Sys2Proof

/-- A party names a PF index and, for a VF, a number of its pool that exist (R216, R221). -/
def Party.wf : Party → Bool
  | .pf p => decide (p < 16)
  | .vf p v => decide (p < 16) && decide (1 ≤ v ∧ v ≤ 2048)
  | .cores => true
  | .foreman => true
  | .sideband => true

/-- A frame comes by one of the 256 network lanes (R10). -/
def RxFrame.wf (f : RxFrame) : Bool := decide (f.lane < 256)

/-- An NVMe command comes from a host function (R260). -/
def NvmeCmd.wf (c : NvmeCmd) : Bool := c.fn.wf

/-- A stream message comes by a Gallery link and belongs to a domain (R10). -/
def StreamMsg.wf (m : StreamMsg) : Bool := decide (m.link < 8) && decide (m.dest < 8) && decide (m.domain < 16)

/-- A mirror record names a stack port (R112). -/
def MirrorRec.wf (r : MirrorRec) : Bool := decide (r.stackPort < 2048)

/-- Every instance that a command names exists. -/
def Instr.wf : Instr → Bool
  | .dialTick => true
  | .slewComplete => true
  | .timeDialNsRead who => who.wf
  | .timeAdjFreqWrite who _ => who.wf
  | .timeAdjPhaseWrite who _ => who.wf
  | .timeCfgWrite who _ => who.wf
  | .timeDiscWrite who _ => who.wf
  | .step who => who.wf
  | .absoluteLoad who => who.wf
  | .stepComplete => true
  | .refLoss => true
  | .refReturn => true
  | .ppsEdge _ _ _ => true
  | .ppsMissing => true
  | .ppsOutEdge => true
  | .utcOffsetApply => true
  | .recalUpdate octet _ => decide (octet < 32)
  | .tdcRecal lane _ => decide (lane < 257)
  | .frameReceived f => f.wf
  | .pfcPauseExpiry slot prio => decide (slot < 256) && decide (prio < 8)
  | .pfcRefresh slot => decide (slot < 256)
  | .pfcWatchdog slot prio => decide (slot < 256) && decide (prio < 8)
  | .codewordDecoded lane _ _ frames _ => decide (lane < 256) && frames.all RxFrame.wf
  | .portModeWrite who slot _ => who.wf && decide (slot < 256)
  | .alignmentAchieved slot _ => decide (slot < 256)
  | .upHoldExpiry slot => decide (slot < 256)
  | .alignmentLost slot _ => decide (slot < 256)
  | .localFault slot _ => decide (slot < 256)
  | .remoteFault slot _ => decide (slot < 256)
  | .trainTimeout slot => decide (slot < 256)
  | .admitSet ring => decide (ring < 65536)
  | .pipeTmplW0Write who i _ => who.wf && decide (i < 1024)
  | .wholeDialSecond => true
  | .holdStoreArrival pipe => decide (pipe < 8)
  | .musterRelease d => decide (d < 16)
  | .backlogDelivery d _ => decide (d < 16)
  | .seqFeedWrite who d m _ => who.wf && decide (d < 16) && decide (m < 4)
  | .seqDomainCfgWrite who d _ => who.wf && decide (d < 16)
  | .seqNextWrite who d _ => who.wf && decide (d < 16)
  | .seqCfgSet ring => decide (ring < 65536)
  | .open who d => who.wf && decide (d < 16)
  | .close who d => who.wf && decide (d < 16)
  | .forceClose who d => who.wf && decide (d < 16)
  | .domainOpens d => decide (d < 16)
  | .domainCloses d => decide (d < 16)
  | .takeover who _ => who.wf
  | .mirrorRecord d r => decide (d < 16) && r.wf
  | .releasePost ring => decide (ring < 65536)
  | .releaseAcceptance ring _ => decide (ring < 65536)
  | .guardBegin slot rel => decide (slot < 256) && decide (0 < rel)
  | .launcherCommit slot rel => decide (slot < 256) && decide (0 < rel)
  | .copyEnd slot rel => decide (slot < 256) && decide (0 < rel)
  | .releaseCompletion ring => decide (ring < 65536)
  | .txSchedule slot => decide (slot < 256)
  | .shaperRefill => true
  | .relPortShaperWrite who slot _ => who.wf && decide (slot < 256)
  | .relQShaperWrite who slot q _ => who.wf && decide (slot < 256) && decide (q < 8)
  | .portHoldExpiry slot => decide (slot < 256)
  | .frameTxPost ring _ => decide (ring < 65536)
  | .tableRead ring _ => decide (ring < 65536)
  | .tableLock ring => decide (ring < 65536)
  | .tableWrite ring _ => decide (ring < 65536)
  | .tableUnlock ring => decide (ring < 65536)
  | .tableInsert ring _ => decide (ring < 65536)
  | .tableDelete ring _ => decide (ring < 65536)
  | .oldContentsRelease _ _ _ => true
  | .sweepPass pipe => decide (pipe < 8)
  | .sweepOverrun pipe => decide (pipe < 8)
  | .tableScrub _ _ _ => true
  | .epochTimeout => true
  | .sealNow who => who.wf
  | .newChain who => who.wf
  | .drainResume who => who.wf
  | .drainWrite => true
  | .drainWriteComplete target _ => decide (target < 2)
  | .drainRetry target => decide (target < 2)
  | .audDrainAckWrite who _ => who.wf
  | .audDrainTgtWrite who m _ => who.wf && decide (m < 2)
  | .powerFail => true
  | .droopTrip => true
  | .keyLoad ring _ => decide (ring < 65536)
  | .keyGenerate ring => decide (ring < 65536)
  | .keyEcdhGen ring => decide (ring < 65536)
  | .keyAgree ring _ _ => decide (ring < 65536)
  | .keyDeriveMka ring _ => decide (ring < 65536)
  | .keyExport ring => decide (ring < 65536)
  | .keySeal ring _ _ => decide (ring < 65536)
  | .keyDestroy ring => decide (ring < 65536)
  | .keyQuery ring => decide (ring < 65536)
  | .lampSaWrite who slot _ _ => who.wf && decide (slot < 256)
  | .encodingAnWrite who slot _ => who.wf && decide (slot < 256)
  | .cbc ring _ _ => decide (ring < 65536)
  | .ctr ring _ _ => decide (ring < 65536)
  | .cfb8 ring _ _ => decide (ring < 65536)
  | .cfb128 ring _ _ => decide (ring < 65536)
  | .ofb ring _ _ => decide (ring < 65536)
  | .gcm ring _ _ => decide (ring < 65536)
  | .ccm ring _ _ => decide (ring < 65536)
  | .xts ring _ _ => decide (ring < 65536)
  | .cmac ring _ _ => decide (ring < 65536)
  | .sha384 ring _ => decide (ring < 65536)
  | .sha512 ring _ => decide (ring < 65536)
  | .sealVerify ring _ _ => decide (ring < 65536)
  | .digestVerify ring _ _ => decide (ring < 65536)
  | .random ring => decide (ring < 65536)
  | .jobPreempt engine => decide (engine < 16)
  | .noiseSample source _ => decide (source < 2)
  | .sourceRetest source _ => decide (source < 2)
  | .graceSpent => true
  | .drbgReseed => true
  | .maskReseed _ => true
  | .perstAssert n => decide (n < 8)
  | .perstDeassert n => decide (n < 8)
  | .hostLinkUp p _ _ _ => decide (p < 16)
  | .hostLinkDown p => decide (p < 16)
  | .vfEnable p numVfs => decide (p < 16) && decide (numVfs < 65536)
  | .vfDisable p => decide (p < 16)
  | .flr fn => fn.wf
  | .flrComplete fn => fn.wf
  | .busMasterDisable fn _ => fn.wf
  | .busMasterEnable fn => fn.wf
  | .aerStatusWrite fn _ _ => fn.wf
  | .dmaCompletion read _ => decide (read.ring < 65536 + 2 ^ 19)
  | .completionTimeout read => decide (read.ring < 65536 + 2 ^ 19)
  | .hostFreezeRelease who link => who.wf && decide (link < 16)
  | .ringDoorbell who c => who.wf && decide (c < 65536)
  | .periodicScan c => decide (c < 65536)
  | .descriptorFetch c _ => decide (c < 65536)
  | .piRead c _ _ => decide (c < 65536 + 2 ^ 19)
  | .ringEnable who c => who.wf && decide (c < 65536)
  | .ringDisable who c => who.wf && decide (c < 65536)
  | .ringConfigWrite who c _ _ => who.wf && decide (c < 65536)
  | .irqHoldoff c => decide (c < 65536)
  | .ringSnapshot ring => decide (ring < 65536)
  | .identify cmd => cmd.wf
  | .getFeatures cmd => cmd.wf
  | .setFeatures cmd => cmd.wf
  | .createIoSq cmd => cmd.wf
  | .createIoCq cmd => cmd.wf
  | .deleteIoSq cmd => cmd.wf
  | .deleteIoCq cmd => cmd.wf
  | .getLogPage cmd => cmd.wf
  | .abort cmd => cmd.wf
  | .asynchronousEventRequest cmd => cmd.wf
  | .nvmeRead cmd => cmd.wf
  | .nvmeWrite cmd _ => cmd.wf
  | .flush cmd => cmd.wf
  | .writeZeroes cmd => cmd.wf
  | .datasetManagement cmd _ => cmd.wf
  | .ccEnClear fn => fn.wf
  | .nsCreate ring _ => decide (ring < 65536)
  | .nsDelete ring => decide (ring < 65536)
  | .nsAttach ring => decide (ring < 65536)
  | .nsDetach ring => decide (ring < 65536)
  | .journalSlotTaken => true
  | .partComplete _ _ _ => true
  | .partTimeout _ _ => true
  | .partRetry _ _ => true
  | .nsReadyRetry _ _ => true
  | .psEntryDone fn => fn.wf
  | .driveRemoved s => decide (s < 16)
  | .driveReturned s _ _ _ => decide (s < 16)
  | .qpCreate ring => decide (ring < 65536)
  | .qpModify ring _ => decide (ring < 65536)
  | .qpQuery ring => decide (ring < 65536)
  | .qpDestroy ring => decide (ring < 65536)
  | .mrReg ring => decide (ring < 65536)
  | .mrDereg ring => decide (ring < 65536)
  | .rdmaDoorbell who qpn _ => who.wf && decide (qpn < 2 ^ 24)
  | .send _ _ _ => true
  | .sendImm _ _ _ => true
  | .rdmaWrite _ _ _ => true
  | .writeImm _ _ _ => true
  | .rdmaRead _ _ => true
  | .ackTimeout _ => true
  | .rnrDelayExpiry _ => true
  | .triggeredStart _ => true
  | .vfShareSet ring _ => decide (ring < 65536)
  | .shrink p v => decide (p < 16) && decide (1 ≤ v ∧ v ≤ 2048)
  | .graceExpired p v => decide (p < 16) && decide (1 ≤ v ∧ v ≤ 2048)
  | .shrinkComplete p v => decide (p < 16) && decide (1 ≤ v ∧ v ≤ 2048)
  | .vfMboxDoorbell p v => decide (p < 16) && decide (1 ≤ v ∧ v ≤ 2048)
  | .vfMboxAck p v => decide (p < 16) && decide (1 ≤ v ∧ v ≤ 2048)
  | .vfmMboxDoorbell p => decide (p < 16)
  | .vfmMboxAck p => decide (p < 16)
  | .vfmResWrite p w _ => decide (p < 16) && decide (w < 10)
  | .genAbiOfferWrite who _ => who.wf
  | .hello link _ => decide (link < 8)
  | .galTrainRetry link => decide (link < 8)
  | .galLinkLoss link => decide (link < 8)
  | .dialSampleSend link => decide (link < 8)
  | .dialSample link _ => decide (link < 8)
  | .sampleTimeout => true
  | .peerLost dev => decide (dev < 8)
  | .streamSend d => decide (d < 16)
  | .streamMessage m => m.wf
  | .galSucceed who => who.wf
  | .powerOn _ => true
  | .resetNAssert _ => true
  | .watchdog _ => true
  | .wake _ => true
  | .check => true
  | .boot => true
  | .programA => true
  | .programB => true
  | .recActionComplete _ => true
  | .bootRecWinWrite who _ _ => who.wf
  | .fuseRaise ring => decide (ring < 65536)
  | .bootFuseConfirmWrite who _ => who.wf
  | .noConfirm => true
  | .fuseProgramDone _ => true
  | .lifeQuery ring => decide (ring < 65536)
  | .sensorSample _ => true
  | .thermtripRecheck _ _ => true
  | .ladderStep => true
  | .powerAverage _ => true
  | .pwrSprintReqWrite who _ => who.wf
  | .deepRestEnter who => who.wf
  | .seqErr => true
  | .registerWrite who _ _ _ => who.wf
  | .lowHalfWrite who _ _ => who.wf
  | .highHalfWrite who _ _ => who.wf
  | .voteScrub _ => true
  | .headcount who _ => who.wf
  | .capture bank => decide (bank < 2)
  | .bankFilled bank => decide (bank < 2)
  | .periodicDump => true
  | .logRecordWrite => true
  | .hoursTick => true
  | .lifeAverageUpdate _ _ => true
  | .dialSync core => decide (core < 64)
  | .powerGap core _ _ => decide (core < 64)
  | .idleExit core => decide (core < 64)
  | .laneMarginCheck lane _ => decide (lane < 512)
  | .ageingCheck _ => true
  | .releaseInstant rel => decide (0 < rel)
  | .supplyCollapse _ => true
  | .pllLockLoss _ => true
  | .jobCompletion engine _ => decide (engine < 16)
  | .exceptionFrameConsumed pipe => decide (pipe < 8)
  | .nvmeDoorbell who _ _ _ => who.wf
  | .ccEnSet fn => fn.wf
  | .memoryScrub t place _ => t != .hostLink || decide (place.row < 16)

end Sys2Proof
end

