-- ==== Sys2Proof/Machine/Ops.lean ====
section
/-! DEFINITION. Machine/Ops.lean: the named operations over State that every block uses: registers and their voted
copies, counters, the Dial, what leaves the device, the logbook's event queue, the ledger, and free values. -/

namespace Sys2Proof

/-- The PF index of a host party. -/
def Party.pfIndex : Party → Option Nat
  | .pf p => some p
  | .vf p _ => some p
  | _ => none

/-- The VF number of a party: 0 for a PF (R138 of the tally's SOURCE, R255). -/
def Party.vfNumber : Party → Nat
  | .vf _ v => v
  | _ => 0

/-- A party whose accesses come over a host link. -/
def Party.isHost (w : Party) : Bool := w.pfIndex.isSome

/-- The key of a function's record. -/
def Party.key : Party → Nat
  | .pf p => 4096 * p
  | .vf p v => 4096 * p + v
  | .cores => 4096 * 16
  | .foreman => 4096 * 17
  | .sideband => 4096 * 18

/-- The index under which a party keeps its own copy of a per-PF register (R35, R359). The board management controller,
to which neither rule gives a copy, shares the Foreman's (DESIGN CHOICE, log entry 92). -/
def Party.copy : Party → Nat
  | .pf p => p
  | .vf p _ => p
  | .cores => 16
  | .foreman => 17
  | .sideband => 17

/-- The SOURCE code of a party in a tally record (R255). -/
def Party.source : Party → Nat
  | .pf p => 4096 * p
  | .vf p v => 4096 * p + v
  | _ => 0

/-- A Dial value some nanoseconds later. -/
def Dial.plusNs (d : Dial) (n : Nat) : Dial := BitVec.ofNat 72 (d.toNat + n * nsUnits)

/-- A Dial value moved by a signed number of 1/256 ns. -/
def Dial.shift (d : Dial) (i : Int) : Dial := d + BitVec.ofInt 72 i

/-- An error of the correctable status register; the others are of the uncorrectable one. -/
def BusError.correctable : BusError → Bool
  | .receiver | .badTlp | .badDllp | .replayRollover | .replayTimer | .advisory | .correctedInternal | .headerOverflow =>
    true
  | .poisoned | .timeout | .completerAbort | .unsupported | .unexpected | .malformed | .receiverOverflow | .flowControl
  | .dataLink | .internal => false

/-- The bit of an error in its AER status register. -/
def BusError.bit : BusError → Nat
  | .receiver => 0 | .badTlp => 6 | .badDllp => 7 | .replayRollover => 8 | .replayTimer => 12 | .advisory => 13
  | .correctedInternal => 14 | .headerOverflow => 15
  | .dataLink => 4 | .poisoned => 12 | .flowControl => 13 | .timeout => 14 | .completerAbort => 15 | .unexpected => 16
  | .receiverOverflow => 17 | .malformed => 18 | .unsupported => 20 | .internal => 22

/-- An error that the PF of the link reports, whichever function it met (R227). -/
def BusError.ofLink : BusError → Bool
  | .receiver | .badTlp | .badDllp | .replayRollover | .replayTimer | .correctedInternal | .malformed
  | .receiverOverflow | .flowControl | .dataLink | .internal => true
  | .poisoned | .timeout | .completerAbort | .unsupported | .unexpected | .advisory | .headerOverflow => false

/-- An error that comes with a packet header for the header log. -/
def BusError.hasHeader : BusError → Bool
  | .poisoned | .timeout | .completerAbort | .unsupported | .unexpected | .malformed | .receiverOverflow => true
  | _ => false

/-- The completions that fail the read they answer (R228). -/
def BusError.failsRead : BusError → Bool
  | .poisoned | .timeout | .completerAbort | .unsupported => true
  | _ => false

/-- The header Status bits that an error sets. -/
def BusError.statusBits : BusError → BitVec 16
  | .poisoned => 0x8000 | .completerAbort => 0x1000 | .unsupported => 0x2000
  | _ => 0

/-- A Dial value of whole nanoseconds. -/
def dialOfNs (n : Nat) : Dial := BitVec.ofNat 72 (n * nsUnits)

end Sys2Proof

namespace Sys2Proof.Machine

/-- What a command answers. -/
abbrev Answer := Host.Outcome State Fault Refusal

/-- A meaning's answer: its effect t when every instance the command names exists; a command that names one the device
does not have reaches nothing and changes nothing (R10; log entry 2). -/
def within (ok : Bool) (t s : State) : Answer := .next (if ok then t else s)

/-! ## Registers -/

/-- A register's stored value: the first copy of an RV register (R8). -/
def State.reg (s : State) (k : Nat) : Word := Store.get resetOf s.regs k

/-- Storing a register's value. -/
def State.setReg (k : Nat) (v : Word) (s : State) : State := { s with regs := Store.put resetOf k v s.regs }

/-- The writable bits of a register with a key in BAR0 (R8). -/
def writableBits (k : Nat) : Word :=
  match findReg (k / 0x100000) (k % 0x100000) with
  | some (r, _) => r.mask
  | none => 0

/-- A write that sets a register's writable bits (R7, R8). -/
def State.storeMasked (k : Nat) (v : Word) (s : State) : State :=
  s.setReg k ((s.reg k &&& ~~~(writableBits k)) ||| (v &&& writableBits k))

/-- Changing a register's value. -/
def State.modReg (k : Nat) (f : Word → Word) (s : State) : State := s.setReg k (f (s.reg k))

/-- Replacing bits [hi:lo] of a register. -/
def State.setField (k hi lo v : Nat) (s : State) : State := s.modReg k (setBits · hi lo v)

/-- The second and the third copy of an RV register. -/
def State.regB (s : State) (k : Nat) : Word := Store.get resetOf s.copyB k
def State.regC (s : State) (k : Nat) : Word := Store.get resetOf s.copyC k

/-- The value that two of three copies agree on; the reset value when all three differ (R30). -/
def vote3 (reset a b c : Word) : Word := if a = b ∨ a = c then a else if b = c then b else reset

/-- The voted value of an RV register (R8, R367). -/
def State.voted (s : State) (k : Nat) : Word := vote3 (resetOf k) (s.reg k) (s.regB k) (s.regC k)

/-- Storing an RV register: all three copies together (R8, R365). -/
def State.setRv (k : Nat) (v : Word) (s : State) : State :=
  { s with regs := Store.put resetOf k v s.regs, copyB := Store.put resetOf k v s.copyB,
           copyC := Store.put resetOf k v s.copyC }

/-- The number k and the instance of a register of R367. -/
def voteIndex (k : Nat) : Option (Nat × Nat) :=
  if k = Reg.TIME_CFG then some (0, 0)
  else if k = Reg.REL_CFG then some (3, 0)
  else if k = Reg.LAMP_POLICY then some (5, 0)
  else if k = Reg.BOOT_POLICY then some (6, 0)
  else
    let d := (k - Reg.SEQ_DOMAIN_CFG 0) / 0x1000
    let n := (k - Reg.PORT_MODE 0) / 0x800
    if d < 16 ∧ k = Reg.SEQ_DOMAIN_CFG d then some (1, d)
    else if n < 256 ∧ k = Reg.PORT_MODE n then some (2, n)
    else if 0x40000000 ≤ k ∧ 0x200 ≤ k % 0x10000 ∧ k % 0x10000 < 0x250 ∧ k % 8 = 0 then
      let i := (k - 0x40000000) / 0x10000
      if i / 4096 < 16 ∧ i % 4096 ≤ 2048 then some (4, 10 * i + (k % 0x10000 - 0x200) / 8) else none
    else none

/-- The three copies of a register agree. -/
def State.agreed (s : State) (k : Nat) : Bool := s.reg k == s.regB k && s.reg k == s.regC k

/-- The keys of the registers number i of R367 whose copies differ. -/
def State.disputed (s : State) (i : Nat) : List Nat :=
  ((s.regs ++ s.copyB ++ s.copyC).map Prod.fst).eraseDups.filter fun k =>
    (voteIndex k).any (fun x => x.1 == i) && !s.agreed k

/-- A block has stopped for a three-way disagreement in its RV register k of R367 (R368). -/
def State.stopped (s : State) (k : Nat) : Bool := (s.reg Reg.GEN_STATUS).getLsbD (8 + k)

/-! ## Counters -/

/-- A counter after n events: VALUE wraps in 48 bits, OVF records the wrap (R372). -/
def counterPlus (n : Nat) (v : Word) : Word :=
  let x := bits v 47 0 + n
  word (x % 2 ^ 48) ||| (if v.getLsbD 63 || decide (2 ^ 48 ≤ x) then (1 : Word) <<< 63 else 0)

/-- Counting n events. -/
def State.countBy (k n : Nat) (s : State) : State := if n = 0 then s else s.modReg k (counterPlus n)

/-- Counting one event. -/
def State.count (k : Nat) (s : State) : State := s.countBy k 1

/-- Counting an ignored write in GEN (R7, R8). -/
def State.ignored (s : State) : State := s.count Reg.GEN_CNT_IGNORED

/-! ## Per-instance records -/

/-- Item n of a list replaced; a list too short is filled with d. -/
def putAt {α : Type} (d : α) : List α → Nat → α → List α
  | [], 0, v => [v]
  | _ :: xs, 0, v => v :: xs
  | [], n + 1, v => d :: putAt d [] n v
  | x :: xs, n + 1, v => x :: putAt d xs n v

/-- Changing one record of a store. -/
def Store.modify {α : Type} [DecidableEq α] (dflt : Nat → α) (k : Nat) (f : α → α) (m : Store α) : Store α :=
  Store.put dflt k (f (Store.get dflt m k)) m

def State.port (s : State) (n : Nat) : PortState := Store.get (fun _ => PortState.reset) s.ports n
def State.modPort (n : Nat) (f : PortState → PortState) (s : State) : State :=
  { s with ports := Store.modify (fun _ => PortState.reset) n f s.ports }

def State.policer (s : State) (n : Nat) : Policer := Store.get (fun _ => Policer.reset) s.policers n
def State.modPolicer (n : Nat) (f : Policer → Policer) (s : State) : State :=
  { s with policers := Store.modify (fun _ => Policer.reset) n f s.policers }

def State.pipe (s : State) (k : Nat) : PipeState := Store.get (fun _ => PipeState.reset) s.pipes k
def State.modPipe (k : Nat) (f : PipeState → PipeState) (s : State) : State :=
  { s with pipes := Store.modify (fun _ => PipeState.reset) k f s.pipes }

def State.dom (s : State) (d : Nat) : DomState := Store.get (fun _ => DomState.reset) s.doms d
def State.modDom (d : Nat) (f : DomState → DomState) (s : State) : State :=
  { s with doms := Store.modify (fun _ => DomState.reset) d f s.doms }

def State.egr (s : State) (n : Nat) : EgressState := Store.get (fun _ => EgressState.reset) s.egress n
def State.modEgr (n : Nat) (f : EgressState → EgressState) (s : State) : State :=
  { s with egress := Store.modify (fun _ => EgressState.reset) n f s.egress }

def State.link (s : State) (p : Nat) : HostLink := Store.get (fun _ => HostLink.down) s.links p
def State.modLink (p : Nat) (f : HostLink → HostLink) (s : State) : State :=
  { s with links := Store.modify (fun _ => HostLink.down) p f s.links }

def State.ring (s : State) (c : Nat) : Ring := Store.get (fun _ => Ring.reset) s.rings c
def State.modRing (c : Nat) (f : Ring → Ring) (s : State) : State :=
  { s with rings := Store.modify (fun _ => Ring.reset) c f s.rings }

def State.keySlotAt (s : State) (i : Nat) : KeySlot := Store.get (fun _ => KeySlot.none) s.lamp.slots i
def State.modKeySlot (i : Nat) (f : KeySlot → KeySlot) (s : State) : State :=
  { s with lamp := { s.lamp with slots := Store.modify (fun _ => KeySlot.none) i f s.lamp.slots } }

def State.vfState (s : State) (p v : Nat) : VfState := Store.get (fun _ => VfState.reset) s.vfs (4096 * p + v)
def State.modVf (p v : Nat) (f : VfState → VfState) (s : State) : State :=
  { s with vfs := Store.modify (fun _ => VfState.reset) (4096 * p + v) f s.vfs }

def State.qp (s : State) (n : Nat) : Qp := Store.get (fun _ => Qp.none) s.rdma.qps n
def State.modQp (n : Nat) (f : Qp → Qp) (s : State) : State :=
  { s with rdma := { s.rdma with qps := Store.modify (fun _ => Qp.none) n f s.rdma.qps } }

def State.mr (s : State) (n : Nat) : Mr := Store.get (fun _ => Mr.none) s.rdma.mrs n
def State.modMr (n : Nat) (f : Mr → Mr) (s : State) : State :=
  { s with rdma := { s.rdma with mrs := Store.modify (fun _ => Mr.none) n f s.rdma.mrs } }

def State.drive (s : State) (n : Nat) : Drive := Store.get (fun _ => Drive.absent) s.drives n
def State.modDrive (n : Nat) (f : Drive → Drive) (s : State) : State :=
  { s with drives := Store.modify (fun _ => Drive.absent) n f s.drives }

def State.space (s : State) (n : Nat) : Option Namespace := Store.get (fun _ => none) s.spaces n
def State.setSpace (n : Nat) (x : Option Namespace) (s : State) : State :=
  { s with spaces := Store.put (fun _ => none) n x s.spaces }

/-! ## Parties and functions -/

def State.fn (s : State) (f : Party) : Function := Store.get (fun _ => Function.reset) s.funs f.key
def State.modFn (f : Party) (g : Function → Function) (s : State) : State :=
  { s with funs := Store.modify (fun _ => Function.reset) f.key g s.funs }

def State.ctrl (s : State) (f : Party) : Ctrl := Store.get (fun _ => Ctrl.reset) s.ctrls f.key
def State.modCtrl (f : Party) (g : Ctrl → Ctrl) (s : State) : State :=
  { s with ctrls := Store.modify (fun _ => Ctrl.reset) f.key g s.ctrls }

/-- A PF index exists: an odd one only on a bifurcated port (R216). -/
def State.pfExists (s : State) (p : Nat) : Bool :=
  decide (p < 16) && (decide (p % 2 = 0) || (s.reg (Reg.HOST_PORT_CFG (p - 1))).getLsbD 0)

/-- A VF exists: VF Enable is set and NumVFs covers its number (R221). -/
def State.vfExists (s : State) (p v : Nat) : Bool :=
  (s.fn (.pf p)).vfEnable && decide (1 ≤ v ∧ v ≤ (s.fn (.pf p)).numVfs)

/-! ## The Dial -/

/-- The voted Dial count: two agreeing copies outvote the third (R30, R35); the first copy when all three differ. -/
def TimeState.voted (t : TimeState) : DialCount := if t.a = t.b ∨ t.a = t.c then t.a else if t.b = t.c then t.b else t.a

/-- The Dial value (R12, R33). -/
def State.dial (s : State) : Dial := s.time.voted.visible

/-- Dial in whole nanoseconds. -/
def State.dialNs (s : State) : Nat := s.dial.ns

/-- The time that has passed, for what lasts a time and names no Dial value: it runs on through a step of the Dial and
while the Dial is stopped (DESIGN CHOICE, log entry 97). -/
def State.clock (s : State) : Dial := s.time.elapsed
def State.clockNs (s : State) : Nat := s.clock.ns

/-- One TIME cycle of 1 ns passes (R26). -/
def State.passCycle (s : State) : State := { s with time := { s.time with elapsed := s.time.elapsed.plusNs 1 } }

/-! ## What leaves the device -/

/-- Something leaves the device. -/
def State.emit (o : Out) (s : State) : State := { s with out := o :: s.out }

/-- A list of things leaves the device, in order. -/
def State.emitAll (os : List Out) (s : State) : State := { s with out := os.reverse ++ s.out }

/-- PERST_N of a link's host port is asserted; link 2n holds the pin's level for both links of port n (R230). -/
def State.perst (s : State) (p : Nat) : Bool := (s.link (p - p % 2)).perst

/-- The function's link carries DMA: DL_Active at 8 GT/s or more (R217, R230). -/
def HostLink.carries (l : HostLink) : Bool := l.dlActive && decide (2 ≤ l.rate)

/-- The ring number of a request that belongs to no ring. -/
abbrev noRing : Nat := 65536

/-- What a function sends is lost: its link carries nothing, or its FLR runs (R230, R232). -/
def State.dmaLost (s : State) (fn : Party) : Bool :=
  match fn.pfIndex with
  | none => false
  | some p => !(s.link p).carries || (s.fn fn).flr

/-- A function may send requests and messages now (R217, R230, R232, R233). -/
def State.dmaOpen (s : State) (fn : Party) : Bool :=
  match fn.pfIndex with
  | none => true
  | some p => !s.dmaLost fn && !(s.link p).frozen && (s.fn fn).busMaster && !(s.fn fn).d3

/-- A request or message of a function, with its urgency class and ring: issued, held by a freeze (R233) or by Bus Master
Enable = 0 or D3hot (R232), or lost with the link (R230). -/
def State.dma (fn : Party) (cls ring : Nat) (entry : Option (BitVec 32)) (o : Out) (s : State) : State :=
  if s.dmaOpen fn then s.emit o
  else if s.dmaLost fn then s
  else s.modLink (fn.pfIndex.getD 0) fun l => { l with held := l.held ++ [⟨fn, cls, ring, entry, o⟩] }

/-- A write to host memory by a function that belongs to no ring: U2 (R20, R224). -/
def State.dmaWrite (fn : Party) (addr : Nat) (bytes : List Byte) (ro : Bool) (s : State) : State :=
  s.dma fn 2 noRing none (.dmaWrite fn addr bytes ro)

/-- Device Control, AER masks and severities of a function: a VF's are its PF's, as SR-IOV has it (R220). -/
def State.pfOf (s : State) (fn : Party) : Function := s.fn (.pf (fn.pfIndex.getD 0))

/-- Enable Relaxed Ordering of a function (R225). -/
def State.relaxed (s : State) (fn : Party) : Bool := (s.pfOf fn).devCtl.getLsbD 4

/-! ## Shares (R292, R293, R297, R308) -/

/-- The key of word w of the share of VF number v of PF index p; v = 0 names the PF's own share. -/
def shareKey (p v w : Nat) : Nat := Reg.vf p v (0x200 + 8 * w)

/-- A word of a function's share in force, voted (R367). -/
def State.share (s : State) (f : Party) (w : Nat) : Word :=
  match f.pfIndex with
  | some p => s.voted (shareKey p f.vfNumber w)
  | none => 0

/-- What two ranges of a share word have in common: the base from bit 0, the count from bit 16. -/
def meetRange (bhi chi : Nat) (a b : Word) : Word :=
  let lo := max (bits a bhi 0) (bits b bhi 0)
  let hi := min (bits a bhi 0 + bits a chi 16) (bits b bhi 0 + bits b chi 16)
  word (lo + (hi - lo) * 2 ^ 16)

/-- What word w of two shares has in common (R308). -/
def meetWord (w : Nat) (a b : Word) : Word :=
  let least := fun hi lo => min (bits a hi lo) (bits b hi lo) * 2 ^ lo
  match w with
  | 0 => meetRange 15 25 a b
  | 1 => meetRange 13 26 a b
  | 2 => word (least 6 0 + least 14 8 + least 26 16 + least 48 32)
  | 3 => meetRange 11 28 a b
  | 4 => meetRange 15 32 a b
  | _ => a &&& b

/-- The word of a share that uses are judged by: the one in force, and from step 3 of a reduction on only what the new one
keeps of it, so that nothing that leaves is taken again while the reduction waits (R297; log entry 66). -/
def State.usable (s : State) (f : Party) (w : Nat) : Word :=
  match f with
  | .vf p v =>
    match (s.vfState p v).shrink with
    | some x => if x.enforced then meetWord w (s.share f w) (x.new.getD w 0) else s.share f w
    | none => s.share f w
  | _ => s.share f w

/-- The MSI-X vectors a function may use: 2,048 for a PF, and a VF's share (R222, R291). -/
def State.vectors (s : State) (fn : Party) : Nat :=
  match fn with
  | .vf _ _ => bits (s.usable fn 2) 6 0
  | _ => 2048

/-- A word of a function's MSI-X table: words 2v and 2v + 1 are entry v. -/
def Function.msixWord (f : Function) (i : Nat) : Word := Store.get msixDefault f.table i

/-- A vector that the function may use and whose mask bit is 0. -/
def State.vectorOpen (s : State) (fn : Party) (v : Nat) : Bool :=
  !((s.fn fn).msixWord (2 * v + 1)).getLsbD 32 && decide (v < s.vectors fn)

/-- A message: the address in word 0, the data in the low half of word 1. Its pending bit is clear from then on. -/
def State.msixSend (fn : Party) (cls ring v : Nat) (s : State) : State :=
  let f := s.fn fn
  (s.modFn fn fun f => { f with pba := f.pba.filter (· != v) }).dma fn cls ring none
    (.msix fn v (f.msixWord (2 * v)) (f.msixWord (2 * v + 1) &&& 0xFFFFFFFF))

/-- An MSI-X vector's event, for the work of a ring: the message, or its pending bit while the vector is masked or lies
outside the function's share (R222). -/
def State.msixFor (fn : Party) (cls ring v : Nat) (s : State) : State :=
  if s.vectorOpen fn v then s.msixSend fn cls ring v
  else if (s.fn fn).pba.contains v then s
  else s.modFn fn fun f => { f with pba := v :: f.pba }

/-- An MSI-X vector's event that belongs to no ring. -/
def State.msix (fn : Party) (v : Nat) : State → State := State.msixFor fn 2 noRing v

/-- Pending vectors that are open now send their messages: an unmasked one, or one that a larger share takes in (R222). -/
def State.msixSettle (fn : Party) (s : State) : State :=
  ((s.fn fn).pba.filter (s.vectorOpen fn)).foldl (fun s v => s.msixSend fn 2 noRing v) s

/-! ## Logbook events (R381, R384, R385) -/

/-- An event reaches the Foreman's queue of 1,024, or is dropped and counted when the queue is full (R384). -/
def State.logEvent (number block : Nat) (params : List Nat) (s : State) : State :=
  if s.log.queue.length < 1024 then
    { s with log := { s.log with queue := s.log.queue ++ [⟨number, block, params, s.dial⟩] } }
  else s.count Reg.LOG_CNT_QUEUE_DROP

/-- A write to a word of a function's MSI-X table; a vector that is pending and opens sends its message (R222). -/
def State.msixTableWrite (fn : Party) (i : Nat) (v : Word) (s : State) : State :=
  let x := if i % 2 = 1 then v &&& 0x1FFFFFFFF else v &&& 0xFFFFFFFFFFFFFFFC
  (s.modFn fn fun f => { f with table := Store.put msixDefault i x f.table }).msixSettle fn

/-- The three Dial copies differ (R30). -/
def TimeState.split (t : TimeState) : Bool := t.a != t.b && t.a != t.c && t.b != t.c

/-- DIAL_FAULT: the Dial counter is stopped, by three copies that differ or with its block (R30, R32; log entry 20). -/
def State.dialStopped (s : State) : Bool := s.time.dialFault || s.time.split || s.stopped 0

/-! ## The voters (R30, R367, R368) -/

/-- The SEQ block stops: every open domain stops with it, and DOMAIN_HALT rises, counted and recorded with the cause VOTE
(R32; DESIGN CHOICE of the cause, log entry 20). -/
def State.noteHalts (s : State) : State :=
  ((List.range 16).filter fun d => decide ((s.dom d).phase ≠ .closed ∧ (s.dom d).phase ≠ .halted)).foldl (fun s d =>
    let last := s.reg (Reg.SEQ_LAST_NUMBER d)
    (s.count (Reg.SEQ_CNT_HALTS d)).logEvent 0x303 4 [d, 1, bits last 31 0, bits last 63 32]) s

/-- Three copies of a register differ, which is recorded once: the owning block stops (R30, R368). -/
def State.split (k i inst : Nat) (s : State) : State :=
  if s.log.splits.contains k then s
  else
    let t := { s with log := { s.log with splits := k :: s.log.splits } }
    let t := (t.setField Reg.GEN_STATUS (8 + i) (8 + i) 1).logEvent 0x011 0 [i, inst]
    if i = 1 ∧ !s.stopped 1 then t.noteHalts else t

/-- The copies of a register are compared, by the voter at a read or by the scrubber: a single disagreeing one is
rewritten and counted; three that differ stop the owning block. -/
def voteScrub (k : Nat) (s : State) : State :=
  match voteIndex k with
  | none => s
  | some (i, inst) =>
    let a := s.reg k
    let b := s.regB k
    let c := s.regC k
    if a = b ∧ b = c then s
    else if a = b ∨ a = c ∨ b = c then (s.setRv k (s.voted k)).count (Reg.GEN_CNT_VOTE_CORR i)
    else s.split k i inst

/-- The voters of a block, which reads its registers in every cycle in which it runs (log entry 20). -/
def State.voteBlock (i : Nat) (s : State) : State := (s.disputed i).foldl (fun s k => voteScrub k s) s

/-- An effect of a block that runs: its voters compare the registers it reads, and nothing happens while the block is
stopped (R30, R368; log entry 20). -/
def unlessStopped (k : Nat) (f : State → State) (s : State) : State :=
  if s.stopped k then s
  else
    let t := s.voteBlock k
    if t.stopped k then t else f t

/-! ## The ledger (R160, R161) -/

/-- What an unlisted ledger or retention byte reads as (log entry 4). -/
def memDefault (_ : Nat) : Byte := 0

/-- Reading one byte. -/
def memGet (m : List Host.Cell) (a : Nat) : Byte := Store.get memDefault m a

/-- Writing one byte. -/
def memPut (a : Nat) (b : Byte) (m : List Host.Cell) : List Host.Cell := Store.put memDefault a b m

/-- The canonical form of a memory: addresses rising, no entry equal to what an unlisted address reads as. -/
def memWf (m : List Host.Cell) : Bool := Store.wf memDefault m

/-- n bytes from an address on, of a memory that lists nothing below it. -/
def memTake : Nat → Nat → List Host.Cell → List Byte
  | _, 0, _ => []
  | a, n + 1, [] => memDefault a :: memTake (a + 1) n []
  | a, n + 1, (k, b) :: m =>
    if k = a then b :: memTake (a + 1) n m else memDefault a :: memTake (a + 1) n ((k, b) :: m)

/-- Reading n bytes: byte i is the one at a + i (memRead_eq of Laws/Memory.lean). -/
def memRead (m : List Host.Cell) (a n : Nat) : List Byte :=
  memTake a n (m.filter fun e => decide (a ≤ e.1 ∧ e.1 < a + n))

/-- Bytes as cells from an address up. -/
def memCells : Nat → List Byte → List Host.Cell
  | _, [] => []
  | a, b :: bs => if b = memDefault a then memCells (a + 1) bs else (a, b) :: memCells (a + 1) bs

/-- Writing bytes from an address up. -/
def memWrite (a : Nat) (bs : List Byte) (m : List Host.Cell) : List Host.Cell :=
  m.filter (fun e => decide (e.1 < a)) ++ memCells a bs ++ m.filter (fun e => decide (a + bs.length ≤ e.1))

/-- Whether a ledger address lies in a region that takes writes (R160). -/
def ledgerMapped (a : Nat) : Bool := decide (a < 0x3B800000)

/-- One atomic word write to the ledger; the reserved region reads 0 and takes none (R160, R161). -/
def State.ledgerWord (a : Nat) (v : Word) (s : State) : State :=
  if ledgerMapped a then
    { s with ledger := memWrite a (leBytes 8 v.toNat) s.ledger,
             aud := { s.aud with torn := s.aud.torn.filter (· != a) } }
  else s

/-- Reading a word of the ledger. -/
def State.ledgerRead (s : State) (a : Nat) : Word := word (leNat (memRead s.ledger a 8))

/-- Words written in ascending order from an address. -/
def State.ledgerWords (a : Nat) : List Word → State → State
  | [], s => s
  | v :: vs, s => State.ledgerWords (a + 8) vs (s.ledgerWord a v)

/-- The words of a record's bytes. -/
def wordsOf (bs : List Byte) : List Word := (List.range (divUp bs.length 8)).map fun i => word (leField bs (8 * i) 8)

/-! ## Free values -/

/-- n random bytes (log entry 3), and the state after the draw. -/
def State.randomBytes (n : Nat) (s : State) : List Byte × State :=
  ((List.range n).map fun i => Config.freeByte (s.free + i), { s with free := s.free + n })

/-! ## Errors (R223, R227 to R229) -/

/-- An entry of the error-source log (R229). -/
def State.errorSource (p error : Nat) (corr masked froze : Bool) (block fn ring : Nat) (s : State) : State :=
  let n := bits (s.reg (Reg.HOST_ERR_NEXT p)) 15 0
  let w0 := word (error + b2n corr * 2 ^ 5 + b2n masked * 2 ^ 6 + b2n froze * 2 ^ 7 + block * 2 ^ 8 + fn * 2 ^ 16
    + ring * 2 ^ 32 + n * 2 ^ 48)
  let s := (s.setReg (Reg.HOST_ERR_LOG_W0 p (n % 64)) w0).setReg (Reg.HOST_ERR_LOG_W1 p (n % 64)) (word s.dialNs)
  s.setReg (Reg.HOST_ERR_NEXT p) (word ((n + 1) % 65536))

/-- The link freezes (R233). -/
def State.freeze (p error : Nat) (s : State) : State :=
  let s := s.modLink p fun l => { l with frozen := true }
  let s := s.setReg (Reg.HOST_FREEZE_INFO p) (word (error + s.dial.toNat / 2 ^ 16 % 2 ^ 56 * 2 ^ 8))
  (s.count (Reg.HOST_CNT_FREEZES p)).logEvent 0x702 9 [p, error]

/-- An error's class in force: 0 correctable, 1 non-fatal, 2 fatal (R227). -/
def State.errorClass (s : State) (f : Party) (e : BusError) : Nat :=
  if e.correctable then 0 else if (s.pfOf f).uncorrSev.getLsbD e.bit then 2 else 1

/-- The counter of a class. -/
def errorCounter (p : Nat) : Nat → Nat
  | 0 => Reg.HOST_CNT_CORR p | 1 => Reg.HOST_CNT_NONFATAL p | _ => Reg.HOST_CNT_FATAL p

/-- An error message goes to the host: the error is unmasked and Device Control, or SERR# Enable, lets its class out. -/
def State.errorMessage (f : Party) (cls : Nat) (s : State) : State :=
  let x := s.pfOf f
  if x.devCtl.getLsbD cls || (decide (0 < cls) && x.command.getLsbD 8) then s.emit (.errMsg f cls) else s

/-- A function notes an error in its status registers and counters, and in the error-source log (R223, R227, R229). -/
def State.noteError (f : Party) (p block ring : Nat) (e : BusError) (masked froze : Bool) (s : State) : State :=
  let cls := s.errorClass f e
  let bits : BitVec 32 := BitVec.ofNat 32 (2 ^ e.bit)
  let s := s.modFn f fun x => { x with
    corr := if e.correctable then x.corr ||| bits else x.corr
    uncorr := if e.correctable then x.uncorr else x.uncorr ||| bits
    devStatus := x.devStatus ||| BitVec.ofNat 32 (2 ^ cls) ||| (if e = .unsupported then 8 else 0)
    status := x.status ||| e.statusBits }
  let s := (s.count (errorCounter p cls)).errorSource p e.bit e.correctable masked froze block f.vfNumber ring
  if masked then s else s.errorMessage f cls

/-- The header of the first unmasked uncorrectable error is kept; the bytes of a packet come with no command, so they are
free (log entry 67). One that finds the log occupied is Header Log Overflow (R227). -/
def State.logHeader (f : Party) (p block ring : Nat) (s : State) : State :=
  if (s.fn f).header.isNone then
    let (b, s) := s.randomBytes 16
    s.modFn f fun x => { x with header := some b }
  else s.noteError f p block ring .headerOverflow ((s.pfOf f).corrMask.getLsbD 15) false

/-- A function reports an error that a block and a ring met; an error of the link is its PF's. The first unmasked
uncorrectable one freezes a link with CONTAIN = 1 (R227, R229, R233). -/
def State.report (f : Party) (block ring : Nat) (e : BusError) (s : State) : State :=
  match f.pfIndex with
  | none => s
  | some p =>
    let f := if e.ofLink then .pf p else f
    let x := s.pfOf f
    let masked := if e.correctable then x.corrMask.getLsbD e.bit else x.uncorrMask.getLsbD e.bit
    let freezes := !e.correctable && !masked && bit (s.reg (Reg.HOST_PORT_CFG p)) 1 && !(s.link p).frozen
    let s := s.noteError f p block ring e masked freezes
    let s := if freezes then s.freeze p e.bit else s
    let s := if e = .receiver then
        { s with free := s.free + 1 }.modFn f fun x =>
          { x with laneErr := x.laneErr ||| BitVec.ofNat 16 (Config.freeNat s.free) }
      else s
    if e.hasHeader && !masked then s.logHeader f p block ring else s

/-! ## Readiness and the bus -/

/-- The datapath is ready: DEVICE_READY (R231, R371). -/
def State.ready (s : State) : Bool := decide (s.phase = .running)

/-- The device's clocks run: it is not off, in Deep Rest, tripped, held by a rail fault or stopped by a power failure
(R177, R341, R351, R353). -/
def State.clocked (s : State) : Bool :=
  match s.phase with
  | .starting | .running | .recovery => true
  | .powerFailed | .rest | .tripped | .seqHeld | .off => false

/-- An effect that needs the clocks. -/
def whenClocked (f : State → State) (s : State) : State := if s.clocked then f s else s

/-- A party that is there: an existing PF, a VF of its PF's pool, or a party inside or beside the device (R216, R221). -/
def State.partyExists (s : State) (who : Party) : Bool :=
  match who with
  | .pf p => s.pfExists p
  | .vf p v => s.pfExists p && s.vfExists p v
  | _ => true

/-- A party's request reaches the registers: the clocks run, the party is there, and, over a host link, DL_Active holds at
8 GT/s or more (R217, R230). -/
def State.reaches (s : State) (who : Party) : Bool :=
  s.clocked && s.partyExists who &&
    match who.pfIndex with
    | none => true
    | some p => (s.link p).dlActive && decide (2 ≤ (s.link p).rate)

/-- A request over a link at 2.5 or 5 GT/s is an Unsupported Request (R217); any other that does not reach the registers
is not made (log entry 2). -/
def State.unreached (who : Party) (s : State) : State :=
  if s.clocked && s.partyExists who && who.pfIndex.any fun p => (s.link p).dlActive then
    s.report who 9 0xFFFF .unsupported
  else s

/-- A register write by a party. One that comes over a host link is ignored and counted before the datapath is ready,
unless it is to GEN, HOST or BOOT (R231), and while its link is frozen, unless it is to HOST_FREEZE (R233). -/
def busWrite (who : Party) (early unfrozen : Bool) (f : State → State) (s : State) : State :=
  if !s.reaches who then s.unreached who
  else
    match who.pfIndex with
    | none => f s
    | some p =>
      if !s.ready && !early then s.ignored
      else if (s.link p).frozen && !unfrozen then s.count (Reg.HOST_CNT_FROZEN_WRITE p)
      else f s

/-- A write to a register of PF BAR0, which no VF reaches (R306, R359; log entry 2). -/
def pfWrite (who : Party) (early unfrozen : Bool) (f : State → State) (s : State) : State :=
  match who with
  | .vf _ _ => s
  | w => busWrite w early unfrozen f s

/-! ## Staging latches (R365) -/

/-- An empty latch: it holds no register. -/
def latchEmpty : Nat × BitVec 32 := (0, 0)

/-- A latch: the name of the register it holds, 0 for none, and the staged low half. -/
def State.latch (s : State) (k : Nat) : Nat × BitVec 32 := Store.get (fun _ => latchEmpty) s.latches k

/-- Storing a latch. -/
def State.setLatch (k : Nat) (x : Nat × BitVec 32) (s : State) : State :=
  { s with latches := Store.put (fun _ => latchEmpty) k x s.latches }

/-- The key of a function's latch for a slot. -/
def slotLatch (who : Party) (slot : Nat) : Nat := 32 * who.key + slot

/-- The name of a register of PF BAR0 in a latch, by its key. -/
def barName (k : Nat) : Nat := 2 * k + 1

/-- The name of any other register in a latch, by its offset. -/
def offsetName (o : Nat) : Nat := 2 * (o / 8) + 2

/-- A low half staged for a register is discarded and counted, as its 64-bit write does. -/
def State.unstage (latch name : Nat) (s : State) : State :=
  if (s.latch latch).1 = name then (s.setLatch latch latchEmpty).count Reg.GEN_CNT_SPLIT_DISCARD else s

/-- The 64-bit write of a register of PF BAR0, by its key. -/
def whole (who : Party) (k : Nat) (f : State → State) (s : State) : State :=
  f (s.unstage (slotLatch who (k / 0x100000)) (barName k))

/-- The 64-bit write of a register of VF BAR0, by its offset; the offsets below 0x20 are GEN's (R306). -/
def wholeVf (who : Party) (o : Nat) (f : State → State) (s : State) : State :=
  f (s.unstage (slotLatch who (if o < 0x20 then 0 else 13)) (offsetName o))

/-- The 64-bit write of a register that PFs reach by its key and VFs at an offset. -/
def wholeAt (who : Party) (k o : Nat) : (State → State) → State → State :=
  match who with
  | .vf _ _ => wholeVf who o
  | _ => whole who k

/-! ## The open and armed conditions (R60) -/

/-- A domain counts as open in every state other than CLOSED (R115). -/
def State.isOpen (s : State) (d : Nat) : Bool := decide ((s.dom d).phase ≠ .closed)

/-- At least one domain is open (ANY_DOMAIN_OPEN). -/
def State.anyOpen (s : State) : Bool := (List.range 16).any s.isOpen

/-- A posting is armed from its acceptance until its last copy is sent or dropped (R122). -/
def Posting.armed (p : Posting) : Bool :=
  decide (p.rel ≠ 0) && p.copies.any (fun c => decide (c.st = .armed ∨ c.st = .committed))

/-- REL holds at least one armed release (RELEASE_ARMED). -/
def State.anyArmed (s : State) : Bool := s.postings.any Posting.armed

/-- The device is a member of a Gallery stack and not its Dial authority (R44, R313). -/
def State.stackMember (s : State) : Bool :=
  (s.reg Reg.GAL_CFG).getLsbD 0 && decide (s.gal.authority ≠ s.gal.devId)

end Sys2Proof.Machine
end

