-- ==== Sys2Proof/Machine/Audit.lean ====
section
/-! DEFINITION. Machine/Audit.lean: producing audit records, closing and sealing epochs, and the state of the audit
ring (R162 to R175, R403): the operations that every block which is audited shares. -/

namespace Sys2Proof.Machine

/-- The record slots of the audit ring (R160). -/
abbrev auditSlots : Nat := 25165824

/-- The record slots of one drained segment (R175). -/
abbrev segmentSlots : Nat := 32768

/-- The KIND code (R163). -/
def AuditKind.code : AuditKind → Nat
  | .sequenced => 1 | .lateDrop => 2 | .release => 3 | .missedRelease => 4 | .dialAdjust => 5 | .dialAdjustExt => 6
  | .domainEvent => 7 | .heartbeat => 8 | .start => 9 | .powerFail => 10 | .recovery => 11 | .gap => 12
  | .genesis => 13

/-- The place of a record among those of its TIME cycle (R167): the records of a power failure, DIAL_ADJUST, domain
records by domain, release records by acceptance and slot, all others. -/
def AuditRec.rank (r : AuditRec) : Nat :=
  let at_ := fun (cls a b : Nat) => cls * 2 ^ 76 + a * 2 ^ 12 + b
  match r.kind with
  | .powerFail => 0
  | .domainEvent => if r.slot = 5 then at_ 0 0 (1 + r.domain) else at_ 2 0 r.domain
  | .dialAdjust | .dialAdjustExt => at_ 1 0 0
  | .sequenced | .lateDrop => at_ 2 0 r.domain
  | .release => at_ 3 (r.seq.toNat % 2 ^ 48) 256
  | .missedRelease => if r.flags.testBit 5 then at_ 3 (2 ^ 48) 0 else at_ 3 (r.seq.toNat % 2 ^ 48) r.slot
  | .heartbeat | .start | .recovery | .gap | .genesis => at_ 4 0 0

/-- A record that no later one of its cycle goes before: GENESIS and START begin a chain and a run, RECOVERY and GAP mark
where a loss begins (R163, R174, R180). -/
def AuditRec.fixed (r : AuditRec) : Bool :=
  match r.kind with
  | .start | .recovery | .gap | .genesis => true
  | _ => false

/-- No digest (R163). -/
def noDigest : List Byte := zeros 4

/-- The 32 bytes of a record with its index (R162). -/
def AuditRec.bytes (r : AuditRec) (index : Nat) : List Byte :=
  let body := leBytes 4 (0x20 + r.kind.code + r.domain % 16 * 2 ^ 8 + r.flags % 4096 * 2 ^ 12 + r.slot % 256 * 2 ^ 24)
    ++ leBytes 9 r.stamp.toNat ++ leBytes 3 index ++ leBytes 8 r.seq.toNat ++ slice r.digest 0 4
  body ++ leBytes 4 (crc32c body).toNat

/-! ## The chain key and digests (R166, R171) -/

/-- The chain key: that of the slot the chain runs under; none while the chain runs unkeyed (R171). -/
def State.chainKey (s : State) : Option (List Byte) := s.aud.keySlot.map fun i => (s.keySlotAt i).key

/-- CHAIN_ID. -/
def State.chainId (s : State) : Nat := bits (s.reg Reg.AUD_CHAIN) 31 0

/-- The 16-byte block B of R166 for a domain (byte 1 its number) or for releases (byte 1 0x10). -/
def digestBlock (which chain count : Nat) : List Byte :=
  [0x44, BitVec.ofNat 8 which] ++ leBytes 4 chain ++ leBytes 8 count ++ [0, 0]

/-- A digest under R166: GMAC over the bytes under the key derived from B, the IV 32 zero bits and the number. -/
def digestOf (chainKey block : List Byte) (number : Nat) (bs : List Byte) : List Byte :=
  (Modes.gmac (Modes.cmac chainKey block) (beBytes 12 (number % 2 ^ 64)) bs).take 4

/-- The DIGEST field and the UNKEYED flag of a SEQUENCED or RELEASE record (R164, R166, R171). -/
def State.digest (s : State) (which count number : Nat) (bs : List Byte) : List Byte × Nat :=
  match s.chainKey with
  | some k => (digestOf k (digestBlock which s.chainId count) number bs, 0)
  | none => (noDigest, 2 ^ 10)

/-! ## The ring's fill (R172 to R174) -/

/-- The number of slots from tail to head. -/
def State.auditFill (s : State) : Nat := bits (s.reg Reg.AUD_FILL) 24 0

/-- LOW_WATER, held to 10 to 89 percent (R184). -/
def State.lowWater (s : State) : Nat := clampNat 10 89 (bits (s.reg Reg.AUD_CFG) 15 8)

/-- The fill after a change, with PRESSURE, FULL and the peak that follow from it (R173, R174, R183). -/
def State.setFill (n : Nat) (s : State) : State :=
  let peak := max (bits (s.reg Reg.AUD_FILL) 56 32) n
  let s := s.setReg Reg.AUD_FILL (word (n + peak * 2 ^ 32))
  let rises := !s.aud.pressure && decide (22649242 ≤ n)
  let falls := s.aud.pressure && decide (100 * n ≤ s.lowWater * auditSlots)
  let s := { s with aud := { s.aud with full := decide (auditSlots ≤ n + 128)
                                        pressure := (s.aud.pressure || rises) && !falls } }
  if rises then (s.count Reg.AUD_CNT_PRESSURE).logEvent 0x500 7 [n] else s

/-! ## Appending -/

/-- Word writes on their way to the ledger, in ascending order (R161). -/
def State.ledgerQueue (a : Nat) (ws : List Word) (s : State) : State :=
  { s with aud := { s.aud with queue := s.aud.queue ++ (ws.zipIdx.map fun (w, i) => (a + 8 * i, w)) } }

/-- Every queued word is written (R167: within 110 ns of production). -/
def State.ledgerCommit (s : State) : State :=
  let t := s.aud.queue.foldl (fun t (a, w) => t.ledgerWord a w) s
  { t with aud := { t.aud with queue := [] } }

/-- The index of the next record (R165). -/
def State.auditIndex (s : State) : Nat := (s.reg Reg.AUD_NEXT_INDEX).toNat

/-- 32 bytes at the head (R165, R172). -/
def State.auditWrite (bs : List Byte) (s : State) : State :=
  let i := s.auditIndex
  let seg := (i, (s.reg Reg.AUD_EPOCH).toNat, s.chainId)
  let s := if i % segmentSlots = 0 then { s with aud := { s.aud with segs := seg :: s.aud.segs.take 767 } } else s
  let s := s.ledgerQueue (32 * (i % auditSlots)) (wordsOf bs)
  let s := s.setReg Reg.AUD_NEXT_INDEX (word (i + 1))
  (s.setReg Reg.AUD_HEAD (word ((i + 1) % auditSlots))).setFill (s.auditFill + 1)

/-- A record's 32 bytes appended at the head (R165, R167, R172). -/
def State.auditPut (bs : List Byte) (s : State) : State := (s.count Reg.AUD_CNT_RECORDS).auditWrite bs

/-- A seal's bytes 0 to 11 (R169). -/
def sealHead (count : Nat) (tail reseal unkeyed : Bool) (closeNs : Nat) : List Byte :=
  [0x3F] ++ leBytes 3 (count % 2 ^ 13 + b2n tail * 2 ^ 13 + b2n reseal * 2 ^ 14 + b2n unkeyed * 2 ^ 15)
    ++ leBytes 8 closeNs

/-- The TAG of a seal (R170). -/
def sealTag (key : List Byte) (chain epoch : Nat) (prevTag : List Byte) (records : List (List Byte))
    (head : List Byte) : List Byte :=
  Modes.gmac key (beBytes 4 chain ++ beBytes 8 epoch) (prevTag ++ records.flatten ++ head)

/-- The checkpoint word (R172). -/
def checkpointWord (slot epoch : Nat) : Word := word (slot % 2 ^ 25 + epoch % 2 ^ 39 * 2 ^ 25)

/-- Every slot of the ring is taken, its headroom too. -/
def State.auditNoSlot (s : State) : Bool := decide (auditSlots ≤ s.auditFill)

/-- A closed epoch is sealed, and the index, epoch and checkpoint words follow (R168 to R172, R403). An epoch for whose
seal the ring holds no slot stays open (log entry 95). -/
def State.auditSeal (tail reseal : Bool) (s : State) : State :=
  match s.aud.epoch with
  | none => s
  | some e =>
    if s.auditNoSlot then s
    else
      let epoch := (s.reg Reg.AUD_EPOCH).toNat
      let i := s.auditIndex
      let head := sealHead e.records.length tail reseal s.chainKey.isNone s.dialNs
      let tag := match s.chainKey with
        | some k => sealTag k s.chainId epoch s.aud.prevTag e.records.reverse head
        | none => zeros 16
      let body := head ++ tag
      let s := s.auditPut (body ++ leBytes 4 (crc32c body).toNat)
      let s := { s with aud := { s.aud with epoch := none, prevTag := tag, cycle := [] } }
      let check := checkpointWord (i % auditSlots) epoch
      let s := s.ledgerQueue 0x3A800008 [word i]
      let s := s.ledgerQueue 0x3A800010 [word epoch]
      let s := s.ledgerQueue 0x3A800000 [check]
      let s := s.setReg Reg.AUD_LAST_SEAL check
      let s := s.setReg Reg.AUD_EPOCH (word (epoch + 1))
      s.count Reg.AUD_CNT_SEALS

/-- Dial has reached the open epoch's opening production + 1,000 ns; suspended from a power failure on (R168, R177). -/
def State.epochDue (s : State) (e : Epoch) : Bool :=
  !s.aud.pwrFail && decide (e.opened.toNat + 1000 * nsUnits ≤ s.dial.toNat)

/-- An epoch that is full, or whose 1,000 ns are over in this cycle, is sealed before another record joins; a 4,096th
record of that cycle still joins it (R168, R182). -/
def State.sealDue (s : State) : State :=
  match s.aud.epoch with
  | none => s
  | some e =>
    if 4096 ≤ e.records.length ∨ (s.epochDue e ∧ e.records.length ≠ 4095) then s.auditSeal false false else s

/-- The open epoch's records of this TIME cycle, in ring order (R167). -/
def State.auditCycle (s : State) : List AuditRec :=
  if s.aud.cycleAt = s.clock then s.aud.cycle else []

/-- The records of this cycle that a new one goes before (R167). -/
def State.auditLater (r : AuditRec) (s : State) : List AuditRec :=
  ((s.auditCycle.reverse.take ((s.aud.epoch.map fun e => e.records.length).getD 0)).takeWhile
    fun q => !q.fixed && decide (r.rank < q.rank)).reverse

/-- The last n records leave their places, to take later ones. -/
def State.auditUnplace (n : Nat) (s : State) : State :=
  if n = 0 then s
  else
    let i := s.auditIndex - n
    let fill := s.reg Reg.AUD_FILL
    let s := (s.setReg Reg.AUD_NEXT_INDEX (word i)).setReg Reg.AUD_FILL (setBits fill 24 0 (s.auditFill - n))
    { s with aud := { s.aud with
      segs := s.aud.segs.filter fun x => decide (x.1 < i)
      epoch := s.aud.epoch.map fun e => { e with records := e.records.drop n }
      queue := s.aud.queue.filter fun x => !(List.range n).any fun j => x.1 / 32 == (i + j) % auditSlots } }

/-- A record at the head, in the open epoch or opening one (R168). -/
def State.auditStand (s : State) (r : AuditRec) : State :=
  let bs := r.bytes s.auditIndex
  let e := s.aud.epoch.getD ⟨s.dial, []⟩
  let s := s.auditWrite bs
  { s with aud := { s.aud with epoch := some { e with records := bs :: e.records } } }

/-- A record is put into the open epoch, or opens one, in its place among the records of its cycle (R167, R168). Where the
ring holds no slot at all it is lost and counted (log entry 95). -/
def State.auditPlace (r : AuditRec) (s : State) : State :=
  if s.auditNoSlot then s.count Reg.AUD_CNT_LOST
  else
    let later := s.auditLater r
    let sofar := s.auditCycle
    let t := (r :: later).foldl State.auditStand ((s.count Reg.AUD_CNT_RECORDS).auditUnplace later.length)
    { t with aud := { t.aud with cycle := sofar.take (sofar.length - later.length) ++ r :: later, cycleAt := s.clock } }

/-- A record joins the open epoch, or the next one where the open one is due to be sealed (R168). -/
def State.auditJoin (r : AuditRec) (s : State) : State := s.sealDue.auditPlace r

/-- A record is appended, and a 4,096th record closes its epoch (R168). -/
def State.auditAppend (r : AuditRec) (s : State) : State :=
  let s := s.auditJoin r
  if s.aud.epoch.any fun e => decide (4096 ≤ e.records.length) then s.auditSeal false false else s

/-- The GAP record that states a loss, once more than headroom is free (R174). -/
def State.auditGap (s : State) : State :=
  if s.aud.full ∨ s.aud.lost = 0 then s
  else
    let s' := s.auditJoin ⟨.gap, 0, 0, 0, s.aud.lostAt, word s.aud.lost, noDigest⟩
    { s' with aud := { s'.aud with lost := 0 } }.count Reg.AUD_CNT_GAPS

/-- A record that is lost because only headroom is free (R174). -/
def State.auditLose (s : State) : State :=
  let s' := { s with aud := { s.aud with lost := s.aud.lost + 1
                                         lostAt := if s.aud.lost = 0 then s.dial else s.aud.lostAt } }
  s'.count Reg.AUD_CNT_LOST

/-- What stands before the next record: the seal that is due, and the GAP that states an earlier loss (R168, R174). -/
def State.auditReady (s : State) : State := if s.aud.pwrFail || s.aud.full then s else s.sealDue.auditGap.sealDue

/-- Producing one record: lost and counted while only headroom is free, and otherwise appended, after the seal that is
due and the GAP that states an earlier loss, either of which may raise FULL (R168, R174). After the detection of a power
failure only auditPowerFail appends records (R177, R178). -/
def State.audit (r : AuditRec) (s : State) : State :=
  if s.aud.pwrFail then s
  else
    let s := s.auditReady
    if s.aud.full then s.auditLose else s.auditAppend r

/-! ## The records of R163 -/

/-- A DIAL_ADJUST and the DIAL_ADJUST_EXT directly after it: what (0 FREQ, 1 PHASE, 2 STEP, 3 LOAD), the two Dials and
the two values. -/
def State.auditDial (what : Nat) (before : Dial) (old : Word) (after : Dial) (new : Word) (s : State) : State :=
  (s.audit ⟨.dialAdjust, 0, 0, what, before, old, noDigest⟩).audit ⟨.dialAdjustExt, 0, 0, what, after, new, noDigest⟩

/-- A DOMAIN_EVENT: 0 OPEN, 1 CLOSE, 2 HALT, 3 FORCE_CLOSE, 4 TAKEOVER, 5 CUT. -/
def State.auditDomain (d event : Nat) (stamp : Dial) (seq : Word) (digest : Nat) (s : State) : State :=
  s.audit ⟨.domainEvent, d, 0, event, stamp, seq, leBytes 4 digest⟩

/-- The boot measurement (R328). -/
def State.measurement (s : State) : List Byte :=
  (List.range 6).flatMap fun j => leBytes 8 (s.reg (Reg.BOOT_MEASURE j)).toNat

/-- START, after the start count has risen (R163, R166). -/
def State.auditStart (s : State) : State :=
  let n := (s.reg Reg.AUD_START_COUNT).toNat + 1
  let s := s.setReg Reg.AUD_START_COUNT (word n)
  let s := s.ledgerQueue 0x3A800020 [word n]
  s.audit ⟨.start, 0, 0, 0, s.dial, s.reg Reg.LOG_POWER_CYCLES, s.measurement.take 4⟩

/-- The ledger word of BOOT_POLICY, bit 63 of which marks a copy as valid (R338; DESIGN CHOICE of the word, log entry 69). -/
def policyAddr : Nat := 0x3A800400

/-- The ledger address of a retained register of the audit chain beyond the words R160 and R403 place: the start count
and the open counts stand after them (log entry 5). -/
def openCountAddr (d : Nat) : Nat := 0x3A800028 + 8 * d

/-- The ledger address at which CHAIN_ID is retained (log entry 5). -/
def chainIdAddr : Nat := 0x3A8000A8

/-- A slot that holds an openable chain key (R171, R185, R186). -/
def State.chainKeySlot (s : State) : Option Nat :=
  let i := bits (s.reg Reg.AUD_CFG) 45 32
  let k := s.keySlotAt i
  if k.type = 6 ∧ k.state = .active then some i else none

/-- GENESIS then START of a new chain (R171): CHAIN_ID rises; the epoch number, open counts and start count return to
their starting values. -/
def State.auditGenesis (s : State) : State :=
  let chain := (s.chainId + 1) % 2 ^ 32
  let s := (s.setReg Reg.AUD_CHAIN (word chain)).ledgerQueue chainIdAddr [word chain]
  let s := s.setReg Reg.AUD_EPOCH 0
  let s := (List.range 16).foldl
    (fun s d => (s.setReg (Reg.AUD_OPEN_COUNT d) 0).ledgerQueue (openCountAddr d) [0]) s
  let s := s.setReg Reg.AUD_START_COUNT 0
  let s := { s with aud := { s.aud with prevTag := zeros 16, keySlot := s.chainKeySlot } }
  let s := s.audit ⟨.genesis, 0, 0, 0, s.dial, word s.chainId, noDigest⟩
  s.auditStart

end Sys2Proof.Machine
end

