-- ==== Sys2Proof/Machine/RingOps.lean ====
section
/-! DEFINITION. Machine/RingOps.lean: the operations on ring contexts and the Tally journal that every block with
commands on rings shares (R237 to R258): shares, taking an entry, completing it, interrupts, and losing the host. -/

namespace Sys2Proof.Machine

/-! ## Shares (R187, R293) -/

/-- The key slot lies within the party's share; firmware on the cores names every slot (R187). -/
def State.ownsKey (s : State) (f : Party) (i : Nat) : Bool :=
  if f.isHost then
    let w := s.usable f 1
    decide (bits w 13 0 ≤ i ∧ i < bits w 13 0 + bits w 26 16)
  else true

/-- The port slot lies within the party's share (R293). -/
def State.ownsSlot (s : State) (f : Party) (n : Nat) : Bool :=
  if f.isHost then (s.usable f (6 + n / 64)).getLsbD (n % 64) else true

/-- The ring context lies within a VF's share, what leaves it excepted (R293, R297). -/
def State.ownsRing (s : State) (f : Party) (c : Nat) : Bool :=
  if f.vfNumber = 0 then true
  else
    let w := s.usable f 0
    decide (bits w 15 0 ≤ c ∧ c < bits w 15 0 + bits w 25 16)

/-! ## Ring contexts (R237, R239, R259) -/

def Ring.type (r : Ring) : Nat := bits r.cfg 3 0
def Ring.log2 (r : Ring) : Nat := bits r.cfg 8 4
def Ring.size (r : Ring) : Nat := 2 ^ r.log2
def Ring.scanNs (r : Ring) : Nat := let n := bits r.cfg 31 16; if n = 0 then 0 else max 64 n
def Ring.fast (r : Ring) : Bool := decide (1 ≤ r.type ∧ r.type ≤ 4)
def Ring.deviceFilled (r : Ring) : Bool := decide (r.type = 1 ∨ r.type = 2 ∨ r.type = 8)
def Ring.isNvme (r : Ring) : Bool := decide (r.type = 10 ∨ r.type = 11)

/-- The urgency class of a ring's DMA (R20). -/
def Ring.urgency (r : Ring) : Nat :=
  if !r.owner.isHost then 3 else if 1 ≤ r.type ∧ r.type ≤ 3 then 0 else if r.type = 8 then 1 else 2

/-- The host address of the entry at a cursor (R237). -/
def Ring.entryAddr (r : Ring) (cur : BitVec 32) : Nat := r.base.toNat + 64 * (cur.toNat % r.size)

/-- OWN of a fetched descriptor (R238). -/
def ownBit (d : List Byte) : Bool := (leField d 56 8).testBit 63

/-- RING_CFG is valid and the base is set (R244, R259): TYPE 1 to 11, LOG2_SIZE 4 to 16. -/
def Ring.valid (r : Ring) : Bool :=
  decide (1 ≤ r.type ∧ r.type ≤ 11 ∧ 4 ≤ r.log2 ∧ r.log2 ≤ 16 ∧ r.base.toNat % 4096 = 0)

/-- The STATE code (R244). -/
def RingPhase.code : RingPhase → Nat
  | .disabled => 0 | .active => 1 | .draining => 2 | .hostLost => 3 | .error => 4

/-- An owned ring's link carries traffic and is not frozen (R233, R244). -/
def State.ringServed (s : State) (r : Ring) : Bool :=
  match r.owner.pfIndex with
  | some p => (s.link p).carries && !(s.link p).frozen && !(s.fn r.owner).flr
  | none => true

/-- The DMA reads of a ring's fetch have gone out: none of them is held (R232, R233). -/
def State.readsIssued (s : State) (c : Nat) : Bool :=
  match (s.ring c).owner.pfIndex with
  | some p => !(s.link p).held.any fun h => decide (h.ring = c) && (match h.out with | .dmaRead _ _ _ _ => true | _ => false)
  | none => true

/-- A completion of a ring's DMA read, brought by a command: accepted and held while the link is frozen (R233). -/
def onLink (o : Party) (i : Instr) (f : State → State) (s : State) : State :=
  match o.pfIndex with
  | some p =>
    if (s.link p).dlActive && (s.link p).frozen then s.modLink p fun l => { l with waits := l.waits ++ [i] } else f s
  | none => f s

/-- Counting an event of a ring for its owner's PF and, where the VF counter view has it, for the VF (R258, R379). -/
def State.ringCount (o : Party) (pfKey : Nat → Nat) (vfOff : Nat) (n : Nat) (s : State) : State :=
  match o.pfIndex with
  | none => s
  | some p =>
    let s := s.countBy (pfKey p) n
    if o.vfNumber = 0 ∨ vfOff = 0 then s else s.countBy (Reg.vf p o.vfNumber vfOff) n

/-! ## The Tally journal (R254, R255) -/

/-- The ledger address of a tally number's slot. -/
def tallyAddr (t : Nat) : Nat := 0x38000000 + 32 * (t % 1048576)

/-- Word 1 of a tally record. -/
def tallyWord1 (status delay ring : Nat) : Word :=
  word (status % 2 ^ 16 + min delay 0xFFFFFFFF * 2 ^ 16 + ring % 2 ^ 16 * 2 ^ 48)

/-- A command accepted: the next tally number, its record in the ledger before it has any effect (R254, R255). -/
def State.newTally (ring : Nat) (o : Party) (kind opcode : Nat) (covered : List Byte) (s : State) : Word × State :=
  let t := s.reg Reg.RING_TALLY_NEXT
  let s := s.setReg Reg.RING_TALLY_NEXT (t + 1)
  let w3 := word ((crc32c covered).toNat + o.source * 2 ^ 32 + kind * 2 ^ 48 + opcode % 256 * 2 ^ 52)
  let a := tallyAddr t.toNat
  let s := (s.ledgerWords (a + 8) [tallyWord1 0xFFFF 0 ring, word s.dialNs, w3]).ledgerWord a t
  (t, s.ringCount o Reg.RING_CNT_TALLY 0x8030 1)

/-- A command completed: word 1 of its record alone is rewritten (R255). -/
def State.endTally (t : Word) (status delay ring : Nat) (s : State) : State :=
  s.ledgerWord (tallyAddr t.toNat + 8) (tallyWord1 status delay ring)

/-! ## Interrupts (R252) -/

/-- One more write-back: the message goes out once THRESH are pending. -/
def State.ringIrq (c : Nat) (s : State) : State :=
  let r := s.ring c
  if !r.irq.getLsbD 15 then s
  else if max 1 (bits r.irq 47 32) ≤ r.backs + 1 then
    (s.modRing c fun r => { r with backs := 0, backsAt := none }).msixFor r.owner r.urgency c (bits r.irq 10 0)
  else s.modRing c fun r => { r with backs := r.backs + 1, backsAt := some (r.backsAt.getD s.clock) }

/-- HOLDOFF has passed since the first pending write-back. -/
def irqHoldoff (c : Nat) (s : State) : State :=
  let r := s.ring c
  match r.backsAt with
  | none => s
  | some d =>
    if r.irq.getLsbD 15 ∧ d.toNat + bits r.irq 31 16 * 100 * nsUnits ≤ s.clock.toNat then
      (s.modRing c fun r => { r with backs := 0, backsAt := none }).msixFor r.owner r.urgency c (bits r.irq 10 0)
    else s

/-! ## Taking and completing entries (R238, R242, R244) -/

/-- An entry taken from a ring, with the message it carries on a delivery ring; commands of ADMIN and TABLE_UPDATE rings
receive their tally number (R254). -/
def State.takeWith (c : Nat) (desc : List Byte) (msg : Option (Nat × Numbered)) (s : State) : State :=
  let r := s.ring c
  let (t, s) :=
    if r.type = 5 then s.newTally c r.owner 0 (leField desc 0 2) (slice desc 0 40)
    else if r.type = 4 then
      s.newTally c r.owner 1 (leField desc 8 1 % 8 + leField desc 9 1 % 8 * 16) (slice desc 0 40)
    else (0, s)
  let s := s.modRing c fun r =>
    { r with devCur := r.devCur + 1, serial := r.serial + 1,
             taken := r.taken ++ [⟨r.serial, r.devCur, desc, t, s.dialNs, false, false, false, msg, false, false⟩] }
  match r.owner with
  | .vf p v =>
    let i := c - bits (s.share r.owner 0) 15 0
    if i < 512 then s.count (Reg.vf p v (0x8200 + 8 * i)) else s
  | _ => s

/-- An entry taken from a ring. -/
def State.take (c : Nat) (desc : List Byte) : State → State := State.takeWith c desc none

/-- A DRAINING ring whose work is done becomes DISABLED (R244). -/
def State.drainCheck (c : Nat) (s : State) : State :=
  let r := s.ring c
  if r.phase = .draining ∧ r.doneCur = r.devCur then s.modRing c fun r => { r with phase := .disabled } else s

/-- A write to host memory for the work of a ring (R20, R224). -/
def State.ringWrite (c addr : Nat) (bytes : List Byte) (ro : Bool) (s : State) : State :=
  let r := s.ring c
  s.dma r.owner r.urgency c none (.dmaWrite r.owner addr bytes ro)

/-- The write-back of an entry: its completion fields, then the word that holds OWN, all with RO = 0 (R224, R238). -/
def State.writeBack (c : Nat) (t : Taken) (fields : List (Nat × List Byte)) (s : State) : State :=
  let r := s.ring c
  let a := r.entryAddr t.entry
  let s := fields.foldl (fun s (o, bs) => s.ringWrite c (a + o) bs false) s
  s.dma r.owner r.urgency c (some t.cursor)
    (.dmaWrite r.owner (a + 56) (leBytes 8 (leField t.desc 56 8 % 2 ^ 63)) false)

/-- The OWN write of an entry has gone out: its completion is written (R237, R244, R252). -/
def State.entryDone (c : Nat) (cur : BitVec 32) (s : State) : State :=
  let s := s.modRing c fun r =>
    { r with taken := r.taken.eraseP fun t => t.cursor == cur, doneCur := r.doneCur + 1 }
  (s.ringIrq c).drainCheck c

/-- An entry completed. For one that HOST_LOST abandoned nothing is written (R245); while the ring's function may send
nothing the completion waits, and the entry counts as taken until its OWN write goes out (R232, R233, R237). -/
def State.complete (c : Nat) (cur : BitVec 32) (fields : List (Nat × List Byte)) (s : State) : State :=
  let r := s.ring c
  match r.taken.find? (fun t => t.cursor == cur) with
  | none => s
  | some t =>
    if t.abandoned then s.modRing c fun r => { r with taken := r.taken.eraseP fun t => t.cursor == cur }
    else if t.held then s
    else
      let now := s.dmaOpen r.owner
      let s := s.writeBack c t fields
      if now then s.entryDone c cur
      else
        s.modRing c fun r =>
          { r with taken := r.taken.map fun t => if t.cursor = cur then { t with started := true, held := true } else t }

/-- What a data read of an entry brought: the read of an abandoned one fails (R245). -/
def Taken.data {α : Type} (t : Taken) (x : Option α) : Option α := if t.abandoned then none else x

/-- A data write of an entry: an abandoned one writes nothing (R245). -/
def State.entryWrite (c : Nat) (t : Taken) (addr : Nat) (bytes : List Byte) (ro : Bool) (s : State) : State :=
  if t.abandoned then s else s.ringWrite c addr bytes ro

/-- A context at its reset values but for the work that goes on for abandoned entries (R245). -/
def Ring.cleared (r : Ring) : Ring := { Ring.reset with serial := r.serial, taken := r.taken.filter (·.abandoned) }

/-- The oldest entry of a ring that the device has not begun to act on. -/
def Ring.head (r : Ring) : Option Taken := r.taken.find? fun t => !t.started

/-- The device begins to act on an entry. -/
def State.startEntry (c : Nat) (cur : BitVec 32) (s : State) : State :=
  s.modRing c fun r => { r with taken := r.taken.map fun t => if t.cursor = cur then { t with started := true } else t }

/-! ## Admin commands (R248) -/

/-- An ADMIN entry's opcode and its four parameter words. -/
def adminOpcode (d : List Byte) : Nat := leField d 0 2
def adminParam (d : List Byte) (i : Nat) : Word := word (leField d (8 + 8 * i) 8)

/-- The ADMIN statuses of R248. -/
abbrev badOpcode : Nat := 0x80
abbrev notPermitted : Nat := 0x81
abbrev adminFetch : Nat := 0x82
abbrev configLimit : Nat := 0x83

/-- Every admin opcode of the manual (R257, R262, R275, R296, R331, R335, R402, R249). -/
def adminOpcodes : List Nat :=
  [0x20, 0x21, 0x30, 0x3E, 0x40, 0x41, 0x42, 0x43, 0x44, 0x45, 0x46, 0x47, 0x48, 0x50, 0x51, 0x52, 0x53, 0x60, 0x61,
   0x62, 0x63, 0x64, 0x65, 0x70, 0x71]

/-- The opcodes a VF may give (R291). -/
def vfOpcodes : List Nat :=
  [0x3E, 0x40, 0x41, 0x42, 0x43, 0x44, 0x45, 0x47, 0x48, 0x60, 0x61, 0x62, 0x63, 0x64, 0x65]

/-- Whether an issuer may give an opcode: FUSE_RAISE is PF0 of H0's alone (R291, R331). -/
def adminPermitted (o : Party) (op : Nat) : Bool :=
  if op = 0x70 then decide (o = .pf 0) else decide (o.vfNumber = 0) || vfOpcodes.contains op

/-- An ADMIN entry's completion: STATUS and RESULT, and its tally record's status (R248, R255). -/
def State.adminDone (c : Nat) (t : Taken) (status result : Nat) (s : State) : State :=
  (s.endTally t.tally status 0 c).complete c t.cursor
    [(40, leBytes 2 status ++ [0, 0] ++ leBytes 4 result ++ leBytes 8 t.tally.toNat)]

/-- A command at the head of an ADMIN ring runs when its opcode is the one meant and its issuer may give it; any other
head leaves the state as it is (log entry 2). -/
def onAdmin (c op : Nat) (f : Taken → Party → State → State) (s : State) : State :=
  let r := s.ring c
  match r.head with
  | none => s
  | some t =>
    if r.type = 5 ∧ adminOpcode t.desc = op then
      if adminPermitted r.owner op then f t r.owner s else s.adminDone c t notPermitted 0
    else s

/-! ## Losing the host (R230, R245) -/

/-- An abandoned entry whose work cannot go on without host memory and has not begun: a job, a frame to send or a posting. -/
def Ring.fails (r : Ring) (t : Taken) : Bool := !t.started && decide (r.type = 3 ∨ r.type = 6 ∨ r.type = 7 ∨ r.type = 9)

/-- A ring enters HOST_LOST: what it had taken and not completed is abandoned (R244, R245). -/
def State.hostLost (c : Nat) (s : State) : State :=
  let r := s.ring c
  if r.phase = .active ∨ r.phase = .draining ∨ r.phase = .error then
    let s := s.modRing c fun r =>
      { r with phase := .hostLost, taken := (r.taken.filter fun t => !r.fails t).map fun t => { t with abandoned := true }, hamper := [],
               fetching := false, again := false, backs := 0, backsAt := none }
    let s := s.ringCount r.owner Reg.RING_CNT_HOST_LOST 0 1
    s.ringCount r.owner Reg.RING_CNT_ABANDONED 0x8028 (r.taken.filter (!·.abandoned)).length
  else s

/-- The ring contexts that are not at reset and satisfy a test. -/
def State.ringsWhere (s : State) (f : Nat → Ring → Bool) : List Nat :=
  (s.rings.filter fun (c, r) => f c r).map (·.1)

/-- A list of things done one after the other. -/
def forAll {α : Type} (xs : List α) (f : α → State → State) (s : State) : State := xs.foldl (fun s x => f x s) s

/-- Delivery messages whose OWN write had not been issued return to the head of their domain's backlog, in their order
(R245). -/
def State.returnMessages (ms : List (Nat × Numbered)) (s : State) : State :=
  ms.foldr (fun m s => s.modDom m.1 fun x =>
    if m.2.msg.reason ≠ 0 then { x with backR := m.2 :: x.backR } else { x with backM := m.2 :: x.backM }) s

/-- ENABLE = 0 written to a ring (R244, R245). -/
def State.disableRing (c : Nat) (s : State) : State :=
  let r := s.ring c
  let s := s.modRing c fun r => { r with enable := false }
  match r.phase with
  | .active =>
    (s.modRing c fun r => { r with phase := .draining, hamper := [], fetching := false, again := false }).drainCheck c
  | .error => (s.modRing c fun r => { r with phase := .draining, cause := 0, hamper := [] }).drainCheck c
  | .hostLost =>
    let s := if r.deviceFilled then s.returnMessages (r.taken.filterMap (·.msg)) else s
    s.modRing c fun r =>
      { r with phase := .disabled, taken := if r.deviceFilled then [] else r.taken,
               devCur := if r.deviceFilled then r.doneCur else r.devCur,
               doneCur := if r.deviceFilled then r.doneCur else r.devCur }
  | .disabled | .draining => s

end Sys2Proof.Machine
end

