-- ==== Sys2Proof/Machine/Time.lean ====
section
/-! DEFINITION. Machine/Time.lean: Dial time (R33 to R60, R404): discipline, corrections, PPS, stamps and lane
calibration. -/

namespace Sys2Proof.Machine

/-! ## TIME_CFG (R59) -/

/-- SOURCE. -/
def State.timeSource (s : State) : Nat := bits (s.voted Reg.TIME_CFG) 1 0

/-- PLL_REF. -/
def State.pllRef (s : State) : Bool := bit (s.voted Reg.TIME_CFG) 2

/-- RECAL_EN. -/
def State.recalEn (s : State) : Bool := bit (s.voted Reg.TIME_CFG) 5

/-- PHASE_RATE, values above 0xA7C5 acting as 0xA7C5. -/
def State.phaseRate (s : State) : Nat := min 0xA7C5 (bits (s.voted Reg.TIME_CFG) 47 32)

/-- The reference is present (R39). -/
def State.refIsPresent (s : State) : Bool := s.pllRef || (s.time.refPresent && s.time.pllLocked)

/-- The signed value of TIME_ADJ_FREQ. -/
def State.adjFreq (s : State) : Int := signed 32 (bits (s.reg Reg.TIME_ADJ_FREQ) 31 0)

/-- TIME_PHASE_REMAIN: the slew remainder in 1/256 ns, rounded away from zero (R44). -/
def phaseRemain (slew : Int) : Int :=
  if 0 ≤ slew then (slew + (2 ^ 24 - 1)) / 2 ^ 24 else -((-slew + (2 ^ 24 - 1)) / 2 ^ 24)

def State.phaseRemain (s : State) : Int := Sys2Proof.Machine.phaseRemain s.time.slew

/-! ## The discipline state (R39) -/

/-- The STATE code. -/
def Disc.code : Disc → Nat
  | .freerun => 0 | .acquire => 1 | .locked => 2 | .holdover => 3 | .fault => 4

/-- A change of discipline state: logged, and LOCKED cleared on every entry to ACQUIRE or HOLDOVER (R39). -/
def State.setDisc (d : Disc) (byLoss : Bool) (s : State) : State :=
  if s.time.disc = d then s
  else
    let t := { s with time := { s.time with disc := d, byRefLoss := byLoss } }
    let t := t.logEvent 0x100 1 [s.time.disc.code, d.code]
    if d = .acquire ∨ d = .holdover then t.setField Reg.TIME_DISC 0 0 0 else t

/-- Through ACQUIRE to LOCKED in one cycle (R39). -/
def State.relock (s : State) : State := (s.setDisc .acquire false).setDisc .locked false

/-- The test of every TIME cycle (R39): the reference's absence takes ACQUIRE and LOCKED to HOLDOVER, and its presence
takes a HOLDOVER that its loss began to ACQUIRE. The state of a stack member is GAL's (R313, R314; log entry 92). -/
def State.refSettle (s : State) : State :=
  let absent := decide (s.timeSource ≠ 0) && !s.pllRef && !s.time.refPresent
  if s.stackMember then s
  else if absent ∧ (s.time.disc = .acquire ∨ s.time.disc = .locked) then s.setDisc .holdover true
  else if s.time.disc = .holdover ∧ s.time.byRefLoss ∧ s.refIsPresent then s.setDisc .acquire false
  else s

/-- The writer that R38 names for the mode in force, on a device whose Dial GAL does not steer (R314). -/
def State.isTimeWriter (s : State) (who : Party) : Bool :=
  !s.stackMember && ((decide (s.timeSource = 2) && decide (who = .cores)) ||
    (decide (s.timeSource = 3) && decide (who = .pf 0)))

/-- Storing a frequency adjustment, audited when it changes the value (R47). -/
def State.storeFreq (v : Nat) (s : State) : State :=
  let old := s.adjFreq
  let new := signed 32 v
  let s := (s.setReg Reg.TIME_ADJ_FREQ (word (v % 2 ^ 32))).count Reg.TIME_CNT_ADJ_WRITES
  if old = new then s else s.auditDial 0 s.dial (wordOfInt old) 0 (wordOfInt new)

/-- Adding a signed 1/256 ns to the slew remainder, audited (R44, R47). -/
def State.addPhase (v : Int) (s : State) : State :=
  let old := s.phaseRemain
  let s := { s with time := { s.time with slew := s.time.slew + v * 2 ^ 24 } }
  (s.count Reg.TIME_CNT_ADJ_WRITES).auditDial 1 s.dial (wordOfInt old) 0 (wordOfInt s.phaseRemain)

/-- TIME_ADJ_FREQ written: stored when it comes from the writer of the mode and HOLDOVER does not freeze the value,
otherwise ignored and counted (R38, R39). -/
def timeAdjFreq (who : Party) (v : Word) (s : State) : State :=
  if s.isTimeWriter who ∧ s.time.disc ≠ .holdover then s.storeFreq (bits v 31 0) else s.count Reg.TIME_CNT_ADJ_IGNORED

/-- TIME_ADJ_PHASE written (R38, R39, R44). -/
def timeAdjPhase (who : Party) (v : Word) (s : State) : State :=
  if s.isTimeWriter who ∧ s.time.disc ≠ .holdover then s.addPhase v.toInt else s.count Reg.TIME_CNT_ADJ_IGNORED

/-- TIME_CFG written (R39, R59): a changed SOURCE leads to ACQUIRE or FREERUN, or is only stored in FAULT, and on a stack
member, whose state GAL sets (R314). -/
def timeCfgWrite (v : Word) (s : State) : State :=
  let old := s.timeSource
  let s := s.setRv Reg.TIME_CFG (v &&& 0x0000FFFF0000FF3F)
  let s :=
    if s.timeSource = old then s else { s with time := { s.time with ppsGood := 0, ppsBad := 0, outliers := [], ppsSeen := true } }
  let s :=
    if s.timeSource = old ∨ s.time.disc = .fault ∨ s.stackMember then s
    else if s.timeSource = 0 then s.setDisc .freerun false
    else s.setDisc .acquire false
  s.refSettle

/-- TIME_DISC written (R404). -/
def timeDiscWrite (who : Party) (v : Word) (s : State) : State :=
  if !s.isTimeWriter who then s.count Reg.TIME_CNT_ADJ_IGNORED
  else
    let locked := bit v 0
    let s' :=
      if locked ∧ s.time.disc = .acquire then s.setDisc .locked false
      else if locked ∧ s.time.disc = .holdover ∧ s.refIsPresent then s.relock
      else if !locked ∧ s.time.disc = .locked then s.setDisc .holdover false
      else if bit v 1 ∧ s.time.disc = .holdover ∧ s.refIsPresent then s.setDisc .acquire false
      else s
    s'.setReg Reg.TIME_DISC (word (b2n locked))

/-! ## Steps (R44 to R47) -/

/-- TIME_STEP_RESULT: the code and the Dial [71:16] of the decision (R60). -/
def stepResult (code : Nat) (d : Dial) : Word := word (code + d.toNat / 2 ^ 16 * 2 ^ 8)

/-- A GO: refused by the first condition that fails, or pending (R44). -/
def stepGo (absolute : Bool) (s : State) : State :=
  let refuse := fun (code : Nat) =>
    ((s.setReg Reg.TIME_STEP_RESULT (stepResult code s.dial)).count Reg.TIME_CNT_STEP_REFUSED).logEvent 0x101 1 [code]
  if s.time.pending.isSome then refuse 5
  else if s.stackMember then refuse 4
  else if s.anyOpen then refuse 2
  else if s.anyArmed then refuse 3
  else
    let v := bits (s.reg Reg.TIME_STEP_LO) 63 0 + bits (s.reg Reg.TIME_STEP_HI) 7 0 * 2 ^ 64
    let s := { s with time := { s.time with pending := some ⟨absolute, BitVec.ofNat 72 v⟩ } }
    s.setReg Reg.TIME_STEP_RESULT (stepResult 0 s.dial)

/-- PERIOD_US of the dumps in ns, held to its limits (R390). -/
def State.dumpPeriod (s : State) : Nat := 1000 * clampNat 10 1000000 (bits (s.reg Reg.PMU_DUMP_CFG) 19 0)

/-- SWEEP_MS, held to 1 to 1,000,000 ms (R159). -/
def State.sweepMs (s : State) : Nat := clampNat 1 1000000 (bits (s.reg Reg.TBL_CFG) 19 0)

/-- The first SWEEP_MS boundary after Dial, in ms (R157). -/
def State.nextSweep (s : State) : Nat := (s.dialNs / 1000000 / s.sweepMs + 1) * s.sweepMs

/-- The Dial set, with its audit record and what follows from any step: the slew remainder is discarded, and after an
absolute load DIAL_FAULT is cleared and FAULT left (R37, R39, R45, R46, R47). -/
def State.loadDial (r : StepReq) (s : State) : State :=
  let before := s.dial
  let gone := s.phaseRemain
  let c := if r.absolute then r.value.count else BitVec.ofNat 96 (s.time.voted.toNat + r.value.toNat * 2 ^ 24)
  let s := { s with time := { s.time with a := c, b := c, c := c, slew := 0,
                                          dialFault := s.time.dialFault && !r.absolute } }
  let s := { s with time := { s.time with second := s.dialNs / nsPerSecond, stepped := some (before, s.dial) },
                    tbl := { s.tbl with boundary := min s.tbl.boundary s.nextSweep }
                    pmu := { s.pmu with
                      bank0 := { s.pmu.bank0 with stale := true }, bank1 := { s.pmu.bank1 with stale := true }
                      dumpTaken := none
                      dumpAt := some ((s.dial.toNat - 1) / nsUnits / s.dumpPeriod * s.dumpPeriod) } }
  let s := (s.count Reg.TIME_CNT_STEPS).auditDial (if r.absolute then 3 else 2) before (wordOfInt gone) s.dial 0
  if r.absolute ∧ s.time.disc = .fault then
    (s.setDisc (if s.timeSource = 0 then .freerun else .acquire) false).refSettle
  else s

/-- TAI − UTC: NEXT is copied into CURRENT once Dial is at or above TIME_UTC_EFFECTIVE (R48). -/
def utcApply (s : State) : State :=
  let e := (s.reg Reg.TIME_UTC_EFFECTIVE).toNat
  if e ≠ 0 ∧ e ≤ s.dialNs / nsPerSecond then
    (s.modReg Reg.TIME_UTC_OFFSET fun v => setBits v 15 0 (bits v 31 16)).setReg Reg.TIME_UTC_EFFECTIVE 0
  else s

/-- The pending step or load completes (R46): RESULT reads DONE, and DIAL_AT keeps the last GO's decision, be it of one
refused BUSY meanwhile (DESIGN CHOICE, log entry 92). -/
def stepComplete (s : State) : State :=
  match s.time.pending with
  | none => s
  | some r =>
    let s := { s with time := { s.time with pending := none } }
    let s := s.loadDial r
    utcApply (s.setField Reg.TIME_STEP_RESULT 3 0 1)

/-! ## The reference and PPS (R39 to R43) -/

/-- TIME_REF_10M disappears (R39); a TIME block that stands still acts on it no further (R354, R368). -/
def refLoss (s : State) : State :=
  if !s.time.refPresent then s
  else
    whenClocked (unlessStopped 0 fun s => (s.count Reg.TIME_CNT_REF_LOSS).refSettle)
      { s with time := { s.time with refPresent := false, pllLocked := s.time.pllLocked && s.pllRef } }

/-- TIME_REF_10M is present again and the time PLL locked to it (R39). -/
def refReturn (s : State) : State :=
  whenClocked (unlessStopped 0 State.refSettle) { s with time := { s.time with refPresent := true, pllLocked := true } }

/-- A converter code in 1/256 ns, by the lane's code-density table (R50, R56); the PPS converter is number 256. -/
def State.tdc (s : State) (lane : Nat) (code : Byte) : Nat :=
  match Store.get (fun _ => []) s.time.tdc lane with
  | [] => code.toNat
  | t => (t.getD code.toNat code).toNat

/-- The signed distance of an instant from the nearest whole Dial second, in 1/256 ns (R40). -/
def pps_error (t : Int) : Int :=
  let sec : Int := nsPerSecond * nsUnits
  let r := t % sec
  if 2 * r < sec then r else r - sec

/-- The loop's state after an edge or a second that was missing or an outlier (R39, R41; log entry 79). -/
def State.ppsMiss (s : State) : State :=
  let s := { s with time := { s.time with ppsBad := s.time.ppsBad + 1, ppsGood := 0, ppsSeen := false } }
  if s.time.disc = .locked ∧ 3 ≤ s.time.ppsBad then s.setDisc .holdover false else s

/-- An outlier: ignored and counted; the last sixteen consecutive ones, where they agree within 10 ns, lead to ACQUIRE and
a slew toward them (R41). -/
def State.ppsOutlier (e : Int) (s : State) : State :=
  let s := (s.count Reg.TIME_CNT_PPS_OUTLIER).ppsMiss
  let l := (e :: s.time.outliers).take 16
  let agrees := l.all fun x => l.all fun y => decide (x - y ≤ 10 * nsUnits)
  let s := { s with time := { s.time with outliers := l } }
  if l.length = 16 ∧ agrees then
    let s := { s with time := { s.time with outliers := [] } }
    let s := if s.time.disc = .locked ∨ (s.time.disc = .holdover ∧ s.refIsPresent) then s.setDisc .acquire false else s
    if s.time.disc = .acquire then s.addPhase (-e) else s
  else s

/-- An accepted edge in PPS mode: the loop steers, its frequency value a free one, and may lock (R39, R40); in FREERUN, HOLDOVER
and FAULT it writes neither frequency nor phase (DESIGN CHOICE, log entry 6). -/
def State.ppsSteer (e : Int) (s : State) : State :=
  let good := if e.natAbs ≤ 2 * nsUnits then s.time.ppsGood + 1 else 0
  let s := { s with time := { s.time with ppsGood := good, ppsBad := 0, outliers := [] } }
  let s :=
    if s.time.disc = .acquire ∨ s.time.disc = .locked then
      let f := Config.freeNat s.free
      ({ s with free := s.free + 1 }.storeFreq (f % 2 ^ 32)).addPhase (-e)
    else s
  if good < 8 then s
  else if s.time.disc = .acquire then s.setDisc .locked false
  else if s.time.disc = .holdover ∧ s.refIsPresent then s.relock
  else s

/-- The Dial of a strobe's TIME cycle: in the cycle of a step it is the post-step Dial (R45). -/
def State.strobeDial (s : State) (d : Dial) : Dial :=
  match s.time.stepped with
  | some (before, after) => if d = before then after else d
  | none => d

/-- A PPS_IN edge: only the selected one is stamped (R40, R41). TIME_PPS_ERR holds the low 32 bits of an error that the
other modes let grow past them (DESIGN CHOICE, log entry 6). A stack member, whose Dial GAL steers, judges no edge an outlier, as
no mode but PPS does (DESIGN CHOICE, log entry 68). -/
def ppsEdge (falling : Bool) (strobe : Dial) (code : Byte) (s : State) : State :=
  if falling != bit (s.voted Reg.TIME_CFG) 4 then s
  else
    let cal := signed 32 (bits (s.reg Reg.TIME_PPS_CAL) 31 0)
    let e := pps_error (((s.strobeDial strobe).toNat + s.tdc 256 code : Nat) - cal)
    let loop := decide (s.timeSource = 1) && !s.stackMember
    if loop ∧ 100 * nsUnits < e.natAbs then s.ppsOutlier e
    else
      let s := s.setReg Reg.TIME_PPS_ERR (word (BitVec.ofInt 32 e).toNat)
      let s := { s.count Reg.TIME_CNT_PPS_EDGES with time := { s.time with ppsSeen := true } }
      if loop then s.ppsSteer e else s

/-- A Dial second passes with no edge, in PPS mode (R41). A stack member's discipline is GAL's (R314). -/
def ppsMissing (s : State) : State :=
  if s.timeSource = 1 then
    let s := { s with time := { s.time with outliers := [] } }.count Reg.TIME_CNT_PPS_MISSING
    if s.stackMember then { s with time := { s.time with ppsSeen := false } } else s.ppsMiss
  else s

/-- The level PPS_OUT has at this Dial (R43). With EN set, or a step landing, inside a pulse's window, the pin is high
for the rest of it (DESIGN CHOICE, log entry 92). -/
def State.ppsOutLevel (s : State) : Bool :=
  let r := s.reg Reg.TIME_PPS_OUT
  let t : Int := (s.dialNs : Int) - signed 32 (bits r 63 32)
  bit r 0 && decide (t % (nsPerSecond : Int) < 1000 * (bits r 15 8 : Nat))

/-- PPS_OUT follows Dial (R43). -/
def ppsOutEdge (s : State) : State :=
  let l := s.ppsOutLevel
  if l = s.time.ppsOut then s
  else { s with time := { s.time with ppsOut := l } }.emit (.pin "PPS_OUT" l)

/-! ## Stamps (R49 to R53) -/

/-- The lane modes of R49. -/
inductive LaneMode where
  | rs544x100 | rs544x50 | rs528x25 | plain25 | plain10
  deriving DecidableEq, Repr

/-- The unit length N in bits. -/
def LaneMode.unit : LaneMode → Nat
  | .rs544x100 => 5440 | .rs544x50 => 5440 | .rs528x25 => 5280 | .plain25 => 66 | .plain10 => 66

/-- The lane rate R, in units of 10^-5 Gb/s. -/
def LaneMode.rate : LaneMode → Nat
  | .rs544x100 => 10625000 | .rs544x50 => 5312500 | .rs528x25 => 2578125 | .plain25 => 2578125 | .plain10 => 1031250

/-- A whole number of 1/256 ns less a number of line bits at a rate, rounded once, halves upward (R50). -/
def lessBits (whole : Int) (bits rate : Nat) : Int :=
  (2 * whole * rate - 2 * (bits * 256 * 100000 : Nat) + rate) / (2 * rate)

/-- The stamp of R50 from its terms, in 1/256 ns: the strobe, everything subtracted from it, and the alignment
compensation. -/
def stampOf (m : LaneMode) (strobe : Nat) (less : Int) (b : Nat) : Dial :=
  BitVec.ofInt 72 (lessBits (strobe - less) (m.unit - b) m.rate)

/-- What R50 and R51 subtract for a frame of a slot that arrived on a lane: rx_cal, temp, the deskew delay of a bonded
port's lane, and ext. -/
def State.stampLess (s : State) (slot lane : Nat) : Int :=
  (bits (s.reg (Reg.TIME_LANE_RX_CAL lane)) 19 0 : Int)
    + signed 16 (bits (s.reg (Reg.TIME_LANE_TEMP lane)) 15 0)
    + ((s.port slot).deskew.getD (lane - slot) 0 : Nat)
    + signed 16 (bits (s.reg (Reg.TIME_LANE_EXT slot)) 15 0)

/-- The stamp of a frame (R45, R50, R51). -/
def State.stamp (s : State) (m : LaneMode) (slot : Nat) (f : RxFrame) : Dial :=
  stampOf m ((s.strobeDial f.strobe).toNat + s.tdc f.lane f.code) (s.stampLess slot f.lane) f.offset

/-! ## Calibration (R55, R56) -/

/-- One lane's correction moved toward its measured value by at most 4/256 ns, within ±2.0 ns (R55). -/
def recalStep (old target : Int) : Int := clampInt (-512) 512 (old + clampInt (-4) 4 (target - old))

/-- The measured corrections of an octet's lanes applied (R55). -/
def recalUpdate (octet : Nat) (target : List Int) (s : State) : State :=
  if !s.recalEn then s
  else (target.take 8).zipIdx.foldl
    (fun s (t, i) =>
      let k := Reg.TIME_LANE_TEMP (8 * octet + i)
      let c := recalStep (signed 16 (bits (s.reg k) 15 0)) t
      (s.setReg k (word (BitVec.ofInt 16 c).toNat)).count Reg.TIME_CNT_RECAL_UPDATES) s

/-- A converter's new table installed: a lane's, or that of PPS_IN, number 256 (R40, R56). -/
def tdcRecal (lane : Nat) (table : List Byte) (s : State) : State :=
  if !s.recalEn then s
  else { s with time := { s.time with tdc := Store.put (fun _ => []) lane table s.time.tdc } }

/-! ## Reading the Dial (R35) -/

/-- The Dial's fraction latched into a reader's own TIME_DIAL_FRAC (R35). -/
def State.latchFrac (who : Party) (s : State) : State :=
  s.setReg (Reg.perPf who.copy Reg.TIME_DIAL_FRAC) (word (bits s.dial 7 0))

/-- A 64-bit read of TIME_DIAL_NS latches the fraction into the reader's own TIME_DIAL_FRAC; before the datapath is
ready a host's read returns 0 and latches nothing (R231). No VF reaches TIME (R306). -/
def dialNsRead (who : Party) (s : State) : State :=
  match who with
  | .vf _ _ => s
  | w =>
    if !s.reaches w then s.unreached w
    else if w.isHost ∧ ¬ s.ready then s.emit (.readData w 0)
    else
      (s.latchFrac w).emit (.readData w (word s.dialNs))

/-! ## The meanings -/

def execTimeDialNsRead (who : Party) (s : State) : Answer := within (Instr.wf (.timeDialNsRead who)) (dialNsRead who s) s

def execTimeAdjFreqWrite (who : Party) (v : Word) (s : State) : Answer :=
  within (Instr.wf (.timeAdjFreqWrite who v)) (pfWrite who false false (whole who Reg.TIME_ADJ_FREQ (unlessStopped 0 (timeAdjFreq who v))) s) s

def execTimeAdjPhaseWrite (who : Party) (v : Word) (s : State) : Answer :=
  within (Instr.wf (.timeAdjPhaseWrite who v)) (pfWrite who false false (whole who Reg.TIME_ADJ_PHASE (unlessStopped 0 (timeAdjPhase who v))) s) s

def execTimeCfgWrite (who : Party) (v : Word) (s : State) : Answer :=
  within (Instr.wf (.timeCfgWrite who v)) (pfWrite who false false (whole who Reg.TIME_CFG (unlessStopped 0 (timeCfgWrite v))) s) s

def execTimeDiscWrite (who : Party) (v : Word) (s : State) : Answer :=
  within (Instr.wf (.timeDiscWrite who v)) (pfWrite who false false (whole who Reg.TIME_DISC (unlessStopped 0 (timeDiscWrite who v))) s) s

def execStep (who : Party) (s : State) : Answer :=
  within (Instr.wf (.step who)) (pfWrite who false false (whole who Reg.TIME_STEP_CTL (unlessStopped 0 (stepGo false))) s) s

def execAbsoluteLoad (who : Party) (s : State) : Answer :=
  within (Instr.wf (.absoluteLoad who)) (pfWrite who false false (whole who Reg.TIME_STEP_CTL (unlessStopped 0 (stepGo true))) s) s

def execRefLoss (s : State) : Answer := within (Instr.wf .refLoss) (refLoss s) s

def execRefReturn (s : State) : Answer := within (Instr.wf .refReturn) (refReturn s) s

def execPpsEdge (falling : Bool) (strobe : Dial) (code : Byte) (s : State) : Answer :=
  within (Instr.wf (.ppsEdge falling strobe code)) (whenClocked (unlessStopped 0 (ppsEdge falling strobe code)) s) s

def execPpsMissing (s : State) : Answer := within (Instr.wf .ppsMissing) (whenClocked (unlessStopped 0 ppsMissing) s) s

def execPpsOutEdge (s : State) : Answer := within (Instr.wf .ppsOutEdge) (whenClocked (unlessStopped 0 ppsOutEdge) s) s

def execUtcOffsetApply (s : State) : Answer :=
  within (Instr.wf .utcOffsetApply) (whenClocked (unlessStopped 0 utcApply) s) s

def execRecalUpdate (octet : Nat) (target : List Int) (s : State) : Answer :=
  within (Instr.wf (.recalUpdate octet target)) (whenClocked (unlessStopped 0 (recalUpdate octet target)) s) s

def execTdcRecal (lane : Nat) (table : List Byte) (s : State) : Answer :=
  within (Instr.wf (.tdcRecal lane table)) (whenClocked (unlessStopped 0 (tdcRecal lane table)) s) s

end Sys2Proof.Machine
end

