-- ==== Sys2Proof/Machine/PortOps.lean ====
section
/-! DEFINITION. Machine/PortOps.lean: what the blocks beyond PORT ask of a port slot: its mode, its bond, its latencies
and rates (R11, R61, R78, R80, R126), and of the Gallery stack (R315). -/

namespace Sys2Proof.Machine

/-! ## Modes (R61, R87) -/

/-- PORT_MODE of a slot. -/
def State.portMode (s : State) (n : Nat) : Word := s.voted (Reg.PORT_MODE n)

def State.slotOn (s : State) (n : Nat) : Bool := bit (s.portMode n) 0
def State.macsecOn (s : State) (n : Nat) : Bool := bit (s.portMode n) 8
def State.isInfra (s : State) (n : Nat) : Bool := bit (s.portMode n) 9

/-- The SPEED and FEC fields of a PORT_MODE value. -/
def speedOf (m : Word) : Nat := bits m 3 1
def fecOf (m : Word) : Nat := bits m 5 4

/-- Lanes of a SPEED. -/
def lanesOf : Nat → Nat
  | 4 => 2 | 5 => 4 | 6 => 8 | _ => 1

/-- The MAC rate of a SPEED, in Gb/s. -/
def macRate : Nat → Nat
  | 0 => 10 | 1 => 25 | 2 => 50 | 3 => 100 | 4 => 200 | 5 => 400 | _ => 800

/-- The lane mode of a PORT_MODE value (R49). -/
def laneMode (m : Word) : LaneMode :=
  match speedOf m with
  | 0 => .plain10
  | 1 => if fecOf m = 1 then .rs528x25 else .plain25
  | 2 => .rs544x50
  | _ => .rs544x100

/-- The slot whose bonded port covers slot n, n itself where none does (R11). A bonded SPEED on a DISABLED slot covers
none before its next ENABLE (R62). -/
def State.portOfLane (s : State) (n : Nat) : Nat :=
  match [8, 4, 2].find? fun l =>
      decide (n % l ≠ 0 ∧ l ≤ lanesOf (speedOf (s.portMode (n - n % l)))) && s.slotOn (n - n % l) with
  | some l => n - n % l
  | none => n

/-- A bonded port leaves the slot idle (R11). -/
def State.isIdle (s : State) (n : Nat) : Bool := decide (s.portOfLane n ≠ n)

/-- A counter of a slot rises; a slot that a bonded port leaves idle carries no counters (R11). -/
def State.countSlot (n k : Nat) (s : State) : State := if s.isIdle n then s else s.count k
def State.countSlotBy (n k m : Nat) (s : State) : State := if s.isIdle n then s else s.countBy k m

/-- A configuration write to a slot: ignored and counted when a bonded port covers the slot (R11). -/
def onSlot (n : Nat) (f : State → State) (s : State) : State :=
  if s.isIdle n then s.count Reg.PORT_CNT_IDLE_SLOT_WRITES else f s

/-- The slot is UP. -/
def State.isUp (s : State) (n : Nat) : Bool := decide ((s.port n).link = .up)

/-- PORT_FRAME.MAX_FRAME, held to 64 to 9,216 bytes. -/
def State.maxFrame (s : State) (n : Nat) : Nat := clampNat 64 9216 (bits (s.reg (Reg.PORT_FRAME n)) 13 0)

/-- The maximum ingress-to-sequencer latency of a PORT_MODE value, in ns (R78). -/
def lmaxOf (m : Word) : Nat :=
  match laneMode m, bit m 8 with
  | .rs544x100, false => 330 | .rs544x100, true => 410
  | .rs544x50, false => 503 | .rs544x50, true => 626
  | .rs528x25, false => 848 | .rs528x25, true => 1056
  | .plain25, false => 695 | .plain25, true => 902
  | .plain10, false => 1423 | .plain10, true => 1885

def State.lmax (s : State) (n : Nat) : Nat := lmaxOf (s.portMode n)

/-! ## Stamp-driven buckets (R79, R84) -/

/-- A bucket refilled to a stamp at its own rate. -/
def Bucket.refill (b : Bucket) (stamp : Dial) : Bucket :=
  let elapsed := match b.last with
    | some l => stamp.toNat - l.toNat
    | none => 0
  { b with tokens := min (b.burst * tokenUnit) (b.tokens + elapsed * b.rate), last := some stamp }

/-- A change of rate and depth from a stamp on: the tokens are kept, clipped. Before the first frame no time has elapsed,
and the bucket stays so. -/
def Bucket.change (b : Bucket) (stamp : Dial) (rate burst : Nat) : Bucket :=
  let r := b.refill stamp
  { r with tokens := min (burst * tokenUnit) r.tokens, last := if b.last = none then none else r.last
           rate := rate, burst := burst }

/-- One token taken at a stamp: whether there was one, and the bucket after it. -/
def Bucket.spend (b : Bucket) (stamp : Dial) : Bool × Bucket :=
  let b := b.refill stamp
  if tokenUnit ≤ b.tokens then (true, { b with tokens := b.tokens - tokenUnit }) else (false, b)

/-- The policer with every change up to a stamp in force (R80). -/
def Policer.upTo (p : Policer) (stamp : Dial) : Policer :=
  let due := p.changes.filter fun c => decide (c.1 * nsPerSecond ≤ stamp.ns)
  { p with bucket := due.foldl (fun b c => b.change (dialOfNs (c.1 * nsPerSecond)) c.2.1 c.2.2) p.bucket
           changes := p.changes.filter fun c => decide (stamp.ns < c.1 * nsPerSecond) }

/-- The policer of a slot that is enabled at a Dial: what has come into force by then, and its bucket full (R79). -/
def Policer.enabled (p : Policer) (d : Dial) : Policer :=
  let p := p.upTo d
  { p with bucket := Bucket.full p.bucket.rate p.bucket.burst }

/-! ## Admission rates (R79, R80) -/

/-- The configured RATE and BURST of a slot. -/
def State.admitRate (s : State) (n : Nat) : Nat := bits (s.reg (Reg.PIPE_ADMIT n)) 31 0
def State.admitBurst (s : State) (n : Nat) : Nat := bits (s.reg (Reg.PIPE_ADMIT n)) 47 32

/-- The rate in force at a Dial instant: the last change scheduled at or before it (R80). -/
def Policer.rateAt (p : Policer) (d : Dial) : Nat :=
  (p.changes.filter fun c => decide (c.1 * nsPerSecond ≤ d.ns)).foldl (fun _ c => c.2.1) p.bucket.rate

/-- The rate in force now (PIPE_ADMIT_EFF). -/
def State.rateInForce (s : State) (n : Nat) : Nat := (s.policer n).rateAt s.dial

/-! ## The guard interval (R126, R127) -/

/-- G of a port, in 1/256 ns, rounded up. -/
def State.guardOf (s : State) (n : Nat) : Nat :=
  let m := s.portMode n
  divUp ((s.maxFrame n + 20 + (if bit m 8 then 32 else 0)) * 8 * 256) (macRate (speedOf m))

/-- G_pe of a port with preemption active. -/
def State.guardPre (s : State) (n : Nat) : Nat :=
  divUp ((64 * (1 + (s.egr n).addFrag) + 87) * 8 * 256) (macRate (speedOf (s.portMode n)))

/-- The guard interval in force. -/
def State.guardNow (s : State) (n : Nat) : Nat := if (s.egr n).preempt then s.guardPre n else s.guardOf n

/-! ## The Gallery stack (R312, R315, R316) -/

/-- MEMBERS, without this device. -/
def State.stackPeers (s : State) : List Nat :=
  (List.range 8).filter fun i => (s.reg Reg.GAL_CFG).getLsbD (8 + i) && decide (i ≠ s.gal.devId)

/-- A link of this device, by number. -/
def State.galLink (s : State) (n : Nat) : GalLink := s.gal.links.getD n GalLink.off

/-- A direct UP link to a device. -/
def State.directLink (s : State) (dev : Nat) : Option Nat :=
  (List.range 8).find? fun n => decide ((s.galLink n).phase = .up ∧ (s.galLink n).peer = dev)

/-- A device's UP links, as its last sample said; none while it has sent none. -/
def State.reachOf (s : State) (dev : Nat) : Option (BitVec 8) := s.gal.reach.getD dev none

/-- The DEV_IDs to which this device holds an UP link. -/
def State.reach (s : State) : BitVec 8 :=
  BitVec.ofNat 8 ((s.stackPeers.filter fun dev => (s.directLink dev).isSome).map fun dev => 2 ^ dev).sum

/-- The device that relays between this one and another without a direct UP link: the lowest DEV_ID that holds an UP link
to both. The rule leaves the lower-numbered of the two, which chooses it, no choice, so both ends find it (R312). -/
def State.relayFor (s : State) (dev : Nat) : Option Nat :=
  if (s.directLink dev).isSome then none
  else s.stackPeers.find? fun r => (s.directLink r).isSome && (s.reachOf r).any (·.getLsbD dev)

/-- A device is reachable, directly or through a relay (R312, R324). -/
def State.inReach (s : State) (dev : Nat) : Bool := (s.directLink dev).isSome || (s.relayFor dev).isSome

/-- This device relays between two others: both say that they hold no UP link to each other, and no lower DEV_ID holds one to
both (R312). -/
def State.relays (s : State) (a b : Nat) : Bool :=
  match s.reachOf a, s.reachOf b with
  | some ra, some rb =>
    decide (a ≠ b) && (s.directLink a).isSome && (s.directLink b).isSome && !ra.getLsbD b && !rb.getLsbD a
      && (List.range s.gal.devId).all fun r => !(ra.getLsbD r && rb.getLsbD r)
  | _, _ => false

/-- The stack is in lock on this device (R315). -/
def State.stackLock (s : State) : Bool :=
  (s.reg Reg.GAL_CFG).getLsbD 0 && s.stackPeers.all (fun i => (s.directLink i).isSome && s.gal.locks.getLsbD i)
    && s.gal.links.all (fun l => !l.relay) && (s.gal.dialLock || decide (s.gal.authority = s.gal.devId))

/-- MERGERS and FEEDERS of a domain, as masks without this device (R316). -/
def State.mergers (s : State) (d : Nat) : List Nat :=
  (List.range 8).filter fun i => (s.reg (Reg.GAL_DOM d)).getLsbD i && decide (i ≠ s.gal.devId)
def State.feeders (s : State) (d : Nat) : List Nat :=
  (List.range 8).filter fun i => (s.reg (Reg.GAL_DOM d)).getLsbD (8 + i) && decide (i ≠ s.gal.devId)

end Sys2Proof.Machine
end

