-- ==== Sys2Proof/Machine/SeqOps.lean ====
section
/-! DEFINITION. Machine/SeqOps.lean: the operations of the sequencer (R90 to R117, R288, R317, R405): feeds, the merge
key, arrival at the hold store, the merge, delivery and halts. -/

namespace Sys2Proof.Machine

/-! ## SEQ_DOMAIN_CFG (R119) -/

def State.seqCfg (s : State) (d : Nat) : Word := s.voted (Reg.SEQ_DOMAIN_CFG d)
def State.musterNs (s : State) (d : Nat) : Nat := bits (s.seqCfg d) 16 0
def State.lateDrops (s : State) (d : Nat) : Bool := bit (s.seqCfg d) 17
def State.tieRotate (s : State) (d : Nat) : Bool := bit (s.seqCfg d) 18
def State.stacked (s : State) (d : Nat) : Bool := bit (s.seqCfg d) 20
def State.role (s : State) (d : Nat) : Nat := bits (s.seqCfg d) 22 21
def State.backlogMax (s : State) (d : Nat) : Nat := bits (s.seqCfg d) 44 32

/-- The values that SEQ_DOMAIN_CFG takes (R96, R119). -/
def seqCfgValid (v : Word) : Bool :=
  decide (200 ≤ bits v 16 0 ∧ bits v 16 0 ≤ 100000 ∧ bits v 22 21 ≠ 3 ∧ 16 ≤ bits v 44 32 ∧ bits v 44 32 ≤ 4096)

/-- A feeder of a stacked domain numbers, delivers and audits nothing (R316). -/
def State.isFeeder (s : State) (d : Nat) : Bool := s.stacked d && decide (bits (s.reg (Reg.GAL_DOM d)) 15 8 = 0)

/-! ## Feeds (R90, R97) -/

/-- The slot is in the feed of the domain (R90). -/
def State.inFeed (s : State) (d n : Nat) : Bool :=
  (s.reg (Reg.SEQ_FEED d (n / 64))).getLsbD (n % 64) && !s.isIdle n

/-- The slots of a feed. -/
def State.feed (s : State) (d : Nat) : List Nat := (List.range 256).filter (s.inFeed d)

/-- The slot feeds a domain that is not CLOSED (R52, R62). -/
def State.feedsOpen (s : State) (n : Nat) : Bool := (List.range 16).any fun d => s.isOpen d && s.inFeed d n

/-- P_d: the largest L_max among the device's own slots in the feed (R317). -/
def State.premerge (s : State) (d : Nat) : Nat := ((s.feed d).map s.lmax).foldl max 0

/-- SEQ_MUSTER_MIN (R97, R316). -/
def State.musterMin (s : State) (d : Nat) : Nat :=
  if s.stacked d then ((s.feeders d).map (Config.peerLmax · d)).foldl max (s.premerge d) + 250 else s.premerge d

/-- MUSTER_SHORT (R97). -/
def State.musterShort (s : State) (d : Nat) : Bool := decide (s.musterNs d < s.musterMin d)

/-- The slots of other devices in the feed of a stacked domain on a merger (R316). -/
def State.peerFeed (s : State) (d : Nat) : List (Nat × Nat) :=
  if s.stacked d then
    (s.feeders d).flatMap fun dev => ((List.range 256).filter (Config.peerFeed dev d)).map fun n => (dev, n)
  else []

/-- The sum of RATE over the feed, that of the feeding devices included (R116, R316). -/
def State.feedRate (s : State) (d : Nat) : Nat :=
  ((s.feed d).map s.admitRate).sum + ((s.peerFeed d).map fun x => Config.peerAdmit x.1 x.2).sum

/-- The largest MUSTER_NS, as SEQ_DOMAIN_CFG words give it, among the domains for which a test holds; none where none
does. -/
def largestMuster (cfg : Nat → Word) (feeds : Nat → Bool) : Option Nat :=
  (List.range 16).foldl (fun a d => if feeds d then some (max (a.getD 0) (bits (cfg d) 16 0)) else a) none

/-- What a slot's messages take of the hold store, in bytes × 10^9 ns: its whole admission limit for the longest muster
window of the domains it feeds (R22). -/
def slotTakes (rate : Nat) (muster : Option Nat) : Nat :=
  match muster with
  | some m => rate * (m + 410) * 2048
  | none => 0

/-- The hold-store check of R22 and R103 with the admission rates and SEQ_DOMAIN_CFG given, in bytes × 10^9 ns; the feed of
a merger is that of its feeders too (R316). -/
def State.storeFits (s : State) (rate : Nat → Nat) (cfg : Nat → Word) : Bool :=
  let feeders := fun (d : Nat) => if bit (cfg d) 20 then s.feeders d else []
  let own := ((List.range 256).map fun n => slotTakes (rate n) (largestMuster cfg fun d => s.inFeed d n)).sum
  let peers := ((List.range 8).filter fun dev => (List.range 16).any fun d => (feeders d).contains dev).map fun dev =>
    ((List.range 256).map fun n => slotTakes (Config.peerAdmit dev n)
      (largestMuster cfg fun d => (feeders d).contains dev && Config.peerFeed dev d n)).sum
  let waits := ((List.range 16).map fun d =>
    if s.feed d = [] ∧ feeders d = [] then 0 else bits (cfg d) 44 32 * 2048 * nsPerSecond).sum
  decide (own + peers.sum + waits ≤ 33554432 * nsPerSecond)

/-! ## The conditions of the timing-independence guarantee (R107, R108, R120) -/

/-- SEQ_DOMAIN_STATUS [11:8]. COND_RATE shows both halves of condition 2, as the table of R107 says. -/
def State.condBits (s : State) (d : Nat) : BitVec 4 :=
  let o := s.isOpen d
  let rate := o && (decide (250000000 < s.feedRate d) || ((s.feed d).any fun n => decide (s.rateInForce n < s.admitRate n))
    || (s.peerFeed d).any fun x => decide (Config.peerInForce x.1 x.2 s.dialNs < Config.peerAdmit x.1 x.2))
  let long := (s.dom d).held.any (·.msg.long)
  let stack := o && s.stacked d && !s.stackLock
  BitVec.ofNat 4 (b2n (o && s.musterShort d) + 2 * b2n rate + 4 * b2n long + 8 * b2n stack)

/-- At least one condition is broken for the domain (R107). -/
def State.condBroken (s : State) (d : Nat) : Bool := decide (s.condBits d ≠ 0)

/-- Each change of a COND_ bit is recorded in the logbook (R108). -/
def State.condPoll (d : Nat) (s : State) : State :=
  let b := s.condBits d
  if (s.dom d).condLast = b then s
  else (s.modDom d fun x => { x with condLast := b }).logEvent 0x301 4 [d, b.toNat]

/-- The same for every domain. -/
def State.condPollAll (s : State) : State := (List.range 16).foldl (fun s d => s.condPoll d) s

/-! ## The merge key (R93 to R95) -/

/-- The tie rank: from the true stamp (R94, R95). -/
def tieRank (rotate stacked : Bool) (port : Nat) (stamp : Dial) : Nat :=
  if rotate then
    let m := if stacked then 2048 else 256
    (port + (m - stamp.ns / nsPerSecond % m)) % m
  else port

/-- The key (stamp, tie rank, arrival index) of a held message. -/
def State.heldKey (s : State) (d : Nat) (h : Held) : Nat × Nat × BitVec 32 :=
  (h.keyStamp.toNat, tieRank (s.tieRotate d) (s.stacked d) h.msg.port h.msg.stamp, h.msg.arrival)

/-- Key order, arrival indices compared modulo 2^32 (R93). -/
def keyLe (a b : Nat × Nat × BitVec 32) : Bool :=
  if a.1 ≠ b.1 then decide (a.1 < b.1)
  else if a.2.1 ≠ b.2.1 then decide (a.2.1 < b.2.1)
  else decide ((b.2.2 - a.2.2).toNat < 2 ^ 31)

/-- A message put at its place in key order. -/
def insertKey {α : Type} (le : α → α → Bool) (x : α) : List α → List α
  | [] => [x]
  | y :: ys => if le x y then x :: y :: ys else y :: insertKey le x ys

/-- Messages in key order. -/
def sortKey {α : Type} (le : α → α → Bool) (xs : List α) : List α := xs.foldr (insertKey le) []

/-! ## Halts (R111) -/

/-- The halt causes. -/
abbrev causeVote : Nat := 1
abbrev causeDial : Nat := 2
abbrev causeDelivery : Nat := 3
abbrev causeExhausted : Nat := 4
abbrev causeStack : Nat := 5

/-- A standby and a feeder produce no audit records (R112, R316; log entry 41). -/
def State.domainEvent (d event : Nat) (stamp : Dial) (seq : Word) (digest : Nat) (s : State) : State :=
  if s.role d = 2 ∨ s.isFeeder d then s else s.auditDomain d event stamp seq digest

/-- The messages of the merge tree that have not left it: those of its first copy that is not fenced. -/
def DomState.unmerged (x : DomState) : List Held :=
  if !x.fenced.getLsbD 0 then x.treeA else if !x.fenced.getLsbD 1 then x.treeB else x.treeC

/-- An open domain halts; what has been released to the merge and not emitted counts as held (R111). -/
def State.haltDomain (d cause : Nat) (s : State) : State :=
  let p := (s.dom d).phase
  if p = .closed ∨ p = .halted then s
  else
    let last := s.reg (Reg.SEQ_LAST_NUMBER d)
    let s := s.modDom d fun x =>
      { x with phase := .halted, frontier := if p = .opening then s.dial else x.frontier
               held := x.held ++ x.unmerged, treeA := [], treeB := [], treeC := [] }
    let s := s.setReg (Reg.SEQ_HALT_INFO d) (word (cause + s.dial.toNat / 2 ^ 16 * 2 ^ 8))
    let s := (s.count (Reg.SEQ_CNT_HALTS d)).logEvent 0x303 4 [d, cause, bits last 31 0, bits last 63 32]
    (s.domainEvent d 2 s.dial last cause).condPoll d

/-! ## Delivery (R101, R102, R246) -/

/-- The ring context that takes a domain's messages or rejects (SEQ_RINGS). -/
def State.seqRing (s : State) (d : Nat) (reject : Bool) : Nat :=
  let r := s.reg (Reg.SEQ_RINGS d)
  if reject then bits r 31 16 else bits r 15 0

/-- The ring type that takes them (R239). -/
def seqRingType (reject : Bool) : Nat := if reject then 2 else 1

/-- DMA of a function goes out at once: its Bus Master Enable is 1 and it is not in D3hot (R232). -/
def State.mayMaster (s : State) (o : Party) : Bool := !o.isHost || ((s.fn o).busMaster && !(s.fn o).d3)

/-- The ring has an entry that the device owns (R101, R244). -/
def State.entryReady (s : State) (d : Nat) (reject : Bool) : Bool :=
  let r := s.ring (s.seqRing d reject)
  decide (r.phase = .active ∧ r.type = seqRingType reject ∧ r.hamper ≠ []) && s.ringServed r && s.mayMaster r.owner

/-- Bytes 8 to 55 of a delivery entry (R246). -/
def deliveryFields (n : Numbered) : List Byte :=
  leBytes 2 n.msg.bytes.length ++ leBytes 2 (n.flags &&& 0xBDF).toNat
    ++ [BitVec.ofNat 8 n.msg.port, BitVec.ofNat 8 n.msg.domain, n.msg.reason, n.msg.rejectMap]
    ++ leBytes 16 n.msg.stamp.toNat ++ leBytes 8 n.seq.toNat ++ leBytes 8 n.releaseNs ++ zeros 8

/-- A numbered message written into the ring's next entry: the buffer, then the entry (R246, R225). -/
def State.deliverInto (c : Nat) (n : Numbered) (s : State) : State :=
  let r := s.ring c
  match r.hamper with
  | [] => s
  | e :: rest =>
    let s := (s.modRing c fun r => { r with hamper := rest }).takeWith c e (some (n.msg.domain, n))
    let s := s.ringWrite c (leField e 0 8) n.msg.bytes ((leField e 56 8 % 2 == 1) && s.relaxed r.owner)
    s.complete c r.serial [(8, deliveryFields n)]

/-- The domain's backlog, both rings together. -/
def DomState.backlog (x : DomState) : Nat := x.backM.length + x.backR.length

/-- A numbered message passed to its ring, or waiting for an entry; a backlog at its limit halts the domain (R101,
R102). -/
def State.deliver (d : Nat) (n : Numbered) (s : State) : State :=
  let rej := decide (n.msg.reason ≠ 0)
  let waiting := if rej then (s.dom d).backR else (s.dom d).backM
  if waiting = [] ∧ s.entryReady d rej then s.deliverInto (s.seqRing d rej) n
  else
    let s := s.modDom d fun x => if rej then { x with backR := x.backR ++ [n] } else { x with backM := x.backM ++ [n] }
    let s := s.count (Reg.SEQ_CNT_BACKLOG_WAIT d)
    let b := (s.dom d).backlog
    let s := s.modReg (Reg.SEQ_BACKLOG d) fun v => setBits v 44 32 (max (bits v 44 32) b)
    if s.backlogMax d ≤ b then s.haltDomain d causeDelivery else s

/-- The oldest waiting message of a ring is written into an entry (R101). -/
def backlogDelivery (d : Nat) (rej : Bool) (s : State) : State :=
  match if rej then (s.dom d).backR else (s.dom d).backM with
  | [] => s
  | n :: rest =>
    if s.entryReady d rej then
      let s := s.modDom d fun x => if rej then { x with backR := rest } else { x with backM := rest }
      s.deliverInto (s.seqRing d rej) n
    else s

/-! ## Copies for other devices (R288) -/

/-- The queue pair exists in RTS and is posted by the device. -/
def State.copyQp (s : State) (q : Nat) : Bool := decide ((s.qp q).phase = .rts) && (s.qp q).device

/-- The records waiting for a copy queue pair: queue 2d of the mirror, 2d + 1 of the drop copy. -/
def State.copyQueue (s : State) (k : Nat) : List (List Byte) := Store.get (fun _ => []) s.rdma.copyQ k

/-- A record queued. -/
def State.queueCopy (k : Nat) (bs : List Byte) (s : State) : State :=
  { s with rdma := { s.rdma with copyQ := Store.put (fun _ => []) k (s.copyQueue k ++ [bs]) s.rdma.copyQ } }

/-- The copies of one numbered message: its SEQUENCED record and its bytes (R288). -/
def State.sendCopies (d : Nat) (record : List Byte) (s : State) : State :=
  let c := s.reg (Reg.RDMA_SEQ_COPY d)
  let fits := fun (q k : Nat) (s : State) => s.copyQp q && decide ((s.copyQueue k).length < 4096)
  let s :=
    if bit c 56 then
      if fits (bits c 55 32) (2 * d + 1) s then s.queueCopy (2 * d + 1) record else s.count Reg.RDMA_CNT_COPY_DROP
    else s
  if bit c 24 && decide (s.role d = 1) && !s.rdma.broken.getLsbD d then
    if fits (bits c 23 0) (2 * d) s then s.queueCopy (2 * d) record
    else
      { s with rdma := { s.rdma with broken := s.rdma.broken ||| BitVec.ofNat 16 (2 ^ d) } }.logEvent 0x800 12 [d]
  else s

/-! ## Standby comparison (R113) -/

/-- A difference from the primary (R113). -/
def State.mirrorDiffers (d : Nat) (n : Word) (s : State) : State :=
  let s := (s.modDom d fun x => { x with mismatch := true }).count (Reg.SEQ_CNT_MIRROR_MISMATCH d)
  s.logEvent 0x304 4 [d, 0, bits n 31 0, bits n 63 32]

/-- A standby compares its own emission with the primary's record of the same number; a missing record is no
difference (R113). -/
def State.compareMirror (d : Nat) (n : Numbered) (s : State) : State :=
  match (s.dom d).mirrors.find? (fun r => r.seq == n.seq) with
  | none => s
  | some r =>
    let s := s.modDom d fun x => { x with mirrors := x.mirrors.filter fun r => r.seq != n.seq }
    if r.stamp = n.msg.stamp ∧ r.stackPort = n.msg.port ∧ r.bytes = n.msg.bytes then s else s.mirrorDiffers d n.seq

/-! ## Voting (R30, R32, R110) -/

/-- Copy i of the sequence counter, and of the merge tree. -/
def DomState.copyOf (x : DomState) : Nat → Word
  | 0 => x.copyA | 1 => x.copyB | _ => x.copyC
def DomState.treeOf (x : DomState) : Nat → List Held
  | 0 => x.treeA | 1 => x.treeB | _ => x.treeC

/-- The copies that are not fenced. -/
def DomState.live (x : DomState) : List Nat := [0, 1, 2].filter fun i => !x.fenced.getLsbD i

/-- What copy i puts out next: the message at the front of its tree, with all its flags come from, and its number. -/
def DomState.output (x : DomState) (i : Nat) : Option Held × Word := ((x.treeOf i).head?, x.copyOf i)

/-- The outcome of a vote over the outputs of the copies: the majority's output with the outvoted copy, or none without a
majority. -/
def voteOf {α : Type} [DecidableEq α] : List (Nat × α) → Option (α × Option Nat)
  | [(i, a), (j, b), (k, c)] =>
    if a = b then some (a, if c = a then none else some k)
    else if a = c then some (a, some j)
    else if b = c then some (b, some i)
    else none
  | (_, a) :: rest => if rest.all fun x => x.2 == a then some (a, none) else none
  | [] => none

/-- The vote on the domain's next output. -/
def DomState.vote (x : DomState) : Option ((Option Held × Word) × Option Nat) :=
  voteOf (x.live.map fun i => (i, x.output i))

/-- Setting every copy of the sequence counter, and SEQ_NEXT. -/
def State.setNext (d : Nat) (n : Word) (s : State) : State :=
  (s.modDom d fun x => { x with copyA := n, copyB := n, copyC := n }).setReg (Reg.SEQ_NEXT d) n

/-- Setting every copy of the merge tree. -/
def State.setTree (d : Nat) (t : List Held) (s : State) : State :=
  s.modDom d fun x => { x with treeA := t, treeB := t, treeC := t }

/-- A copy is fenced, with a logbook record (R110). -/
def State.fenceCopy (d i : Nat) (s : State) : State :=
  (s.modDom d fun x => { x with fenced := x.fenced ||| BitVec.ofNat 3 (2 ^ i)
                                disagree := x.disagree.filter fun e => e.1 != i }).logEvent 0x302 4 [d, i]

/-- Copy i was outvoted (R32, R110): that is counted; a copy that disagrees at the first release after a reopening as it
did before stays fenced, and one whose 16th disagreement falls within 1 s of its 1st is fenced. -/
def State.outvoted (d i : Nat) (s : State) : State :=
  let s := s.count (Reg.SEQ_CNT_VOTE_CORRECTED d)
  let now := s.dialNs
  let h := (i, now) :: (s.dom d).disagree.filter fun x => decide (now ≤ x.2 + nsPerSecond)
  let s := s.modDom d fun x => { x with disagree := h }
  if (s.dom d).suspect.getLsbD i then s.fenceCopy d i
  else if 16 ≤ (h.filter fun x => x.1 == i).length then (s.fenceCopy d i).count (Reg.SEQ_CNT_FENCES d)
  else s

/-- A copy that puts out what the vote has chosen. -/
def DomState.agreeing (x : DomState) (out : Option Held × Word) : Nat :=
  (x.live.find? fun i => decide (x.output i = out)).getD 0

/-- The vote of an output: an outvoted copy is reloaded from the others (R110); without a majority the domain halts. The
first vote after a reopening clears the suspicion of the copies that had been fenced (R32). -/
def State.voteRelease (d : Nat) (s : State) : State :=
  match (s.dom d).vote with
  | none => s.haltDomain d causeVote
  | some (out, loser) =>
    let x := s.dom d
    let s := (s.setNext d out.2).setTree d (x.treeOf (x.agreeing out))
    let s := match loser with
      | none => s
      | some i => s.outvoted d i
    s.modDom d fun x => { x with suspect := 0 }

/-! ## The merge (R98, R99, R104) -/

/-- The flags of a message at its release (R100, R164). -/
def State.releaseFlags (s : State) (d : Nat) (cond takeover : Bool) (h : Held) : BitVec 12 :=
  let st := s.stacked d
  BitVec.ofNat 12 (b2n (decide (h.msg.reason ≠ 0)) + 2 * b2n h.late + 4 * b2n (cond || h.msg.long || h.msg.replay2)
    + 8 * b2n (s.tieRotate d) + 16 * b2n takeover + 64 * b2n st + (if st then 128 * (h.msg.port / 256 % 8) else 0))

/-- The audit record of a numbered message (R163). -/
def State.sequencedRec (s : State) (d : Nat) (n : Numbered) : AuditRec :=
  let (dig, u) := s.digest d (s.reg (Reg.AUD_OPEN_COUNT d)).toNat n.seq.toNat n.msg.bytes
  ⟨.sequenced, d, n.flags.toNat + u, n.msg.port % 256, n.msg.stamp, n.seq, dig⟩

/-- A numbered message is audited, copied and delivered (R99, R288). -/
def State.publish (d : Nat) (n : Numbered) (s : State) : State :=
  let r := s.sequencedRec d n
  let copy := r.bytes s.auditReady.auditIndex ++ n.msg.bytes
  ((s.audit r).sendCopies d copy).deliver d n

/-- What a standby does with a numbered message: it keeps it and compares it (R112, R113). -/
def State.keepStandby (d : Nat) (n : Numbered) (s : State) : State :=
  let m := s.backlogMax d
  (s.modDom d fun x => { x with kept := (x.kept ++ [n]).drop (x.kept.length + 1 - m) }).compareMirror d n

/-- One message leaves the merge (R99): it is numbered, and passed on as the domain's role says. A domain that has
assigned the largest number halts (R104). -/
def State.emitMsg (d : Nat) (cond : Bool) (h : Held) (s : State) : State :=
  let seq := s.reg (Reg.SEQ_NEXT d)
  let standby := decide (s.role d = 2)
  let flags := s.releaseFlags d cond (!standby && (s.dom d).takeover) h
  let n : Numbered := ⟨h.msg, seq, flags, s.dialNs⟩
  let s := if flags.getLsbD 2 then s.count (Reg.SEQ_CNT_COND_RELEASES d) else s
  let s := (s.setNext d (seq + 1)).setReg (Reg.SEQ_LAST_NUMBER d) seq
  let s := s.count (if h.msg.reason = 0 then Reg.SEQ_CNT_MESSAGES d else Reg.SEQ_CNT_REJECTS d)
  let s := if (s.dom d).lastStamp = some h.msg.stamp then s.count (Reg.SEQ_CNT_TIES d) else s
  let s := s.modDom d fun x => { x with lastStamp := some h.msg.stamp }
  let s :=
    if standby then s.keepStandby d n
    else (s.modDom d fun x => { x with takeover := false }).publish d n
  if seq + 1 = 0 then s.haltDomain d causeExhausted else s

/-- No copy of the merge tree holds a message. -/
def DomState.drained (x : DomState) : Bool := x.live.all fun i => (x.treeOf i).isEmpty

/-- The released messages leave the merge in key order, at most n of them, each after its vote, until the domain halts
(R99, R110, R111). -/
def State.emitMsgs (d : Nat) (cond : Bool) : Nat → State → State
  | 0, s => s
  | n + 1, s =>
    if (s.dom d).phase = .halted ∨ (s.dom d).drained then s
    else
      let s := s.voteRelease d
      match (s.dom d).treeA with
      | [] => s
      | h :: rest =>
        if s.reg (Reg.SEQ_NEXT d) = 0 then s.haltDomain d causeExhausted
        else State.emitMsgs d cond n ((s.setTree d rest).emitMsg d cond h)

/-- Messages released to the merge: each copy of its tree takes them in (R99, R110). -/
def State.intoMerge (d : Nat) (batch : List Held) (s : State) : State :=
  let le := fun a b => keyLe (s.heldKey d a) (s.heldKey d b)
  s.modDom d fun x => { x with treeA := sortKey le (x.treeA ++ batch), treeB := sortKey le (x.treeB ++ batch)
                               treeC := sortKey le (x.treeC ++ batch) }

/-- The most messages a copy of the merge tree holds. -/
def DomState.merging (x : DomState) : Nat := max x.treeA.length (max x.treeB.length x.treeC.length)

/-- The frontier has passed a key stamp once Dial reaches it plus MUSTER_NS (R98). -/
def State.frontierAt (s : State) (d : Nat) (dial stamp : Dial) : Bool :=
  decide (stamp.toNat + s.musterNs d * nsUnits ≤ dial.toNat)

/-- The device's own slots' messages carry its DEV_ID. -/
def State.ownPort (s : State) (port : Nat) : Bool := decide (port / 256 = s.gal.devId)

/-- The frontier advances to this cycle's Dial, and every held message at or below it is released to the merge
(R98, R99). A feeder only lets go of what its stream has carried (R316); what a merger takes before its stream frontier is
kept for its stream to the other mergers (R317). -/
def musterRelease (d : Nat) (s : State) : State :=
  let p := (s.dom d).phase
  if !s.dialStopped ∧ (p = .opened ∨ p = .closing) then
    let s := s.modDom d fun x => { x with frontier := s.dial }
    let out := fun (h : Held) => s.frontierAt d s.dial h.keyStamp && (!s.isFeeder d || h.streamed)
    let batch := (s.dom d).held.filter out
    if batch = [] then s
    else
      let cond := s.condBroken d
      let toSend := batch.filter fun h => !h.streamed && s.ownPort h.msg.port
      let unsent := if s.stacked d ∧ !(s.mergers d).isEmpty then toSend else []
      let t := s.modDom d fun x => { x with held := x.held.filter fun h => !out h, unsent := x.unsent ++ unsent }
      if s.isFeeder d then t.condPoll d
      else
        let t := t.intoMerge d batch
        (t.emitMsgs d cond (t.dom d).merging).condPoll d
  else s

/-! ## Pre-merged streams (R317) -/

/-- A held message as a stream carries it to a device, with the mark of a second replay, by link 0 in its record: the link
is the receiver's matter. -/
def streamOf (m : Msg) (dest : Nat) (replay2 : Bool) : StreamMsg :=
  ⟨0, dest, m.domain, m.port, m.stamp, m.arrival, m.reason, m.rejectMap, m.long, replay2, m.bytes⟩

/-- A link carries traffic: it is UP, and no standby to a link that is UP (R312). -/
def State.galCarries (s : State) (n : Nat) : Bool :=
  let c := s.reg (Reg.GAL_LINK_CFG n)
  decide ((s.galLink n).phase = .up) && !(bit c 1 && decide ((s.galLink (bits c 4 2)).phase = .up))

/-- The direct link that carries traffic to a device: an UP link, a standby link only while the one it backs is not UP
(R312). -/
def State.carries (s : State) (dev : Nat) : Option Nat :=
  let direct := (List.range 8).filter fun n => decide ((s.galLink n).phase = .up ∧ (s.galLink n).peer = dev)
  match direct.filter s.galCarries with
  | n :: _ => some n
  | [] => direct.head?

/-- The link that carries traffic to a device: a direct one, or its relay's where there is none (R312). -/
def State.carrier (s : State) (dev : Nat) : Option Nat :=
  match s.carries dev with
  | some n => some n
  | none => (s.relayFor dev).bind s.carries

/-- A message goes out over a link. How many of its flits the link layer replays, and whether one of them a second time, is
not the Moafa's to say: a free value (R309; log entry 96). A mark that the message already has stays. -/
def State.streamOver (l : Nat) (m : StreamMsg) (s : State) : State :=
  let flits := Config.freeNat s.free
  let again := decide (2 ≤ flits) && decide (Config.freeNat (s.free + 1) % 2 = 1)
  let s := ({ s with free := s.free + 2 }.countBy (Reg.GAL_CNT_REPLAY l) flits).count (Reg.GAL_CNT_STREAM_MSGS l)
  s.emit (.galStream m.dest { m with replay2 := m.replay2 || again })

/-- A message goes to every device in MERGERS (R317). -/
def State.streamOut (d : Nat) (m : Msg) (s : State) : State :=
  (s.mergers d).foldl (fun s dev =>
    match s.carrier dev with
    | none => s
    | some l => s.streamOver l (streamOf m dev false)) s

/-- The stream frontier has passed the stamp (R317). -/
def State.streamDue (s : State) (d : Nat) (stamp : Dial) : Bool :=
  decide (stamp.toNat + s.premerge d * nsUnits ≤ s.dial.toNat)

/-! ## Arrival at the hold store (R105, R405) -/

/-- A message counted outside its session (R115). -/
def State.countOutside (d : Nat) (s : State) : State :=
  (s.modDom d fun x => { x with outside := x.outside + 1, outsideNew := true }).count (Reg.SEQ_CNT_OUTSIDE d)

/-- A message enters the hold store, or is late (R105); the record of a dropped one carries its flags of R100. A feeder
judges no lateness (R317); a standby audits nothing (R112). -/
def State.hold (m : Msg) (streamed : Bool) (s : State) : State :=
  let d := m.domain
  let late := !s.isFeeder d && s.frontierAt d (s.dom d).frontier m.stamp
  if late && s.lateDrops d then
    let s := s.count (Reg.SEQ_CNT_LATE_DROP d)
    let f := s.releaseFlags d (s.condBroken d) false ⟨m, m.stamp, true, streamed⟩
    if s.role d = 2 then s
    else s.audit ⟨.lateDrop, d, f.toNat, m.port % 256, m.stamp, s.reg (Reg.SEQ_NEXT d), noDigest⟩
  else
    let s := if late then s.count (Reg.SEQ_CNT_LATE_APPEND d) else s
    let key := if late then BitVec.ofNat 72 (s.dial.toNat - s.musterNs d * nsUnits) else m.stamp
    (s.modDom d fun x => { x with held := x.held ++ [⟨m, key, late, streamed⟩] }).condPoll d

/-- The tests of R405, in order; fed says whether the sender is in the domain's feed. -/
def State.arrive (fed : Bool) (m : Msg) (s : State) : State :=
  let d := m.domain
  let x := s.dom d
  if x.phase = .halted then s.count (Reg.SEQ_CNT_HALT_DROP d)
  else if x.phase = .closed then s.countOutside d
  else if !fed then (s.count (Reg.SEQ_CNT_NOT_FED d)).logEvent 0x300 4 [d, m.port % 256]
  else if m.stamp < x.openAt ∨ (x.phase = .closing ∧ x.closeAt ≤ m.stamp) then s.countOutside d
  else
    let late := s.stacked d && s.ownPort m.port && s.streamDue d m.stamp
    let s := if late then s.streamOut d m else s
    s.hold m late

end Sys2Proof.Machine
end

