-- ==== Sys2Proof/Machine/Gallery.lean ====
section
/-! DEFINITION. Machine/Gallery.lean: Gallery links, the Dial across a stack, lost devices, succession and pre-merged
streams (R309 to R324; log entry 68). -/

namespace Sys2Proof.Machine

def State.setGal (f : GalState → GalState) (s : State) : State := { s with gal := f s.gal }

/-- Changing one link. -/
def State.modGalLink (n : Nat) (f : GalLink → GalLink) (s : State) : State :=
  s.setGal fun g => { g with links := putAt GalLink.off g.links n (f (g.links.getD n GalLink.off)) }

/-- STACK_EN, MEMBERS, SUCCESSOR and STACK_TAG of GAL_CFG. -/
def State.stackEn (s : State) : Bool := bit (s.reg Reg.GAL_CFG) 0
def State.isMember (s : State) (dev : Nat) : Bool := decide (dev < 8) && bit (s.reg Reg.GAL_CFG) (8 + dev)
def State.successor (s : State) : Nat := bits (s.reg Reg.GAL_CFG) 18 16
def State.stackTag (s : State) : Nat := bits (s.reg Reg.GAL_CFG) 47 32

/-! ## Links (R309 to R312) -/

/-- The agreed version: the highest major both offer, with the lower minor; this stepping offers 1.0 (R310). -/
def agreedVersion (offers : List (Nat × Nat)) : Option (Nat × Nat) :=
  (offers.find? fun v => v.1 == 1).map fun v => (1, min v.2 0)

/-- The first check of R310 that fails; 0 when all pass. -/
def State.helloRefuse (s : State) (h : Hello) : Nat :=
  if (agreedVersion h.versions).isNone then 1
  else if h.tag ≠ s.stackTag then 2
  else if !s.isMember h.devId then 3
  else if h.devId = s.gal.devId then 4
  else if h.strapErr || s.gal.strapErr then 5
  else 0

/-- The links over which traffic is relayed: to the relay of a device that this one holds no UP link to, and to both of a
pair that this device relays for (R312). -/
def State.relayLinks (s : State) : List Nat :=
  let peers := s.stackPeers
  let ends := peers.filterMap s.relayFor ++ peers.filter fun a => peers.any (s.relays a)
  ends.filterMap s.carries

/-- What follows from the links that are UP here and elsewhere: the links that relay, the devices that are reachable, those
that a happening has cut off, and those that are not lost any more (R312, R319, R320, R324). -/
def State.routeStack (s : State) : State :=
  let here := s.stackPeers.filter s.inReach
  let now := BitVec.ofNat 8 ((here.map fun dev => 2 ^ dev).sum + (if s.stackEn then 2 ^ s.gal.devId else 0))
  let cut := s.stackPeers.filter fun dev => s.gal.present.getLsbD dev && !now.getLsbD dev
  let relay := s.relayLinks
  s.setGal fun g => { g with
    links := g.links.mapIdx fun i l => { l with relay := relay.contains i }
    present := now
    cutAt := cut.foldl (fun m dev => Store.put (fun _ => 0) dev s.clockNs m) g.cutAt
    lost := g.lost &&& ~~~now
    masterLost := g.masterLost && !now.getLsbD g.authority }

/-- The first link to the stack comes UP: whether the join load may follow is settled here (R314). -/
def State.joining (s : State) : State :=
  if s.gal.joined ∨ (s.gal.links.any fun l => decide (l.phase = .up)) then s
  else s.setGal fun g => { g with joinOk := !(s.anyOpen || s.anyArmed) }

/-- Hello messages are exchanged: the link comes UP, or is refused by the first check that fails (R310). -/
def hello (n : Nat) (h : Hello) (s : State) : State :=
  let l := s.galLink n
  if l.phase ≠ .training then s
  else
    let r := s.helloRefuse h
    if r ≠ 0 then
      (s.modGalLink n fun l => { l with phase := .hello, peer := h.devId, refuse := r }).count (Reg.GAL_CNT_TRAIN_FAIL n)
    else
      let v := (agreedVersion h.versions).getD (0, 0)
      ((s.joining.modGalLink n fun _ => ⟨.up, h.devId, false, 0, v.1, v.2⟩).routeStack).condPollAll

/-- 10 ms after a refusal the link returns to TRAINING (R310). -/
def galTrainRetry (n : Nat) (s : State) : State :=
  let l := s.galLink n
  if l.phase = .hello ∧ l.refuse ≠ 0 then s.modGalLink n fun l => { l with phase := .training } else s

/-- A device to which no direct link is left says nothing any more of its lock and its links (R312, R315). -/
def State.unheard (dev : Nat) (s : State) : State :=
  s.setGal fun g => { g with locks := g.locks &&& ~~~(BitVec.ofNat 8 (2 ^ dev)), reach := putAt none g.reach dev none }

/-- A link leaves UP: its traffic goes by the standby link or a relay (R312). -/
def galLinkLoss (n : Nat) (s : State) : State :=
  if (s.galLink n).phase ≠ .up then s
  else
    let peer := (s.galLink n).peer
    let s := (s.modGalLink n fun _ => { GalLink.off with phase := .training }).count (Reg.GAL_CNT_LINK_DOWN n)
    let s := if (s.directLink peer).isSome then s else s.unheard peer
    s.routeStack.condPollAll

/-! ## Samples (R313, R314) -/

/-- This device reports Dial lock in its samples (R315). -/
def State.reportsLock (s : State) : Bool := s.gal.dialLock || decide (s.gal.authority = s.gal.devId)

/-- What a relay's samples say of its own hop: where it relays between the link's peer and the Dial authority (R312,
R313). -/
def State.ownHop (s : State) (n : Nat) : Option Hop :=
  match s.carries s.gal.authority with
  | none => none
  | some l =>
    if s.relays (s.galLink n).peer s.gal.authority then
      some ⟨signed 32 (bits (s.reg (Reg.GAL_LINK_DELAY l)) 31 0), signed 32 (bits (s.reg Reg.GAL_DIAL_OFFSET) 31 0)⟩
    else none

/-- A Dial sample leaves on an UP link that carries traffic. -/
def dialSampleSend (n : Nat) (s : State) : State :=
  if s.galCarries n then s.emit (.galSample n s.dial s.gal.authority s.reportsLock s.reach (s.ownHop n)) else s

/-- Delay and offset of an exchange, in 1/256 ns: over a relay those of both hops together (R313; log entry 68). -/
def sampleDelay (x : DialSample) : Int :=
  (((x.t2 - x.t1).toInt + (x.t4 - x.t3).toInt)) / 2 + (x.hop.map (·.delay)).getD 0
def sampleOffset (x : DialSample) (asym : Int) : Int :=
  ((x.t2 - x.t1).toInt - (x.t4 - x.t3).toInt) / 2 - asym + (x.hop.map (·.offset)).getD 0

/-- Within the bound of Dial lock: 0.5 ns. -/
def offsetGood (i : Int) : Bool := decide (i.natAbs ≤ 128)

/-- Dial lock is lost (R314). -/
def State.loseLock (s : State) : State :=
  let s := if s.gal.dialLock then s.count Reg.GAL_CNT_DIAL_LOCK_LOSS else s
  (s.setGal fun g => { g with dialLock := false, good := 0, bad := 0 }).condPollAll

/-- The steering loop's writes: what the manual leaves open is a free frequency; the phase takes the offset out (log
entry 68). -/
def State.galSteer (offset : Int) (s : State) : State :=
  let f := Config.freeNat s.free
  ({ s with free := s.free + 1 }.storeFreq (f % 2 ^ 32)).addPhase (-offset)

/-- The join load: with no domain open and no release armed, as the first link came UP and as it is served, the member's
Dial is set from its first sample of the authority (R314, R322); a UTC offset whose second it passes applies with it, as with a load
by GO (DESIGN CHOICE, log entry 68). -/
def State.joinLoad (offset : Int) (s : State) : State :=
  if s.gal.joined then s.galSteer offset
  else
    let s := s.setGal fun g => { g with joined := true }
    if !s.gal.joinOk ∨ s.anyOpen ∨ s.anyArmed ∨ s.time.pending.isSome then s.galSteer offset
    else utcApply (s.loadDial ⟨true, s.dial.shift (-offset)⟩)

/-- The discipline of a member (R314); FAULT is left by an absolute load alone (R39). -/
def State.galDisc (d : Disc) (s : State) : State := if s.time.disc = .fault then s else s.setDisc d false

/-- Lock follows consecutive samples: 8 in bound reach it, 4 out of bound leave it. -/
def State.judgeSample (offset : Int) (s : State) : State :=
  if offsetGood offset then
    let s := s.setGal fun g => { g with good := g.good + 1, bad := 0 }
    let s := s.galDisc (if s.gal.dialLock || decide (8 ≤ s.gal.good) then .locked else .acquire)
    if 8 ≤ s.gal.good ∧ !s.gal.dialLock then (s.setGal fun g => { g with dialLock := true }).condPollAll else s
  else
    let s := s.setGal fun g => { g with bad := g.bad + 1, good := 0 }
    let s := if s.gal.dialLock ∧ 4 ≤ s.gal.bad then s.loseLock else s
    if s.gal.dialLock then s else s.galDisc .acquire

/-- What a device's sample says of itself: its Dial lock, its UP links, and the authority that it follows, which is DEV_ID 0
until samples name the successor (R312, R313, R315, R321). -/
def State.heard (dev : Nat) (x : DialSample) (s : State) : State :=
  let m := BitVec.ofNat 8 (2 ^ dev)
  (s.setGal fun g => { g with
    locks := if x.locked then g.locks ||| m else g.locks &&& ~~~m
    reach := putAt none g.reach dev (some x.reach)
    authority := if x.authority = s.successor then x.authority else g.authority }).routeStack

/-- The sample is the authority's: from the authority itself, or from the relay between the two (R313). -/
def State.ofAuthority (s : State) (n : Nat) (x : DialSample) : Bool :=
  let peer := (s.galLink n).peer
  s.galCarries n && s.stackMember && decide (x.authority = s.gal.authority)
    && (decide (peer = s.gal.authority) || (x.hop.isSome && decide (s.relayFor s.gal.authority = some peer)))

/-- A completed sample exchange on a link. -/
def dialSample (n : Nat) (x : DialSample) (s : State) : State :=
  if !s.galCarries n ∨ !s.stackEn then s
  else
    let asym := signed 16 (bits (s.reg (Reg.GAL_LINK_ASYM n)) 15 0)
    let s := s.setReg (Reg.GAL_LINK_DELAY n) (word (BitVec.ofInt 32 (sampleDelay x)).toNat)
    let s := s.heard (s.galLink n).peer x
    if !s.ofAuthority n x then s.condPollAll
    else
      let offset := sampleOffset x asym
      let s := s.setReg Reg.GAL_DIAL_OFFSET (word (BitVec.ofInt 32 offset).toNat)
      let s := s.setGal fun g => { g with lastSample := some s.clock, masterLost := false }
      ((s.joinLoad offset).judgeSample offset).condPollAll

/-- No sample of the authority for 100 µs. -/
def State.sampleOverdue (s : State) : Bool :=
  match s.gal.lastSample with
  | some d => decide (d.toNat + 100000 * nsUnits ≤ s.clock.toNat)
  | none => true

/-- A member without its authority leaves lock and holds its Dial (R314, R320). -/
def State.holdDial (s : State) : State := if s.stopped 0 then s else s.loseLock.galDisc .holdover

/-- 100 µs without a sample (R314). -/
def sampleTimeout (s : State) : State := if s.stackMember && s.sampleOverdue then s.holdDial else s

/-! ## Losing a device (R319 to R321) -/

/-- A device has had no UP link, direct or relayed, for 100 µs, from the start or since its last one left UP. -/
def State.cutLong (s : State) (dev : Nat) : Bool :=
  !s.inReach dev && decide (Store.get (fun _ => 0) s.gal.cutAt dev + 100000 ≤ s.clockNs)

/-- A device is lost; each loss counts once. -/
def peerLost (dev : Nat) (s : State) : State :=
  if !s.stackEn ∨ !s.isMember dev ∨ dev = s.gal.devId ∨ !s.cutLong dev ∨ s.gal.lost.getLsbD dev then s
  else
    let s := s.setGal fun g => { g with lost := g.lost ||| BitVec.ofNat 8 (2 ^ dev)
                                        masterLost := g.masterLost || decide (dev = g.authority) }
    let s := (s.count Reg.GAL_CNT_PEER_LOST).logEvent 0x901 14 [dev]
    let s := if s.stackMember ∧ dev = s.gal.authority then s.holdDial else s
    let dead := fun (d : Nat) => s.isFeeder d && !(s.mergers d).isEmpty && (s.mergers d).contains dev
      && (s.mergers d).all fun m => s.gal.lost.getLsbD m
    (forAll ((List.range 16).filter dead) (fun d s => s.haltDomain d causeStack) s).condPollAll

/-- A sample of the authority arrives in this TIME cycle: among the commands that wait, before the cycle ends (R322). -/
def State.sampleComes (s : State) : Bool :=
  (s.pending.takeWhile fun c => decide (c ≠ .dialTick)).any fun c =>
    match c with
    | .dialSample n x => s.stackEn && s.ofAuthority n x
    | _ => false

/-- GAL_SUCCEED.GO (R321, R322). -/
def galSucceed (s : State) : State :=
  if !s.stackEn ∨ s.gal.devId ≠ s.successor then s.setReg Reg.GAL_SUCCEED_RESULT 2
  else if !s.sampleOverdue || s.sampleComes then s.setReg Reg.GAL_SUCCEED_RESULT 3
  else
    let s := s.setGal fun g => { g with authority := g.devId, masterLost := false }
    ((s.setReg Reg.GAL_SUCCEED_RESULT 1).count Reg.GAL_CNT_SUCCEED).condPollAll

/-! ## Pre-merged streams (R317) -/

/-- The message next in key order among the device's own slots' that no stream has carried, those among them that the merge
has taken. -/
def State.streamNext (s : State) (d : Nat) : Option Held :=
  (sortKey (fun a b => keyLe (s.heldKey d a) (s.heldKey d b))
    (((s.dom d).unsent ++ (s.dom d).held).filter fun h => !h.streamed && s.ownPort h.msg.port)).head?

/-- A held message leaves the stream frontier and is sent to every merger. -/
def streamSend (d : Nat) (s : State) : State :=
  if !s.stacked d ∨ !s.isOpen d then s
  else
    match s.streamNext d with
    | none => s
    | some h =>
      if s.streamDue d h.msg.stamp then
        let mark := fun (g : Held) => if g.msg = h.msg then { g with streamed := true } else g
        (s.modDom d fun x => { x with held := x.held.map mark, unsent := x.unsent.filter fun g => g.msg != h.msg }).streamOut d
          h.msg
      else s

/-- A stream message for another device goes on to it, where this device relays between the two (R312). -/
def State.relayMessage (m : StreamMsg) (s : State) : State :=
  match s.carries m.dest with
  | some l => if s.relays (s.galLink m.link).peer m.dest then s.streamOver l { m with link := 0 } else s
  | none => s

/-- A stream message arrives: at a merger, whose hold store it joins, or at a relay. One that needed a second replay is
counted (R309, R317). -/
def streamMessage (m : StreamMsg) (s : State) : State :=
  if (s.galLink m.link).phase ≠ .up then s
  else if m.dest ≠ s.gal.devId then s.relayMessage m
  else if !s.stacked m.domain then s
  else
    let s := if m.replay2 then s.count (Reg.GAL_CNT_REPLAY2 m.link) else s
    let msg : Msg := ⟨m.domain, m.stackPort, m.stamp, m.arrival, m.reason, m.rejectMap, m.long, m.replay2, m.bytes⟩
    s.arrive ((s.feeders m.domain).contains (m.stackPort / 256)) msg

/-! ## The meanings -/

def execHello (link : Nat) (h : Hello) (s : State) : Answer :=
  within (Instr.wf (.hello link h)) (whenClocked (hello link h) s) s

def execGalTrainRetry (link : Nat) (s : State) : Answer :=
  within (Instr.wf (.galTrainRetry link)) (whenClocked (galTrainRetry link) s) s

def execGalLinkLoss (link : Nat) (s : State) : Answer :=
  within (Instr.wf (.galLinkLoss link)) (whenClocked (galLinkLoss link) s) s

def execDialSampleSend (link : Nat) (s : State) : Answer :=
  within (Instr.wf (.dialSampleSend link)) (whenClocked (dialSampleSend link) s) s

def execDialSample (link : Nat) (x : DialSample) (s : State) : Answer :=
  within (Instr.wf (.dialSample link x)) (whenClocked (unlessStopped 0 (dialSample link x)) s) s

def execSampleTimeout (s : State) : Answer :=
  within (Instr.wf .sampleTimeout) (whenClocked (unlessStopped 0 sampleTimeout) s) s

def execPeerLost (dev : Nat) (s : State) : Answer := within (Instr.wf (.peerLost dev)) (whenClocked (peerLost dev) s) s

def execGalSucceed (who : Party) (s : State) : Answer :=
  within (Instr.wf (.galSucceed who)) (pfWrite who false false (whole who Reg.GAL_SUCCEED galSucceed) s) s

def execStreamSend (d : Nat) (s : State) : Answer :=
  within (Instr.wf (.streamSend d)) (whenClocked (unlessStopped 1 (streamSend d)) s) s

def execStreamMessage (m : StreamMsg) (s : State) : Answer :=
  within (Instr.wf (.streamMessage m)) (whenClocked (unlessStopped 1 (streamMessage m)) s) s

end Sys2Proof.Machine
end

