-- ==== Sys2Proof/Machine/P384.lean ====
section
/-! DEFINITION. Machine/P384.lean: the curve P-384 of KEY_ECDH_GEN and KEY_AGREE (R185, R188; SP 800-186, log entry
30). A point is none at infinity, or its affine coordinates. -/

namespace Sys2Proof.Machine.P384

/-- The field prime 2^384 − 2^128 − 2^96 + 2^32 − 1. -/
def p : Nat := 2 ^ 384 - 2 ^ 128 - 2 ^ 96 + 2 ^ 32 - 1

/-- The coefficient b. -/
def b : Nat :=
  0xB3312FA7E23EE7E4988E056BE3F82D19181D9C6EFE8141120314088F5013875AC656398D8A2ED19D2A85C8EDD3EC2AEF

/-- The order of the base point. -/
def order : Nat :=
  0xFFFFFFFFFFFFFFFFFFFFFFFFFFFFFFFFFFFFFFFFFFFFFFFFC7634D81F4372DDF581A0DB248B0A77AECEC196ACCC52973

/-- The base point. -/
def base : Option (Nat × Nat) := some
  (0xAA87CA22BE8B05378EB1C71EF320AD746E1D3B628BA79B9859F741E082542A385502F25DBF55296C3A545E3872760AB7,
   0x3617DE4A96262C6F5D9E98BF9292DC29F8F41DBD289A147CE9DA3113B5F0B8C00A60B1CE1D7E819D7A431D7C90EA0E5F)

/-- Whether coordinates lie on the curve y² = x³ − 3x + b. -/
def onCurve (x y : Nat) : Bool :=
  decide (x < p) && decide (y < p) && decide (y * y % p = (x * x * x + (p - 3) * x + b) % p)

/-- A power modulo the field prime. -/
def powMod (a e : Nat) : Nat :=
  ((List.range 384).foldl
    (fun (r : Nat × Nat) i => (if e.testBit i then r.1 * r.2 % p else r.1, r.2 * r.2 % p)) (1, a % p)).1

/-- The inverse modulo the field prime. -/
def inv (a : Nat) : Nat := powMod a (p - 2)

/-- The sum of two points. -/
def add : Option (Nat × Nat) → Option (Nat × Nat) → Option (Nat × Nat)
  | none, q => q
  | q, none => q
  | some (x1, y1), some (x2, y2) =>
    if x1 = x2 ∧ (y1 + y2) % p = 0 then none
    else
      let l := if x1 = x2 then (3 * x1 * x1 + (p - 3)) * inv (2 * y1) % p
               else (y2 + p - y1) * inv (x2 + p - x1) % p
      let x3 := (l * l + 2 * p - x1 - x2) % p
      some (x3, (l * (x1 + p - x3) + p - y1) % p)

/-- A multiple of a point. -/
def mul (k : Nat) (q : Option (Nat × Nat)) : Option (Nat × Nat) :=
  ((List.range 384).foldl
    (fun (r : Option (Nat × Nat) × Option (Nat × Nat)) i => (if k.testBit i then add r.1 r.2 else r.1, add r.2 r.2))
    (none, q)).1

/-- The 97-byte uncompressed form of a point (R188). -/
def encode : Option (Nat × Nat) → List Byte
  | none => [0]
  | some (x, y) => 4 :: (beBytes 48 x ++ beBytes 48 y)

/-- The point that 97 bytes name, if they name one on the curve. -/
def decode (bs : List Byte) : Option (Nat × Nat) :=
  let x := beField bs 1 48
  let y := beField bs 49 48
  if bs.length = 97 ∧ bs.getD 0 0 = 4 ∧ onCurve x y then some (x, y) else none

end Sys2Proof.Machine.P384
end

