-- ==== Sys2Proof/Machine/Lamp.lean ====
section
/-! DEFINITION. Machine/Lamp.lean: the lamp room's key slots and key commands, MACsec SA registers, and the Canary
with its DRBG (R185 to R198, R208 to R215). -/

namespace Sys2Proof.Machine

/-! ## Key slots (R185, R186) -/

/-- The LEN code of a key of n bytes, and of a P-384 private key (R215). -/
def lenCode (type n : Nat) : Nat := if type = 5 then 3 else if n = 16 then 0 else if n = 32 then 1 else 2

/-- The key bytes that a LEN code stands for. -/
def lenBytes (code : Nat) : Nat := [16, 32, 64, 48].getD code 0

/-- Whether a TYPE takes keys of n bytes (R185). -/
def keyLengthOk (type n : Nat) : Bool :=
  match type with
  | 1 | 3 | 7 | 8 | 9 => decide (n = 16 ∨ n = 32)
  | 2 => decide (n = 32 ∨ n = 64)
  | 4 | 6 => decide (n = 32)
  | 5 => decide (n = 48)
  | _ => false

/-- The STATE code (R186). -/
def KeyState.code : KeyState → Nat
  | .empty => 0 | .active => 1 | .closed => 2 | .exhausted => 3

/-- LAMP_SLOT_INFO of a slot (R215). -/
def KeySlot.info (k : KeySlot) : Word :=
  word (k.type + k.len * 2 ^ 4 + b2n k.exportable * 2 ^ 6 + b2n k.persistent * 2 ^ 7 + k.state.code * 2 ^ 8)

/-- A new key in an EMPTY slot. -/
def KeySlot.fresh (type : Nat) (key salt : List Byte) (exportable : Bool) (fixed : BitVec 32) : KeySlot :=
  ⟨type, lenCode type key.length, key, salt, exportable, false, .active, fixed, 0, 0, [], Option.none⟩

/-- The persistent slots (R192). -/
def State.persistentSlots (s : State) : Nat := (s.lamp.slots.filter (·.2.persistent)).length

/-! ## The DRBG and the Canary (R209 to R213) -/

/-- One generate call of n bytes: its output is free (log entry 3); in GRACE it uses one call of the budget (R211). -/
def State.drbg (n : Nat) (s : State) : List Byte × State :=
  let s := if s.lamp.canary = 2 then s.modReg Reg.LAMP_GRACE_LEFT fun v => if v = 0 then 0 else v - 1 else s
  let s := { s with lamp := { s.lamp with calls := s.lamp.calls + 1 } }
  s.randomBytes n

/-- RANDOM jobs and key generation are served in HEALTHY and DEGRADED only (R213). -/
def State.entropyOk (s : State) : Bool := decide (s.lamp.canary ≤ 1)

/-- Protected traffic of MACsec ports is halted: SPENT with MASK_FAIL = STOP (R213). -/
def State.maskStop (s : State) : Bool := decide (s.lamp.canary = 3) && bit (s.voted Reg.LAMP_POLICY) 0

/-- The repetition count test, cutoff 41, and the adaptive proportion test, cutoff 410 in 512, on one sample: the
tests' state and whether one fired (R209). -/
def Source.test (x : Source) (v : Byte) : Source × Bool :=
  let reps := if x.last = some v then x.repeats + 1 else 1
  let (first, cnt, seen) :=
    if x.aptSeen = 0 ∨ 512 ≤ x.aptSeen then (some v, 1, 1)
    else (x.aptFirst, if x.aptFirst = some v then x.aptCount + 1 else x.aptCount, x.aptSeen + 1)
  ({ x with last := some v, repeats := reps, aptFirst := first, aptCount := cnt, aptSeen := seen },
   decide (41 ≤ reps) || decide (410 ≤ cnt))

/-- A source by its number: 0 A, 1 B. -/
def State.source (s : State) (x : Nat) : Source := if x = 0 then s.lamp.srcA else s.lamp.srcB
def State.setSource (x : Nat) (y : Source) (s : State) : State :=
  if x = 0 then { s with lamp := { s.lamp with srcA := y } } else { s with lamp := { s.lamp with srcB := y } }

/-- The Canary state after a failure of a source (R211). -/
def State.canaryDown (s : State) : State :=
  if s.lamp.canary ≤ 1 then
    if s.lamp.srcA.failed ∧ s.lamp.srcB.failed then
      { s with lamp := { s.lamp with canary := 2 } }.setReg Reg.LAMP_GRACE_LEFT 0x100000
    else { s with lamp := { s.lamp with canary := 1 } }
  else s

/-- A sample of a noise source (R209). A failed source is only retested. -/
def noiseSample (x : Nat) (v : Byte) (s : State) : State :=
  if (s.source x).failed then s
  else
    let (y, fired) := (s.source x).test v
    if fired then
      let s := s.setSource x { Source.reset with failed := true }
      ((s.count (Reg.LAMP_CNT_SRC_FAIL x)).logEvent 0x601 8 [x]).canaryDown
    else s.setSource x y

/-- Whether a run of samples passes both tests from a fresh start. -/
def samplesPass (vs : List Byte) : Bool :=
  (vs.foldl (fun (p : Source × Bool) v => let (y, f) := p.1.test v; (y, p.2 || f)) (Source.reset, false)).2 = false

/-- A failed source is retested on 1,024 samples and restored when they all pass (R209, R212). -/
def sourceRetest (x : Nat) (vs : List Byte) (s : State) : State :=
  if !(s.source x).failed || decide (vs.length ≠ 1024) || !samplesPass vs then s
  else
    let was := s.lamp.canary
    let s := ((s.setSource x Source.reset).count (Reg.LAMP_CNT_SRC_RESTORE x)).logEvent 0x602 8 [x]
    let s :=
      if 2 ≤ was then
        ({ s with lamp := { s.lamp with calls := 0, instantiated := true } }.count Reg.LAMP_CNT_RESEED).setReg
          Reg.LAMP_GRACE_LEFT 0x100000
      else s
    let both := !s.lamp.srcA.failed && !s.lamp.srcB.failed
    { s with lamp := { s.lamp with canary := if both then 0 else 1 } }

/-- LAMP_GRACE_LEFT reached 0 in GRACE: SPENT (R211). -/
def graceSpent (s : State) : State :=
  if s.lamp.canary = 2 ∧ s.reg Reg.LAMP_GRACE_LEFT = 0 then { s with lamp := { s.lamp with canary := 3 } } else s

/-- The DRBG reseeded from the healthy sources; in GRACE and SPENT there is none (R210, R211). -/
def drbgReseed (s : State) : State :=
  if s.lamp.canary ≤ 1 then
    { s with lamp := { s.lamp with calls := 0, instantiated := true } }.count Reg.LAMP_CNT_RESEED
  else s

/-- A datapath's mask generator reseeded by one generate call; in SPENT it stays on its last seed (R208, R213). -/
def maskReseed (datapath : Nat) (s : State) : State :=
  if s.lamp.canary = 3 then s
  else
    let (seed, s) := s.drbg 32
    { s with lamp := { s.lamp with seeds := Store.put (fun _ => []) datapath seed s.lamp.seeds } }

/-! ## The blobs of persistent slots (R192, R193; log entry 90) -/

/-- The record of a persistent slot in the ledger's retained configuration: word 0 its slot number and its blobs' count,
word 1 its reservation mark, then two blobs of 80 bytes. -/
def blobAddr (place : Nat) : Nat := 0x3AA00000 + 256 * place

/-- The ledger word that holds a reservation mark. -/
def markAddr (place : Nat) : Nat := blobAddr place + 8

/-- A record that no persistent slot uses. -/
def State.freePlace (s : State) : Nat :=
  ((List.range 4096).find? fun j => !s.lamp.slots.any fun (_, k) => k.persistent && k.place == j).getD 0

/-- The record of a slot sealed to its measurements, written into the ledger. -/
def State.writeBlobs (i place : Nat) (mark : Word) (plain : List Byte) (seals : List (List Byte)) (s : State) : State :=
  let blobs := seals.flatMap fun m => wordsOf (slice (Config.sealBlob m plain) 0 80)
  s.ledgerWords (blobAddr place) (word (i + seals.length * 2 ^ 16) :: mark :: blobs)

/-- A slot becomes EMPTY, its persistent copy included (R188). -/
def State.emptyKey (i : Nat) (s : State) : State :=
  let k := s.keySlotAt i
  let s := if k.persistent then s.ledgerWords (blobAddr k.place) (List.replicate 22 0) else s
  s.modKeySlot i fun _ => KeySlot.none

/-- A key fills an EMPTY slot. A job that names it and was taken before fails KEY_EMPTY (R191). -/
def State.fillKey (i : Nat) (x : KeySlot) (s : State) : State :=
  let late := fun (d : List Byte) => decide (leField d 32 2 % 2 ^ 14 = i)
  let s := s.modKeySlot i fun _ => x
  { s with
    rings := s.rings.map fun (c, r) =>
      (c, if r.type = 6 then
        { r with taken := r.taken.map fun t => { t with keyless := t.keyless || late t.desc } } else r)
    lamp := { s.lamp with waiting := s.lamp.waiting.map fun j => { j with keyless := j.keyless || late j.desc } } }

/-! ## Key commands (R188 to R191) -/

/-- A key command's completion, counted (R190, R214, R379). -/
def State.keyDone (c : Nat) (t : Taken) (o : Party) (status result : Nat) (s : State) : State :=
  let s :=
    if status = 0 then s.count Reg.LAMP_CNT_KEYCMD
    else s.count Reg.LAMP_CNT_KEYCMD_REFUSED
  let s := match o with
    | .vf p v => if status = 0 then s else s.count (Reg.vf p v 0x80A0)
    | _ => s
  s.adminDone c t status result

/-- The slot of a field of P0. -/
def keyField (t : Taken) (hi lo : Nat) : Nat := bits (adminParam t.desc 0) hi lo

/-- The plaintext of a slot's blob (R189). -/
def KeySlot.blob (k : KeySlot) : List Byte :=
  [BitVec.ofNat 8 k.type, BitVec.ofNat 8 k.key.length, BitVec.ofNat 8 (b2n k.exportable), 0]
    ++ leBytes 4 (if k.type = 1 then k.fixed.toNat else 0) ++ k.key ++ k.salt

/-- The slot that a blob's plaintext describes, when its TYPE and LEN are valid (R189). -/
def slotOfBlob (b : List Byte) : Option KeySlot :=
  let type := leField b 0 1
  let n := leField b 1 1
  let salt := b.drop (8 + n)
  if keyLengthOk type n ∧ 8 + n ≤ b.length ∧ (salt = [] ∨ (type = 3 ∧ salt.length = 12)) then
    some (KeySlot.fresh type (slice b 8 n) salt ((leField b 2 1) % 2 = 1)
      (if type = 1 then BitVec.ofNat 32 (leField b 4 4) else 0))
  else none

/-- Whether a wrapping slot may wrap or unwrap a key of a TYPE: WRAP any, KEK a MACSEC key (R185, R188). -/
def wrapsType (w : KeySlot) (type : Nat) : Bool := decide (w.type = 4 ∨ (w.type = 9 ∧ type = 3))

/-- KEY_LOAD. -/
def keyLoad (c : Nat) (blob : Option (List Byte)) (t : Taken) (o : Party) (s : State) : State :=
  let i := keyField t 13 0
  let u := keyField t 29 16
  let n := keyField t 47 32
  let w := s.keySlotAt u
  let done := fun st => s.keyDone c t o st 0
  if !s.ownsKey o i || !s.ownsKey o u then done 1
  else if (s.keySlotAt i).state ≠ .empty then done 2
  else if w.type ≠ 4 ∧ w.type ≠ 9 then done 3
  else if w.state = .closed then done 9
  else if n < 16 ∨ n % 8 ≠ 0 then done 10
  else
    match t.data blob with
    | none => done 11
    | some b =>
      match Modes.kwpUnwrap w.key (slice b 0 n) with
      | none => done 4
      | some m =>
        match slotOfBlob m with
        | none => done 3
        | some k => if wrapsType w k.type then (s.fillKey i k).keyDone c t o 0 0 else done 3

/-- A drawn XTS key whose halves are equal is redrawn until they differ: the second half becomes any other (R188; log
entry 90). -/
def State.redraw (type : Nat) (key : List Byte) (s : State) : List Byte × State :=
  let h := key.length / 2
  if type = 2 ∧ key.take h = key.drop h then
    let (m, s) := s.drbg h
    let diff := if m.all (· == 0) then m.dropLast ++ [1] else m
    (key.take h ++ xorBytes (key.take h) diff, s)
  else (key, s)

/-- KEY_GENERATE: every type but ECDH, which KEY_ECDH_GEN makes. -/
def keyGenerate (c : Nat) (t : Taken) (o : Party) (s : State) : State :=
  let i := keyField t 13 0
  let type := keyField t 19 16
  let n := lenBytes (keyField t 25 24)
  let done := fun st => s.keyDone c t o st 0
  if !s.ownsKey o i then done 1
  else if (s.keySlotAt i).state ≠ .empty then done 2
  else if type = 5 ∨ !keyLengthOk type n then done 3
  else if !s.entropyOk then done 5
  else
    let (key, s) := s.drbg n
    let (salt, s) := if type = 3 then s.drbg 12 else ([], s)
    let (key, s) := s.redraw type key
    let k := KeySlot.fresh type key salt (bit (adminParam t.desc 0) 32)
      (if type = 1 then BitVec.ofNat 32 (adminParam t.desc 1).toNat else 0)
    (s.fillKey i k).keyDone c t o 0 0

/-- KEY_ECDH_GEN. -/
def keyEcdhGen (c : Nat) (t : Taken) (o : Party) (s : State) : State :=
  let i := keyField t 13 0
  let done := fun st => s.keyDone c t o st 0
  if !s.ownsKey o i then done 1
  else if (s.keySlotAt i).state ≠ .empty then done 2
  else if !s.entropyOk then done 5
  else
    let (r, s) := s.drbg 48
    let d := 1 + beNat r % (P384.order - 1)
    let s := s.fillKey i (KeySlot.fresh 5 (beBytes 48 d) [] false 0)
    (s.entryWrite c t (adminParam t.desc 1).toNat (P384.encode (P384.mul d P384.base)) false).keyDone c t o 0 97

/-- KEY_AGREE. -/
def keyAgree (c : Nat) (point info : Option (List Byte)) (t : Taken) (o : Party) (s : State) : State :=
  let e := keyField t 13 0
  let i := keyField t 29 16
  let n := keyField t 40 32
  let k := s.keySlotAt e
  let done := fun st => s.keyDone c t o st 0
  if !s.ownsKey o e || !s.ownsKey o i then done 1
  else if (s.keySlotAt i).state ≠ .empty then done 2
  else if k.type ≠ 5 then done 3
  else if k.state = .closed then done 9
  else if 256 < n then done 10
  else
    match t.data point, t.data info with
    | some q, some f =>
      match P384.decode q with
      | none => done 10
      | some xy =>
        match P384.mul (beNat k.key) (some xy) with
        | none => done 10
        | some (x, _) =>
          let key := Modes.oneStepKdf (beBytes 48 x) (slice f 0 n)
          (s.fillKey i (KeySlot.fresh 4 key [] false 0)).keyDone c t o 0 0
    | _, _ => done 11

/-- A text as bytes. -/
def asciiBytes (s : String) : List Byte := s.toList.map fun c => BitVec.ofNat 8 c.toNat

/-- KEY_DERIVE_MKA (IEEE 802.1X-2020; log entry 30). -/
def keyDeriveMka (c : Nat) (ckn : Option (List Byte)) (t : Taken) (o : Party) (s : State) : State :=
  let k := keyField t 13 0
  let i := keyField t 29 16
  let j := keyField t 45 32
  let n := keyField t 53 48
  let cak := s.keySlotAt k
  let done := fun st => s.keyDone c t o st 0
  if !s.ownsKey o k || !s.ownsKey o i || !s.ownsKey o j then done 1
  else if (s.keySlotAt i).state ≠ .empty ∨ (s.keySlotAt j).state ≠ .empty then done 2
  else if cak.type ≠ 7 then done 3
  else if cak.state = .closed then done 9
  else if n = 0 ∨ 32 < n ∨ i = j then done 10
  else
    match t.data ckn with
    | none => done 11
    | some b =>
      let id := slice ((slice b 0 n).take 16) 0 16
      let derive := fun l => Modes.kdf8021x cak.key (asciiBytes l) id cak.key.length
      let s := s.fillKey i (KeySlot.fresh 8 (derive "IEEE8021 ICK") [] false 0)
      let s := s.fillKey j (KeySlot.fresh 9 (derive "IEEE8021 KEK") [] false 0)
      s.keyDone c t o 0 0

/-- KEY_EXPORT. -/
def keyExport (c : Nat) (t : Taken) (o : Party) (s : State) : State :=
  let i := keyField t 13 0
  let w := keyField t 29 16
  let k := s.keySlotAt i
  let wk := s.keySlotAt w
  let done := fun st => s.keyDone c t o st 0
  if !s.ownsKey o i || !s.ownsKey o w then done 1
  else if k.type = 0 ∨ !wrapsType wk k.type then done 3
  else if !k.exportable then done 6
  else if k.state = .closed ∨ wk.state = .closed then done 9
  else
    let b := Modes.kwpWrap wk.key k.blob
    (s.entryWrite c t (adminParam t.desc 1).toNat b false).keyDone c t o 0 b.length

/-- KEY_SEAL: an M1 address of 0 seals to the current measurement (R188, R192). -/
def keySeal (c : Nat) (m1 m2 : Option (List Byte)) (t : Taken) (o : Party) (s : State) : State :=
  let i := keyField t 13 0
  let k := s.keySlotAt i
  let a1 := adminParam t.desc 1
  let a2 := adminParam t.desc 2
  let done := fun st => s.keyDone c t o st 0
  if !s.ownsKey o i then done 1
  else if k.state = .empty then done 3
  else if k.state = .closed then done 9
  else if k.type = 3 ∨ k.state ≠ .active then done 10
  else if !k.persistent ∧ 4096 ≤ s.persistentSlots then done 8
  else if (a1 ≠ 0 ∧ t.data m1 = none) ∨ (a2 ≠ 0 ∧ t.data m2 = none) then done 11
  else
    let first := if a1 = 0 then s.measurement else slice (m1.getD []) 0 48
    let second := if a2 = 0 then [] else [slice (m2.getD []) 0 48]
    let place := if k.persistent then k.place else s.freePlace
    let mark := if k.persistent then s.ledgerRead (markAddr place) else k.counter
    let s := s.writeBlobs i place mark k.blob (first :: second)
    (s.modKeySlot i fun k => { k with persistent := true, seals := first :: second, place := place }).keyDone c t o 0 0

/-- A register key is that of a transmit or receive SA (R214). -/
def isSaKey (k : Nat) : Bool :=
  let o := (k - 0x880000) % 0x800
  decide (0x880000 ≤ k ∧ k < 0x900000) && (decide (0x40 ≤ o ∧ o < 0x80 ∧ o % 16 = 0) ||
    decide (0x100 ≤ o ∧ o < 0x500 ∧ 0x40 ≤ o % 0x80 ∧ o % 16 = 0))

/-- A VALID SA names the slot. -/
def State.saNames (s : State) (i : Nat) : Bool :=
  s.regs.any fun (k, v) => isSaKey k && v.getLsbD 0 && decide (bits v 15 2 = i)

/-- The slot is in use: named by a VALID SA, or by AUD_CFG.KEY_SLOT while the chain is keyed (R190). -/
def State.keyInUse (s : State) (i : Nat) : Bool :=
  s.saNames i || (s.aud.keySlot.isSome && decide (bits (s.reg Reg.AUD_CFG) 45 32 = i))

/-- The started jobs, saved ones included, that hold a slot's key (R191). -/
def State.keyHolders (s : State) (i : Nat) : Nat :=
  let holds := fun (j : Job) => match j.result with
    | some r => decide (r.keySlot = some i)
    | none => false
  ((s.lamp.engines.filterMap id ++ s.lamp.waiting).filter holds).length

/-- The jobs that a reduced share leaves a slot's key and that have not started (R298). -/
def State.keyAwaited (s : State) (i : Nat) : Nat :=
  let names := fun (d : List Byte) => decide (leField d 32 2 % 2 ^ 14 = i)
  (s.lamp.waiting.filter fun j => j.result.isNone && j.granted && names j.desc).length
    + ((s.rings.map fun (_, r) =>
        (r.taken.filter fun t => decide (r.type = 6) && t.granted && !t.started && names t.desc).length)).sum

/-- Whether a slot that is being zeroised must keep its key still: for the started jobs, and, where only a reduction of a
share takes it, for the jobs taken before (R191, R298). -/
def State.keyKept (s : State) (i : Nat) : Bool :=
  decide (0 < s.keyHolders i) || ((s.keySlotAt i).dying == some [] && decide (0 < s.keyAwaited i))

/-- KEY_DESTROY: it completes after the last started job that holds the key (R191). -/
def keyDestroy (c : Nat) (t : Taken) (o : Party) (s : State) : State :=
  let i := keyField t 13 0
  if !s.ownsKey o i then s.keyDone c t o 1 0
  else if s.keyInUse i then s.keyDone c t o 7 0
  else if 0 < s.keyHolders i then
    (s.startEntry c t.cursor).modKeySlot i fun k => { k with dying := some (k.dying.getD [] ++ [(c, t.cursor)]) }
  else (s.emptyKey i).keyDone c t o 0 0

/-- A slot that is being zeroised and whose key no job holds becomes EMPTY, and the KEY_DESTROYs that waited complete
(R191). -/
def State.settleDestroy (i : Nat) (s : State) : State :=
  match (s.keySlotAt i).dying with
  | none => s
  | some ws =>
    if s.keyKept i then s
    else
      ws.foldl (fun s w =>
        match (s.ring w.1).taken.find? (fun t => t.cursor == w.2) with
        | some t => s.keyDone w.1 t (s.ring w.1).owner 0 0
        | none => s) (s.emptyKey i)

/-- Every slot that is being zeroised, looked at again. -/
def State.settleKeys (s : State) : State :=
  (s.lamp.slots.filter fun e => e.2.dying.isSome).foldl (fun s e => s.settleDestroy e.1) s

/-- KEY_QUERY: LAMP_SLOT_INFO, FIXED and the counter, 24 bytes (log entry 7). -/
def keyQuery (c : Nat) (t : Taken) (o : Party) (s : State) : State :=
  let i := keyField t 13 0
  let k := s.keySlotAt i
  if !s.ownsKey o i then s.keyDone c t o 1 0
  else
    let b := leBytes 8 k.info.toNat ++ leBytes 4 k.fixed.toNat ++ zeros 4 ++ leBytes 8 k.counter.toNat
    (s.entryWrite c t (adminParam t.desc 1).toNat b false).keyDone c t o 0 24

/-- A slot at a start or wake: a persistent one is tried against the measurement, and any other is lost (R187, R192). A
blob opens under the measurement it was sealed to and under no other, and the counter resumes at the mark (R193); one whose
mark stands at the last value has none left (log entry 90). -/
def KeySlot.reopen (m : List Byte) (mark : Word) (k : KeySlot) : Option KeySlot :=
  let opened := if mark = 0xFFFFFFFFFFFFFFFF then KeyState.exhausted else .active
  if k.persistent then
    some { k with state := if k.seals.contains m then opened else .closed, counter := mark, dying := Option.none }
  else Option.none

/-- Every slot at a start or wake, after the boot measurement is complete (R192). -/
def State.reopenKeys (s : State) : State :=
  let slots := s.lamp.slots.filterMap fun (i, k) => (k.reopen s.measurement (s.ledgerRead (markAddr k.place))).map fun k => (i, k)
  { s with lamp := { s.lamp with slots := slots } }

/-! ## MACsec SA registers (R195 to R197) -/

/-- A slot's LAMP_TX_SC fields (R215). -/
def State.txEn (s : State) (n : Nat) : Bool := bit (s.reg (Reg.LAMP_TX_SC n)) 0
def State.encodingAn (s : State) (n : Nat) : Nat := bits (s.reg (Reg.LAMP_TX_SC n)) 9 8

/-- The encoding SA of a slot. -/
def State.encodingSa (s : State) (n : Nat) : Word := s.reg (Reg.LAMP_TX_SA n (s.encodingAn n))

/-- The next PN of the encoding SA passes LAMP_PN_THRESH (R197, R214). -/
def State.pnNear (s : State) (n : Nat) : Bool :=
  let pn := (s.reg (Reg.LAMP_TX_PN n (s.encodingAn n))).toNat
  let t := s.reg Reg.LAMP_PN_THRESH
  if bit (s.encodingSa n) 16 then decide (bits t 63 32 * 2 ^ 32 < pn) else decide (bits t 31 0 < pn)

/-- A PN_NEAR_END event (R197). -/
def State.pnNearEnd (n : Nat) (s : State) : State :=
  (s.emit (.pnNearEnd n (s.encodingAn n))).logEvent 0x600 8 [n, s.encodingAn n]

/-- A party that may write the SA registers of a port (R195). -/
def State.saWriter (s : State) (who : Party) : Bool :=
  decide (who = .cores) || (decide (who = .pf 0) && bit (s.voted Reg.LAMP_POLICY) 1)

/-- A write to a port's MACsec registers at an offset below 0x600: refused for another writer, for the SA in use, for a
PN of a VALID SA, and for an SA that names an unfit slot (R195). -/
def lampSaWrite (who : Party) (n off : Nat) (v : Word) (s : State) : State :=
  let k := 0x880000 + 0x800 * n + off
  let refuse := s.count Reg.LAMP_CNT_SA_WRITE_REFUSED
  let tx := decide (0x40 ≤ off ∧ off < 0x80)
  let rx := decide (0x100 ≤ off ∧ off < 0x500 ∧ 0x40 ≤ off % 0x80)
  let slot := s.keySlotAt (bits v 15 2)
  if !s.saWriter who then refuse
  else if !tx && !rx then s.storeMasked k v
  else if tx ∧ off / 16 % 4 = s.encodingAn n then refuse
  else if off % 16 = 8 then
    if bit (s.reg (k - 8)) 0 then refuse else (s.storeMasked k v).modReg (k - 8) (setBits · 1 1 0)
  else if slot.type ≠ 3 ∨ (bit v 16 ∧ slot.salt = []) then refuse
  else s.storeMasked k v

/-- A write of LAMP_TX_SC: the new ENCODING_AN applies from the next frame start (R196). -/
def encodingAnWrite (who : Party) (n : Nat) (v : Word) (s : State) : State :=
  if !s.saWriter who then s.count Reg.LAMP_CNT_SA_WRITE_REFUSED
  else
    let old := s.encodingAn n
    let s := s.storeMasked (Reg.LAMP_TX_SC n) v
    if s.encodingAn n ≠ old ∧ bit (s.encodingSa n) 0 ∧ s.pnNear n then s.pnNearEnd n else s

/-! ## The meanings -/

def execKeyLoad (ring : Nat) (blob : Option (List Byte)) (s : State) : Answer :=
  within (Instr.wf (.keyLoad ring blob)) (whenClocked (onLink (s.ring ring).owner (.keyLoad ring blob)
      (unlessStopped 5 (onAdmin ring 0x40 (keyLoad ring blob)))) s) s

def execKeyGenerate (ring : Nat) (s : State) : Answer :=
  within (Instr.wf (.keyGenerate ring)) (whenClocked (unlessStopped 5 (onAdmin ring 0x41 (keyGenerate ring))) s) s

def execKeyEcdhGen (ring : Nat) (s : State) : Answer :=
  within (Instr.wf (.keyEcdhGen ring)) (whenClocked (unlessStopped 5 (onAdmin ring 0x42 (keyEcdhGen ring))) s) s

def execKeyAgree (ring : Nat) (point info : Option (List Byte)) (s : State) : Answer :=
  within (Instr.wf (.keyAgree ring point info)) (whenClocked (onLink (s.ring ring).owner (.keyAgree ring point info)
      (unlessStopped 5 (onAdmin ring 0x43 (keyAgree ring point info)))) s) s

def execKeyDeriveMka (ring : Nat) (ckn : Option (List Byte)) (s : State) : Answer :=
  within (Instr.wf (.keyDeriveMka ring ckn)) (whenClocked (onLink (s.ring ring).owner (.keyDeriveMka ring ckn)
      (unlessStopped 5 (onAdmin ring 0x44 (keyDeriveMka ring ckn)))) s) s

def execKeyExport (ring : Nat) (s : State) : Answer :=
  within (Instr.wf (.keyExport ring)) (whenClocked (unlessStopped 5 (onAdmin ring 0x45 (keyExport ring))) s) s

def execKeySeal (ring : Nat) (m1 m2 : Option (List Byte)) (s : State) : Answer :=
  within (Instr.wf (.keySeal ring m1 m2)) (whenClocked (onLink (s.ring ring).owner (.keySeal ring m1 m2)
      (unlessStopped 5 (onAdmin ring 0x46 (keySeal ring m1 m2)))) s) s

def execKeyDestroy (ring : Nat) (s : State) : Answer :=
  within (Instr.wf (.keyDestroy ring)) (whenClocked (unlessStopped 5 (onAdmin ring 0x47 (keyDestroy ring))) s) s

def execKeyQuery (ring : Nat) (s : State) : Answer :=
  within (Instr.wf (.keyQuery ring)) (whenClocked (unlessStopped 5 (onAdmin ring 0x48 (keyQuery ring))) s) s

def execLampSaWrite (who : Party) (slot off : Nat) (v : Word) (s : State) : Answer :=
  within (Instr.wf (.lampSaWrite who slot off v)) 
    (pfWrite who false false (whole who (0x880000 + 0x800 * slot + off) 
      (unlessStopped 5 (onSlot slot (lampSaWrite who slot off v)))) s) s

def execEncodingAnWrite (who : Party) (slot : Nat) (v : Word) (s : State) : Answer :=
  within (Instr.wf (.encodingAnWrite who slot v)) 
    (pfWrite who false false (whole who (Reg.LAMP_TX_SC slot) 
      (unlessStopped 5 (onSlot slot (encodingAnWrite who slot v)))) s) s

def execNoiseSample (source : Nat) (v : Byte) (s : State) : Answer :=
  within (Instr.wf (.noiseSample source v)) (whenClocked (unlessStopped 5 (noiseSample source v)) s) s

def execSourceRetest (source : Nat) (samples : List Byte) (s : State) : Answer :=
  within (Instr.wf (.sourceRetest source samples)) (whenClocked (unlessStopped 5 (sourceRetest source samples)) s) s

def execGraceSpent (s : State) : Answer := within (Instr.wf .graceSpent) (whenClocked (unlessStopped 5 graceSpent) s) s

def execDrbgReseed (s : State) : Answer := within (Instr.wf .drbgReseed) (whenClocked (unlessStopped 5 drbgReseed) s) s

def execMaskReseed (datapath : Nat) (s : State) : Answer :=
  within (Instr.wf (.maskReseed datapath)) (whenClocked (unlessStopped 5 (maskReseed datapath)) s) s

end Sys2Proof.Machine
end

