-- ==== Sys2Proof/Machine/Jobs.lean ====
section
/-! DEFINITION. Machine/Jobs.lean: the lookaside engines (R199 to R207): the job descriptor, its checks in order, what
each mode computes, and how jobs share the sixteen engines. -/

namespace Sys2Proof.Machine

/-! ## The job descriptor (R200) -/

def jobSrc (d : List Byte) : Nat := leField d 0 8
def jobDst (d : List Byte) : Nat := leField d 8 8
def jobAux (d : List Byte) : Nat := leField d 16 8
def jobLength (d : List Byte) : Nat := leField d 24 4
def jobAadLen (d : List Byte) : Nat := leField d 28 2
def jobMode (d : List Byte) : Nat := leField d 30 1
def jobFlag (d : List Byte) (i : Nat) : Bool := (leField d 31 1).testBit i
def jobDecrypt (d : List Byte) : Bool := jobFlag d 0
def jobStage (d : List Byte) : Bool := jobFlag d 1
def jobIvGen (d : List Byte) : Bool := jobFlag d 2
def jobPad (d : List Byte) : Bool := jobFlag d 3
def jobPriority (d : List Byte) : Nat := leField d 31 1 / 16 % 4
def jobKeySlot (d : List Byte) : Nat := leField d 32 2 % 2 ^ 14
def jobIvLen (d : List Byte) : Nat := leField d 34 1
def jobTagLen (d : List Byte) : Nat := leField d 35 1

/-- A mode that names a key slot (R200). -/
def jobKeyed (m : Nat) : Bool := decide (m ≠ 9 ∧ m ≠ 10 ∧ m ≠ 13)

/-- The limits of R201, R202, R203 and R204; outside them a job fails PARAM. -/
def jobParamOk (d : List Byte) : Bool :=
  let n := jobLength d
  let dec := jobDecrypt d
  let iv := jobIvLen d
  let tag := jobTagLen d
  let mode := jobMode d
  let modeOk := match mode with
    | 0 => decide (iv = 16) && ((jobPad d && !dec) || decide (n % 16 = 0 ∧ 16 ≤ n))
    | 1 | 2 | 3 | 4 => decide (iv = 16 ∧ 1 ≤ n)
    | 5 => decide (iv = 12 ∧ (tag = 4 ∨ tag = 8 ∨ (12 ≤ tag ∧ tag ≤ 16)))
    | 6 => decide (7 ≤ iv ∧ iv ≤ 13 ∧ n < 2 ^ (8 * (15 - iv)) ∧ 4 ≤ tag ∧ tag ≤ 16 ∧ tag % 2 = 0)
    | 7 => decide (iv = 16 ∧ 16 ≤ n ∧ n ≤ 2 ^ 24)
    | 8 => decide (4 ≤ tag ∧ tag ≤ 16)
    | 9 | 10 => true
    | 11 => decide (60 ≤ n ∧ iv = 12 ∧ tag = 16) && dec
    | 12 => decide (iv = 12 ∧ tag = 4) && dec
    | 13 => decide (1 ≤ n ∧ n ≤ 65536)
    | _ => false
  let ivGenOk := !jobIvGen d || (!dec && decide (mode ≤ 6) && (decide (mode ≠ 6) || decide (iv = 12)))
  let padOk := !jobPad d || decide (mode = 0)
  let stageOk := !jobStage d || (dec && decide (mode = 5 ∨ mode = 6) && decide (n ≤ 65536))
  modeOk && ivGenOk && padOk && stageOk

/-- The TYPEs a mode's key may have (R185, R201). -/
def jobTypeOk (mode type : Nat) : Bool :=
  match mode with
  | 7 => decide (type = 2)
  | 8 => decide (type = 1 ∨ type = 8)
  | 11 | 12 => decide (type = 6)
  | _ => decide (type = 1)

/-! ## What a mode computes -/

/-- What one mode answers: the output, the tag it generates for AUX bytes 16 onward, and a status. -/
structure ModeOut where
  output : List Byte
  tag    : List Byte
  status : Nat
  deriving DecidableEq, Repr

def ModeOut.ok (out : List Byte) : ModeOut := ⟨out, [], 0⟩

/-- A generated tag, or the comparison of a supplied one (R204). -/
def tagOut (dec : Bool) (out tag supplied : List Byte) : ModeOut :=
  if dec then (if tag = supplied then ⟨out, [], 0⟩ else ⟨[], [], 1⟩) else ⟨out, tag, 0⟩

/-- PKCS#7 padding of n bytes (R203). -/
def pkcsPad (m : List Byte) : List Byte :=
  let n := 16 - m.length % 16
  m ++ List.replicate n (BitVec.ofNat 8 n)

/-- The message under a correct padding, or none (R203). -/
def pkcsStrip (m : List Byte) : Option (List Byte) :=
  let n := (m.getLastD 0).toNat
  if 1 ≤ n ∧ n ≤ 16 ∧ n ≤ m.length ∧ (m.drop (m.length - n)).all (fun b => b.toNat == n) then
    some (m.take (m.length - n))
  else none

/-- Mode 0. -/
def runCbc (d key iv _aux m : List Byte) : ModeOut :=
  if !jobDecrypt d then .ok (Modes.cbcEnc key iv (if jobPad d then pkcsPad m else m))
  else if !jobPad d then .ok (Modes.cbcDec key iv m)
  else
    match pkcsStrip (Modes.cbcDec key iv m) with
    | some x => .ok x
    | none => ⟨[], [], 2⟩

/-- Mode 1. -/
def runCtr (_d key iv _aux m : List Byte) : ModeOut := .ok (Modes.ctr key iv m)

/-- Mode 2. -/
def runCfb8 (d key iv _aux m : List Byte) : ModeOut := .ok (Modes.cfb 1 (jobDecrypt d) key iv m)

/-- Mode 3. -/
def runCfb128 (d key iv _aux m : List Byte) : ModeOut := .ok (Modes.cfb 16 (jobDecrypt d) key iv m)

/-- Mode 4. -/
def runOfb (_d key iv _aux m : List Byte) : ModeOut := .ok (Modes.ofb key iv m)

/-- The AAD and the supplied tag of an AUX buffer (R200). -/
def auxAad (d aux : List Byte) : List Byte := slice aux 32 (jobAadLen d)
def auxTag (d aux : List Byte) : List Byte := slice aux 16 (jobTagLen d)

/-- Mode 5. -/
def runGcm (d key iv aux m : List Byte) : ModeOut :=
  let out := Modes.gcmCrypt key iv m
  let c := if jobDecrypt d then m else out
  tagOut (jobDecrypt d) out ((Modes.gcmTag key iv (auxAad d aux) c).take (jobTagLen d)) (auxTag d aux)

/-- Mode 6. -/
def runCcm (d key iv aux m : List Byte) : ModeOut :=
  let nonce := iv.take (jobIvLen d)
  let out := Modes.ccmCrypt key nonce m
  let p := if jobDecrypt d then out else m
  tagOut (jobDecrypt d) out (Modes.ccmTag key nonce (auxAad d aux) p (jobTagLen d)) (auxTag d aux)

/-- Mode 7. -/
def runXts (d key iv _aux m : List Byte) : ModeOut := .ok (Modes.xts (jobDecrypt d) key iv m)

/-- Mode 8. -/
def runCmac (d key _iv aux m : List Byte) : ModeOut :=
  tagOut (jobDecrypt d) [] ((Modes.cmac key m).take (jobTagLen d)) (auxTag d aux)

/-- Modes 9 and 10. -/
def runSha384 (_d _key _iv _aux m : List Byte) : ModeOut := .ok (Sha.sha384 m)
def runSha512 (_d _key _iv _aux m : List Byte) : ModeOut := .ok (Sha.sha512 m)

/-- Mode 11: the seal tag of R170 over the AAD given as input. -/
def runSealVerify (d key iv aux m : List Byte) : ModeOut :=
  tagOut true [] (Modes.gmac key iv m) (auxTag d aux)

/-- Mode 12: the digest of R166 under the key derived from B, held at AUX bytes 32 to 47. -/
def runDigestVerify (d key iv aux m : List Byte) : ModeOut :=
  tagOut true [] ((Modes.gmac (Modes.cmac key (slice aux 32 16)) iv m).take 4) (auxTag d aux)

/-- B of mode 12: byte 0 is 0x44 and byte 1 a domain or 0x10 (R201). -/
def digestBlockOk (aux : List Byte) : Bool :=
  decide (leField aux 32 1 = 0x44) && decide (leField aux 33 1 ≤ 0x10)

/-! ## Starting a job -/

/-- The IV of a job: generated under R202, or AUX bytes 0 to 15. -/
def jobIv (d aux : List Byte) (k : KeySlot) (s : State) : List Byte × State :=
  if jobIvGen d then
    if jobMode d = 1 then (beBytes 4 k.fixed.toNat ++ beBytes 8 k.counter.toNat ++ zeros 4, s)
    else if jobMode d = 5 ∨ jobMode d = 6 then (beBytes 4 k.fixed.toNat ++ beBytes 8 k.counter.toNat ++ zeros 4, s)
    else s.drbg 16
  else (slice aux 0 16, s)

/-- A job whose IV comes from the slot's invocation counter (R202). -/
def usesCounter (d : List Byte) : Bool := jobIvGen d && decide (jobMode d = 1 ∨ jobMode d = 5 ∨ jobMode d = 6)

/-- The counter's next value, and EXHAUSTED after the last (R202). -/
def KeySlot.useCounter (k : KeySlot) : KeySlot :=
  if k.counter = 0xFFFFFFFFFFFFFFFF then { k with state := .exhausted } else { k with counter := k.counter + 1 }

/-- A job takes the counter's value. Before the counter passes the reservation mark of a persistent slot, the mark is
raised in the ledger (R193). -/
def State.useCounter (i : Nat) (s : State) : State :=
  let k := s.keySlotAt i
  let mark := s.ledgerRead (markAddr k.place)
  let raised := if mark ≤ 0xFFFFFFFFFFEFFFFF then mark + 0x100000 else 0xFFFFFFFFFFFFFFFF
  let s := if k.persistent ∧ mark ≤ k.counter then s.ledgerWord (markAddr k.place) raised else s
  s.modKeySlot i KeySlot.useCounter

/-- A job that fails before an engine computes anything. -/
def failed (status : Nat) : JobResult := ⟨[], [], status, 0, 0, Option.none⟩

/-- The bytes that a failed authentication or padding leaves in DST: zeros for the decryptions that write there (CBC,
GCM and CCM), and nothing with STAGE (R201, R204). -/
def zeroed (d : List Byte) (status : Nat) (i : Option Nat) : JobResult :=
  if jobStage d ∨ 8 ≤ jobMode d then ⟨[], [], status, 0, 0, i⟩
  else ⟨zeros (jobLength d), [], status, jobLength d, 0, i⟩

/-- Whether a job reads its AUX buffer: for an IV that is not generated, a supplied tag, AAD or B (R200, R201). -/
def auxRead (d : List Byte) : Bool :=
  jobDecrypt d || (!jobIvGen d && decide (jobMode d ≠ 8)) || decide ((jobMode d = 5 ∨ jobMode d = 6) ∧ jobAadLen d ≠ 0)

/-- A job of a keyed mode runs: the IV, the mode, and what AUX receives (R200 to R204). -/
def runKeyed (f : List Byte → List Byte → List Byte → List Byte → List Byte → ModeOut) (d src aux : List Byte)
    (i : Nat) (k : KeySlot) (s : State) : JobResult × State :=
  let (iv, s) := jobIv d aux k s
  let s := if usesCounter d then s.useCounter i else s
  let o := f d k.key iv aux (slice src 0 (jobLength d))
  if o.status ≠ 0 then (zeroed d o.status (some i), s)
  else
    let writes := (if jobIvGen d then [(0, iv)] else []) ++ (if o.tag = [] then [] else [(16, o.tag)])
    (⟨o.output, writes, 0, o.output.length, if usesCounter d then k.counter else 0, some i⟩, s)

/-- A slot being zeroised serves a job no more, but for one that a reduced share leaves its key (R191, R298). -/
def KeySlot.gone (k : KeySlot) (granted : Bool) : Bool := k.dying.any fun ws => !granted || !ws.isEmpty

/-- The checks of a job, the first that fails giving its status (R187, R191, R201, R205, R213; their order is log entry 8),
and its run. -/
def startJob (f : List Byte → List Byte → List Byte → List Byte → List Byte → ModeOut) (j : Job) (s : State) :
    JobResult × State :=
  let d := j.desc
  let mode := jobMode d
  let i := jobKeySlot d
  let k := s.keySlotAt i
  if !jobParamOk d then (failed 3, s)
  else if mode = 13 then
    if s.entropyOk then let (b, s) := s.drbg (jobLength d); (⟨b, [], 0, b.length, 0, Option.none⟩, s) else (failed 8, s)
  else if !jobKeyed mode then
    match j.src with
    | none => (failed 9, s)
    | some m => let o := f d [] [] [] (slice m 0 (jobLength d)); (⟨o.output, [], 0, o.output.length, 0, Option.none⟩, s)
  else if !j.granted ∧ !s.ownsKey j.owner i then (failed 5, s)
  else if k.state = .empty ∨ j.keyless ∨ k.gone j.granted then (failed 4, s)
  else if !jobTypeOk mode k.type then (failed 5, s)
  else if k.state = .closed then (failed 6, s)
  else if k.state = .exhausted then (failed 7, s)
  else if s.lamp.canary = 3 then (failed 8, s)
  else
    match j.src, (if auxRead d then j.aux else some (j.aux.getD [])) with
    | some src, some aux =>
      if mode = 12 ∧ !digestBlockOk aux then (failed 3, s) else runKeyed f d src aux i k s
    | _, _ => (failed 9, s)

/-- The mode function of a descriptor. -/
def modeFn (mode : Nat) : List Byte → List Byte → List Byte → List Byte → List Byte → ModeOut :=
  match mode with
  | 0 => runCbc
  | 1 => runCtr
  | 2 => runCfb8
  | 3 => runCfb128
  | 4 => runOfb
  | 5 => runGcm
  | 6 => runCcm
  | 7 => runXts
  | 8 => runCmac
  | 9 => runSha384
  | 10 => runSha512
  | 11 => runSealVerify
  | 12 => runDigestVerify
  | _ => fun _ _ _ _ _ => ⟨[], [], 3⟩

/-! ## Sharing the engines (R206, R207) -/

/-- Job a outranks job b. -/
def Job.outranks (a b : Job) : Bool :=
  decide (a.urgency < b.urgency) || (decide (a.urgency = b.urgency) && decide (b.priority < a.priority))

/-- Job a starts before job b among waiting jobs: by rank, and within one rank by arrival. -/
def Job.before (a b : Job) : Bool := a.outranks b || (!b.outranks a && decide (a.arrival < b.arrival))

/-- The started STAGE jobs, each holding one of 32 buffers (R204). -/
def State.stagesHeld (s : State) : Nat :=
  ((s.lamp.engines.filterMap id ++ s.lamp.waiting).filter fun j => j.result.isSome && jobStage j.desc).length

/-- A job that has not started waits for the ones before it on its ring (R199). -/
def State.inTurn (s : State) (j : Job) : Bool :=
  s.lamp.waiting.all fun k => k.result.isSome || decide (k.ring ≠ j.ring ∨ j.arrival ≤ k.arrival)

/-- A waiting job that may start now: a saved one, or the first of its ring, which as a STAGE job needs a free buffer
(R199, R204). -/
def State.startable (s : State) (j : Job) : Bool :=
  j.result.isSome || (s.inTurn j && (!jobStage j.desc || decide (s.stagesHeld < 32)))

/-- The waiting job that starts next. -/
def State.nextJob (s : State) : Option Job :=
  (s.lamp.waiting.filter s.startable).foldl
    (fun b j => match b with | none => some j | some x => if j.before x then some j else some x) none

/-- The first engine that is in service and idle (R207, R343, R348). -/
def State.idleEngine (s : State) : Option Nat :=
  if s.lamp.pllLost then none
  else (List.range (16 - s.lamp.shed)).find? fun e => (s.lamp.engines.getD e none).isNone

/-- A waiting job moves to an engine; it computes its result at its start. -/
def State.placeJob (e : Nat) (j : Job) (s : State) : State :=
  let (r, s) := match j.result with
    | some r => (r, s)
    | none => startJob (modeFn (jobMode j.desc)) j s
  let run := { j with result := some r }
  let waiting := s.lamp.waiting.filter fun x => decide (x.arrival ≠ j.arrival)
  { s with lamp := { s.lamp with engines := putAt none s.lamp.engines e (some run), waiting := waiting } }

/-- Idle engines take waiting jobs. -/
def State.fillEngines (s : State) : State :=
  (List.range 16).foldl
    (fun s _ => match s.idleEngine, s.nextJob with
      | some e, some j => s.placeJob e j
      | _, _ => s) s

/-- A job reaches the cipher queue with its input, and starts when an engine is free for it. A head of another mode
leaves the state as it is (log entry 2). -/
def arriveJob (mode ring : Nat) (src aux : Option (List Byte)) (s : State) : State :=
  let r := s.ring ring
  match r.head with
  | none => s
  | some t =>
    if (r.type = 6 ∨ (r.type = 7 ∧ mode = 13)) ∧ jobMode t.desc = mode then
      let j : Job := ⟨ring, t.cursor, r.owner, t.desc, src, aux, if r.owner.isHost then 2 else 3, jobPriority t.desc,
        s.lamp.arrivals, none, false, false, t.keyless, t.granted⟩
      let s := s.startEntry ring t.cursor
      { s with lamp := { s.lamp with arrivals := s.lamp.arrivals + 1, waiting := s.lamp.waiting ++ [j] } }.fillEngines
    else s

/-- A job of a function that was reset ends: its DST is zero-filled, unless its ring has lost its host, and it has no
completion (R205). -/
def State.endJob (j : Job) (s : State) : State :=
  let n := (j.result.map (·.outLen)).getD 0
  let s := if n = 0 ∨ (s.ring j.ring).phase = .hostLost then s else s.ringWrite j.ring (jobDst j.desc) (zeros n) false
  s.complete j.ring j.cursor []

/-- A segment boundary of the job on an engine: the job of a function that was reset stops there (R205); an outranked one is
saved, and the outranking job starts (R206). -/
def jobPreempt (e : Nat) (s : State) : State :=
  match s.lamp.engines.getD e none, s.nextJob with
  | some run, next =>
    if run.abandoned ∧ !s.lamp.pllLost then
      (({ s with lamp := { s.lamp with engines := putAt none s.lamp.engines e none } }.endJob run).settleKeys).fillEngines
    else match next with
    | none => s
    | some j => if s.idleEngine.isNone ∧ j.outranks run ∧ !s.lamp.pllLost then
      let waiting := s.lamp.waiting ++ [{ run with preempted := true }]
      let s := { s with lamp := { s.lamp with engines := putAt none s.lamp.engines e none, waiting := waiting } }
      (s.count Reg.LAMP_CNT_PREEMPT).placeJob e j
    else s
  | none, _ => s

/-- The completion fields of R200: INVOCATION, OUT_LEN, STATUS, PREEMPTED. -/
def jobFields (invocation : Word) (outLen status : Nat) (preempted : Bool) : List (Nat × List Byte) :=
  [(40, leBytes 8 invocation.toNat ++ leBytes 4 outLen ++ leBytes 1 status ++ leBytes 1 (b2n preempted) ++ [0, 0])]

/-- A job's status counted, block-wide and in the VF's view (R205, R214, R379). -/
def State.countJob (o : Party) (status : Nat) (s : State) : State :=
  let s := s.count Reg.LAMP_CNT_JOBS
  let s := if status = 0 then s else s.count (Reg.LAMP_CNT_JOB_STATUS status)
  match o with
  | .vf p v =>
    let s := s.count (Reg.vf p v 0x8038)
    if status = 0 then s else s.count (Reg.vf p v (0x8040 + 8 * status))
  | _ => s

/-- A descriptor that an engine never sees completes with a status (an invalid MODE, a wrong ring). -/
def State.refuseJob (c : Nat) (t : Taken) (status : Nat) (s : State) : State :=
  (s.countJob (s.ring c).owner status).complete c t.cursor (jobFields 0 0 status false)

/-- The job running on an engine completes: its output, then its completion. When a write of its output failed its
status is WRITE_FAIL; a job whose function was reset has its DST zero-filled and no completion (R205). -/
def jobCompletion (e : Nat) (written : Bool) (s : State) : State :=
  match s.lamp.engines.getD e none with
  | none => s
  | some j =>
    if s.lamp.pllLost then s
    else
      let r := j.result.getD (failed 3)
      let s := { s with lamp := { s.lamp with engines := putAt none s.lamp.engines e none } }
      let lost := decide ((s.ring j.ring).phase = .hostLost)
      let write := fun (a : Nat) (b : List Byte) (s : State) => if lost then s else s.ringWrite j.ring a b false
      let s :=
        if j.abandoned then s.endJob j
        else
          let status := if written then r.status else 10
          let s := if written ∧ r.output ≠ [] then write (jobDst j.desc) r.output s else s
          let s := if written then r.auxWrites.foldl (fun s (o, b) => write (jobAux j.desc + o) b s) s else s
          (s.countJob j.owner status).complete j.ring j.cursor (jobFields r.invocation r.outLen status j.preempted)
      s.settleKeys.fillEngines

/-! ## The meanings -/

def execCbc (ring : Nat) (src aux : Option (List Byte)) (s : State) : Answer :=
  within (Instr.wf (.cbc ring src aux)) (whenClocked (onLink (s.ring ring).owner (.cbc ring src aux)
      (unlessStopped 5 (arriveJob 0 ring src aux))) s) s

def execCtr (ring : Nat) (src aux : Option (List Byte)) (s : State) : Answer :=
  within (Instr.wf (.ctr ring src aux)) (whenClocked (onLink (s.ring ring).owner (.ctr ring src aux)
      (unlessStopped 5 (arriveJob 1 ring src aux))) s) s

def execCfb8 (ring : Nat) (src aux : Option (List Byte)) (s : State) : Answer :=
  within (Instr.wf (.cfb8 ring src aux)) (whenClocked (onLink (s.ring ring).owner (.cfb8 ring src aux)
      (unlessStopped 5 (arriveJob 2 ring src aux))) s) s

def execCfb128 (ring : Nat) (src aux : Option (List Byte)) (s : State) : Answer :=
  within (Instr.wf (.cfb128 ring src aux)) (whenClocked (onLink (s.ring ring).owner (.cfb128 ring src aux)
      (unlessStopped 5 (arriveJob 3 ring src aux))) s) s

def execOfb (ring : Nat) (src aux : Option (List Byte)) (s : State) : Answer :=
  within (Instr.wf (.ofb ring src aux)) (whenClocked (onLink (s.ring ring).owner (.ofb ring src aux)
      (unlessStopped 5 (arriveJob 4 ring src aux))) s) s

def execGcm (ring : Nat) (src aux : Option (List Byte)) (s : State) : Answer :=
  within (Instr.wf (.gcm ring src aux)) (whenClocked (onLink (s.ring ring).owner (.gcm ring src aux)
      (unlessStopped 5 (arriveJob 5 ring src aux))) s) s

def execCcm (ring : Nat) (src aux : Option (List Byte)) (s : State) : Answer :=
  within (Instr.wf (.ccm ring src aux)) (whenClocked (onLink (s.ring ring).owner (.ccm ring src aux)
      (unlessStopped 5 (arriveJob 6 ring src aux))) s) s

def execXts (ring : Nat) (src aux : Option (List Byte)) (s : State) : Answer :=
  within (Instr.wf (.xts ring src aux)) (whenClocked (onLink (s.ring ring).owner (.xts ring src aux)
      (unlessStopped 5 (arriveJob 7 ring src aux))) s) s

def execCmac (ring : Nat) (src aux : Option (List Byte)) (s : State) : Answer :=
  within (Instr.wf (.cmac ring src aux)) (whenClocked (onLink (s.ring ring).owner (.cmac ring src aux)
      (unlessStopped 5 (arriveJob 8 ring src aux))) s) s

def execSha384 (ring : Nat) (src : Option (List Byte)) (s : State) : Answer :=
  within (Instr.wf (.sha384 ring src)) (whenClocked (onLink (s.ring ring).owner (.sha384 ring src)
      (unlessStopped 5 (arriveJob 9 ring src none))) s) s

def execSha512 (ring : Nat) (src : Option (List Byte)) (s : State) : Answer :=
  within (Instr.wf (.sha512 ring src)) (whenClocked (onLink (s.ring ring).owner (.sha512 ring src)
      (unlessStopped 5 (arriveJob 10 ring src none))) s) s

def execSealVerify (ring : Nat) (src aux : Option (List Byte)) (s : State) : Answer :=
  within (Instr.wf (.sealVerify ring src aux)) (whenClocked (onLink (s.ring ring).owner (.sealVerify ring src aux)
      (unlessStopped 5 (arriveJob 11 ring src aux))) s) s

def execDigestVerify (ring : Nat) (src aux : Option (List Byte)) (s : State) : Answer :=
  within (Instr.wf (.digestVerify ring src aux)) (whenClocked (onLink (s.ring ring).owner (.digestVerify ring src aux)
      (unlessStopped 5 (arriveJob 12 ring src aux))) s) s

def execRandom (ring : Nat) (s : State) : Answer :=
  within (Instr.wf (.random ring)) (whenClocked (unlessStopped 5 (arriveJob 13 ring none none)) s) s

def execJobPreempt (engine : Nat) (s : State) : Answer :=
  within (Instr.wf (.jobPreempt engine)) (whenClocked (unlessStopped 5 (jobPreempt engine)) s) s

def execJobCompletion (engine : Nat) (written : Bool) (s : State) : Answer :=
  within (Instr.wf (.jobCompletion engine written)) (whenClocked (unlessStopped 5 (jobCompletion engine written)) s) s

end Sys2Proof.Machine
end

