-- ==== Sys2Proof/Machine/Macsec.lean ====
section
/-! DEFINITION. Machine/Macsec.lean: inline MACsec as IEEE 802.1AE-2018 defines it, in both directions (R69, R194 to
R198, R213; log entries 30 and 47). -/

namespace Sys2Proof.Machine

/-- The EtherType field after the addresses of a frame. -/
def etherType (f : List Byte) : Nat := beField f 12 2

/-- The EtherTypes of the SecTAG and of EAPOL (R69, R70). -/
abbrev secTagType : Nat := 0x88E5
abbrev eapolType : Nat := 0x888E

/-! ## Transmit (R196, R197, R213) -/

/-- Frames that a port sends are protected: MACsec is on and LAMP_TX_SC.EN is 1. EAPOL frames go unprotected, as IEEE
802.1X has them (log entry 47). -/
def State.protects (s : State) (n : Nat) (f : List Byte) : Bool :=
  s.macsecOn n && s.txEn n && decide (etherType f ≠ eapolType)

/-- The key slot of an SA register value. -/
def State.saKey (s : State) (sa : Word) : KeySlot := s.keySlotAt (bits sa 15 2)

/-- The encoding SA can protect a frame: VALID, not EXHAUSTED, and with an ACTIVE key (R186, R197). -/
def State.txReady (s : State) (n : Nat) : Bool :=
  let sa := s.encodingSa n
  bit sa 0 && !bit sa 1 && decide ((s.saKey sa).state = .active)

/-- The IV of a frame: SCI and PN, or for an XPN suite the short SCI and the 64-bit PN under the SA's salt. -/
def macsecIv (xpn : Bool) (sci ssci pn : Nat) (salt : List Byte) : List Byte :=
  if xpn then xorBytes (beBytes 4 ssci ++ beBytes 8 pn) (slice salt 0 12) else beBytes 8 sci ++ beBytes 4 pn

/-- The SecTAG: EtherType, TCI and AN, SL, the low 32 bits of the PN, and the SCI when it is carried. -/
def secTag (sci : Option Nat) (conf : Bool) (an len pn : Nat) : List Byte :=
  let tci := 32 * b2n sci.isSome + 12 * b2n conf + an % 4
  beBytes 2 secTagType ++ [BitVec.ofNat 8 tci, BitVec.ofNat 8 (if len < 48 then len else 0)] ++ beBytes 4 pn
    ++ (match sci with
        | some x => beBytes 8 x
        | none => [])

/-- The next PN of the encoding SA is taken: PN_NEAR_END when the threshold is passed, EXHAUSTED after the last PN
(R197). -/
def State.takePn (n : Nat) (s : State) : State :=
  let an := s.encodingAn n
  let k := Reg.LAMP_TX_PN n an
  let pn := (s.reg k).toNat
  let last := if bit (s.encodingSa n) 16 then 0xFFFFFFFFFFFFFFFF else 0xFFFFFFFF
  let near := s.pnNear n
  let s := s.setReg k (word (pn + 1))
  let s := if !near ∧ s.pnNear n then s.pnNearEnd n else s
  if last ≤ pn then s.modReg (Reg.LAMP_TX_SA n an) fun v => setBits v 1 1 1 else s

/-- A frame without FCS protected under the encoding SA (R194, R196). -/
def State.protect (n : Nat) (f : List Byte) (s : State) : List Byte × State :=
  let sc := s.reg (Reg.LAMP_TX_SC n)
  let sa := s.encodingSa n
  let k := s.saKey sa
  let sci := (s.reg (Reg.LAMP_TX_SCI n)).toNat
  let pn := (s.reg (Reg.LAMP_TX_PN n (s.encodingAn n))).toNat
  let body := f.drop 12
  let tag := secTag (if bit sc 1 then some sci else none) (bit sc 2) (s.encodingAn n) body.length pn
  let head := f.take 12 ++ tag
  let iv := macsecIv (bit sa 16) sci (bits sa 63 32) pn k.salt
  let (out, icv) :=
    if bit sc 2 then
      let c := Modes.gcmCrypt k.key iv body
      (c, Modes.gcmTag k.key iv head c)
    else (body, Modes.gmac k.key iv (head ++ body))
  (head ++ out ++ icv, (s.takePn n).count (Reg.LAMP_CNT_TX_PROTECTED n))

/-- What a port puts on the wire for a frame without FCS: protected where it must be, with its FCS. -/
def State.wireFrame (n : Nat) (f : List Byte) (s : State) : List Byte × State :=
  let (b, s) := if s.protects n f then s.protect n f else (f, s)
  (b ++ fcsBytes b, s)

/-! ## Receive (R69, R198, R213) -/

/-- What becomes of a received frame on a MACsec port: it goes on, with whether it was protected, or goes to the cores
as EAPOL, or is dropped. -/
inductive RxVerdict where
  | pass (bytes : List Byte) (secured : Bool)
  | eapol
  | drop
  deriving DecidableEq, Repr

/-- The length that a SecTAG and its ICV add, by the SecTAG before verification (R69). -/
def secOverhead (f : List Byte) : Nat :=
  if etherType f = secTagType then (if (f.getD 14 0).getLsbD 5 then 16 else 8) + 16 else 0

/-- The receive SC of a frame: the one with its SCI, or the single one in use when the SecTAG carries none (R198). -/
def State.rxSc (s : State) (n : Nat) (sci : Option Nat) : Option Nat :=
  let used := (List.range 8).filter fun c => bit (s.reg (Reg.LAMP_RX_SC n c)) 0
  match sci with
  | some x => used.find? fun c => decide ((s.reg (Reg.LAMP_RX_SCI n c)).toNat = x)
  | none => if used.length = 1 then used.head? else none

/-- The full PN of a received frame: with an XPN suite its upper half is recovered from the lowest acceptable PN. -/
def fullPn (xpn : Bool) (lowest pn : Nat) : Nat :=
  if xpn then
    let up := lowest / 2 ^ 32 + (if lowest.testBit 31 ∧ ¬ pn.testBit 31 then 1 else 0)
    up % 2 ^ 32 * 2 ^ 32 + pn
  else pn

/-- The checks of R198 on a frame (FCS removed) of a MACsec port, in order. -/
def State.macsecRx (n : Nat) (f : List Byte) (s : State) : RxVerdict × State :=
  let fail := fun (k : Nat) => (RxVerdict.drop, s.count k)
  if etherType f = eapolType then (.eapol, s)
  else if etherType f ≠ secTagType then fail (Reg.LAMP_CNT_RX_NO_TAG n)
  else if s.maskStop then fail (Reg.LAMP_CNT_RX_MASK_STOP n)
  else
    let tci := f.getD 14 0
    let an := tci.toNat % 4
    let sciIn := if tci.getLsbD 5 then some (beField f 20 8) else none
    let tagLen := if tci.getLsbD 5 then 16 else 8
    match s.rxSc n sciIn with
    | none => fail (Reg.LAMP_CNT_RX_NO_SA n)
    | some c =>
      let sc := s.reg (Reg.LAMP_RX_SC n c)
      let sa := s.reg (Reg.LAMP_RX_SA n c an)
      if !bit sa 0 then fail (Reg.LAMP_CNT_RX_NO_SA n)
      else
        let lowest := (s.reg (Reg.LAMP_RX_PN n c an)).toNat
        let pn := fullPn (bit sa 16) lowest (beField f 16 4)
        if bit sc 1 ∧ pn < lowest then fail (Reg.LAMP_CNT_RX_REPLAY n)
        else
          let k := s.saKey sa
          let sci := sciIn.getD (s.reg (Reg.LAMP_RX_SCI n c)).toNat
          let iv := macsecIv (bit sa 16) sci (bits sa 63 32) pn k.salt
          let head := f.take (12 + tagLen)
          let rest := f.drop (12 + tagLen)
          let c0 := rest.take (rest.length - 16)
          let sl := (f.getD 15 0).toNat % 64
          let body := if sl = 0 then c0 else c0.take sl
          let icv := (rest.drop body.length).take 16
          let conf := tci.getLsbD 3
          let want := if conf then Modes.gcmTag k.key iv head body else Modes.gmac k.key iv (head ++ body)
          if k.state ≠ .active ∨ icv ≠ want then fail (Reg.LAMP_CNT_RX_BAD_ICV n)
          else
            let clear := if conf then Modes.gcmCrypt k.key iv body else body
            let low := pn + 1 - bits sc 61 32
            let s := s.count (Reg.LAMP_CNT_RX_VERIFIED n)
            let s := if lowest < low then s.setReg (Reg.LAMP_RX_PN n c an) (word low) else s
            (.pass (f.take 12 ++ clear) true, s)

end Sys2Proof.Machine
end

