-- ==== Sys2Proof/Machine/TableOps.lean ====
section
/-! DEFINITION. Machine/TableOps.lean: the lookup tables (R140 to R159): entry images, keys, counts, locks, contents in
force at a stamp, and parity reports. -/

namespace Sys2Proof.Machine

/-! ## Tables and keys (R140) -/

/-- The number of entries of a table (R140); the LPM tables are indexed by prefix. -/
def tableSize : Nat → Nat
  | 0 => 65536 | 1 => 65536 | 2 => 262144 | 3 => 4096 | 4 => 16384 | 5 => 65536 | _ => 0

/-- A replicated table. -/
def isReplicated (t : Nat) : Bool := decide (t = 1 ∨ t = 3)

/-- A table of a pipeline pair. -/
def isPaired (t : Nat) : Bool := decide (5 ≤ t ∧ t ≤ 7)

/-- A table whose entries are counted. -/
def isCounted (t : Nat) : Bool := decide (t = 0 ∨ t = 1 ∨ t = 3 ∨ t = 5)

/-- The instance that a TARGET names: the pipeline, the pair, or 0 where it is ignored. -/
def tableInst (t target : Nat) : Nat := if t = 0 ∨ t = 2 ∨ isPaired t then target else 0

/-- The instance that a pipeline looks up (R141). -/
def lookupInst (t pipe : Nat) : Nat := if t = 0 ∨ t = 2 then pipe else if isPaired t then pipe / 2 else 0

/-- The key of an entry. -/
def entryKey (t inst index : Nat) : Nat := (8 * t + inst) * 0x100000 + index

def keyTable (k : Nat) : Nat := k / 0x800000
def keyInst (k : Nat) : Nat := k / 0x100000 % 8
def keyIndex (k : Nat) : Nat := k % 0x100000

def State.entry (s : State) (k : Nat) : Entry := Store.get (fun _ => Entry.empty) s.tables k
def State.modEntry (k : Nat) (f : Entry → Entry) (s : State) : State :=
  { s with tables := Store.modify (fun _ => Entry.empty) k f s.tables }

/-! ## Images (R143) -/

/-- The bytes of an image. -/
def imageBytes (x : BitVec 512) : List Byte := leBytes 64 x.toNat

/-- An image from bytes. -/
def imageOf (bs : List Byte) : BitVec 512 := BitVec.ofNat 512 (leNat (bs.take 64))

/-- A field of an image: n bytes at off. -/
def imgField (x : BitVec 512) (off n : Nat) : Nat := x.toNat / 2 ^ (8 * off) % 2 ^ (8 * n)

/-- VALID. -/
def imgValid (x : BitVec 512) : Bool := x.getLsbD 496

/-- Bits [hi:lo] of the byte at off, in place. -/
def keepBits (x : BitVec 512) (off n mask : Nat) : Nat := (imgField x off n &&& mask) * 2 ^ (8 * off)

/-- What a table stores of an image: the fields of R143 and VALID, without COUNT and without the state byte. -/
def storedImage (t : Nat) (x : BitVec 512) : BitVec 512 :=
  let all := fun off n => imgField x off n * 2 ^ (8 * off)
  let body := match t with
    | 0 => all 0 21 + keepBits x 21 1 1
    | 1 => all 0 16
    | 2 => all 0 6 + keepBits x 6 2 0xFFF + all 8 1 + keepBits x 9 1 1
    | 3 =>
      let r := imgField x 51 1 % 8
      let a := if r = 0 ∨ r = 1 then keepBits x 52 1 0x1F else 0
      let b := if r = 0 then keepBits x 54 2 0x3FFF else if r = 3 then all 54 2 else 0
      all 0 36 + keepBits x 36 2 0xFFF + keepBits x 38 2 0xFFF + all 40 3 + all 44 7 + keepBits x 51 1 7 + a + b
    | 4 => all 0 32
    | 5 => all 0 12 + keepBits x 12 2 0x8FFF + all 14 1
    | _ => 0
  BitVec.ofNat 512 (body + (if imgValid x then 2 ^ 496 else 0))

/-- The COUNT of a READ: the sum over the copies, modulo 2^48. -/
def Entry.total (e : Entry) : Nat := e.counts.sum % 2 ^ 48

/-- An entry as it stands at an instant: before the effective instant of a WRITE its old contents (R152, R406). -/
def Entry.asOf (e : Entry) (now : Dial) : Entry :=
  match e.old with
  | some o => if now < o.effective then { e with img := o.img, counts := o.counts } else e
  | none => e

/-- The image that a READ returns. -/
def Entry.readImage (t : Nat) (e : Entry) : List Byte :=
  let b := imageBytes e.img
  let state := b2n e.lock + 2 * b2n (e.parity != 0) + (if t = 2 then 4 * b2n e.hit else 0)
  b.take 56 ++ (if isCounted t then leBytes 6 e.total else zeros 6) ++ [slice b 62 1 |>.headD 0, BitVec.ofNat 8 state]

/-- The COUNTs that a WRITE stores: the image's in the first copy and 0 in the others (R143). -/
def writtenCounts (t : Nat) (x : BitVec 512) : List Nat :=
  if isCounted t then imgField x 56 6 :: (if isReplicated t then List.replicate 7 0 else []) else []

/-- Adding one to item i of a list of counts, modulo 2^48; a list too short is filled with zeros. -/
def bump : List Nat → Nat → List Nat
  | [], 0 => [1]
  | x :: xs, 0 => (x + 1) % 2 ^ 48 :: xs
  | [], n + 1 => 0 :: bump [] n
  | x :: xs, n + 1 => x :: bump xs n

/-- Adding two lists of counts pairwise, modulo 2^48. -/
def addCounts : List Nat → List Nat → List Nat
  | [], ys => ys
  | xs, [] => xs
  | x :: xs, y :: ys => (x + y) % 2 ^ 48 :: addCounts xs ys

/-- An entry counts for a pipeline: into COUNT, or into the side counter while it is locked (R151). -/
def State.countEntry (k pipe : Nat) (s : State) : State :=
  let i := if isReplicated (keyTable k) then pipe else 0
  s.modEntry k fun e => if e.lock then { e with side := bump e.side i } else { e with counts := bump e.counts i }

/-! ## Contents in force at a stamp (R83) -/

/-- The margin of a pipeline now, in ns: the largest L_max among its slots that are enabled and not idle. -/
def State.marginNow (s : State) (pipe : Nat) : Nat :=
  (((List.range 32).map fun j => 32 * pipe + j).filter fun n => s.slotOn n && !s.isIdle n).foldl
    (fun a n => max a (s.lmax n)) 0

/-- The margin of a pipeline for kept contents: as captured, or as it stands. -/
def State.margin (s : State) (o : OldContents) (pipe : Nat) : Nat :=
  match o.margins with
  | some ms => ms.getD pipe 0
  | none => s.marginNow pipe

/-- The pipelines whose copies an entry stands in. -/
def entryPipes (k : Nat) : List Nat :=
  let t := keyTable k
  if t = 0 ∨ t = 2 then [keyInst k] else if isPaired t then [2 * keyInst k] else if t = 4 then [0] else List.range 8

/-- Dial has passed the effective instant plus the margin in every pipeline of the entry. -/
def State.oldDone (s : State) (k : Nat) (o : OldContents) : Bool :=
  (entryPipes k).all fun p => decide (o.effective.toNat + s.margin o p * nsUnits ≤ s.dial.toNat)

/-- Before a port mode changes, the margins of contents whose effective instant has come are kept (R83). -/
def State.captureMargins (s : State) : State :=
  let now := s.dial
  let ms := fun (o : OldContents) =>
    if o.margins.isNone && decide (o.effective ≤ now) then { o with margins := some ((List.range 8).map s.marginNow) }
    else o
  { s with tables := s.tables.map fun (k, e) => (k, { e with old := e.old.map ms }) }

/-- The contents of an entry in force at a stamp, as a pipeline reads it (R83). -/
def State.imageAt (s : State) (k pipe : Nat) (stamp : Dial) : BitVec 512 :=
  let e := s.entry k
  match e.old with
  | some o =>
    if stamp < o.effective ∧ s.dial.toNat < o.effective.toNat + s.margin o pipe * nsUnits then o.img else e.img
  | none => e.img

/-! ## Parity (R156) -/

/-- The pipeline field of a parity report: the even one of a pair, 0 for GROUP. -/
def reportPipe (k pipe : Nat) : Nat :=
  if isPaired (keyTable k) then 2 * keyInst k else if keyTable k = 4 then 0 else pipe

/-- A parity report latched, counted and logged. -/
def State.parityReport (t pipe index : Nat) (s : State) : State :=
  let s := s.count (Reg.TBL_CNT_PARITY t)
  let s := s.setReg Reg.TBL_PARITY_LAST (word (pipe + t * 16 + index % 2 ^ 24 * 256))
  (s.setReg Reg.TBL_PARITY_DIAL (word s.dialNs)).logEvent 0x400 6 [t, pipe, index]

/-- The copy of an entry that a pipeline reads. -/
def entryCopy (k pipe : Nat) : Nat := if isReplicated (keyTable k) then pipe else 0

/-- A copy of an entry fails its parity check. -/
def Entry.bad (e : Entry) (copy : Nat) : Bool := e.parity.getLsbD copy

/-- A bad copy of an entry is reported once, by the first party that meets it. -/
def State.meetEntry (k pipe : Nat) (s : State) : State :=
  let e := s.entry k
  let i := entryCopy k pipe
  if e.bad i && !e.reported.getLsbD i then
    (s.modEntry k fun e => { e with reported := e.reported ||| BitVec.ofNat 8 (2 ^ i) }).parityReport (keyTable k) (reportPipe k pipe) (keyIndex k)
  else s

/-! ## Fan-out groups (R123, R145) -/

/-- The mask of a group; none when its entry is invalid or fails parity. -/
def State.groupMask (s : State) (g : Nat) : Option (BitVec 256) :=
  let e := s.entry (entryKey 4 0 g)
  if imgValid e.img && !e.bad 0 then some (e.img.truncate 256) else none

/-- The slots of a mask, those left idle by a bond ignored. -/
def State.maskSlots (s : State) (m : BitVec 256) : List Nat :=
  (List.range 256).filter fun n => m.getLsbD n && !s.isIdle n

/-! ## Side counters (R151) -/

/-- The pipelines whose pools give a locked entry its side counters. -/
def sidePools (k : Nat) : List Nat := if keyTable k = 4 then [] else entryPipes k

/-- Side counters in use in a pipeline. -/
def State.sideUsed (s : State) (pipe : Nat) : Nat :=
  (s.tables.filter fun (k, e) => e.lock && (sidePools k).contains pipe).length

/-! ## The LPM tables (R147, R148) -/

/-- The prefixes of a pair's table. -/
def State.prefixes (s : State) (pair : Nat) (v6 : Bool) : List Prefix :=
  s.lpm.filter fun p => decide (p.pair = pair ∧ p.v6 = v6)

/-- The 256-entry blocks that prefixes use: one for each distinct node below level 1 (R147, R148). -/
def lpmBlocks (ps : List Prefix) : Nat :=
  ([16, 24, 32, 40, 48, 56].map fun l =>
    ((ps.filter fun p => decide (l < p.length)).map fun p => p.value / 2 ^ (p.length - l)).eraseDups.length).sum

/-- The levels of a trie, as address bits looked at (R147). -/
def trieLevels (v6 : Bool) : List Nat := if v6 then [16, 24, 32, 40, 48, 56, 64] else [16, 24, 32]

/-- The level whose nodes a prefix of a length is expanded into. -/
def trieLevel (v6 : Bool) (len : Nat) : Nat := ((trieLevels v6).find? fun l => decide (len ≤ l)).getD 64

/-- The levels that a lookup of an address visits: the first, and each further one whose block some prefix needs. -/
def State.trieVisits (s : State) (pair : Nat) (v6 : Bool) (w addr : Nat) : List Nat :=
  (trieLevels v6).filter fun l => decide (l = 16) || (s.prefixes pair v6).any fun p =>
    decide (l - 8 < p.length ∧ p.value / 2 ^ (p.length - (l - 8)) = addr / 2 ^ (w - (l - 8)))

/-- The first bad node that a lookup of an address meets. -/
def State.badVisit (s : State) (pair : Nat) (v6 : Bool) (w addr : Nat) : Option BadNode :=
  (s.trieVisits pair v6 w addr).findSome? fun l => s.tbl.badNodes.find? fun b =>
    decide (b.pair = pair ∧ b.v6 = v6 ∧ b.level = l ∧ b.value = addr / 2 ^ (w - l))

/-- A prefix covers a node of its own level. -/
def Prefix.covers (p : Prefix) (b : BadNode) : Bool :=
  decide (b.pair = p.pair ∧ b.v6 = p.v6 ∧ b.level = trieLevel p.v6 p.length ∧ b.value / 2 ^ (b.level - p.length) = p.value)

/-- The nodes that an INSERT or DELETE of a prefix rewrites are good from then on: those it covers and no longer prefix of
their level does (R149, R156). -/
def State.rewriteNodes (p : Prefix) (s : State) : State :=
  let longer := fun (b : BadNode) => s.lpm.any fun q => decide (p.length < q.length) && q.covers b
  { s with tbl := { s.tbl with badNodes := s.tbl.badNodes.filter fun b => !(p.covers b && !longer b) } }

/-- The longest prefix of an address (its width w bits). -/
def State.longestPrefix (s : State) (pair : Nat) (v6 : Bool) (w addr : Nat) : Option Prefix :=
  (s.prefixes pair v6).foldl
    (fun a p =>
      if addr / 2 ^ (w - p.length) = p.value then
        match a with
        | some q => if q.length < p.length then some p else a
        | none => some p
      else a) none

/-! ## The MAC table (R145) -/

/-- The bucket of a bridging key. -/
def macBucket (vid : Nat) (mac : List Byte) : Nat :=
  (crc32c (beBytes 2 (vid % 4096) ++ mac)).toNat % 65536

/-- The keys of a bucket's four ways in a pipeline. -/
def bucketKeys (pipe b : Nat) : List Nat := (List.range 4).map fun w => entryKey 2 pipe (4 * b + w)

/-- The entry holds the key (VID, MAC) validly. -/
def macMatches (vid : Nat) (mac : List Byte) (e : Entry) : Bool :=
  imgValid e.img && !e.bad 0 && decide (imgField e.img 0 6 = leNat mac ∧ imgField e.img 6 2 = vid)

/-- The way of a bucket that holds a key. -/
def State.macWay (s : State) (pipe vid : Nat) (mac : List Byte) : Option Nat :=
  (bucketKeys pipe (macBucket vid mac)).find? fun k => macMatches vid mac (s.entry k)

end Sys2Proof.Machine
end

