-- ==== Sys2Proof/Machine/RelOps.lean ====
section
/-! DEFINITION. Machine/RelOps.lean: the operations on release postings and their copies that several commands share:
launch points, wire spans, drops, the RELEASE record and the settling of a posting (R121 to R129). Instants are in
1/6,400 ns, in which every launch point is a whole number. -/

namespace Sys2Proof.Machine

/-! ## Launch points (R49, R125; log entries 43 and 44) -/

/-- A Dial value in 1/6,400 ns. -/
def fine (d : Dial) : Nat := d.toNat * 25

/-- The unit period of a lane mode. -/
def LaneMode.period : LaneMode → Nat
  | .rs544x100 => 327680 | .rs544x50 => 655360 | .rs528x25 => 1310720 | .plain25 => 16384 | .plain10 => 40960

/-- The end of the launch points in a unit: where its parity span begins. -/
def LaneMode.launchEnd : LaneMode → Nat
  | .rs544x100 => 309610 | .rs544x50 => 619219 | .rs528x25 => 1275967 | .plain25 => 16384 | .plain10 => 40960

/-- The launch point spacing of a SPEED. -/
def launchStep : Nat → Nat
  | 0 => 20480 | 1 => 8192 | 2 => 8192 | 3 => 4096 | 4 => 2048 | 5 => 1024 | _ => 512

/-- The launch points that markers take at the front of unit u. -/
def markersOf (m : Word) (u : Nat) : Nat :=
  match laneMode m with
  | .plain25 | .plain10 => 0
  | _ => Config.markerPoints (speedOf m) (fecOf m) u

/-- The first launch point at or after an instant. -/
def launchPoint (m : Word) (t : Nat) : Nat :=
  let p := (laneMode m).period
  let st := launchStep (speedOf m)
  let last := ((laneMode m).launchEnd - 1) / st
  let u := t / p
  let i := max (divUp (t % p) st) (min last (markersOf m u))
  if i ≤ last then u * p + i * st else (u + 1) * p + min last (markersOf m (u + 1)) * st

/-- The instant at which a copy's first preamble bit crosses the ball. -/
def copyAt (p : Posting) (c : Copy) : Nat := fine p.tRel + c.delta

/-- A number of bytes at a slot's MAC rate. -/
def State.byteTime (s : State) (n bytes : Nat) : Nat := bytes * 51200 / macRate (speedOf (s.portMode n))

/-- The bytes that MACsec adds to a frame: the SecTAG, with the SCI or without, and the ICV. -/
def State.secBytes (s : State) (n : Nat) (f : List Byte) : Nat :=
  if s.protects n f then (if bit (s.reg (Reg.LAMP_TX_SC n)) 1 then 32 else 24) else 0

/-- A copy's wire span (R128). -/
def State.wireSpan (s : State) (p : Posting) (c : Copy) : Nat × Nat :=
  (copyAt p c, copyAt p c + s.byteTime c.slot (p.length + 24))

/-- The end of a copy's last bit: preamble, SFD, frame and FCS, with what MACsec adds to it. -/
def State.copyLast (s : State) (p : Posting) (c : Copy) : Nat :=
  copyAt p c + s.byteTime c.slot (p.length + 12 + s.secBytes c.slot p.frame)

/-- The end of a copy's inter-frame gap (R126). -/
def State.copyGap (s : State) (p : Posting) (c : Copy) : Nat :=
  copyAt p c + s.byteTime c.slot (p.length + 24 + s.secBytes c.slot p.frame)

/-- TIME_LANE_TX_CAL of the lane that carries the copy's first preamble bit, in 1/6,400 ns. -/
def State.copyCal (s : State) (p : Posting) (c : Copy) : Nat :=
  let l := lanesOf (speedOf (s.portMode c.slot))
  25 * bits (s.reg (Reg.TIME_LANE_TX_CAL (c.slot + Config.launchMember l (copyAt p c) % l))) 19 0

/-! ## Postings -/

/-- Changing the posting with a release number. -/
def State.modRel (rel : Nat) (f : Posting → Posting) (s : State) : State :=
  { s with postings := s.postings.map fun p => if p.rel = rel ∧ rel ≠ 0 then f p else p }

/-- The posting with a release number. -/
def State.posting (s : State) (rel : Nat) : Option Posting := s.postings.find? fun p => decide (p.rel = rel ∧ rel ≠ 0)

/-- A posting's copy on a slot. -/
def Posting.copyOn (p : Posting) (n : Nat) : Option Copy := p.copies.find? fun c => c.slot == n

/-- A copy's life replaced. -/
def Posting.setCopy (p : Posting) (n : Nat) (st : CopyState) : Posting :=
  { p with copies := p.copies.map fun c => if c.slot = n then { c with st := st } else c }

/-- The room a posting takes in the release buffer (R124). -/
def Posting.room (p : Posting) : Nat := if p.status.isNone then divUp p.length 256 * 256 else 0

/-- The bytes of the release buffer in use. -/
def State.relUsed (s : State) : Nat := (s.postings.map Posting.room).sum

/-- Postings armed or having their frames read (R122). -/
def State.relHeld (s : State) : Nat := (s.postings.filter (·.status.isNone)).length

/-! ## Drops and refusals (R128, R129) -/

/-- The counter of a drop reason. -/
def copyCounter (n : Nat) : Nat → Nat
  | 1 => Reg.REL_CNT_COPY_DOWN n | 2 => Reg.REL_CNT_COPY_LONG n | 3 => Reg.REL_CNT_COPY_COLLIDE n
  | 4 => Reg.REL_CNT_COPY_LATE_ARM n | 5 => Reg.REL_CNT_COPY_LAUNCH_FULL n | 6 => Reg.REL_CNT_COPY_SECURE n
  | 7 => Reg.REL_CNT_COPY_DIAL n | _ => Reg.REL_CNT_COPY_ABORTED n

/-- The record and the counter of a dropped copy. -/
def State.noteDrop (p : Posting) (n reason : Nat) (s : State) : State :=
  (s.countSlot n (copyCounter n reason)).audit ⟨.missedRelease, reason, 0, n, p.tRel, word (p.rel % 2 ^ 48), noDigest⟩

/-- What a copy dropped for a reason becomes: 8 says that it had committed, so one that a memory fault takes before that
becomes 0 (R129, R163). -/
def Posting.droppedAs (p : Posting) (n reason : Nat) : Nat :=
  if reason = 8 ∧ (p.copyOn n).any (fun c => decide (c.st = .armed)) then 0 else reason

/-- A copy of an accepted posting is dropped. -/
def State.dropCopy (rel n reason : Nat) (s : State) : State :=
  match s.posting rel with
  | none => s
  | some p => (s.modRel rel fun q => q.setCopy n (.dropped (p.droppedAs n reason))).noteDrop p n reason

/-- A posting's outcome: ALL_SENT, PARTIAL or NONE_SENT (R122). -/
def Posting.outcome (p : Posting) : Nat :=
  if p.copies.all fun c => decide (c.st = .sent) then 0
  else if p.copies.any fun c => decide (c.st = .sent) then 1 else 2

/-- A copy has committed (COUNT of the RELEASE record, R163). -/
def Copy.launched (c : Copy) : Bool :=
  match c.st with
  | .committed | .sent => true
  | .dropped r => r == 8
  | .armed => false

/-- The RELEASE record, once every copy has committed or been dropped and Dial has reached T_rel (R129). -/
def State.auditRelease (rel : Nat) (s : State) : State :=
  match s.posting rel with
  | none => s
  | some p =>
    if p.audited || p.copies.any (fun c => decide (c.st = .armed)) || decide (s.dial < p.tRel) then s
    else
      let n := (p.copies.filter Copy.launched).length
      let (dig, u) := s.digest 0x10 (s.reg Reg.AUD_START_COUNT).toNat rel p.frame
      let seq := word (rel % 2 ^ 48 + p.group % 2 ^ 14 * 2 ^ 48 + b2n p.single * 2 ^ 62)
      let s := s.modRel rel fun p => { p with audited := true }
      s.audit ⟨.release, n / 256, u, n % 256, p.tRel, seq, dig⟩

/-- The last copy of a posting has been sent or dropped: its outcome is decided and counted (R129). -/
def State.settleRelease (rel : Nat) (s : State) : State :=
  let s := s.auditRelease rel
  match s.posting rel with
  | none => s
  | some p =>
    if p.status.isSome || p.copies.any (fun c => decide (c.st = .armed ∨ c.st = .committed)) then s
    else
      let s := s.modRel rel fun p => { p with status := some p.outcome }
      s.count (if p.outcome = 0 then Reg.REL_CNT_ALL_SENT else if p.outcome = 1 then Reg.REL_CNT_PARTIAL
        else Reg.REL_CNT_NONE_SENT)

/-- A copy dropped, and what follows for its posting. -/
def State.endCopy (rel n reason : Nat) (s : State) : State := (s.dropCopy rel n reason).settleRelease rel

/-- The accepted postings in the order of their acceptance, in which those of one cycle are audited (R122, R167). -/
def State.accepted (s : State) : List Posting :=
  (s.postings.filter fun p => decide (p.rel ≠ 0)).insertionSort fun a b => a.rel ≤ b.rel

/-- Armed copies drop when DIAL_FAULT rises (R30, R128). -/
def State.dropArmed (s : State) : State :=
  s.accepted.foldl (fun s p =>
    ((p.copies.filter fun c => decide (c.st = .armed)).foldl (fun s c => s.dropCopy p.rel c.slot 7) s).settleRelease p.rel) s

/-- A guard is in force on a port: it has begun, and the copy or its inter-frame gap has not left the wire (R126). -/
def State.guarded (s : State) (n : Nat) : Bool :=
  s.postings.any fun p => (p.copyOn n).any fun c =>
    match c.st with
    | .armed | .committed => decide (copyAt p c ≤ fine s.dial + 25 * s.guardNow n)
    | .sent => decide (fine s.dial < s.copyGap p c)
    | .dropped _ => false

/-- A written and audited posting whose wire spans are past, or that was refused, is forgotten: nothing can refer to it
any more. -/
def State.prunePostings (s : State) : State :=
  let past := fun (p : Posting) =>
    p.written && (p.audited || decide (p.rel = 0)) &&
      p.copies.all fun c => decide (max (s.wireSpan p c).2 (s.copyGap p c) ≤ fine s.dial)
  { s with postings := s.postings.filter fun p => !past p }

end Sys2Proof.Machine
end

