-- ==== Sys2Proof/Machine/EgressOps.lean ====
section
/-! DEFINITION. Machine/EgressOps.lean: the egress queues of a port and what the link's loss does to them (R131 to
R137), the lossless pools and PFC (R136, R283, R284). -/

namespace Sys2Proof.Machine

/-! ## The lossless pools (R283, R290) -/

/-- PRIO_MASK, POOL, XOFF and XON of a slot, sizes in bytes, each threshold held to the one above it. -/
def State.prioMask (s : State) (n : Nat) : Nat := bits (s.reg (Reg.RDMA_PORT_PFC n)) 7 0
def State.poolSize (s : State) (n : Nat) : Nat := 1024 * bits (s.reg (Reg.RDMA_PORT_PFC n)) 19 8
def State.xoffLevel (s : State) (n : Nat) : Nat := min (s.poolSize n) (1024 * bits (s.reg (Reg.RDMA_PORT_PFC n)) 31 20)
def State.xonLevel (s : State) (n : Nat) : Nat := min (s.xoffLevel n) (1024 * bits (s.reg (Reg.RDMA_PORT_PFC n)) 43 32)

/-- The bytes in a slot's pool. -/
def State.poolUsed (s : State) (n : Nat) : Nat := ((s.egr n).pool.map fun x => x.2.1).sum

/-- A PFC frame for the lossless priorities. -/
def State.sendPfc (n quanta : Nat) (s : State) : State :=
  (s.modEgr n fun e => { e with xoff := decide (quanta ≠ 0), pfcAt := s.clock }).emit (.pfc n (s.prioMask n) quanta)

/-- PFC follows the pool's occupancy: pause at XOFF, resume below XON. Only an infrastructure port sends it (R63). -/
def State.pfcSettle (n : Nat) (s : State) : State :=
  let used := s.poolUsed n
  if !s.isInfra n then s
  else if !(s.egr n).xoff ∧ s.prioMask n ≠ 0 ∧ s.xoffLevel n ≤ used ∧ 0 < used then s.sendPfc n 0xFFFF
  else if (s.egr n).xoff ∧ used < s.xonLevel n then s.sendPfc n 0
  else s

/-- A received frame's room in its slot's pool, for the copies that hold it. -/
def State.poolTake (n id bytes copies : Nat) (s : State) : State :=
  if copies = 0 then s
  else (s.modEgr n fun e => { e with pool := e.pool ++ [(id, bytes, copies)] }).pfcSettle n

/-- A frame's copy gives back its hold on the pool. -/
def State.poolFree (f : QFrame) (s : State) : State :=
  match f.pool with
  | none => s
  | some (n, id) =>
    let less := fun (x : Nat × Nat × Nat) => if x.1 = id then (x.1, x.2.1, x.2.2 - 1) else x
    (s.modEgr n fun e => { e with pool := (e.pool.map less).filter fun x => decide (0 < x.2.2) }).pfcSettle n

/-! ## FRAME_TX entries (R251) -/

/-- The end of a FRAME_TX entry, when the frame has one. -/
def State.txDone (f : QFrame) (status : Nat) (stamp : Dial) (s : State) : State :=
  match f.entry with
  | none => s
  | some (c, cur, ts) =>
    s.complete c cur [(16, leBytes 16 (if ts ∧ status = 0 then stamp.toNat else 0)), (40, [BitVec.ofNat 8 status])]

/-- A queued frame leaves without being sent. -/
def State.loseFrame (f : QFrame) (status : Nat) (s : State) : State := (s.txDone f status 0).poolFree f

/-! ## Queues (R131 to R133) -/

/-- A frame's length with its FCS. -/
def QFrame.size (f : QFrame) : Nat := f.bytes.length + 4

/-- The shaper length of a frame (R133). -/
def State.shaperLen (s : State) (n : Nat) (f : QFrame) : Nat :=
  f.size + bits (s.reg (Reg.REL_PORT_SCHED n)) 15 8 + (if s.macsecOn n then 32 else 0)

/-- A queue of a port. -/
def State.queue (s : State) (n q : Nat) : List QFrame := (s.egr n).queues.getD q []

/-- Replacing a queue. -/
def State.setQueue (n q : Nat) (fs : List QFrame) (s : State) : State :=
  s.modEgr n fun e => { e with queues := putAt [] e.queues q fs }

/-- The frames that wait in egress queues: a frame gives its room in the forwarding buffer back as it starts on the wire
(DESIGN CHOICE, log entry 96). -/
def State.waitingFrames (s : State) : List QFrame := s.egress.flatMap fun e => e.2.queues.flatten

/-- The bytes beyond 4 MiB that the waiting frames of pipeline k take of the forwarding buffer. -/
def sharedPart (fs : List QFrame) (k : Nat) : Nat :=
  ((fs.filter fun f => f.pipe == some k).map QFrame.size).sum - 0x400000

/-- The forwarding buffer of 136 MiB has room for the waiting frames: 4 MiB are each pipeline's own, and the remainder,
which frames that no pipeline wrote use too, is shared (R21; log entry 96). -/
def bufferFits (fs : List QFrame) : Bool :=
  let host := ((fs.filter fun f => f.pipe.isNone).map QFrame.size).sum
  decide (((List.range 8).map (sharedPart fs)).sum + host ≤ 0x6800000)

/-- A frame placed in its egress queue, or dropped for the port's state, the queue's limit or the forwarding buffer (R21,
R132, R137). A slot that a bonded port leaves idle has no port to send on and no counter (R11). -/
def State.enqueue (n : Nat) (f : QFrame) (s : State) : State :=
  let used := ((s.queue n f.queue).map QFrame.size).sum
  if s.isIdle n then s.loseFrame f 1
  else if !s.isUp n then (s.count (Reg.REL_CNT_DOWN_DROP n)).loseFrame f 1
  else if bits (s.reg (Reg.REL_Q_CFG n f.queue)) 55 32 < used + f.size || !bufferFits (f :: s.waitingFrames) then
    (s.count (Reg.REL_CNT_Q_DROP n f.queue)).loseFrame f 2
  else s.setQueue n f.queue (s.queue n f.queue ++ [f])

/-! ## PFC pauses (R136, R284) -/

/-- An item of one of a port's pause lists. -/
def pauseItem (l : List (Option Dial)) (p : Nat) : Option Dial := l.getD p none

/-- A port that is no infrastructure port any more neither pauses nor is paused (R63, R136). -/
def State.pfcEnd (n : Nat) (s : State) : State :=
  s.modEgr n fun e => { e with
    xoff := false, pauseEnd := List.replicate 8 none, pausedAt := List.replicate 8 none, wdUntil := List.replicate 8 none }

/-- Queue Qp is paused. -/
def State.paused (s : State) (n p : Nat) : Bool := (pauseItem (s.egr n).pauseEnd p).any fun t => decide (s.clock < t)

/-- A pause of a priority begins, goes on or ends. -/
def State.setPause (n p : Nat) (until_ : Option Dial) (s : State) : State :=
  let from_ := if until_.isNone then none else if s.paused n p then pauseItem (s.egr n).pausedAt p else some s.clock
  s.modEgr n fun e => { e with pauseEnd := putAt none e.pauseEnd p until_, pausedAt := putAt none e.pausedAt p from_ }

/-- Quanta of 512 bit times at a slot's MAC rate, in 1/256 ns. -/
def State.quantaTime (s : State) (n quanta : Nat) : Nat := quanta * 512 * 256 / macRate (speedOf (s.portMode n))

/-- A PFC frame received on an infrastructure port: the priority-enable vector at bytes 16 and 17, then the eight
timers; a priority whose watchdog has fired is ignored, and ignored for 100 ms more (R284). -/
def State.pfcReceived (n : Nat) (f : List Byte) (s : State) : State :=
  let mask := beField f 16 2
  (List.range 8).foldl (fun s p =>
    if !mask.testBit p then s
    else if (pauseItem (s.egr n).wdUntil p).any fun t => decide (s.clock < t) then
      s.modEgr n fun e => { e with wdUntil := putAt none e.wdUntil p (some (s.clock.plusNs 100000000)) }
    else
      let quanta := beField f (18 + 2 * p) 2
      s.setPause n p (if quanta = 0 then none else some (s.clock + BitVec.ofNat 72 (s.quantaTime n quanta)))) s

/-- The quanta of a pause have run out. -/
def pfcPauseExpiry (n p : Nat) (s : State) : State :=
  if (pauseItem (s.egr n).pauseEnd p).any fun t => decide (t ≤ s.clock) then s.setPause n p none else s

/-- A pause in force is sent again every 0x7FFF quanta while occupancy stays at or above XON. -/
def pfcRefresh (n : Nat) (s : State) : State :=
  let e := s.egr n
  if s.isInfra n ∧ e.xoff ∧ s.xonLevel n ≤ s.poolUsed n ∧ e.pfcAt.toNat + s.quantaTime n 0x7FFF ≤ s.clock.toNat then s.sendPfc n 0xFFFF
  else s

/-- The pause watchdog fires: the queue's frames are dropped, and PFC for the priority is ignored. What a dropped
FRAME_TX entry's status is the manual does not say: a free one of DOWN and Q_DROP (log entry 48). -/
def pfcWatchdog (n p : Nat) (s : State) : State :=
  let wd := bits (s.reg (Reg.RDMA_PORT_PFC n)) 59 48
  if wd ≠ 0 ∧ s.paused n p ∧
      (pauseItem (s.egr n).pausedAt p).any fun t => decide (t.toNat + wd * 1000000 * nsUnits ≤ s.clock.toNat) then
    let fs := s.queue n p
    let s := s.modEgr n fun e => { e with deferred := e.deferred.filter (· ≠ p) }
    let status := 1 + Config.freeNat s.free % 2
    let s := ({ s with free := s.free + 1 }.setQueue n p []).setPause n p none
    let s := s.modEgr n fun e => { e with wdUntil := putAt none e.wdUntil p (some (s.clock.plusNs 100000000)) }
    let s := fs.foldl (fun s f => (s.countSlot n (Reg.RDMA_CNT_WD_DROP n)).loseFrame f status) s
    s.logEvent 0x801 12 [n, p]
  else s

/-! ## The wire (R42, R53, R131) -/

/-- The stamp of a frame that starts on the wire now: its first SFD bit at the ball (R53). -/
def State.txStamp (s : State) (n : Nat) : Dial :=
  let m := s.portMode n
  let l := lanesOf (speedOf m)
  let lane := n + Config.launchMember l (fine s.dial) % l
  let cal := bits (s.reg (Reg.TIME_LANE_TX_CAL lane)) 19 0
  let b := Config.sfdBits (speedOf m) (fecOf m) (fine s.dial)
  let r := (laneMode m).rate
  BitVec.ofNat 72 (s.dial.toNat + cal + (2 * b * 256 * 100000 + r) / (2 * r))

/-- The time of a number of bytes on a port's wire, in 1/256 ns, rounded up. -/
def State.wireTime (s : State) (n bytes : Nat) : Nat := divUp (bytes * 2048) (macRate (speedOf (s.portMode n)))

/-- A frame's size on the wire, with what MACsec adds. -/
def State.onWire (s : State) (n : Nat) (f : QFrame) : Nat := f.size + s.secBytes n f.bytes

/-- The frame on the wire has left, with its gap: it is counted and completed. One that MAX_FRAME ended has been counted as
it started; the status of its FRAME_TX entry is one that the manual does not name, a free value (R132; log entry 48). -/
def State.wireDone (n : Nat) (s : State) : State :=
  match (s.egr n).wire with
  | none => s
  | some f =>
    let stamp := (s.egr n).wireAt
    let cut := (s.egr n).stomped
    let s := s.modEgr n fun e => { e with wire := none, stomped := false }
    if cut then { s with free := s.free + 1 }.loseFrame f (Config.freeNat s.free % 6)
    else
      let s := (s.countSlot n (Reg.PORT_CNT_TX_FRAMES n)).countSlotBy n (Reg.PORT_CNT_TX_BYTES n) (s.onWire n f)
      ((s.countSlot n (Reg.REL_CNT_Q_SENT n f.queue)).txDone f 0 stamp).poolFree f

/-! ## Port down (R65, R137) -/

/-- What is on the wire is cut short and lost; so is a preempted frame whose rest is to come (DESIGN CHOICE, log entry
80). -/
def State.cutWire (n : Nat) (s : State) : State :=
  let e := s.egr n
  let cut := e.wire.toList ++ (e.resume.map (·.1)).toList
  let s := s.modEgr n fun e => { e with wire := none, resume := none, wireEnd := s.clock, stomped := false }
  cut.foldl (fun s f => ((s.emit (.stomped n)).countSlot n (Reg.REL_CNT_TX_ABORTED n)).loseFrame f 1) s

/-- A release copy's last bit has left (R128, R129). -/
def State.copySent (rel n : Nat) (s : State) : State :=
  match s.posting rel with
  | none => s
  | some p =>
    if (p.copyOn n).isNone then s
    else
      let s := s.modRel rel fun p => p.setCopy n .sent
      let s := (s.countSlot n (Reg.REL_CNT_COPY_SENT n)).countSlot n (Reg.PORT_CNT_TX_FRAMES n)
      (s.countSlotBy n (Reg.PORT_CNT_TX_BYTES n) (p.length + 4 + s.secBytes n p.frame)).settleRelease rel

/-- Copies on the wire when the port leaves UP: one whose last bit has left is sent, any other is cut short. -/
def State.abortCopies (n : Nat) (s : State) : State :=
  let ps := s.accepted.filter fun p => (p.copyOn n).any fun c => decide (c.st = .committed)
  ps.foldl (fun s p =>
    match p.copyOn n with
    | none => s
    | some c => if s.copyLast p c ≤ fine s.dial then s.copySent p.rel n else (s.emit (.stomped n)).endCopy p.rel n 8) s

/-- The last bit of what is on the wire has left: no more than its 12 bytes of inter-frame gap are to come. -/
def State.wireSent (s : State) (n : Nat) : Bool := decide ((s.egr n).wireEnd.toNat ≤ s.clock.toNat + s.wireTime n 12)

/-- The port-down rules of a port that leaves UP. -/
def State.egressDown (n : Nat) (s : State) : State :=
  let s := ((if s.wireSent n then s.wireDone n else s).cutWire n).abortCopies n
  s.modEgr n fun e => { e with holdFrom := some s.clock, preempt := false, addFrag := 0 }

/-- PORT_HOLD_US of a slot, in ns. -/
def State.portHold (s : State) (n : Nat) : Nat := 1000 * min 10000 (bits (s.reg (Reg.REL_PORT_SCHED n)) 29 16)

/-- The hold of a port has run out. -/
def State.holdOver (s : State) (n : Nat) : Bool :=
  (s.egr n).holdFrom.any fun t => decide (t.toNat + s.portHold n * nsUnits ≤ s.clock.toNat)

/-- Every held frame is freed. -/
def State.flushHeld (n : Nat) (s : State) : State :=
  let fs := (s.egr n).queues.flatten
  let s := s.modEgr n fun e => { e with queues := List.replicate 8 [], holdFrom := none, deferred := [], maskHeld := [] }
  fs.foldl (fun s f => (s.countSlot n (Reg.REL_CNT_HOLD_FLUSH n)).loseFrame f 1) s

/-- The hold ends with the port not UP. -/
def portHoldExpiry (n : Nat) (s : State) : State := if s.holdOver n ∧ !s.isUp n then s.flushHeld n else s

/-- The verify exchange of frame preemption: it is offered while PREEMPT_EN = 1, and whether the link partner answers it
and with which addFragSize is free (R127; log entry 80). -/
def State.verifyPreempt (n : Nat) (s : State) : State :=
  if !bit (s.reg (Reg.REL_PORT_SCHED n)) 0 then s.modEgr n fun e => { e with preempt := false, addFrag := 0 }
  else if !s.isUp n ∨ (s.egr n).preempt then s
  else
    let k := Config.freeNat s.free
    ({ s with free := s.free + 1 }).modEgr n fun e => { e with preempt := decide (k % 2 = 1), addFrag := k / 2 % 4 }

/-- The port is UP again: held queues resume, or are flushed when their hold has run out. -/
def State.egressUp (n : Nat) (s : State) : State :=
  if (s.egr n).holdFrom.isNone then s
  else if s.holdOver n then s.flushHeld n
  else
    let held := (s.egr n).queues.any fun q => !q.isEmpty
    let s := s.modEgr n fun e => { e with holdFrom := none }
    if held then s.count (Reg.REL_CNT_HOLD_RESUME n) else s

/-! ## The meanings -/

def execPfcPauseExpiry (slot prio : Nat) (s : State) : Answer :=
  within (Instr.wf (.pfcPauseExpiry slot prio)) (whenClocked (unlessStopped 3 (pfcPauseExpiry slot prio)) s) s

def execPfcRefresh (slot : Nat) (s : State) : Answer :=
  within (Instr.wf (.pfcRefresh slot)) (whenClocked (unlessStopped 3 (pfcRefresh slot)) s) s

def execPfcWatchdog (slot prio : Nat) (s : State) : Answer :=
  within (Instr.wf (.pfcWatchdog slot prio)) (whenClocked (unlessStopped 3 (pfcWatchdog slot prio)) s) s

def execPortHoldExpiry (slot : Nat) (s : State) : Answer :=
  within (Instr.wf (.portHoldExpiry slot)) (whenClocked (unlessStopped 3 (portHoldExpiry slot)) s) s

end Sys2Proof.Machine
end

