-- ==== Sys2Proof/Machine/RdmaOps.lean ====
section
/-! DEFINITION. Machine/RdmaOps.lean: the RoCEv2 transport (R273 to R288): packets, the requester with its
retransmission, the responder, and the completions of both work queues; and the FRAME_RX delivery of R250 that the
class map and QP1 share. Transport details that the manual takes from the InfiniBand specification are log entry 50. -/

namespace Sys2Proof.Machine

/-! ## FRAME_RX (R72, R250) -/

/-- A frame (without FCS) written to a FRAME_RX entry, or dropped and counted for its ingress slot. -/
def State.frameRx (c n cls : Nat) (stamp : Dial) (f : List Byte) (s : State) : State :=
  let r := s.ring c
  match r.head with
  | some t =>
    if r.phase = .active ∧ r.type = 8 ∧ s.ringServed r then
      let len := leField t.desc 8 2 % 16384
      let s := (s.startEntry c t.cursor).ringWrite c (leField t.desc 0 8) (f.take len)
        ((leField t.desc 56 8 % 2 == 1) && s.relaxed r.owner)
      s.complete c t.cursor
        [(10, leBytes 2 f.length ++ [BitVec.ofNat 8 n, if len < f.length then 1 else 0] ++ leBytes 2 cls
          ++ leBytes 16 stamp.toNat ++ zeros 24)]
    else s.count (Reg.PIPE_CNT_HOST_DROP n)
  | none => s.count (Reg.PIPE_CNT_HOST_DROP n)

/-! ## Queue pairs and their attributes (R274, R276) -/

/-- A QP exists. -/
def Qp.live (q : Qp) : Bool := decide (0 < q.created)

/-- Byte i of the attribute block. -/
def Qp.at (q : Qp) (i : Nat) : Nat := leField q.attr i 1

def Qp.mtu (q : Qp) : Nat := 128 * 2 ^ q.at 1
def Qp.slot (q : Qp) : Nat := q.at 5
def Qp.pcp (q : Qp) : Nat := q.at 6 % 8
def Qp.destQpn (q : Qp) : Nat := leField q.attr 8 3
def Qp.initDepth (q : Qp) : Nat := q.at 21
def Qp.sgid (q : Qp) : List Byte := slice q.attr 32 16
def Qp.dgid (q : Qp) : List Byte := slice q.attr 48 16

/-- An address ::ffff:a.b.c.d (R276). -/
def isMapped (gid : List Byte) : Bool := decide (gid.take 12 = zeros 10 ++ [0xFF, 0xFF])

/-- The distance from one PSN to a later one. -/
def psnDist (a b : Nat) : Nat := (b + 2 ^ 24 - a % 2 ^ 24) % 2 ^ 24

/-! ## Packets (R273, R285) -/

/-- The one's complement sum of IPv4 over a header, checksum field included. -/
def ipChecksum (h : List Byte) : Nat :=
  let sum := ((List.range (h.length / 2)).map fun i => beField h (2 * i) 2).sum
  let fold := fun x => x % 65536 + x / 65536
  65535 - fold (fold sum)

/-- The IPv4 header with its checksum put in. -/
def withIpChecksum (h : List Byte) : List Byte := h.take 10 ++ beBytes 2 (ipChecksum h) ++ h.drop 12

/-- The ICRC of a RoCEv2 packet: its IP header (20 or 40 bytes), its UDP header, and the bytes from the BTH on, with
the fields that change on the way masked. -/
def icrc (ip udp rest : List Byte) : List Byte :=
  let ip := if ip.length = 20 then [ip.headD 0, 0xFF] ++ slice ip 2 6 ++ [0xFF] ++ slice ip 9 1 ++ [0xFF, 0xFF] ++ ip.drop 12
    else [0x6F, 0xFF, 0xFF, 0xFF] ++ slice ip 4 3 ++ [0xFF] ++ ip.drop 8
  let rest := rest.take 4 ++ [0xFF] ++ rest.drop 5
  leBytes 4 (crc32 (List.replicate 8 0xFF ++ ip ++ udp.take 6 ++ [0xFF, 0xFF] ++ rest)).toNat

/-- A RoCEv2 frame of a QP, without FCS: opcode, PSN, AckReq and FENCE_LAST, extended headers, payload. -/
def State.rdmaFrame (s : State) (q : Qp) (qpn opcode psn : Nat) (ackReq fence : Bool) (ext payload : List Byte) :
    List Byte :=
  let pad := (4 - payload.length % 4) % 4
  let bth := [BitVec.ofNat 8 opcode, BitVec.ofNat 8 (0x40 + 16 * pad), 0xFF, 0xFF, 0] ++ beBytes 3 q.destQpn
    ++ [BitVec.ofNat 8 (128 * b2n ackReq + 64 * b2n fence)] ++ beBytes 3 psn
  let rest := bth ++ ext ++ payload ++ zeros pad
  let udpLen := 8 + rest.length + 4
  let udp := beBytes 2 (0xC000 + qpn % 0x4000) ++ beBytes 2 4791 ++ beBytes 2 udpLen ++ [0, 0]
  let v4 := isMapped q.sgid && isMapped q.dgid
  let tos := q.at 7 % 64 * 4
  let ip :=
    if v4 then
      withIpChecksum ([0x45, BitVec.ofNat 8 tos] ++ beBytes 2 (20 + udpLen) ++ [0, 0, 0x40, 0, 64, 17, 0, 0]
        ++ q.sgid.drop 12 ++ q.dgid.drop 12)
    else beBytes 4 (0x60000000 + tos * 2 ^ 20) ++ beBytes 2 udpLen ++ [17, 64] ++ q.sgid ++ q.dgid
  let vlan := leField q.attr 30 2
  let tag := if vlan.testBit 15 then beBytes 2 0x8100 ++ beBytes 2 (q.pcp * 8192 + vlan % 4096) else []
  slice q.attr 24 6 ++ beBytes 6 (s.reg (Reg.RDMA_PORT_MAC q.slot)).toNat ++ tag
    ++ beBytes 2 (if v4 then 0x0800 else 0x86DD) ++ ip ++ udp ++ rest ++ icrc ip udp rest

/-- A packet placed in the egress queue of its priority (R131, R276). -/
def State.sendPacket (qpn opcode psn : Nat) (ackReq fence : Bool) (ext payload : List Byte) (s : State) : State :=
  let q := s.qp qpn
  s.enqueue q.slot ⟨s.rdmaFrame q qpn opcode (psn % 2 ^ 24) ackReq fence ext payload, q.pcp, none, none, none⟩

/-- An AETH. -/
def aeth (syndrome msn : Nat) : List Byte := BitVec.ofNat 8 syndrome :: beBytes 3 msn

/-! ## Memory regions (R275) -/

/-- A key names a live region of the QP's function that covers the bytes with a right. -/
def State.mayAccess (s : State) (o : Party) (key right addr len : Nat) : Bool :=
  let m := s.mr (key / 256)
  m.live && decide (m.gen.toNat = key % 256 ∧ m.owner = o) && m.rights.testBit right
    && decide (m.start ≤ addr ∧ addr + len ≤ m.start + m.len)

/-- A key names a live region of the function that covers the bytes. -/
def State.mayRead (s : State) (o : Party) (key addr len : Nat) : Bool :=
  let m := s.mr (key / 256)
  m.live && decide (m.gen.toNat = key % 256 ∧ m.owner = o ∧ m.start ≤ addr ∧ addr + len ≤ m.start + m.len)

/-! ## Completions (R278 to R280) -/

/-- A completion status counted (R280, R379). -/
def State.countWr (o : Party) (status : Nat) (s : State) : State :=
  if status = 0 then s
  else
    let s := s.count (Reg.RDMA_CNT_WR_STATUS status)
    match o with
    | .vf p v => s.count (Reg.VF_CNT_WR_STATUS p v status)
    | _ => s

/-- A write-back into an entry of a work queue: its fields, then the word with OWN. -/
def State.wqWrite (o : Party) (base log2 : Nat) (cur : BitVec 32) (entry : List Byte) (fields : List (Nat × List Byte))
    (s : State) : State :=
  let a := base + 64 * (cur.toNat % 2 ^ log2)
  let s := fields.foldl (fun s (off, bs) => s.dmaWrite o (a + off) bs false) s
  s.dmaWrite o (a + 56) (leBytes 8 (leField entry 56 8 % 2 ^ 63)) false

/-- A send entry completes. What a DEVICE_POSTED queue pair sends has no entry in host memory (log entry 51). -/
def State.sqDone (qpn : Nat) (w : Wqe) (status : Nat) (s : State) : State :=
  let q := s.qp qpn
  let s := (s.modQp qpn fun q => { q with sqDone := q.sqDone + 1 }).countWr q.owner status
  if q.device then s else s.wqWrite q.owner q.sqBase.toNat q.log2sq w.cursor w.entry [(48, [BitVec.ofNat 8 status])]

/-- The oldest receive entry completes: BYTES, IMM, STATUS, received opcode and whether IMM is valid; RQ_DONE rises. -/
def State.rqDone (qpn bytes : Nat) (imm : Option (List Byte)) (status opcode : Nat) (s : State) : State :=
  let q := s.qp qpn
  match q.recvs with
  | [] => s
  | e :: rest =>
    let s := s.modQp qpn fun q => { q with recvs := rest, rqDone := q.rqDone + 1 }
    let fields := leBytes 4 bytes ++ imm.getD (zeros 4)
      ++ [BitVec.ofNat 8 status, BitVec.ofNat 8 (opcode + 128 * b2n imm.isSome)]
    (s.countWr q.owner status).wqWrite q.owner q.rqBase.toNat q.log2rq q.rqDone e [(32, fields)]

/-- An MR_DEREG that waits completes once no work request names its key (R275). -/
def State.mrSettle (s : State) : State :=
  let named := fun (key : Nat) =>
    s.rdma.qps.any fun (_, q) =>
      (!q.device && q.wqes.any fun w => leField w.entry 8 4 == key) || (q.recvs ++ q.fetched).any fun e => leField e 8 4 == key
  (s.rdma.mrs.filter fun (i, m) => m.dying.isSome && !named (256 * i + m.gen.toNat)).foldl (fun s (i, m) =>
    let s := s.modMr i fun m => { m with live := false, dying := none }
    match m.dying with
    | none => s
    | some (c, cur) =>
      match (s.ring c).taken.find? (fun t => t.cursor == cur) with
      | none => s
      | some t => s.adminDone c t 0 0) s

/-! ## The error state (R276, R280, R287) -/

/-- A send entry as it is taken, with the data of its local buffer. -/
def Wqe.taken (cursor : BitVec 32) (entry data : List Byte) : Wqe :=
  ⟨cursor, entry, leField entry 32 1 % 8, 0, 0, data, false, 0, false, 0, 0⟩

/-- Entering ERR: every entry of both queues completes FLUSHED, in order. -/
def State.flushQp (qpn : Nat) (s : State) : State :=
  let q := s.qp qpn
  let late := q.fetched.mapIdx fun k e => Wqe.taken (q.sqDev + BitVec.ofNat 32 k) e []
  let s := s.modQp qpn fun q => { q with
    phase := .err, wqes := [], fetched := [], sqDev := q.sqDev + BitVec.ofNat 32 late.length, rnrUntil := none, rxOp := 0 }
  let s := (q.wqes ++ late).foldl (fun s w => s.sqDone qpn w 7) s
  q.recvs.foldl (fun s _ => s.rqDone qpn 0 none 7 0) s

/-- The send entries of a QP that wait on another. -/
def Qp.waitsOn (q : Qp) (other : Nat) : Bool :=
  q.wqes.any fun w => decide (0 < w.wait ∧ leField w.entry 36 3 = other) && !w.ended

/-- Entries that wait on a QP in ERR end WAIT_BROKEN. -/
def State.breakWaits (qpn : Nat) (s : State) : State :=
  (s.rdma.qps.filter fun (_, q) => q.waitsOn qpn).foldl (fun s (i, _) =>
    let brk := fun (w : Wqe) =>
      if 0 < w.wait ∧ leField w.entry 36 3 = qpn ∧ !w.ended then { w with ended := true, status := 9 } else w
    s.modQp i fun q => { q with wqes := q.wqes.map brk }) s

/-- The oldest ended entries of a QP complete, in SQ order; a failed one takes the QP to ERR. Entries that wait on a
QP in ERR then end too; fuel bounds the chain of QPs. -/
def State.settleQp : Nat → Nat → State → State
  | 0, _, s => s
  | fuel + 1, qpn, s =>
    match (s.qp qpn).wqes with
    | [] => s
    | w :: rest =>
      if !w.ended then s
      else
        let s := (s.modQp qpn fun q => { q with wqes := rest }).sqDone qpn w w.status
        if w.status = 0 ∨ w.status = 7 then State.settleQp fuel qpn s
        else
          let s := (s.flushQp qpn).breakWaits qpn
          (s.rdma.qps.map (·.1)).foldl (fun s i => State.settleQp fuel i s) s

/-- Enough fuel: every entry of every queue. -/
def State.qpFuel (s : State) : Nat := (s.rdma.qps.map fun (_, q) => q.wqes.length + 1).sum + 1

/-- Completing what has ended. -/
def State.settle (qpn : Nat) (s : State) : State := (s.settleQp s.qpFuel qpn).mrSettle

/-- A QP moves to ERR. -/
def State.qpError (qpn : Nat) (s : State) : State :=
  let s := (s.flushQp qpn).breakWaits qpn
  ((s.rdma.qps.map (·.1)).foldl (fun s i => s.settleQp s.qpFuel i) s).mrSettle

/-- The oldest send entry of a QP ends with a status, and with it the QP. -/
def State.failOldest (qpn status : Nat) (s : State) : State :=
  let fail := fun (ws : List Wqe) =>
    match ws with
    | [] => []
    | w :: ws => { w with ended := true, status := status } :: ws
  (s.modQp qpn fun q => { q with wqes := fail q.wqes }).settle qpn

/-! ## The requester (R279, R281, R286) -/

/-- The packets of a sent entry from PSN offset k on (R273): opcode, PSN, AckReq, extended headers and payload of
each. -/
def packetsOf (q : Qp) (w : Wqe) (k : Nat) : List (Nat × Nat × Bool × List Byte × List Byte) :=
  let len := leField w.entry 12 4
  let reth := fun (a l : Nat) => beBytes 8 a ++ (slice w.entry 24 4).reverse ++ beBytes 4 l
  let raddr := leField w.entry 16 8
  if w.opcode = 4 then [(0x0C, w.psn + k, true, reth (raddr + k * q.mtu) (len - k * q.mtu), [])]
  else
    ((List.range w.npkts).drop k).map fun i =>
      let first := decide (i = 0)
      let last := decide (i + 1 = w.npkts)
      let imm := w.opcode = 1 ∨ w.opcode = 3
      let base := if w.opcode ≤ 1 then 0 else 6
      let op := base + (if first ∧ last then (if imm then 5 else 4) else if first then 0 else if !last then 1
        else if imm then 3 else 2)
      let ext := (if first ∧ 2 ≤ w.opcode then reth raddr len else [])
        ++ (if last ∧ imm then (slice w.entry 28 4).reverse else [])
      (op, w.psn + i, last, ext, (w.data.drop (i * q.mtu)).take q.mtu)

/-- Sending packets of an entry. FENCE_LAST goes to a Moafa only (R285; log entry 60). -/
def State.sendEntry (qpn : Nat) (w : Wqe) (k : Nat) (s : State) : State :=
  let q := s.qp qpn
  let fence := decide (w.opcode = 2 ∨ w.opcode = 3) && (leField w.entry 33 1).testBit 0 && Config.peerIsMoafa q.dgid
  (packetsOf q w k).foldl (fun s (op, psn, ack, ext, pl) => s.sendPacket qpn op psn ack fence ext pl) s

/-- The condition of a WAIT entry (R286). -/
def State.waitMet (s : State) (w : Wqe) : Bool :=
  decide (((s.qp (leField w.entry 36 3)).rqDone - BitVec.ofNat 32 (leField w.entry 40 4)).toNat < 2 ^ 31)

/-- The local failure of an entry at its start: LENGTH, the local key, the read of its buffer, or its opcode. -/
def State.localFail (s : State) (q : Qp) (w : Wqe) : Nat :=
  let len := leField w.entry 12 4
  let addr := leField w.entry 0 8
  let key := leField w.entry 8 4
  if 4 < w.opcode then 11
  else if q.device then 0
  else if 2 ^ 31 < len then 1
  else if len = 0 then 0
  else if w.opcode = 4 then (if s.mayAccess q.owner key 0 addr len then 0 else 2)
  else if !s.mayRead q.owner key addr len then 2
  else if w.data.length ≠ len then 8
  else 0

/-- READs that are outstanding. -/
def Qp.readsOut (q : Qp) : Nat := (q.wqes.filter fun w => decide (w.opcode = 4) && w.sent && !w.ended).length

/-- PSNs sent and not acknowledged. -/
def Qp.outstanding (q : Qp) : Nat := psnDist q.ackPsn q.sendPsn

/-- An entry of a QP replaced. -/
def Qp.setWqe (q : Qp) (w : Wqe) : Qp :=
  { q with wqes := q.wqes.map fun x => if x.cursor = w.cursor then w else x }

/-- The next entry to start: the first not sent, unless an entry before it has failed. -/
def Qp.nextWqe (q : Qp) : Option Wqe :=
  match q.wqes.find? fun w => !w.sent with
  | some w => if w.ended ∨ q.wqes.any (fun x => x.ended && decide (x.status ≠ 0)) then Option.none else some w
  | Option.none => Option.none

/-- Starting entries in SQ order while nothing holds them back: RTS, no RNR delay, INIT_DEPTH, and WAIT. -/
def State.startReady : Nat → Nat → State → State
  | 0, _, s => s
  | fuel + 1, qpn, s =>
    let q := s.qp qpn
    match q.nextWqe with
    | none => s
    | some w =>
      if q.phase ≠ .rts ∨ q.rnrUntil.isSome then s
      else if w.wait = 2 ∨ (w.wait = 1 ∧ !s.waitMet w) then s.modQp qpn fun q => q.setWqe { w with wait := 2 }
      else
        let fail := s.localFail q w
        if fail ≠ 0 then (s.modQp qpn fun q => q.setWqe { w with ended := true, status := fail, wait := 0 }).settle qpn
        else
          let len := if q.device then w.data.length else leField w.entry 12 4
          let n := max 1 (divUp len q.mtu)
          if (w.opcode = 4 ∧ q.initDepth ≤ q.readsOut) ∨ 2 ^ 23 < q.outstanding + n then s
          else
            let w := { w with psn := q.sendPsn, npkts := n, sent := true, sentAt := s.dial, wait := 0 }
            let s := s.modQp qpn fun q => { q.setWqe w with sendPsn := (q.sendPsn + n) % 2 ^ 24 }
            State.startReady fuel qpn (s.sendEntry qpn w 0)

/-- Completing what has ended and starting what can start. -/
def State.pumpQp (qpn : Nat) (s : State) : State :=
  let s := s.settle qpn
  s.startReady ((s.qp qpn).wqes.length + 1) qpn

/-- Every packet from a PSN on is sent again. -/
def State.resendFrom (qpn psn : Nat) (s : State) : State :=
  let q := s.qp qpn
  (q.wqes.filter fun w => w.sent && !w.ended).foldl (fun s w =>
    let k := psnDist w.psn psn
    if k < 2 ^ 23 ∧ w.npkts ≤ k then s
    else
      let s := s.modQp qpn fun q => q.setWqe { w with sentAt := s.dial }
      s.sendEntry qpn w (if k < 2 ^ 23 then k else 0)) s

/-- A go-back: counted, and the last that RETRY_CNT allows ends the oldest entry (log entry 52). While the delay of an RNR
NAK runs, the resending waits for its end (R281). -/
def State.goBack (qpn psn : Nat) (s : State) : State :=
  let q := s.qp qpn
  if q.outstanding = 0 ∨ q.phase ≠ .rts then s
  else
    let s := (s.count Reg.RDMA_CNT_RETRANSMIT).modQp qpn fun q => { q with retries := q.retries + 1 }
    if q.at 3 % 8 + 1 ≤ q.retries + 1 then s.failOldest qpn 5
    else if q.rnrUntil.isSome then s
    else s.resendFrom qpn psn

/-- Every packet before a PSN is acknowledged; progress clears both retry counts. -/
def State.ackBefore (qpn psn : Nat) (s : State) : State :=
  let q := s.qp qpn
  let d := psnDist q.ackPsn psn
  if d = 0 ∨ q.outstanding < d then s
  else
    s.modQp qpn fun q => { q with
      ackPsn := psn % 2 ^ 24, retries := 0, rnrs := 0,
      wqes := q.wqes.map fun w =>
        if w.sent ∧ w.opcode ≠ 4 ∧ psnDist q.ackPsn (w.psn + w.npkts - 1) < d then
          { w with ended := true, status := 0 }
        else w }

/-- The oldest READ whose data is still awaited. -/
def Qp.oldestRead (q : Qp) : Option Wqe := q.wqes.find? fun w => w.sent && !w.ended && decide (w.opcode = 4)

/-- A PSN lies before the data that the oldest READ awaits. -/
def Qp.beforeRead (q : Qp) (psn : Nat) : Bool :=
  match q.oldestRead with
  | Option.none => true
  | some w =>
    let at_ := if psnDist q.ackPsn w.psn < 2 ^ 23 then psnDist q.ackPsn w.psn else 0
    decide (psnDist q.ackPsn psn ≤ at_)

/-- The next PSN that the oldest READ awaits. -/
def Qp.readPsn (q : Qp) (w : Wqe) : Nat := if psnDist q.ackPsn w.psn < 2 ^ 23 then w.psn else q.ackPsn

/-- The RNR timer of a 5-bit code, in ns. -/
def rnrTimer (code : Nat) : Nat :=
  10000 * ([65536, 1, 2, 3, 4, 6, 8, 12, 16, 24, 32, 48, 64, 96, 128, 192, 256, 384, 512, 768, 1024, 1536, 2048, 3072,
    4096, 6144, 8192, 12288, 16384, 24576, 32768, 49152].getD code 0)

/-- What an acknowledgement of everything before a PSN acknowledges: no READ whose data is still awaited (log entry 52). -/
def Qp.ackLimit (q : Qp) (psn : Nat) : Nat :=
  match q.oldestRead with
  | Option.none => psn
  | some w => if q.beforeRead psn then psn else q.readPsn w

/-- An acknowledgement packet received (R281): ACK, RNR NAK or NAK. One that passes the data that a READ awaits asks for it
again. -/
def State.ackReceived (qpn psn syndrome : Nat) (s : State) : State :=
  let q := s.qp qpn
  if q.outstanding ≤ psnDist q.ackPsn psn then s
  else if syndrome / 32 % 4 = 0 then
    let upTo := q.ackLimit (psn + 1)
    let s := (s.ackBefore qpn upTo).settle qpn
    (if upTo = psn + 1 then s else s.goBack qpn upTo).pumpQp qpn
  else
    let upTo := q.ackLimit psn
    let s := (s.ackBefore qpn upTo).settle qpn
    let q := s.qp qpn
    if syndrome / 32 % 4 = 1 then
      let limit := q.at 3 / 16 % 8
      let s := s.modQp qpn fun q =>
        { q with rnrs := q.rnrs + 1, rnrUntil := some (s.clock.plusNs (rnrTimer (syndrome % 32))) }
      if limit ≠ 7 ∧ max 1 limit ≤ q.rnrs + 1 then s.failOldest qpn 6 else s
    else if syndrome % 32 = 0 ∨ upTo ≠ psn then (s.goBack qpn upTo).pumpQp qpn
    else s.failOldest qpn (if syndrome % 32 = 1 then 4 else if syndrome % 32 = 2 then 3 else 10)

/-- A READ response suits its place, of which i packets come before: it carries a whole MTU and more follows, or it carries
the rest and is the last; only a first or only packet begins one, and a go-back may begin one at any place (log entry 60). -/
def readFits (q : Qp) (w : Wqe) (i op size : Nat) : Bool :=
  let last := decide (w.npkts ≤ i + 1)
  decide (size = min q.mtu (leField w.entry 12 4 - i * q.mtu)) &&
    (if last then decide (op = 0x10 ∨ (op = 0x0F ∧ 0 < i)) else decide (op = 0x0D ∨ (op = 0x0E ∧ 0 < i)))

/-- READ response data received: placed in order into the local buffer, whose key is checked (R275), and the entry ends with
its last packet. -/
def State.readResponse (qpn op psn : Nat) (payload : List Byte) (s : State) : State :=
  let q := s.qp qpn
  match q.oldestRead with
  | none => s
  | some w =>
    let next := q.readPsn w
    if q.outstanding ≤ psnDist q.ackPsn psn then s
    else if psn ≠ next then
      if psnDist next psn < 2 ^ 23 then (((s.ackBefore qpn next).settle qpn).goBack qpn next).pumpQp qpn else s
    else
      let i := psnDist w.psn psn
      let at_ := leField w.entry 0 8 + i * q.mtu
      if !readFits q w i op payload.length then s
      else if payload ≠ [] ∧ !s.mayAccess q.owner (leField w.entry 8 4) 0 at_ payload.length then
        ((s.ackBefore qpn psn).modQp qpn fun q => q.setWqe { w with ended := true, status := 2 }).pumpQp qpn
      else
        let s := s.ackBefore qpn psn
        let s := if payload = [] then s else s.dmaWrite q.owner at_ payload false
        let s := s.modQp qpn fun q => { q with ackPsn := (psn + 1) % 2 ^ 24, retries := 0, rnrs := 0 }
        let s := if w.npkts ≤ i + 1 then s.modQp qpn fun q => q.setWqe { w with ended := true, status := 0 } else s
        s.pumpQp qpn

/-! ## The responder (R282) -/

/-- A READ answered from host memory as it is now; what stands there the model does not know. -/
def State.sendRead (qpn psn len msn : Nat) (s : State) : State :=
  let q := s.qp qpn
  let n := max 1 (divUp len q.mtu)
  let (data, s) := s.randomBytes len
  (List.range n).foldl (fun s i =>
    let op := if n = 1 then 0x10 else if i = 0 then 0x0D else if i + 1 = n then 0x0F else 0x0E
    s.sendPacket qpn op (psn + i) false false (if op = 0x0E then [] else aeth 0x1F msn)
      ((data.drop (i * q.mtu)).take q.mtu)) s

/-- A response leaves. -/
def State.sendReply (qpn : Nat) (r : QpReply) (s : State) : State :=
  match r with
  | .read psn len msn => s.sendRead qpn psn len msn
  | .ack psn syndrome msn => s.sendPacket qpn 0x11 psn false false (aeth syndrome msn) []

/-- A response of a QP. A READ reads host memory, so it waits while its function's requests do, and what comes after it
waits behind it (R232, R233); with the link lost it goes unanswered (R230). -/
def State.reply (qpn : Nat) (r : QpReply) (s : State) : State :=
  let q := s.qp qpn
  let reads := match r with
    | .read .. => true
    | .ack .. => false
  if reads && s.dmaLost q.owner then s
  else if q.replies = [] ∧ (!reads ∨ s.dmaOpen q.owner) then s.sendReply qpn r
  else s.modQp qpn fun q => { q with replies := q.replies ++ [r] }

/-- The responses of a link's QPs that waited leave, once their function may read host memory (R232, R234). -/
def State.flushReplies (p : Nat) (s : State) : State :=
  (s.rdma.qps.filter fun (_, q) => decide (q.owner.pfIndex = some p) && s.dmaOpen q.owner).foldl (fun s (n, q) =>
    q.replies.foldl (fun s r => s.sendReply n r) (s.modQp n fun q => { q with replies := [] })) s

/-- An acknowledgement sent. -/
def State.sendAck (qpn psn syndrome : Nat) (s : State) : State := s.reply qpn (.ack psn syndrome (s.qp qpn).msn)

/-- A refused request: the NAK code, the QP to ERR (log entry 50). -/
def State.refuse (qpn psn code : Nat) (s : State) : State := (s.sendAck qpn psn (0x60 + code)).qpError qpn

/-- A READ request answered (R282). -/
def State.answerRead (qpn psn len : Nat) (s : State) : State := s.reply qpn (.read psn len (s.qp qpn).msn)

/-- An accepted packet advances the expected PSN, and is acknowledged where it asks for it. -/
def State.accept (qpn psn : Nat) (ack ends : Bool) (s : State) : State :=
  let s := s.modQp qpn fun q =>
    { q with recvPsn := (psn + 1) % 2 ^ 24, nakSent := false, msn := if ends then (q.msn + 1) % 2 ^ 24 else q.msn }
  if ack then s.sendAck qpn psn 0x1F else s

/-- The place of a packet in its message. -/
structure Part3 where
  isFirst : Bool
  isLast  : Bool
  imm     : Bool
  deriving DecidableEq, Repr

/-- The place that an opcode below 12 gives. -/
def partOf (op : Nat) : Part3 :=
  let o := op % 6
  ⟨decide (o = 0 ∨ o = 4 ∨ o = 5), decide (2 ≤ o), decide (o = 3 ∨ o = 5)⟩

/-- A SEND packet in order. -/
def State.sendReceived (qpn op psn : Nat) (ack : Bool) (body : List Byte) (s : State) : State :=
  let q := s.qp qpn
  let p := partOf op
  let imm := if p.imm then some (body.take 4).reverse else none
  let data := if p.imm then body.drop 4 else body
  match q.recvs with
  | [] => (s.count Reg.RDMA_CNT_RNR_SENT).sendAck qpn psn (0x20 + q.at 4 % 32)
  | e :: _ =>
    let at_ := if p.isFirst then leField e 0 8 else q.rxAddr
    let left := if p.isFirst then leField e 12 4 else q.rxLeft
    let got := if p.isFirst then 0 else q.rxBytes
    if left < data.length ∨ 2 ^ 31 < got + data.length then (s.rqDone qpn got none 1 (b2n p.imm)).refuse qpn psn 1
    else if data ≠ [] ∧ !s.mayAccess q.owner (leField e 8 4) 0 at_ data.length then
      (s.rqDone qpn got none 2 (b2n p.imm)).refuse qpn psn 2
    else
      let s := if data = [] then s else s.dmaWrite q.owner at_ data false
      let s := s.modQp qpn fun q => { q with
        rxOp := if p.isLast then 0 else 1, rxAddr := at_ + data.length, rxLeft := left - data.length,
        rxBytes := got + data.length }
      let s := if p.isLast then s.rqDone qpn (got + data.length) imm 0 (b2n p.imm) else s
      (s.accept qpn psn ack p.isLast).mrSettle

/-- A remote key names a region that covers the bytes and has the right, which the QP grants; a length of 0 names no bytes
(R275, R282). -/
def State.remoteMay (s : State) (q : Qp) (right key addr len : Nat) : Bool :=
  (q.at 20).testBit right && (decide (len = 0) || s.mayAccess q.owner key right addr len)

/-- A WRITE packet in order: the first one's RETH is checked for the whole message, and every later packet where it is
placed (R275, R282). -/
def State.writeReceived (qpn op psn : Nat) (ack : Bool) (body : List Byte) (s : State) : State :=
  let q := s.qp qpn
  let p := partOf op
  let addr := if p.isFirst then beField body 0 8 else q.rxAddr
  let left := if p.isFirst then beField body 12 4 else q.rxLeft
  let got := if p.isFirst then 0 else q.rxBytes
  let key := if p.isFirst then beField body 8 4 else q.rxKey
  let body' := if p.isFirst then body.drop 16 else body
  let imm := if p.imm then some (body'.take 4).reverse else none
  let data := if p.imm then body'.drop 4 else body'
  if 2 ^ 31 < left then s.refuse qpn psn 1
  else if !s.remoteMay q 1 key addr (if p.isFirst then left else data.length) then s.refuse qpn psn 2
  else if left < data.length ∨ (p.isLast ∧ data.length ≠ left) then s.refuse qpn psn 1
  else if p.imm ∧ q.recvs = [] then (s.count Reg.RDMA_CNT_RNR_SENT).sendAck qpn psn (0x20 + q.at 4 % 32)
  else
    let s := if data = [] then s else s.dmaWrite q.owner addr data false
    let s := s.modQp qpn fun q => { q with
      rxOp := if p.isLast then 0 else 2, rxAddr := addr + data.length, rxLeft := left - data.length,
      rxBytes := got + data.length, rxKey := key }
    let s := if p.imm then s.rqDone qpn (got + data.length) imm 0 3 else s
    (s.accept qpn psn ack p.isLast).mrSettle

/-- A request packet whose PSN is the expected one. -/
def State.requestInOrder (qpn op psn : Nat) (ack : Bool) (body : List Byte) (s : State) : State :=
  let q := s.qp qpn
  let p := partOf op
  let reth := if p.isFirst ∧ 6 ≤ op then 16 else 0
  let len := body.length - reth - (if p.imm then 4 else 0)
  let kind := if op < 6 then 1 else 2
  if op < 12 then
    if (p.isFirst && decide (q.rxOp ≠ 0)) || (!p.isFirst && decide (q.rxOp ≠ kind)) || (!p.isLast && decide (len ≠ q.mtu))
        || decide (q.mtu < len) then s.refuse qpn psn 1
    else if op < 6 then s.sendReceived qpn op psn ack body
    else s.writeReceived qpn op psn ack body
  else if op = 12 ∧ q.rxOp = 0 then
    let addr := beField body 0 8
    let n := beField body 12 4
    if 2 ^ 31 < n then s.refuse qpn psn 1
    else if !s.remoteMay q 2 (beField body 8 4) addr n then s.refuse qpn psn 2
    else
      let s := s.modQp qpn fun q => { q with
        recvPsn := (psn + max 1 (divUp n q.mtu)) % 2 ^ 24, nakSent := false, msn := (q.msn + 1) % 2 ^ 24 }
      s.answerRead qpn psn n
  else s.refuse qpn psn 1

/-- A duplicate request: a READ is executed again, anything else acknowledged again. -/
def State.duplicate (qpn op psn : Nat) (body : List Byte) (s : State) : State :=
  let q := s.qp qpn
  let addr := beField body 0 8
  let n := beField body 12 4
  if op ≠ 12 then s.sendAck qpn (q.recvPsn + 2 ^ 24 - 1) 0x1F
  else if !s.remoteMay q 2 (beField body 8 4) addr n then s.refuse qpn psn 2
  else s.answerRead qpn psn n

/-- The QP context may have to be fetched: which contexts the cache holds is open (log entry 53). -/
def State.touchQp (s : State) : State :=
  let s' := { s with free := s.free + 1 }
  if Config.freeNat s.free % 2 = 1 then s'.count Reg.RDMA_CNT_CTX_MISS else s'

/-- A RoCEv2 packet from the class map's RDMA result (R72, R273, R282): its frame without FCS, where its IP header and
its UDP header begin, and whether it is IPv6. QP1 goes to the GSI ring. What is not a packet for a QP that receives, with at
most one VLAN tag, is discarded, and so is one of another transport service than RC, or the answer to an atomic operation
(log entry 50). -/
def State.rdmaReceived (n : Nat) (stamp : Dial) (cls : Nat) (f : List Byte) (l3 l4 : Nat) (v6 : Bool) (s : State) :
    State :=
  let len := beField f (l4 + 4) 2
  let pkt := (f.drop (l4 + 8)).take (len - 8)
  let bth := pkt.take 12
  let op := beField bth 0 1
  let pad := beField bth 1 1 / 16 % 4
  let qpn := beField bth 5 3
  let psn := beField bth 9 3
  let cfg := s.reg Reg.RDMA_CFG
  let body := (pkt.drop 12).take (pkt.length - 16 - pad)
  let ip := slice f l3 (l4 - l3)
  let hdr := if v6 then slice f l3 40 else slice f l3 20
  let src := if v6 then slice ip 8 16 else zeros 10 ++ [0xFF, 0xFF] ++ slice ip 12 4
  let dst := if v6 then slice ip 24 16 else zeros 10 ++ [0xFF, 0xFF] ++ slice ip 16 4
  let q := s.qp qpn
  if 18 < l3 ∨ pkt.length < 16 + pad ∨ pkt.drop (pkt.length - 4) ≠ icrc hdr (slice f l4 8) (pkt.take (pkt.length - 4)) then s
  else if qpn = 1 then if bit cfg 16 then s.frameRx (bits cfg 15 0) n cls stamp f else s
  else
    let s := s.touchQp
    if !q.live ∨ !(q.phase = .rtr ∨ q.phase = .rts) ∨ q.slot ≠ n ∨ src ≠ q.dgid ∨ dst ≠ q.sgid then s
    else if 0x20 ≤ op ∨ op = 0x12 then s
    else if op = 0x11 then s.ackReceived qpn psn (beField body 0 1)
    else if op = 0x0E then s.readResponse qpn op psn body
    else if 0x0D ≤ op ∧ op ≤ 0x10 then s.readResponse qpn op psn (body.drop 4)
    else
      let d := psnDist q.recvPsn psn
      if d = 0 then s.requestInOrder qpn op psn (bth.getD 8 0 |>.getLsbD 7) body
      else if d < 2 ^ 23 then
        if q.nakSent then s
        else (s.modQp qpn fun q => { q with nakSent := true }).sendAck qpn q.recvPsn 0x60
      else s.duplicate qpn op psn body

end Sys2Proof.Machine
end

