-- ==== Sys2Proof/Machine/Rdma.lean ====
section
/-! DEFINITION. Machine/Rdma.lean: the admin commands on queue pairs and memory regions, doorbells, send entries and the
timers of the requester (R274 to R287; log entry 60). -/

namespace Sys2Proof.Machine

/-! ## The commands on queue pairs (R274 to R276) -/

/-- The statuses of R275. -/
abbrev noShare : Nat := 1
abbrev badState : Nat := 2
abbrev notInfra : Nat := 3
abbrev badAttr : Nat := 4

/-- The first unused number at or after a candidate in 0 .. m - 1, going round. -/
def firstUnused (used : Nat → Bool) (m : Nat) : Nat → Nat → Nat
  | 0, c => c
  | fuel + 1, c => if used c then firstUnused used m fuel ((c + 1) % m) else c

/-- QPs of a function. -/
def State.qpsOf (s : State) (o : Party) : List (Nat × Qp) := s.rdma.qps.filter fun (_, q) => q.live && decide (q.owner = o)

/-- The largest number of QPs the function may hold. -/
def State.qpShare (s : State) (o : Party) : Nat := if o.isHost then bits (s.usable o 2) 48 32 else 262142

/-- A QP of the issuer. -/
def State.ownQp (s : State) (o : Party) (n : Nat) : Bool := (s.qp n).live && decide ((s.qp n).owner = o)

/-- RDMA_QP_USED, with its peak. -/
def State.noteQps (s : State) : State :=
  let n := (s.rdma.qps.filter fun (_, q) => q.live && decide (q.phase ≠ .reset)).length
  s.modReg Reg.RDMA_QP_USED fun v => word (n + max n (bits v 49 32) * 2 ^ 32)

/-- 0x60 QP_CREATE. Which free QPN is taken the manual does not say. -/
def qpCreate (c : Nat) : State → State := onAdmin c 0x60 fun t o s =>
  let p0 := adminParam t.desc 0
  let sq := adminParam t.desc 1
  let rq := adminParam t.desc 2
  let p3 := adminParam t.desc 3
  let k1 := bits p0 5 0
  let k2 := bits p0 13 8
  let pi := fun (lo : Nat) => word (sq.toNat / 2 ^ 32 * 2 ^ 32 + lo)
  let piOk := fun (a : Word) => decide (a.toNat / 4096 = sq.toNat / 4096 ∧ a.toNat % 8 = 0)
  if bit p0 16 ∧ o ≠ .cores then s.adminDone c t notPermitted 0
  else if ¬ (4 ≤ k1 ∧ k1 ≤ 15 ∧ 4 ≤ k2 ∧ k2 ≤ 15 ∧ sq.toNat % 4096 = 0 ∧ rq.toNat % 4096 = 0)
      ∨ !piOk (pi (bits p3 31 0)) ∨ !piOk (pi (bits p3 63 32)) then s.adminDone c t badAttr 0
  else if s.qpShare o ≤ (s.qpsOf o).length ∨ 262142 ≤ (s.rdma.qps.filter fun (_, q) => q.live).length then
    s.adminDone c t noShare 0
  else
    let n := 2 + firstUnused (fun i => (s.qp (2 + i)).live) 262142 (s.rdma.qps.length + 1) (Config.freeNat s.free % 262142)
    let q : Qp := { Qp.none with
      owner := o, device := bit p0 16, log2sq := k1, log2rq := k2, sqBase := sq, rqBase := rq,
      sqPi := pi (bits p3 31 0), rqPi := pi (bits p3 63 32), attr := zeros 64, created := s.rdma.creates + 1 }
    let s := { s with free := s.free + 1, rdma := { s.rdma with creates := s.rdma.creates + 1 } }
    (s.modQp n fun _ => q).adminDone c t 0 n

/-- The QP state codes. -/
def QpPhase.code : QpPhase → Nat
  | .reset => 0 | .init => 1 | .rtr => 2 | .rts => 3 | .err => 4

/-- The transitions of R276. -/
def qpMove : QpPhase → Nat → Option QpPhase
  | .reset, 1 => some .init
  | .init, 2 => some .rtr
  | .rtr, 3 => some .rts
  | .err, 0 => some .reset
  | _, 4 => some .err
  | _, _ => none

/-- The attributes are within their ranges. -/
def attrOk (b : List Byte) : Bool :=
  let f := fun i => leField b i 1
  decide (3 ≤ f 1 ∧ f 1 ≤ 5 ∧ 1 ≤ f 21 ∧ f 21 ≤ 16 ∧ 1 ≤ f 22 ∧ f 22 ≤ 16)

/-- A QP back in RESET: its queues empty, its cursors and counts 0. -/
def Qp.clear (q : Qp) : Qp :=
  { Qp.none with owner := q.owner, device := q.device, log2sq := q.log2sq, log2rq := q.log2rq, sqBase := q.sqBase,
                 rqBase := q.rqBase, sqPi := q.sqPi, rqPi := q.rqPi, attr := zeros 64, created := q.created }

/-- A QP moved to a state with an attribute block. -/
def State.moveQp (n : Nat) (goal : QpPhase) (b : List Byte) (s : State) : State :=
  match goal with
  | .err => s.qpError n
  | .reset => s.modQp n Qp.clear
  | .rtr =>
    s.modQp n fun q => { q with
      phase := .rtr, attr := slice b 0 64, sendPsn := leField b 12 3, ackPsn := leField b 12 3, recvPsn := leField b 16 3 }
  | .rts =>
    (s.modQp n fun q => { q with phase := .rts, attr := q.attr.take 2 ++ slice b 2 2 ++ q.attr.drop 4 }).pumpQp n
  | .init => s.modQp n fun q => { q with phase := .init }

/-- 0x61 QP_MODIFY. -/
def qpModify (c : Nat) (attr : Option (List Byte)) : State → State := onAdmin c 0x61 fun t o s =>
  let n := bits (adminParam t.desc 0) 23 0
  if !s.ownQp o n then s.adminDone c t noShare 0
  else
    match t.data attr with
    | none => s.adminDone c t adminFetch 0
    | some b =>
      let slot := leField b 5 1
      match qpMove (s.qp n).phase (leField b 0 1) with
      | none => s.adminDone c t (if 4 < leField b 0 1 then badAttr else badState) 0
      | some goal =>
        if goal = .rtr ∧ !attrOk b then s.adminDone c t badAttr 0
        else if goal = .rtr ∧ !(s.slotOn slot && s.isInfra slot && !s.isIdle slot && s.ownsSlot o slot) then
          s.adminDone c t notInfra 0
        else (s.moveQp n goal b).noteQps.adminDone c t 0 n

/-- 0x62 QP_QUERY: the attribute block in force, with the state the QP is in. -/
def qpQuery (c : Nat) : State → State := onAdmin c 0x62 fun t o s =>
  let n := bits (adminParam t.desc 0) 23 0
  if !s.ownQp o n then s.adminDone c t noShare 0
  else
    let q := s.qp n
    let out := BitVec.ofNat 8 q.phase.code :: slice q.attr 1 63
    (s.entryWrite c t (adminParam t.desc 1).toNat out false).adminDone c t 0 64

/-- 0x63 QP_DESTROY. -/
def qpDestroy (c : Nat) : State → State := onAdmin c 0x63 fun t o s =>
  let n := bits (adminParam t.desc 0) 23 0
  if !s.ownQp o n then s.adminDone c t noShare 0
  else if (s.qp n).phase ≠ .reset ∧ (s.qp n).phase ≠ .err then s.adminDone c t badState 0
  else (s.modQp n fun _ => Qp.none).noteQps.mrSettle.adminDone c t 0 n

/-! ## Memory regions (R275) -/

/-- 0x64 MR_REG. Which free region is taken the manual does not say. -/
def mrReg (c : Nat) : State → State := onAdmin c 0x64 fun t o s =>
  if 1048576 ≤ (s.rdma.mrs.filter fun (_, m) => m.live).length then s.adminDone c t noShare 0
  else
    let i := firstUnused (fun i => (s.mr i).live) 1048576 (s.rdma.mrs.length + 1) (Config.freeNat s.free % 1048576)
    let gen := (s.mr i).gen + 1
    let m : Mr := ⟨o, true, gen, bits (adminParam t.desc 0) 26 24, (adminParam t.desc 1).toNat,
      (adminParam t.desc 2).toNat, none⟩
    ({ s with free := s.free + 1 }.modMr i fun _ => m).adminDone c t 0 (256 * i + gen.toNat)

/-- 0x65 MR_DEREG: it completes once no work request names the key. -/
def mrDereg (c : Nat) : State → State := onAdmin c 0x65 fun t o s =>
  let key := bits (adminParam t.desc 0) 31 0
  let m := s.mr (key / 256)
  if !m.live ∨ m.gen.toNat ≠ key % 256 ∨ m.owner ≠ o then s.adminDone c t noShare 0
  else if m.dying.isSome then s.adminDone c t badState 0
  else ((s.startEntry c t.cursor).modMr (key / 256) fun m => { m with dying := some (c, t.cursor) }).mrSettle

/-! ## Work queues (R277, R278) -/

/-- Receive entries taken: in order while the Moafa owns them and the queue has room. -/
def State.takeRecvs (n : Nat) (entries : List (List Byte)) (s : State) : State :=
  let q := s.qp n
  let es := (entries.takeWhile ownBit).take (2 ^ q.log2rq - q.recvs.length)
  let s := s.modQp n fun q => { q with recvs := q.recvs ++ es, rqDev := q.rqDev + BitVec.ofNat 32 es.length }
  if q.phase = .err then es.foldl (fun s _ => s.rqDone n 0 none 7 0) s else s

/-- The number by which PI_READ and a held read name a work queue of a QP: above those of the ring contexts. -/
def wqRing (n : Nat) (rq : Bool) : Nat := noRing + 2 * n + b2n rq

/-- RDMA_DOORBELL written: the PI read of the queue it names (R242, R277). -/
def rdmaDoorbell (who : Party) (n : Nat) (rq : Bool) (s : State) : State :=
  let q := s.qp n
  if !q.live ∨ q.owner ≠ who ∨ q.phase = .reset ∨ (!rq ∧ q.device) then s.count Reg.RDMA_CNT_DOORBELL_IGNORED
  else
    (s.touchQp.modQp n fun q =>
      if rq then { q with rqReads := q.rqReads + 1 } else { q with sqReads := q.sqReads + 1 }).dma q.owner 2 (wqRing n rq) none
        (.dmaRead q.owner (wqRing n rq) (if rq then q.rqPi else q.sqPi).toNat 4)

/-- How many reads of a work queue's PI word have gone out and not returned: the others are held (R232, R233). -/
def State.wqReads (s : State) (n : Nat) (rq : Bool) : Nat :=
  let q := s.qp n
  let held := match q.owner.pfIndex with
    | some p => ((s.link p).held.filter fun h => decide (h.ring = wqRing n rq)).length
    | none => 0
  (if rq then q.rqReads else q.sqReads) - held

/-- Send entries fetched: they wait for their turn, or complete FLUSHED on a QP in ERR. -/
def State.takeSends (n : Nat) (es : List (List Byte)) (s : State) : State :=
  let s := s.modQp n fun q => { q with fetched := q.fetched ++ es }
  if (s.qp n).phase = .err then s.flushQp n else s

/-- A work queue cannot be read, or its PI is out of range: the steady-lane rule puts a ring in ERROR, and the QP goes to
ERR (R242, R243, R277; log entry 60). -/
def State.wqError (n : Nat) (k : Nat → Nat) (vfOff : Nat) (s : State) : State :=
  (s.ringCount (s.qp n).owner k vfOff 1).qpError n

/-- The PI word of a work queue returns, and with it the entries up to it (R242, R243, R277). -/
def wqFetch (n : Nat) (rq : Bool) (pi : Option (BitVec 32)) (entries : List (Option (List Byte))) (s : State) : State :=
  let q := s.qp n
  if !q.live ∨ q.phase = .reset ∨ s.wqReads n rq = 0 then s
  else
    let s := s.modQp n fun q => if rq then { q with rqReads := q.rqReads - 1 } else { q with sqReads := q.sqReads - 1 }
    let size := 2 ^ (if rq then q.log2rq else q.log2sq)
    let done := if rq then q.rqDone else q.sqDone
    let dev := if rq then q.rqDev else q.sqDev + BitVec.ofNat 32 q.fetched.length
    match pi with
    | none => s.wqError n Reg.RING_CNT_DESC_FETCH_FAIL 0x8020
    | some pi =>
      if size < (pi - done).toNat then s.wqError n Reg.RING_CNT_PI_ERROR 0
      else
        let es := entries.take ((pi - done).toNat - (dev - done).toNat)
        let own := (es.takeWhile fun e => e.any ownBit).filterMap id
        let s := if rq then s.takeRecvs n own else s.takeSends n own
        match es[own.length]? with
        | some none => s.wqError n Reg.RING_CNT_DESC_FETCH_FAIL 0x8020
        | some (some _) => s.ringCount q.owner Reg.RING_CNT_OWN_MISMATCH 0x8018 1
        | none => s

/-- A send entry taken (R279, R287): in ERR it completes FLUSHED; one that waits on a QP of another function, in RESET,
or in ERR without its condition met, ends WAIT_BROKEN. -/
def State.takeSend (n : Nat) (entry data : List Byte) (s : State) : State :=
  let q := s.qp n
  let wait := (leField entry 33 1).testBit 1
  let w := Wqe.taken q.sqDev entry data
  let w := { w with wait := if !wait then 0 else if s.waitMet w then 1 else 2 }
  let x := s.qp (leField entry 36 3)
  let broken := wait && (!x.live || decide (x.owner ≠ q.owner) || decide (x.phase = .reset)
    || (decide (x.phase = .err) && !s.waitMet w))
  let w := if broken then { w with ended := true, status := 9 } else w
  let s := s.modQp n fun q => { q with sqDev := q.sqDev + 1 }
  if q.phase = .err then s.sqDone n w 7 else (s.modQp n fun q => { q with wqes := q.wqes ++ [w] }).pumpQp n

/-- The copy queue that feeds a DEVICE_POSTED QP (R288). -/
def State.copyOf (s : State) (n : Nat) : Option Nat :=
  (List.range 32).find? fun k =>
    let c := s.reg (Reg.RDMA_SEQ_COPY (k / 2))
    (if k % 2 = 0 then bit c 24 && decide (bits c 23 0 = n) else bit c 56 && decide (bits c 55 32 = n))
      && decide (s.copyQueue k ≠ [])

/-- A DMA read of a work queue has failed: the read of its PI word and entries, or the local read of a send entry, which
ends FETCH (R228, R243, R280). -/
def State.failQueueRead (c : Nat) (entry : Option (BitVec 32)) (s : State) : State :=
  let n := (c - noRing) / 2
  let rq := decide ((c - noRing) % 2 = 1)
  match entry with
  | none => wqFetch n rq none [] s
  | some cur =>
    match rq, (s.qp n).fetched with
    | false, e :: rest =>
      if cur = (s.qp n).sqDev ∧ leField e 32 1 % 8 < 4 ∧ leField e 12 4 ≠ 0 then
        (s.modQp n fun q => { q with fetched := rest }).takeSend n e []
      else s
    | _, _ => s

/-- The next send entry that was fetched, by its number, where a test accepts its opcode, with the data of its local
buffer. -/
def sendWork (n : Nat) (at_ : BitVec 32) (op : Nat → Bool) (data : List Byte) (s : State) : State :=
  match (s.qp n).fetched with
  | [] => s
  | entry :: rest =>
    if at_ = (s.qp n).sqDev ∧ op (leField entry 32 1 % 8) then (s.modQp n fun q => { q with fetched := rest }).takeSend n entry data else s

/-- SEND, an entry with an opcode that R278 does not list (BAD_OPCODE), or the next record of a sequencer copy. -/
def sendCommand (n : Nat) (at_ : BitVec 32) (data : List Byte) (s : State) : State :=
  let q := s.qp n
  if q.live ∧ q.device ∧ q.phase = .rts ∧ at_ = q.sqDev ∧ (q.sqDev - q.sqDone).toNat < 2 ^ q.log2sq then
    match s.copyOf n with
    | none => s
    | some k =>
      let rec_ := (s.copyQueue k).headD []
      let s := { s with rdma := { s.rdma with copyQ := Store.put (fun _ => []) k (s.copyQueue k).tail s.rdma.copyQ } }
      s.takeSend n [] rec_
  else sendWork n at_ (fun op => decide (op = 0 ∨ 4 < op)) data s

/-! ## Timers (R281, R286) -/

/-- The ACK timer of the oldest unacknowledged packet expires. -/
def ackTimeout (n : Nat) (s : State) : State :=
  let q := s.qp n
  let t := q.at 2 % 32
  match q.wqes.find? fun w => w.sent && !w.ended with
  | none => s
  | some w =>
    if q.phase = .rts ∧ t ≠ 0 ∧ q.rnrUntil.isNone ∧ w.sentAt.toNat + 4096 * 2 ^ t * nsUnits ≤ s.dial.toNat then
      (s.goBack n q.ackPsn).pumpQp n
    else s

/-- The delay of an RNR NAK is over: resending starts. -/
def rnrDelayExpiry (n : Nat) (s : State) : State :=
  if (s.qp n).rnrUntil.any fun t => decide (t ≤ s.clock) then
    let s := s.modQp n fun q => { q with rnrUntil := none }
    (s.resendFrom n (s.qp n).ackPsn).pumpQp n
  else s

/-- The condition of a waiting entry has become true. -/
def triggeredStart (n : Nat) (s : State) : State :=
  match (s.qp n).nextWqe with
  | none => s
  | some w =>
    if w.wait = 2 ∧ s.waitMet w ∧ (s.qp n).phase = .rts then
      ((s.count Reg.RDMA_CNT_TRIGGERED).modQp n fun q => q.setWqe { w with wait := 0 }).pumpQp n
    else s

/-! ## The reset of a function (R230, R232, R304) -/

/-- The QPs of a function are destroyed, their work DRAINED, which abandons it (R245, R280), and its memory regions
deregistered. -/
def State.drainRdma (o : Party) (s : State) : State :=
  let qs := s.qpsOf o
  let s := qs.foldl (fun s (n, q) =>
    let k := q.wqes.length + q.fetched.length + q.recvs.length
    let s := (List.range k).foldl (fun s _ => s.countWr o 12) s
    (s.ringCount o Reg.RING_CNT_ABANDONED 0x8028 k).modQp n fun _ => Qp.none) s
  let drop := fun (m : Mr) => if m.owner = o then { m with live := false, dying := none } else m
  { s with rdma := { s.rdma with mrs := s.rdma.mrs.map fun (i, m) => (i, drop m) } }.noteQps

/-! ## The meanings -/

def execQpCreate (ring : Nat) (s : State) : Answer := within (Instr.wf (.qpCreate ring)) (whenClocked (qpCreate ring) s) s

def execQpModify (ring : Nat) (attr : Option (List Byte)) (s : State) : Answer :=
  within (Instr.wf (.qpModify ring attr)) (whenClocked (onLink (s.ring ring).owner (.qpModify ring attr)
      (qpModify ring attr)) s) s

def execQpQuery (ring : Nat) (s : State) : Answer := within (Instr.wf (.qpQuery ring)) (whenClocked (qpQuery ring) s) s

def execQpDestroy (ring : Nat) (s : State) : Answer :=
  within (Instr.wf (.qpDestroy ring)) (whenClocked (qpDestroy ring) s) s

def execMrReg (ring : Nat) (s : State) : Answer := within (Instr.wf (.mrReg ring)) (whenClocked (mrReg ring) s) s

def execMrDereg (ring : Nat) (s : State) : Answer := within (Instr.wf (.mrDereg ring)) (whenClocked (mrDereg ring) s) s

def execRdmaDoorbell (who : Party) (qpn : Nat) (rq : Bool) (s : State) : Answer :=
  within (Instr.wf (.rdmaDoorbell who qpn rq)) 
    (busWrite who false false (wholeAt who Reg.RDMA_DOORBELL 0x4000 (rdmaDoorbell who qpn rq)) s) s

def execSend (qpn : Nat) (entry : BitVec 32) (data : Option (List Byte)) (s : State) : Answer :=
  within (Instr.wf (.send qpn entry data)) (whenClocked (onLink (s.qp qpn).owner (.send qpn entry data)
      (sendCommand qpn entry (data.getD []))) s) s

def execSendImm (qpn : Nat) (entry : BitVec 32) (data : Option (List Byte)) (s : State) : Answer :=
  within (Instr.wf (.sendImm qpn entry data)) (whenClocked (onLink (s.qp qpn).owner (.sendImm qpn entry data)
      (sendWork qpn entry (· == 1) (data.getD []))) s) s

def execRdmaWrite (qpn : Nat) (entry : BitVec 32) (data : Option (List Byte)) (s : State) : Answer :=
  within (Instr.wf (.rdmaWrite qpn entry data)) (whenClocked (onLink (s.qp qpn).owner (.rdmaWrite qpn entry data)
      (sendWork qpn entry (· == 2) (data.getD []))) s) s

def execWriteImm (qpn : Nat) (entry : BitVec 32) (data : Option (List Byte)) (s : State) : Answer :=
  within (Instr.wf (.writeImm qpn entry data)) (whenClocked (onLink (s.qp qpn).owner (.writeImm qpn entry data)
      (sendWork qpn entry (· == 3) (data.getD []))) s) s

def execRdmaRead (qpn : Nat) (entry : BitVec 32) (s : State) : Answer :=
  within (Instr.wf (.rdmaRead qpn entry)) (whenClocked (sendWork qpn entry (· == 4) []) s) s

def execAckTimeout (qpn : Nat) (s : State) : Answer :=
  within (Instr.wf (.ackTimeout qpn)) (whenClocked (ackTimeout qpn) s) s

def execRnrDelayExpiry (qpn : Nat) (s : State) : Answer :=
  within (Instr.wf (.rnrDelayExpiry qpn)) (whenClocked (rnrDelayExpiry qpn) s) s

def execTriggeredStart (qpn : Nat) (s : State) : Answer :=
  within (Instr.wf (.triggeredStart qpn)) (whenClocked (triggeredStart qpn) s) s

end Sys2Proof.Machine
end

