-- ==== Sys2Proof/Machine/Tables.lean ====
section
/-! DEFINITION. Machine/Tables.lean: the table-update operations, the release of old contents, ageing and the table
scrubber (R83, R142 to R157, R247, R406). -/

namespace Sys2Proof.Machine

/-! ## The descriptor (R247) -/

def updTable (d : List Byte) : Nat := leField d 8 1 % 8
def updOp (d : List Byte) : Nat := leField d 9 1 % 8
def updTarget (d : List Byte) : Nat := leField d 10 1 % 8
def updIndex (d : List Byte) : Nat := leField d 12 4
def updEffective (d : List Byte) : Nat := leField d 16 8

/-- The entry that an operation names. -/
def updKey (d : List Byte) : Nat := entryKey (updTable d) (tableInst (updTable d) (updTarget d)) (updIndex d)

/-- The pairs of table and operation that R150 allows. -/
def opAllowed (t op : Nat) : Bool :=
  match op with
  | 0 => true
  | 1 | 2 | 3 => decide (t ≤ 5)
  | 4 | 5 => decide (6 ≤ t)
  | _ => false

/-- A VF's entry names what its share holds: CLASS and SESSION within its ranges, a SESSION's TARGET with a slot of the
share (R293). -/
def State.updShared (s : State) (o : Party) (t target index : Nat) : Bool :=
  match o with
  | .vf _ _ =>
    let within_ := fun (w bhi chi : Nat) =>
      decide (bits (s.usable o w) bhi 0 ≤ index ∧ index < bits (s.usable o w) bhi 0 + bits (s.usable o w) chi 16)
    if t = 3 then within_ 3 11 28
    else if t = 0 then within_ 4 15 32 && (List.range 32).any fun j => s.ownsSlot o (32 * target + j)
    else false
  | _ => true

/-- A VF's CLASS image names nothing outside its share: no ORDER, HOST with a ring of its own, FORWARD from a slot that it
names of its own (R293; log entry 46). -/
def State.imageShared (s : State) (o : Party) (x : BitVec 512) : Bool :=
  match o with
  | .vf _ _ =>
    match imgField x 51 1 % 8 with
    | 0 => !(imgField x 35 1).testBit 0 || s.ownsSlot o (imgField x 34 1)
    | 1 => false
    | 3 =>
      let r := s.usable o 0
      let c := imgField x 54 2
      decide (bits r 15 0 ≤ c ∧ c < bits r 15 0 + bits r 25 16)
    | _ => true
  | _ => true

/-- INDEX and TARGET are within the table's range (R140); an LPM table's index is its prefix. -/
def indexOk (t target index : Nat) : Bool :=
  (decide (6 ≤ t) || decide (index < tableSize t)) && (!isPaired t || decide (target ≤ 3))

/-- An operation's completion: A, STATUS and the tally, with its counter (R154, R247, R255). -/
def State.updDone (c : Nat) (t : Taken) (status : Nat) (s : State) : State :=
  let s := if status = 0 then s.count Reg.TBL_CNT_UPDATES else s.count (Reg.TBL_CNT_UPD_REFUSED status)
  (s.endTally t.tally status (s.dialNs - t.acceptNs) c).complete c t.cursor
    [(32, leBytes 8 s.dialNs ++ [BitVec.ofNat 8 status] ++ zeros 7 ++ leBytes 8 t.tally.toNat)]

/-- A held operation stands at the head of the ring (R154). -/
def State.updHeld (s : State) (c : Nat) : Bool := s.heldUpd.any fun h => h.ring == c

/-- The operation at the head of a table-update ring is acted on when it is the one meant, and refused with TABLE_OP
by any command when R150 does not allow it; nothing passes a hold (R154, R406; log entry 46). -/
def onTable (c op : Nat) (f : Taken → State → State) (s : State) : State :=
  let r := s.ring c
  match r.head with
  | none => s
  | some t =>
    if r.type ≠ 4 ∨ s.updHeld c then s
    else if !opAllowed (updTable t.desc) (updOp t.desc) then s.updDone c t 1
    else if updOp t.desc ≠ op then s
    else if !indexOk (updTable t.desc) (updTarget t.desc) (updIndex t.desc)
        || !s.updShared r.owner (updTable t.desc) (updTarget t.desc) (updIndex t.desc) then s.updDone c t 2
    else f t s

/-! ## Prefixes (R143, R148, R153) -/

/-- The address width of an LPM table. -/
def lpmWidth (v6 : Bool) : Nat := if v6 then 64 else 32

/-- The prefix that an image names: LENGTH and the address as a number. -/
def imagePrefix (v6 : Bool) (b : List Byte) : Nat × Nat := (leField b 16 1, beField b 0 (lpmWidth v6 / 8))

/-- The prefix is one: its length within the table's, no bit below it set. -/
def prefixOk (v6 : Bool) (len addr : Nat) : Bool :=
  decide (len ≤ lpmWidth v6) && decide (addr % 2 ^ (lpmWidth v6 - len) = 0)

/-- An installed prefix is the one named. -/
def Prefix.names (p : Prefix) (pair : Nat) (v6 : Bool) (len addr : Nat) : Bool :=
  decide (p.pair = pair ∧ p.v6 = v6 ∧ p.length = len ∧ p.value * 2 ^ (lpmWidth v6 - len) = addr ∧ len ≤ lpmWidth v6)

/-- The image of an installed prefix, with PARITY where a node it is expanded into is bad. -/
def State.prefixImage (s : State) (p : Prefix) : List Byte :=
  let w := lpmWidth p.v6
  let addr := beBytes (w / 8) (p.value * 2 ^ (w - p.length))
  slice addr 0 16 ++ [BitVec.ofNat 8 p.length, 0, 0, 0] ++ leBytes 2 p.nexthop ++ zeros 40
    ++ [1, BitVec.ofNat 8 (2 * b2n (s.tbl.badNodes.any p.covers))]

/-! ## READ (R143, R150) -/

/-- The owner receives 64 bytes in the image buffer. -/
def State.writeImage (c : Nat) (t : Taken) (b : List Byte) (s : State) : State :=
  s.entryWrite c t (leField t.desc 0 8) b false

def tableRead (c : Nat) (buf : Option (List Byte)) (t : Taken) (s : State) : State :=
  let d := t.desc
  let tab := updTable d
  if tab < 6 then (s.writeImage c t (((s.entry (updKey d)).asOf s.dial).readImage tab)).updDone c t 0
  else
    match t.data buf with
    | none => s.updDone c t 11
    | some b =>
      let (len, addr) := imagePrefix (tab = 7) b
      match s.lpm.find? fun p => p.names (updTarget d) (tab = 7) len addr with
      | none => s.updDone c t 9
      | some p => (s.writeImage c t (s.prefixImage p)).updDone c t 0

/-! ## LOCK (R151) -/

/-- The side counters in use shown in TBL_SIDE_USED, with their peak. -/
def State.noteSide (k : Nat) (s : State) : State :=
  (sidePools k).foldl (fun s p =>
    let n := s.sideUsed p
    s.modReg (Reg.TBL_SIDE_USED p) fun v => word (n + max n (bits v 40 32) * 2 ^ 32)) s

def tableLock (c : Nat) (t : Taken) (s : State) : State :=
  let k := updKey t.desc
  if (s.entry k).lock then s.updDone c t 0
  else if (sidePools k).any fun p => decide (256 ≤ s.sideUsed p) then s.updDone c t 4
  else ((s.modEntry k fun e => { e with lock := true, side := [], sideHit := false }).noteSide k).updDone c t 0

/-! ## WRITE (R83, R143, R152, R153) -/

/-- Every field of an image is within its range (R143). -/
def imageOk (tab : Nat) (x : BitVec 512) : Bool :=
  decide (tab ≠ 3) || (decide (imgField x 51 1 % 8 ≤ 5) && decide (imgField x 32 1 ≤ 128 ∧ imgField x 33 1 ≤ 128))

/-- The domain of a CLASS image whose RESULT is ORDER. -/
def orderDomain (x : BitVec 512) : Option Nat := if imgField x 51 1 % 8 = 1 then some (imgField x 52 1 % 16) else none

/-- A CLASS image has a bit set below a prefix length (R153). -/
def classStray (x : BitVec 512) : Bool :=
  let stray := fun (off len : Nat) => decide (beField (imageBytes x) off 16 % 2 ^ (128 - imgField x len 1) ≠ 0)
  stray 0 32 || stray 16 33

/-- The first check of R406 that a WRITE of a party fails, 0 when none does; R406 gives BAD_PREFIX no place among the
checks of a WRITE, and it stands last (DEDUCED, log entry 46). -/
def State.writeCheck (s : State) (o : Party) (tab k : Nat) (x : BitVec 512) : Nat :=
  let e := s.entry k
  let open_ := fun (y : BitVec 512) => (orderDomain y).any s.isOpen
  let others := (bucketKeys (keyInst k) (keyIndex k / 4)).filter (· ≠ k)
  if !imageOk tab x || (decide (tab = 3) && !s.imageShared o x) then 2
  else if !e.lock then 3
  else if tab = 3 ∧ (open_ e.img ∨ open_ x) then 6
  else if tab = 2 ∧ imgValid x ∧
      (others.any fun j => macMatches (imgField x 6 2 % 4096) (slice (imageBytes x) 0 6) (s.entry j)) then 5
  else if tab = 3 ∧ classStray x then 10
  else 0

/-- The pipelines in which an update counts as late. -/
def State.countLate (k : Nat) (s : State) : State :=
  (entryPipes k).foldl (fun s p => s.count (Reg.PIPE_CNT_UPDATE_LATE p)) s

/-- The stored entry replaced whole; on SESSION and INSTRUMENT the old contents serve stamps before the effective
instant until their margin has passed (R83, R152). An E of 0 is always past. -/
def State.storeImage (k e : Nat) (x : BitVec 512) (s : State) : State :=
  let tab := keyTable k
  let put := fun (old : Option OldContents) (s : State) =>
    s.modEntry k fun y => { y with img := storedImage tab x, counts := writtenCounts tab x, parity := 0,
                                   reported := 0, old := old }
  if tab = 0 ∨ tab = 1 then
    let inTime := decide (e ≠ 0 ∧ s.dial ≤ dialOfNs e)
    let o : OldContents := ⟨(s.entry k).img, (s.entry k).counts, if inTime then dialOfNs e else s.dial, none⟩
    let s := if inTime then s else s.countLate k
    put (if s.oldDone k o then none else some o) s
  else put none s

/-- A WRITE acted on (R406). -/
def State.actWrite (c : Nat) (t : Taken) (img : List Byte) (s : State) : State :=
  let k := updKey t.desc
  let x := imageOf img
  let st := s.writeCheck (s.ring c).owner (keyTable k) k x
  if st ≠ 0 then s.updDone c t st else (s.storeImage k (updEffective t.desc) x).updDone c t 0

/-- A held operation. -/
def State.holdUpdate (c : Nat) (t : Taken) (unlock : Bool) (img : Option (List Byte)) (s : State) : State :=
  { s with heldUpd := s.heldUpd ++ [⟨c, updKey t.desc, unlock, img⟩] }

/-- A second update to an entry whose old contents are kept is held (R83, R406). -/
def tableWrite (c : Nat) (image : Option (List Byte)) (t : Taken) (s : State) : State :=
  match t.data image with
  | none => s.updDone c t 11
  | some b =>
    if (s.entry (updKey t.desc)).old.isSome then s.holdUpdate c t false (some b) else s.actWrite c t b

/-! ## UNLOCK (R152) -/

/-- The side counter merged and freed, and LOCK cleared. -/
def State.actUnlock (c : Nat) (t : Taken) (s : State) : State :=
  let k := updKey t.desc
  let merge := fun (e : Entry) =>
    { e with counts := addCounts e.counts e.side, hit := e.hit || e.sideHit, lock := false, side := [], sideHit := false }
  ((s.modEntry k merge).noteSide k).updDone c t 0

def tableUnlock (c : Nat) (t : Taken) (s : State) : State :=
  let e := s.entry (updKey t.desc)
  if !e.lock then s.updDone c t 0
  else if e.old.isSome then s.holdUpdate c t true none
  else s.actUnlock c t

/-! ## INSERT and DELETE (R148, R149, R153) -/

/-- An operation on a prefix: the image read, the prefix checked, then the operation with its LPM table, length and
address. -/
def onPrefix (c : Nat) (image : Option (List Byte)) (t : Taken) (f : List Byte → Nat → Nat → State → State)
    (s : State) : State :=
  match t.data image with
  | none => s.updDone c t 11
  | some b =>
    let v6 := decide (updTable t.desc = 7)
    let (len, addr) := imagePrefix v6 b
    if !prefixOk v6 len addr then s.updDone c t 10 else f b len addr s

/-- The most prefixes of an LPM table (R140). -/
def maxPrefixes (v6 : Bool) : Nat := if v6 then 131072 else 524288

def tableInsert (c : Nat) (image : Option (List Byte)) (t : Taken) : State → State :=
  onPrefix c image t fun b len addr s =>
    let pair := updTarget t.desc
    let v6 := decide (updTable t.desc = 7)
    let nh := leField b 20 2
    let p : Prefix := ⟨pair, v6, addr / 2 ^ (lpmWidth v6 - len), len, nh⟩
    if s.lpm.any fun p => p.names pair v6 len addr then
      let l := s.lpm.map fun p => if p.names pair v6 len addr then { p with nexthop := nh } else p
      ({ s with lpm := l }.rewriteNodes p).updDone c t 0
    else
      if maxPrefixes v6 ≤ (s.prefixes pair v6).length then s.updDone c t 7
      else if 16384 < lpmBlocks (p :: s.prefixes pair v6) then s.updDone c t 8
      else ({ s with lpm := s.lpm ++ [p] }.rewriteNodes p).updDone c t 0

def tableDelete (c : Nat) (image : Option (List Byte)) (t : Taken) : State → State :=
  onPrefix c image t fun _ len addr s =>
    let pair := updTarget t.desc
    let v6 := decide (updTable t.desc = 7)
    if s.lpm.any fun p => p.names pair v6 len addr then
      let p : Prefix := ⟨pair, v6, addr / 2 ^ (lpmWidth v6 - len), len, 0⟩
      ({ s with lpm := s.lpm.filter fun p => !p.names pair v6 len addr }.rewriteNodes p).updDone c t 0
    else s.updDone c t 9

/-! ## Release of old contents (R83, R406) -/

/-- A held operation acted on: it leaves the hold, and a WRITE may be held again. -/
def State.actHeld (h : HeldUpdate) (s : State) : State :=
  match (s.ring h.ring).head with
  | none => s
  | some t =>
    if h.unlock then tableUnlock h.ring t s else tableWrite h.ring h.image { t with abandoned := false } s

/-- The old contents of an entry are released once their margin has passed in every pipeline, and what they held is
acted on in order of arrival. -/
def oldContentsRelease (table inst index : Nat) (s : State) : State :=
  let k := entryKey table (tableInst table inst) index
  match (s.entry k).old with
  | none => s
  | some o =>
    if !s.oldDone k o then s
    else
      let waiting := s.heldUpd.filter fun h => h.key == k
      let s := s.modEntry k fun e => { e with old := none }
      let s := { s with heldUpd := s.heldUpd.filter fun h => h.key != k }
      waiting.foldl (fun s h => s.actHeld h) s

/-! ## Ageing (R157) -/

/-- The passes that a pipeline's sweeper has begun and not ended. -/
def State.sweeping (s : State) (pipe : Nat) : Nat := Store.get (fun _ => 0) s.tbl.passes pipe

/-- Whether a pass visits an entry: valid, unlocked and not STATIC. -/
def Entry.aged (e : Entry) : Bool := imgValid e.img && !e.lock && !e.img.getLsbD 72

/-- One visit: the entry afterwards. -/
def Entry.visit (e : Entry) : Entry :=
  if !e.aged then e
  else if e.hit then { e with hit := false, mark := false }
  else if !e.mark then { e with mark := true }
  else Entry.empty

/-- A pass over the MAC table of a pipeline ends: its visits are made in the command that ends it (log entry 46). An entry
hit in this cycle stays hit and unmarked (R155). -/
def State.sweep (pipe : Nat) (s : State) : State :=
  let hit := fun (k : Nat) => (s.pipe pipe).hitNow.contains (s.clock, k)
  let mine := fun (k : Nat) => keyTable k == 2 && keyInst k == pipe && !hit k
  let gone := (s.tables.filter fun (k, e) => mine k && e.aged && !e.hit && e.mark).length
  let s := s.countBy (Reg.TBL_CNT_AGED pipe) gone
  { s with tables := (s.tables.map fun (k, e) => (k, if mine k then e.visit else e)).filter fun x => x.2 != Entry.empty
           tbl := { s.tbl with passes := Store.put (fun _ => 0) pipe (s.sweeping pipe - 1) s.tbl.passes } }

/-- The pass that a boundary began, no further boundary having come. -/
def sweepPass (pipe : Nat) (s : State) : State := if s.sweeping pipe = 1 then s.sweep pipe else s

/-- A pass was still running at the next boundary: it finishes, the next one starts at once, and that is counted. -/
def sweepOverrun (pipe : Nat) (s : State) : State :=
  if 2 ≤ s.sweeping pipe then (s.sweep pipe).count Reg.TBL_CNT_SWEEP_OVERRUN else s

/-! ## The scrubber (R156) -/

/-- A party meets a bad trie node: it is reported once, with a free trie block number (log entry 46). -/
def State.meetNode (b : BadNode) (s : State) : State :=
  if b.reported then s
  else
    let nodes := s.tbl.badNodes.map fun x => if x = b then { x with reported := true } else x
    { s with tbl := { s.tbl with badNodes := nodes }, free := s.free + 1 }.parityReport (if b.v6 then 7 else 6) (2 * b.pair)
      (Config.freeNat s.free)

/-- The scrubber reads an entry, for a replicated table in the copy of the pipeline named, or the index-th bad node of an
LPM table; reading a good one changes nothing. -/
def tableScrub (table inst index : Nat) (s : State) : State :=
  if table < 6 then s.meetEntry (entryKey table (tableInst table inst) index) inst
  else
    match (s.tbl.badNodes.filter fun b => decide (b.pair = inst ∧ b.v6 = decide (table = 7)))[index]? with
    | none => s
    | some b => s.meetNode b

/-! ## The meanings -/

def execTableRead (ring : Nat) (buf : Option (List Byte)) (s : State) : Answer :=
  within (Instr.wf (.tableRead ring buf)) (whenClocked (onLink (s.ring ring).owner (.tableRead ring buf)
      (onTable ring 0 (tableRead ring buf))) s) s

def execTableLock (ring : Nat) (s : State) : Answer :=
  within (Instr.wf (.tableLock ring)) (whenClocked (onTable ring 1 (tableLock ring)) s) s

def execTableWrite (ring : Nat) (image : Option (List Byte)) (s : State) : Answer :=
  within (Instr.wf (.tableWrite ring image)) (whenClocked (onLink (s.ring ring).owner (.tableWrite ring image)
      (onTable ring 2 (tableWrite ring image))) s) s

def execTableUnlock (ring : Nat) (s : State) : Answer :=
  within (Instr.wf (.tableUnlock ring)) (whenClocked (onTable ring 3 (tableUnlock ring)) s) s

def execTableInsert (ring : Nat) (image : Option (List Byte)) (s : State) : Answer :=
  within (Instr.wf (.tableInsert ring image)) (whenClocked (onLink (s.ring ring).owner (.tableInsert ring image)
      (onTable ring 4 (tableInsert ring image))) s) s

def execTableDelete (ring : Nat) (image : Option (List Byte)) (s : State) : Answer :=
  within (Instr.wf (.tableDelete ring image)) (whenClocked (onLink (s.ring ring).owner (.tableDelete ring image)
      (onTable ring 5 (tableDelete ring image))) s) s

def execOldContentsRelease (table inst index : Nat) (s : State) : Answer :=
  within (Instr.wf (.oldContentsRelease table inst index)) (whenClocked (oldContentsRelease table inst index) s) s

def execSweepPass (pipe : Nat) (s : State) : Answer :=
  within (Instr.wf (.sweepPass pipe)) (whenClocked (sweepPass pipe) s) s

def execSweepOverrun (pipe : Nat) (s : State) : Answer :=
  within (Instr.wf (.sweepOverrun pipe)) (whenClocked (sweepOverrun pipe) s) s

def execTableScrub (table inst index : Nat) (s : State) : Answer :=
  within (Instr.wf (.tableScrub table inst index)) (whenClocked (tableScrub table inst index) s) s

end Sys2Proof.Machine
end

