-- ==== Sys2Proof/Machine/Rings.lean ====
section
/-! DEFINITION. Machine/Rings.lean: doorbells, scans and fetches, the configuration of ring contexts, and the snapshot of
their cursors (R237 to R259; log entry 61). -/

namespace Sys2Proof.Machine

/-! ## Owners (R258, R293) -/

/-- The ring-context ranges held by functions in existence: base, count, function. -/
def State.ringShares (s : State) : List (Nat × Nat × Party) :=
  s.regs.filterMap fun (k, _) =>
    let i := (k - 0x40000000) / 0x10000
    if 0x40000000 ≤ k ∧ k % 0x10000 = 0x200 ∧ (i % 4096 = 0 ∨ s.vfExists (i / 4096) (i % 4096)) then
      let f : Party := if i % 4096 = 0 then .pf (i / 4096) else .vf (i / 4096) (i % 4096)
      some (bits (s.share f 0) 15 0, bits (s.share f 0) 25 16, f)
    else none

/-- The function whose share holds a context. -/
def ownerIn (shares : List (Nat × Nat × Party)) (c : Nat) : Option Party :=
  (shares.find? fun x => decide (x.1 ≤ c ∧ c < x.1 + x.2.1)).map (·.2.2)

/-- A party may act on a context through its ring window: a PF on its own and its VFs', a VF on its own, and firmware
on the cores on contexts that no share holds. -/
def State.windowOwner (s : State) (who : Party) (c : Nat) : Option Party :=
  match ownerIn s.ringShares c, who with
  | some o, .pf p => if o.pfIndex = some p then some o else none
  | some o, _ => if o = who then some o else none
  | none, .cores => some .cores
  | none, _ => none

/-- Counting for a party's PF. -/
def State.countPf (who : Party) (k : Nat → Nat) (s : State) : State := s.ringCount who k 0 1

/-- A refused ring-window write (R244, R245, R258). -/
def State.ringRefused (who : Party) (s : State) : State := s.countPf who Reg.RING_CNT_CFG_REFUSED

/-- An action through the ring window on a context that the party may act on. -/
def onWindow (who : Party) (c : Nat) (f : Party → State → State) (s : State) : State :=
  match s.windowOwner who c with
  | some o => f o s
  | none => s.ringRefused who

/-! ## Starting a fetch (R240 to R242) -/

/-- Messages wait for an entry of a delivery ring (WAITING of R259). -/
def State.ringWaiting (s : State) (c : Nat) : Bool :=
  (List.range 16).any fun d =>
    (decide (s.seqRing d false = c) && !(s.dom d).backM.isEmpty) || (decide (s.seqRing d true = c) && !(s.dom d).backR.isEmpty)

/-- A scan is wanted: on a delivery ring only while messages wait or the hamper has room. -/
def State.scanWanted (s : State) (c : Nat) : Bool :=
  let r := s.ring c
  !(decide (r.type = 1 ∨ r.type = 2)) || s.ringWaiting c || decide (r.hamper.length < 16)

/-- The entries that a scan reads: from the first beyond the hamper on, as many as the hamper has room for and the ring
has beyond the entries taken and not completed (R241; log entry 61). -/
def Ring.scanned (r : Ring) : List (BitVec 32) :=
  let held := (r.devCur - r.doneCur).toNat + r.hamper.length
  (List.range (min (16 - r.hamper.length) (r.size - held))).map fun i => r.devCur + BitVec.ofNat 32 (r.hamper.length + i)

/-- The reads that begin a fetch: one 64-byte read of each entry for a scan, the producer index otherwise. -/
def State.beginFetch (c : Nat) (s : State) : State :=
  let r := s.ring c
  let read := fun (a n : Nat) (s : State) => s.dma r.owner r.urgency c none (.dmaRead r.owner c a n)
  if r.fast then
    if r.scanned = [] then s
    else forAll r.scanned (fun e s => read (r.entryAddr e) 64 s) (s.modRing c fun r => { r with fetching := true })
  else read r.piAddr.toNat 4 (s.modRing c fun r => { r with fetching := true })

/-- A doorbell served: a fetch, or one more after the one that runs. -/
def State.wakeRing (c : Nat) (s : State) : State :=
  let r := s.ring c
  if r.isNvme ∨ (r.fast ∧ !s.scanWanted c) then s
  else if r.fetching then s.modRing c fun r => { r with again := true }
  else s.beginFetch c

/-- RING_DOORBELL[c] written by a party (R240). -/
def ringDoorbell (who : Party) (c : Nat) (s : State) : State :=
  let r := s.ring c
  if r.phase = .active ∧ r.owner = who then (s.ringCount r.owner Reg.RING_CNT_DOORBELLS 0x8000 1).wakeRing c
  else s.ringCount who Reg.RING_CNT_DOORBELL_IGNORED 0x8008 1

/-- A scan by SCAN_NS (R241). -/
def periodicScan (c : Nat) (s : State) : State :=
  let r := s.ring c
  if r.phase = .active ∧ r.fast ∧ r.scanNs ≠ 0 ∧ !r.fetching ∧ s.scanWanted c ∧ s.ringServed r then s.beginFetch c else s

/-- A fetch ends; doorbells that came during it start one more. -/
def State.endFetch (c : Nat) (s : State) : State :=
  let more := (s.ring c).again
  let s := s.modRing c fun r => { r with fetching := false, again := false }
  if more ∧ (s.ring c).phase = .active then s.wakeRing c else s

/-! ## What a fetch brings (R241 to R243) -/

/-- The ring enters ERROR with a cause; its hamper is emptied. -/
def State.ringError (c cause : Nat) (s : State) : State :=
  s.modRing c fun r => { r with phase := .error, cause := cause, hamper := [], fetching := false, again := false }

/-- A failed descriptor or producer-index read. -/
def State.fetchFail (c : Nat) (s : State) : State :=
  (s.ringCount (s.ring c).owner Reg.RING_CNT_DESC_FETCH_FAIL 0x8020 1).ringError c 2

/-- The copies before the first that is not owned or whose read failed. -/
def ownedPrefix (es : List (Option (List Byte))) : List (List Byte) :=
  (es.takeWhile fun e => e.any ownBit).filterMap id

/-- The copies that a scan discards: from the first one with OWN = 0 on (R241). -/
def staleCopies (es : List (Option (List Byte))) : Nat :=
  ((es.dropWhile fun e => e.all ownBit).filter (·.isSome)).length

/-- An entry taken by a fetch. One that no command serves is completed at once: an ADMIN command that is none or that its
issuer may not give (R248, R291), a job with no mode of its ring (R199, R201). -/
def State.takeEntry (c : Nat) (d : List Byte) (s : State) : State :=
  let r := s.ring c
  let s := s.take c d
  match (s.ring c).taken.find? fun t => t.cursor == r.serial with
  | none => s
  | some t =>
    if r.type = 5 then
      if !adminPermitted r.owner (adminOpcode d) then s.adminDone c t notPermitted 0
      else if !adminOpcodes.contains (adminOpcode d) then s.adminDone c t badOpcode 0
      else s
    else if (r.type = 6 ∧ 13 < jobMode d) ∨ (r.type = 7 ∧ jobMode d ≠ 13) then s.refuseJob c t 3
    else s

/-- The reads of a ring's fetch are the ones that return now. -/
def State.fetchReturns (s : State) (c : Nat) : Bool :=
  let r := s.ring c
  decide (r.phase = .active) && r.fetching && s.ringServed r && s.readsIssued c

/-- The descriptor reads of a scan return. On a delivery ring the owned copies join the hamper, on a host-posted ring they
are taken; the copies from the first unowned one on are discarded, and a failed read stops the ring (R241, R243). -/
def descriptorFetch (c : Nat) (entries : List (Option (List Byte))) (s : State) : State :=
  let r := s.ring c
  if !r.fast ∨ !s.fetchReturns c then s
  else
    let es := entries.take r.scanned.length
    let own := ownedPrefix es
    let s :=
      if r.deviceFilled then s.modRing c fun r => { r with hamper := r.hamper ++ own }
      else own.foldl (fun s d => s.takeEntry c d) s
    let s := s.ringCount r.owner Reg.RING_CNT_STALE_DISCARD 0x8010 (staleCopies es)
    if es.any (·.isNone) then s.fetchFail c else s.endFetch c

/-- The job contexts held, one by each job taken and not completed (R199). -/
def State.jobsHeld (s : State) : Nat :=
  ((s.rings.filter fun e => decide (e.2.type = 6 ∨ e.2.type = 7)).map fun e => e.2.taken.length).sum

/-- LAMP_CTX_USED's peak since reset (R214). -/
def State.noteJobs (s : State) : State :=
  s.modReg Reg.LAMP_CTX_USED fun v => word (max s.jobsHeld (bits v 44 32) * 2 ^ 32)

/-- How many entries of a ring may be taken: job rings stop when all 4,096 contexts are held (R199). -/
def State.takeRoom (s : State) (r : Ring) (n : Nat) : Nat :=
  if r.type = 6 ∨ r.type = 7 then min n (4096 - s.jobsHeld) else n

/-- The producer index returns, and with it the entries up to it. A fetch that finds no job context left goes on. -/
def ringPiRead (c : Nat) (pi : Option (BitVec 32)) (entries : List (Option (List Byte))) (s : State) : State :=
  let r := s.ring c
  if r.fast ∨ r.isNvme ∨ !s.fetchReturns c then s
  else
    match pi with
    | none => s.fetchFail c
    | some pi =>
      if r.size < (pi - r.doneCur).toNat then (s.ringCount r.owner Reg.RING_CNT_PI_ERROR 0 1).ringError c 1
      else
        let n := (pi - r.doneCur).toNat - (r.devCur - r.doneCur).toNat
        let room := s.takeRoom r n
        let es := entries.take room
        let own := ownedPrefix es
        let s := (own.foldl (fun s d => s.takeEntry c d) s).noteJobs
        match es[own.length]? with
        | some none => s.fetchFail c
        | some (some _) => (s.ringCount r.owner Reg.RING_CNT_OWN_MISMATCH 0x8018 1).endFetch c
        | none => if room < n then s else s.endFetch c

/-- The producer index of a ring, or of a QP's work queue, returns (R242, R277). -/
def piRead (c : Nat) (pi : Option (BitVec 32)) (entries : List (Option (List Byte))) : State → State :=
  if c < noRing then ringPiRead c pi entries
  else wqFetch ((c - noRing) / 2) (decide ((c - noRing) % 2 = 1)) pi entries

/-- The function whose read a producer index's is. -/
def State.fetcher (s : State) (c : Nat) : Party :=
  if c < noRing then (s.ring c).owner else (s.qp ((c - noRing) / 2)).owner

/-! ## Configuration (R244, R245, R258, R259) -/

/-- RING_CTL.ENABLE = 1. A context that leaves its VF's share stays disabled from step 3 of the reduction on (R297). -/
def ringEnable (who : Party) (c : Nat) : State → State := onWindow who c fun o s =>
  let r := s.ring c
  if r.phase = .disabled ∧ r.valid ∧ s.ownsRing o c then
    s.modRing c fun r =>
      { r with owner := o, enable := true, phase := .active, cause := 0, fetching := false, again := false }
  else s.ringRefused who

/-- RING_CTL.ENABLE = 0. -/
def ringDisable (who : Party) (c : Nat) : State → State := onWindow who c fun _ s => s.disableRing c

/-- The values that RING_CFG takes; TYPE 1 to 3 is refused on a VF's context (R259, R293). -/
def ringCfgValid (o : Party) (v : Word) : Bool :=
  let t := bits v 3 0
  let k := bits v 8 4
  decide (t ≤ 11 ∧ 4 ≤ k ∧ k ≤ 16) && !(decide (o.vfNumber ≠ 0) && decide (1 ≤ t ∧ t ≤ 3))

/-- A write to RING_BASE (0x100), RING_CFG (0x108), RING_PI_ADDR (0x110) or RING_IRQ (0x118) of a context. -/
def ringConfigWrite (who : Party) (c reg : Nat) (v : Word) : State → State := onWindow who c fun o s =>
  let r := s.ring c
  if reg = 0x118 then s.modRing c fun r => { r with irq := v &&& 0x0000FFFFFFFF87FF }
  else if r.phase ≠ .disabled then s.ringRefused who
  else if reg = 0x100 then
    s.modRing c fun r => { r with owner := o, base := v &&& 0xFFFFFFFFFFFFF000, devCur := 0, doneCur := 0 }
  else if reg = 0x108 then
    if ringCfgValid o v then
      s.modRing c fun r => { r with owner := o, cfg := v &&& 0x00000000FFFF01FF, devCur := 0, doneCur := 0 }
    else s.ringRefused who
  else if reg = 0x110 then s.modRing c fun r => { r with owner := o, piAddr := v &&& 0xFFFFFFFFFFFFFFF8 }
  else s

/-! ## RING_SNAPSHOT (R257) -/

/-- One record of a snapshot. -/
def snapshotRec (c : Nat) (r : Ring) : List Byte :=
  leBytes 8 (c + r.phase.code * 2 ^ 16 + r.type * 2 ^ 24 + r.devCur.toNat * 2 ^ 32)
    ++ leBytes 8 (r.doneCur.toNat + r.hamper.length * 2 ^ 32)

/-- Admin 0x3E RING_SNAPSHOT. -/
def ringSnapshot (c : Nat) : State → State := onAdmin c 0x3E fun t o s =>
  let p0 := adminParam t.desc 0
  let first := bits p0 15 0
  let n := if bits p0 31 16 = 0 then 65536 else bits p0 31 16
  let shares := s.ringShares
  let mine := fun (i : Nat) =>
    match ownerIn shares i with
    | some x => decide (x = o) || (decide (o.vfNumber = 0) && decide (x.pfIndex = o.pfIndex))
    | none => !o.isHost
  let cs := ((List.range (min n (65536 - first))).map (first + ·)).filter mine
  let recs := cs.flatMap fun i => snapshotRec i (s.ring i)
  let out := leBytes 8 s.dialNs ++ leBytes 8 s.dialNs ++ recs
  (s.entryWrite c t (adminParam t.desc 1).toNat out false).adminDone c t 0 out.length

/-! ## The meanings -/

def execRingDoorbell (who : Party) (c : Nat) (s : State) : Answer :=
  within (Instr.wf (.ringDoorbell who c)) (busWrite who false false (ringDoorbell who c) s) s

def execPeriodicScan (c : Nat) (s : State) : Answer :=
  within (Instr.wf (.periodicScan c)) (whenClocked (periodicScan c) s) s

def execDescriptorFetch (c : Nat) (entries : List (Option (List Byte))) (s : State) : Answer :=
  within (Instr.wf (.descriptorFetch c entries)) (whenClocked (onLink (s.ring c).owner (.descriptorFetch c entries) (descriptorFetch c entries)) s) s

def execPiRead (c : Nat) (pi : Option (BitVec 32)) (entries : List (Option (List Byte))) (s : State) : Answer :=
  within (Instr.wf (.piRead c pi entries)) (whenClocked (onLink (s.fetcher c) (.piRead c pi entries) (piRead c pi entries)) s) s

def execRingEnable (who : Party) (c : Nat) (s : State) : Answer :=
  within (Instr.wf (.ringEnable who c)) 
    (busWrite who false false (wholeAt who Reg.RING_CTL 0x520 (ringEnable who c)) s) s

def execRingDisable (who : Party) (c : Nat) (s : State) : Answer :=
  within (Instr.wf (.ringDisable who c)) 
    (busWrite who false false (wholeAt who Reg.RING_CTL 0x520 (ringDisable who c)) s) s

def execRingConfigWrite (who : Party) (c reg : Nat) (v : Word) (s : State) : Answer :=
  within (Instr.wf (.ringConfigWrite who c reg v)) 
    (busWrite who false false (wholeAt who (0xA00000 + reg) (0x400 + reg) (ringConfigWrite who c reg v)) s) s

def execIrqHoldoff (c : Nat) (s : State) : Answer :=
  within (Instr.wf (.irqHoldoff c)) (whenClocked (irqHoldoff c) s) s

def execRingSnapshot (ring : Nat) (s : State) : Answer :=
  within (Instr.wf (.ringSnapshot ring)) (whenClocked (ringSnapshot ring) s) s

end Sys2Proof.Machine
end

