-- ==== Sys2Proof/Machine/Ledger.lean ====
section
/-! DEFINITION. Machine/Ledger.lean: closing epochs, the audit chain's control, its drain, and its recovery at a start
(R168 to R180, R403). -/

namespace Sys2Proof.Machine

/-! ## Epochs and control (R168, R171, R182) -/

/-- The epoch closes once Dial reaches its opening production + 1,000 ns (R168, R177). -/
def epochTimeout (s : State) : State :=
  match s.aud.epoch with
  | none => s
  | some e => if s.epochDue e then s.auditSeal false false else s

/-- AUD_CTL.SEAL_NOW (R168, R182). -/
def sealNow (s : State) : State := (s.auditSeal false false).setReg Reg.AUD_CTL_RESULT 1

/-- NEW_CHAIN is decided, a GAP still owed standing in the old chain (R165, R171, R174); after the last CHAIN_ID it is refused (R399). -/
def decideChain (s : State) : State :=
  let refuse := fun (r : Word) => (s.setReg Reg.AUD_CTL_RESULT r).count Reg.AUD_CNT_CTL_REFUSED
  if s.anyOpen then refuse 2
  else if s.anyArmed then refuse 3
  else if s.chainKeySlot.isNone ∨ s.chainId = 0xFFFFFFFF then refuse 4
  else ((s.auditReady.auditSeal false false).auditGenesis).setReg Reg.AUD_CTL_RESULT 1

/-- The number under which NEW_CHAIN waits among the domains whose OPEN waits for a pending step. -/
abbrev chainWait : Nat := 16

/-- AUD_CTL.NEW_CHAIN: decided at once, or in its order of arrival behind an OPEN that waits for the pending step (R45,
R182). -/
def newChain (s : State) : State :=
  if s.openWait = [] then decideChain s
  else if s.openWait.contains chainWait then s
  else { s with openWait := s.openWait ++ [chainWait] }.setReg Reg.AUD_CTL_RESULT 0

/-- AUD_CTL.DRAIN_RESUME: a stopped drain goes on at its failed segment (R175). -/
def drainResume (s : State) : State :=
  { s with aud := { s.aud with drainFault := false } }.setReg Reg.AUD_CTL_RESULT 1

/-! ## The drain (R175, R176) -/

/-- AUD_DRAIN_TGT[m].EN. -/
def State.drainOn (s : State) (m : Nat) : Bool := bit (s.reg (Reg.AUD_DRAIN_TGT m)) 0

/-- The enabled targets. -/
def State.drainTargets (s : State) : List Nat := [0, 1].filter s.drainOn

/-- SLOTS, values below 2 acting as 2 (R183). -/
def State.drainSlots (s : State) : Nat := max 2 (bits (s.reg Reg.AUD_DRAIN_SLOTS) 31 0)

/-- The next segment to drain. -/
def State.drainNext (s : State) : Nat := (s.reg Reg.AUD_DRAIN_NEXT).toNat

/-- A segment is fully written, a target is enabled, and no drain runs or is stopped. -/
def State.drainReady (s : State) : Bool :=
  s.aud.drain.isNone && !s.aud.drainFault && !s.drainTargets.isEmpty && decide (segmentSlots ≤ s.auditFill)

/-- The next segment to drain waits for AUD_DRAIN_ACK (ACK_WAIT, R175). -/
def State.ackWait (s : State) : Bool :=
  s.drainReady && bit (s.reg Reg.AUD_DRAIN_SLOTS) 32 &&
    decide ((s.reg Reg.AUD_DRAIN_ACK).toNat + s.drainSlots < s.drainNext)

/-- The 64 header bytes of a segment whose write is issued now (R176). -/
def State.segmentHeader (s : State) (k : Nat) : List Byte :=
  let first := s.auditIndex - s.auditFill
  let (epoch, chain) := match s.aud.segs.find? (fun x => x.1 == first) with
    | some (_, e, c) => (e, c)
    | none => ((s.reg Reg.AUD_EPOCH).toNat, s.chainId)
  let data := memRead s.ledgerCommit.ledger (0x100000 * (k % 768)) 0x100000
  let body := [0x5A, 0x41, 0x55, 0x44, 1, 0, 0, 0] ++ leBytes 8 k ++ leBytes 8 first ++ leBytes 4 chain
    ++ leBytes 4 epoch ++ leBytes 16 s.dial.toNat ++ leBytes 8 (crc64 data).toNat ++ zeros 4
  body ++ leBytes 4 (crc32c body).toNat

/-- The root port and the NSID of a drain target. -/
def State.drainPort (s : State) (m : Nat) : Nat := bits (s.reg (Reg.AUD_DRAIN_TGT m)) 7 4
def State.drainNsid (s : State) (m : Nat) : Nat := bits (s.reg (Reg.AUD_DRAIN_TGT m)) 63 32

/-- The target's namespace is known and has no 4 KiB LBAs. -/
def State.drainUnfit (s : State) (m : Nat) : Bool :=
  ((s.drive (s.drainPort m)).spaces.find? fun x => x.1 == s.drainNsid m).any fun x => !x.2.2

/-- A segment's write issued to a target: a 257-block NVMe Write with FUA at its drive slot's LBA, the header's 4 KiB
block and then the segment (R175, R176). -/
def State.issueDrain (k m : Nat) (s : State) : State :=
  let lba := (s.reg (Reg.AUD_DRAIN_BASE m)).toNat + 257 * (k % s.drainSlots)
  let data := memRead s.ledgerCommit.ledger (0x100000 * (k % 768)) 0x100000
  s.emit (.drain m (s.drainPort m) (s.drainNsid m) k lba 257 true (s.segmentHeader k ++ zeros 4032) data)

/-- A fully written segment is issued to every enabled target (R175). -/
def drainWrite (s : State) : State :=
  let k := s.drainNext
  let ts := s.drainTargets
  if !s.drainReady ∨ s.aud.pwrFail ∨ s.ackWait then s
  else
    let s := { s with aud := { s.aud with drain := some ⟨k, ts, [], [], []⟩ } }
    ts.foldl (fun s m => s.issueDrain k m) s

/-- A segment is drained: the tail advances and the drain word is written (R172, R175, R403). -/
def State.drainAdvance (s : State) : State :=
  let k := s.drainNext + 1
  let s := { s with aud := { s.aud with drain := none } }
  let s := (s.setReg Reg.AUD_DRAIN_NEXT (word k)).ledgerQueue 0x3A800018 [word k]
  let s := s.setReg Reg.AUD_TAIL (word (segmentSlots * (k % 768)))
  (s.count Reg.AUD_CNT_SEGMENTS).setFill (s.auditFill - segmentSlots)

/-- What a change of the targets still awaited leads to: the segment is drained once none is awaited and one has
completed; with no target left its write is forgotten, to be issued again whole (R175). -/
def State.drainSettle (d : Drain) (s : State) : State :=
  if d.waiting ≠ [] then { s with aud := { s.aud with drain := some d } }
  else if d.done ≠ [] then s.drainAdvance
  else { s with aud := { s.aud with drain := none } }

/-- A drain write completes or fails, as one to a target without 4 KiB LBAs always does; after the third retry fails the
drain stops (R175). -/
def drainWriteComplete (m : Nat) (ok : Bool) (s : State) : State :=
  match s.aud.drain with
  | none => s
  | some d =>
    if !d.waiting.contains m ∨ d.due.any fun x => x.1 == m then s
    else if ok ∧ !s.drainUnfit m then s.drainSettle { d with waiting := d.waiting.filter (· ≠ m), done := m :: d.done }
    else
      let n := 1 + ((d.fails.find? fun x => x.1 == m).map (·.2)).getD 0
      if 4 ≤ n then
        { s with aud := { s.aud with drain := none, drainFault := true } }.count Reg.AUD_CNT_DRAIN_FAIL
      else
        let d := { d with fails := (m, n) :: d.fails.filter (·.1 ≠ m), due := (m, s.clockNs) :: d.due }
        { s with aud := { s.aud with drain := some d } }

/-- A failed write is retried after 1 ms (R175). -/
def drainRetry (m : Nat) (s : State) : State :=
  match s.aud.drain with
  | none => s
  | some d =>
    if d.due.any fun x => decide (x.1 = m ∧ x.2 + 1000000 ≤ s.clockNs) then
      let s := { s with aud := { s.aud with drain := some { d with due := d.due.filter (·.1 ≠ m) } } }
      (s.count Reg.AUD_CNT_DRAIN_RETRY).issueDrain d.segment m
    else s

/-- AUD_DRAIN_TGT written: a disabled target is no longer awaited and its outcome no longer counts; an enabled one
joins the segment in flight (R175). -/
def drainTgtWrite (m : Nat) (v : Word) (s : State) : State :=
  let was := s.drainOn m
  let s := s.storeMasked (Reg.AUD_DRAIN_TGT m) v
  match s.aud.drain with
  | none => s
  | some d =>
    if was ∧ !s.drainOn m then
      s.drainSettle { d with waiting := d.waiting.filter (· ≠ m), done := d.done.filter (· ≠ m),
                             fails := d.fails.filter (·.1 ≠ m), due := d.due.filter (·.1 ≠ m) }
    else if !was ∧ s.drainOn m then
      let s := { s with aud := { s.aud with drain := some { d with waiting := d.waiting ++ [m] } } }
      s.issueDrain d.segment m
    else s

/-- AUD_DRAIN_ACK written (R175): a drain that waits for it may go on at its next write. -/
def drainAckWrite (v : Word) (s : State) : State := s.setReg Reg.AUD_DRAIN_ACK v

/-- AUD_CTL written: one action, or refused with more than one bit set (R183). -/
def audCtlWrite (v : Word) (s : State) : State :=
  match bits v 2 0 with
  | 1 => newChain s
  | 2 => sealNow s
  | 4 => drainResume s
  | 0 => s
  | _ => s.count Reg.AUD_CNT_CTL_REFUSED

/-! ## Recovery at a start (R180, R403) -/

/-- The 32 bytes of a ring slot. -/
def State.slotBytes (s : State) (i : Nat) : List Byte := memRead s.ledger (32 * (i % auditSlots)) 32

/-- A record's CRC is good. -/
def crcGood (b : List Byte) : Bool := decide (leField b 28 4 = (crc32c (b.take 28)).toNat)

/-- The record of a slot is whole: its CRC is good, and no word of it is uncorrectable (R30, R180). -/
def State.slotGood (s : State) (i : Nat) : Bool :=
  crcGood (s.slotBytes i) && !s.aud.torn.any fun a => decide (a / 32 = i % auditSlots)

/-- A seal by its TYPE. -/
def isSeal (b : List Byte) : Bool := decide (b.getD 0 0 = 0x3F)

/-- Whether a record's INDEX_LO is that of an index. -/
def indexLo (b : List Byte) (i : Nat) : Bool := decide (leField b 13 3 = i % 2 ^ 24)

/-- Where the walk of recovery stands: the next index, the epoch, the last TAG and the open epoch's records, newest
first. -/
structure Walk where
  index   : Nat
  epoch   : Nat
  tag     : List Byte
  records : List (List Byte)
  deriving DecidableEq, Repr

/-- Recovery's walk: records are accepted while their CRC is good and INDEX_LO is as expected, and seals while their
COUNT matches (R180). -/
def State.walk (s : State) : Nat → Walk → Walk
  | 0, w => w
  | n + 1, w =>
    let b := s.slotBytes w.index
    if !s.slotGood w.index then w
    else if isSeal b then
      if leField b 1 3 % 2 ^ 13 = w.records.length ∧ w.records ≠ [] then
        s.walk n ⟨w.index + 1, w.epoch + 1, slice b 12 16, []⟩
      else w
    else if indexLo b w.index ∧ w.records.length < 4096 then s.walk n { w with index := w.index + 1, records := b :: w.records }
    else w

/-- The registers of the chain after recovery: head, tail and drain as R403 derives them. -/
def State.chainAt (index epoch drainNext : Nat) (s : State) : State :=
  let tail := segmentSlots * (drainNext % 768)
  let s := s.setReg Reg.AUD_NEXT_INDEX (word index)
  let s := s.setReg Reg.AUD_HEAD (word (index % auditSlots))
  let s := s.setReg Reg.AUD_EPOCH (word epoch)
  let s := s.setReg Reg.AUD_DRAIN_NEXT (word drainNext)
  let s := s.setReg Reg.AUD_TAIL (word tail)
  (s.setReg Reg.AUD_FILL 0).setFill ((index % auditSlots + auditSlots - tail) % auditSlots)

/-- AUD as a start finds it: nothing open, nothing lost, and the retained words in their registers (R166, R403). -/
def State.audRestart (s : State) : State :=
  let s := { s with aud := { AudState.reset with segs := s.aud.segs, keySlot := s.chainKeySlot, torn := s.aud.torn } }
  let s := s.setReg Reg.AUD_CHAIN (s.ledgerRead chainIdAddr)
  let s := s.setReg Reg.AUD_START_COUNT (s.ledgerRead 0x3A800020)
  (List.range 16).foldl (fun s d => s.setReg (Reg.AUD_OPEN_COUNT d) (s.ledgerRead (openCountAddr d))) s

/-- The Foreman recovers the chain: CLEAN, RESEALED or NEW_CHAIN, and START is appended (R180). A wake from a Deep Rest
that found no epoch open recovers as CLEAN too (R354). RECOVERY takes the stop
slot whatever the open epoch holds; while FULL reads 1 it is lost as every other record is (R174; log entry 95). After
the last CHAIN_ID the chain goes on unkeyed instead of a new one (R399). -/
def State.recoverChain (s : State) : State :=
  let s := s.ledgerCommit.audRestart
  let check := s.ledgerRead 0x3A800000
  let wi := (s.ledgerRead 0x3A800008).toNat
  let we := (s.ledgerRead 0x3A800010).toNat
  let wd := (s.ledgerRead 0x3A800018).toNat
  let slot := bits check 24 0
  let low := bits check 63 25
  let ahead := (wi % auditSlots + 2 * auditSlots - slot) % auditSlots
  let i := wi - ahead
  let (epochOk, e) :=
    if we % 2 ^ 39 = low then (true, we)
    else if 0 < we ∧ (we - 1) % 2 ^ 39 = low then (true, we - 1)
    else (false, 0)
  let s := s.setReg Reg.AUD_LAST_SEAL check
  let b := s.slotBytes slot
  let prev := s.slotBytes (slot + auditSlots - 1)
  if !s.slotGood slot ∨ !isSeal b ∨ !s.slotGood (slot + auditSlots - 1) ∨ !indexLo prev (i - 1) ∨ 4097 < ahead ∨ !epochOk then
    let next := 768 * divUp wd 768
    let s := (s.chainAt 0 0 next).ledgerQueue 0x3A800018 [word next]
    let s := s.setReg Reg.AUD_RECOVERY_INFO 3
    if s.chainId = 0xFFFFFFFF then { s with aud := { s.aud with keySlot := none } }.auditStart else s.auditGenesis
  else
    let flags := leField b 1 3
    let w := s.walk 12288 ⟨i + 1, e + 1, slice b 12 16, []⟩
    let rested := decide (bits (s.reg Reg.PWR_RESET_CAUSE) 3 0 = 5 ∧ w.index = i + 1)
    if flags.testBit 13 ∨ flags.testBit 14 ∨ rested then
      let s := s.chainAt (i + 1) (e + 1) wd
      let s := { s with aud := { s.aud with prevTag := slice b 12 16 } }
      (s.setReg Reg.AUD_RECOVERY_INFO 1).auditStart
    else
      let torn := !s.slotGood w.index
      let s := s.chainAt w.index w.epoch wd
      let s := { s with aud := { s.aud with prevTag := w.tag, epoch := if w.records = [] then none else some ⟨s.dial, w.records⟩ } }
      let s := if s.aud.full then s.auditLose
        else s.auditPlace ⟨.recovery, 0, 0, b2n torn, s.dial, word w.index, noDigest⟩
      let s := s.auditSeal false true
      (s.setReg Reg.AUD_RECOVERY_INFO (word (2 + w.index % 2 ^ 56 * 2 ^ 8))).auditStart

/-! ## Power failure (R177, R178) -/

/-- The DOMAIN_EVENT CUT of a domain (R163, R177). -/
def State.cutRecord (s : State) (d : Nat) : AuditRec :=
  ⟨.domainEvent, d, 0, 5, s.dial, s.reg (Reg.SEQ_LAST_NUMBER d), noDigest⟩

/-- The postings armed now. -/
def State.armedCount (s : State) : Nat := (s.postings.filter Posting.armed).length

/-- The records of a power failure: POWER_FAIL with the number of postings armed, one CUT for each domain that is not
CLOSED, in headroom too, a GAP still owed, and the tail seal (R167, R174, R177). cause is 0 for PWRFAIL_N and 1 for the
droop detector (R163). -/
def State.auditPowerFail (cause armed : Nat) (s : State) : State :=
  let s := s.auditJoin ⟨.powerFail, 0, 0, cause, s.dial, word armed, noDigest⟩
  let s := ((List.range 16).filter s.isOpen).foldl (fun s d => s.auditJoin (s.cutRecord d)) s
  s.auditGap.auditSeal true false

/-- A supply collapse outside the rated hold-up: of the queued words the first n are written, each wholly (R161,
R179). -/
def State.collapse (n : Nat) (s : State) : State :=
  { s with aud := { s.aud with queue := s.aud.queue.take n } }.ledgerCommit

/-! ## The meanings -/

def execEpochTimeout (s : State) : Answer := within (Instr.wf .epochTimeout) (whenClocked epochTimeout s) s

def execSealNow (who : Party) (s : State) : Answer :=
  within (Instr.wf (.sealNow who)) (pfWrite who false false (whole who Reg.AUD_CTL sealNow) s) s

def execNewChain (who : Party) (s : State) : Answer :=
  within (Instr.wf (.newChain who)) (pfWrite who false false (whole who Reg.AUD_CTL newChain) s) s

def execDrainResume (who : Party) (s : State) : Answer :=
  within (Instr.wf (.drainResume who)) (pfWrite who false false (whole who Reg.AUD_CTL drainResume) s) s

def execDrainWrite (s : State) : Answer := within (Instr.wf .drainWrite) (whenClocked drainWrite s) s

def execDrainWriteComplete (target : Nat) (ok : Bool) (s : State) : Answer :=
  within (Instr.wf (.drainWriteComplete target ok)) (whenClocked (drainWriteComplete target ok) s) s

def execDrainRetry (target : Nat) (s : State) : Answer :=
  within (Instr.wf (.drainRetry target)) (whenClocked (drainRetry target) s) s

def execAudDrainAckWrite (who : Party) (v : Word) (s : State) : Answer :=
  within (Instr.wf (.audDrainAckWrite who v)) (pfWrite who false false (whole who Reg.AUD_DRAIN_ACK (drainAckWrite v)) s) s

def execAudDrainTgtWrite (who : Party) (m : Nat) (v : Word) (s : State) : Answer :=
  within (Instr.wf (.audDrainTgtWrite who m v)) 
    (pfWrite who false false (whole who (Reg.AUD_DRAIN_TGT m) (drainTgtWrite m v)) s) s

end Sys2Proof.Machine
end

