-- ==== Sys2Proof/Machine/StorageOps.lean ====
section
/-! DEFINITION. Machine/StorageOps.lean: what the storage engine does with a command: completions, namespaces and
extents, splitting and order, the atomic-write journal, backing parts and partial failures (R260 to R268; log entries
62 to 64). -/

namespace Sys2Proof.Machine

/-! ## Controllers and completions (R260, R261) -/

/-- I/O queue pairs of a function's share. -/
def State.nvmePairs (s : State) (f : Party) : Nat := bits (s.usable f 2) 14 8

/-- The function exists. -/
def State.fnExists (s : State) (f : Party) : Bool :=
  match f with
  | .pf p => s.pfExists p
  | .vf p v => s.pfExists p && s.vfExists p v
  | _ => false

/-- The function has a virtual controller. -/
def State.hasCtrl (s : State) (f : Party) : Bool := s.fnExists f && decide (1 ≤ s.nvmePairs f)

/-- The function's DMA runs: its link carries traffic and is not frozen, and it is neither in a reset nor paused. -/
def State.fnServed (s : State) (f : Party) : Bool :=
  match f.pfIndex with
  | some p =>
    (s.link p).carries && !(s.link p).frozen && !(s.fn f).flr && (s.fn f).busMaster && !(s.fn f).d3
  | none => false

/-- NVMe status codes, with their type in [10:8]. -/
abbrev nvmeDnr : Nat := 0x4000
abbrev nvmeInvalidField : Nat := nvmeDnr + 0x002
abbrev nvmeTransfer : Nat := 0x004
abbrev nvmeInternal : Nat := nvmeDnr + 0x006
abbrev nvmeAborted : Nat := 0x007
abbrev nvmeSqDeleted : Nat := 0x008
abbrev nvmeInvalidNs : Nat := nvmeDnr + 0x00B
abbrev nvmeOutOfRange : Nat := nvmeDnr + 0x080
abbrev nvmeNotReady : Nat := 0x082
abbrev nvmeCqInvalid : Nat := nvmeDnr + 0x100
abbrev nvmeBadQueue : Nat := nvmeDnr + 0x101
abbrev nvmeBadSize : Nat := nvmeDnr + 0x102
abbrev nvmeAerLimit : Nat := nvmeDnr + 0x105
abbrev nvmeBadVector : Nat := nvmeDnr + 0x108
abbrev nvmeBadDelete : Nat := nvmeDnr + 0x10C
abbrev nvmeWriteFault : Nat := nvmeDnr + 0x280
abbrev nvmeReadError : Nat := nvmeDnr + 0x281

def Ctrl.sq (x : Ctrl) (q : Nat) : Option NvQueue := x.sqs.find? fun y => y.qid == q
def Ctrl.cq (x : Ctrl) (q : Nat) : Option NvQueue := x.cqs.find? fun y => y.qid == q

/-- A CQ has no room for one more entry. -/
def NvQueue.full (q : NvQueue) : Bool := decide ((q.tail + 1) % q.size = q.head)

/-! ## PRP transfers (R261) -/

/-- Where the bytes of a command's data lie in host memory, as addresses and lengths: PRP1 to the end of its page, then
PRP2 where one more page holds the rest, or else the entries of the PRP list. -/
def prpPages (page : Nat) (c : NvmeCmd) (total : Nat) : List (Nat × Nat) :=
  let first := page - c.prp % page
  if total ≤ first then [(c.prp, total)]
  else if total ≤ first + page then [(c.prp, first), (c.prp2, total - first)]
  else (c.prp, first) :: c.prps.map fun a => (a, page)

/-- The writes that place bytes at an offset of such pages. -/
def prpChunks : List (Nat × Nat) → Nat → List Byte → List (Nat × List Byte)
  | [], _, _ => []
  | (a, n) :: ps, off, bs =>
    if bs = [] then []
    else if n ≤ off then prpChunks ps (off - n) bs
    else (a + off, bs.take (n - off)) :: prpChunks ps 0 (bs.drop (n - off))

/-- The window offset of CC. -/
abbrev nvmeCc : Nat := 0x14

def Ctrl.prop (c : Ctrl) (o : Nat) : Word := Store.get (fun _ => 0) c.props o

/-- The page size that CC.MPS sets (R261). -/
def Ctrl.page (c : Ctrl) : Nat := 4096 * 2 ^ bits (c.prop nvmeCc) 10 7

/-- Bytes of a command's data, of which it transfers a total, placed in host memory. -/
def State.prpWrite (cmd : NvmeCmd) (total off : Nat) (bytes : List Byte) (s : State) : State :=
  (prpChunks (prpPages (s.ctrl cmd.fn).page cmd total) off bytes).foldl (fun s x => s.dmaWrite cmd.fn x.1 x.2 false) s

/-- The 16 bytes of a completion queue entry. -/
def cqe (x : NvPost) (head : Nat) (phase : Bool) : List Byte :=
  leBytes 4 x.result ++ zeros 4 ++ leBytes 2 head ++ leBytes 2 x.cmd.sq ++ leBytes 2 x.cmd.cid
    ++ leBytes 2 (b2n phase + 2 * x.status)

/-- A completion written to its CQ, and the CQ's interrupt; it waits while the CQ is full. -/
def State.nvmePost (f : Party) (x : NvPost) (s : State) : State :=
  let c := s.ctrl f
  match c.cq x.cq with
  | none => s
  | some q =>
    if q.full then s.modCtrl f fun c => { c with posts := c.posts ++ [x] }
    else
      let head := ((c.sq x.cmd.sq).map (·.head)).getD 0
      let tail := (q.tail + 1) % q.size
      let q' := { q with tail := tail, phase := if tail = 0 then !q.phase else q.phase }
      let s := s.dmaWrite f (q.base + 16 * q.tail) (cqe x head q.phase) false
      let s := s.modCtrl f fun c => { c with cqs := c.cqs.map fun y => if y.qid = q.qid then q' else y }
      if q.irq then s.msix f q.link else s

/-- A command completes with a result and a status; a failure enters the Error Information log. -/
def State.nvmeDone (cmd : NvmeCmd) (result status : Nat) (s : State) : State :=
  match (s.ctrl cmd.fn).sq cmd.sq with
  | none => s
  | some q =>
    let s := if status = 0 then s else s.modCtrl cmd.fn fun c =>
      let n := ((c.errors.head?).map (·.1)).getD 0 + 1
      { c with errors := ((n, cmd, status) :: c.errors).take (Config.nvmeLimit 1 % 256 + 1) }
    s.nvmePost cmd.fn ⟨q.link, cmd, result, status⟩

/-- Completions that waited for room, in order. -/
def State.nvmeFlushPosts (f : Party) (s : State) : State :=
  let xs := (s.ctrl f).posts
  forAll xs (fun x s => s.nvmePost f x) (s.modCtrl f fun c => { c with posts := [] })

/-- An I/O command completes: counted for the device and its VF (R271, R379). -/
def State.ioDone (cmd : NvmeCmd) (status readBytes writeBytes : Nat) (s : State) : State :=
  let count := fun (k off n : Nat) (s : State) =>
    let s := s.countBy k n
    match cmd.fn with
    | .vf p v => s.countBy (Reg.vf p v off) n
    | _ => s
  let s := count Reg.NVME_CNT_COMMANDS 0x8140 1 s
  let s := count Reg.NVME_CNT_READ_BYTES 0x8148 readBytes s
  let s := count Reg.NVME_CNT_WRITE_BYTES 0x8150 writeBytes s
  s.nvmeDone cmd 0 status

/-! ## Namespaces (R262) -/

def Namespace.lbaBytes (n : Namespace) : Nat := if n.fmt4k then 4096 else 512

/-- The LBAs of a namespace. -/
def Namespace.size (n : Namespace) : Nat := (n.extents.map (·.count)).sum

/-- The namespaces that exist, by index. -/
def State.spaceList (s : State) : List (Nat × Namespace) :=
  s.spaces.filterMap fun (i, x) => x.map fun n => (i, n)

/-- The namespace attached to a function under an NSID. -/
def State.nsOf (s : State) (f : Party) (nsid : Nat) : Option (Nat × Namespace) :=
  s.spaceList.find? fun (_, n) => decide (n.attached = some (f, nsid))

/-- The namespaces attached to a function: index, NSID, namespace. -/
def State.nsAttached (s : State) (f : Party) : List (Nat × Nat × Namespace) :=
  s.spaceList.filterMap fun (i, n) =>
    match n.attached with
    | some (g, k) => if g = f then some (i, k, n) else none
    | none => none

/-- The journal keeps the piece's slot, for a replay or for its before-image, until that is written (R267, R268). -/
def Piece.pending (p : Piece) : Bool := (p.wasKept || p.replay) && decide (p.phase ≠ .ended)

/-- A namespace is not ready: the journal keeps a slot for it. -/
def State.nsNotReady (s : State) (i : Nat) : Bool := s.pieces.any fun p => decide (p.ns = i) && p.pending

/-- The journal's resolution at a start goes on: a replay has been issued and has not ended (R267). -/
def State.replaying (s : State) : Bool :=
  s.pieces.any fun p => p.replay && !p.wasKept && decide (p.phase ≠ .ended)

/-- What lies at an LBA range: the extent, its backing LBA, the LBA offset and the length of each part (R264). -/
def partsFrom : List Extent → Nat → Nat → Nat → List (Extent × Nat × Nat × Nat)
  | [], _, _, _ => []
  | e :: es, base, lo, n =>
    let a := max lo base
    let b := min (lo + n) (base + e.count)
    (if a < b then [(e, e.start + (a - base), a, b - a)] else []) ++ partsFrom es (base + e.count) lo n

/-- The parts of a range, with the data each writes. -/
def Namespace.partsOf (n : Namespace) (lo len : Nat) (data : List Byte) (off : Nat) : List Part :=
  (partsFrom n.extents 0 lo len).map fun (e, lba, o, k) =>
    ⟨e, lba, o, k, (data.drop ((o - off) * n.lbaBytes)).take (k * n.lbaBytes), .idle, false⟩

/-- Where a range is cut into pieces: at offsets that are multiples of 64 KiB, unless it is 64 KiB or less (R264). -/
def cuts (per : Nat) : Nat → Nat → Nat → List (Nat × Nat)
  | 0, _, _ => []
  | fuel + 1, lo, n =>
    if n = 0 then []
    else
      let k := min n (per - lo % per)
      (lo, k) :: cuts per fuel (lo + k) (n - k)

/-- The pieces of a Write or Write Zeroes. -/
def Namespace.piecesOf (n : Namespace) (lo len : Nat) : List (Nat × Nat) :=
  let per := 65536 / n.lbaBytes
  if len ≤ per then [(lo, len)] else cuts per (len / per + 2) lo len

/-! ## Pieces -/

def State.piece (s : State) (i : Nat) : Option Piece := s.pieces.find? fun p => p.id == i
def State.modPiece (i : Nat) (f : Piece → Piece) (s : State) : State :=
  { s with pieces := s.pieces.map fun p => if p.id = i then f p else p }

/-- Whether two ranges overlap. -/
def overlaps (a n b m : Nat) : Bool := decide (a < b + m ∧ b < a + n)

/-- Two commands' pieces conflict (R265). -/
def Piece.conflicts (p q : Piece) : Bool :=
  decide (p.ns = q.ns) && overlaps p.start p.blocks q.start q.blocks
    && (decide (p.kind ≠ .read) || decide (q.kind ≠ .read))

/-- The piece conflicts with an earlier command that has not completed (R265). -/
def State.mustWait (s : State) (p : Piece) : Bool :=
  s.pieces.any fun q => decide (q.group < p.group) && !q.wasKept && q.conflicts p

/-- A command waits while any of its pieces conflicts with an earlier one (R265). -/
def State.groupWaits (s : State) (g : Nat) : Bool := s.pieces.any fun p => decide (p.group = g) && s.mustWait p

/-! ## The journal (R266, R267; log entry 64) -/

/-- The number of journal data slots. -/
abbrev journalSlots : Nat := 2047

/-- The ledger addresses of a slot's header and of its data. -/
def journalHeader (i : Nat) : Nat := 0x30000000 + 32 * i
def journalData (i : Nat) : Nat := 0x30010000 + 0x10000 * i

/-- The slots in use. -/
def State.journalUsed (s : State) : List Nat :=
  s.pieces.flatMap fun p => p.slot.toList ++ p.before.toList

/-- NVME_JOURNAL: slots in use and the peak since start (R271). -/
def State.noteJournal (s : State) : State :=
  let n := s.journalUsed.length
  s.modReg Reg.NVME_JOURNAL fun v => word (n + max n (bits v 42 32) * 2 ^ 32)

/-- The lowest slots that are free. -/
def State.freeSlots (s : State) (n : Nat) : List Nat :=
  let used := s.journalUsed
  ((List.range (min journalSlots (used.length + n))).filter fun i => !used.contains i).take n

/-- A piece committed: its data, its header words, and last COMMITTED (R266). -/
def State.journalCommit (p : Piece) (s : State) : State :=
  match p.slot with
  | none => s
  | some i =>
    let data := p.parts.flatMap (·.data)
    let off := ((p.parts.head?).map (·.off)).getD 0
    let len := (p.parts.map (·.blocks)).sum
    let s := { s with ledger := memWrite (journalData i) data s.ledger }
    let w0 := word (p.ns + len * 2 ^ 16 + b2n (decide (p.kind = .zeroes)) * 2 ^ 48)
    (s.ledgerWords (journalHeader i) [w0, word off, 0, 0]).ledgerWord (journalHeader i + 16) 1

/-- A before-image kept in its own slot, which is never COMMITTED (R266). -/
def State.journalBefore (p : Piece) (s : State) : State :=
  match p.before with
  | none => s
  | some i =>
    let s := s.ledgerWords (journalHeader i) [0, 0, 0, 0]
    { s with ledger := memWrite (journalData i) (p.image.flatten) s.ledger }

/-- A piece retired: RETIRED written, its slots freed (R266). -/
def State.journalRetire (p : Piece) (s : State) : State :=
  let s := match p.slot with
    | none => s
    | some i => s.ledgerWord (journalHeader i + 24) 1
  (s.modPiece p.id fun p => { p with slot := none, before := none }).noteJournal

/-! ## Parts (R264, R268) -/

/-- LBA bytes of a namespace by its index. -/
def State.nsBytes (s : State) (i : Nat) : Nat := ((s.space i).map Namespace.lbaBytes).getD 512

/-- The extent's target is there: its drive is ready, or the connection to its remote target is up (R263, R270). -/
def State.reachable (s : State) (e : Extent) : Bool :=
  if e.remote then decide ((s.qp (Config.remoteQp e.target)).phase = .rts) else (s.drive e.target).ready

/-- The command of a capsule: Read (0x02), Write (0x01), Flush (0x00) or Write Zeroes (0x08) with FUA where it writes, and
for data a keyed SGL, whose address and key the manual does not give; nor does it the identifier (R263; log entry 62). -/
def State.sqe (op : Option Nat) (nsid lba blocks bytes : Nat) (s : State) : List Byte × State :=
  let (f, s) := s.randomBytes 14
  let code : Nat := match op with
    | some 0 => 2 | some 1 => 1 | some _ => 8 | none => 0
  let sgl := if bytes = 0 then zeros 16 else slice f 2 8 ++ leBytes 3 bytes ++ slice f 10 4 ++ [0x40]
  let range := match op with
    | none => zeros 12
    | some op => leBytes 8 lba ++ leBytes 4 (blocks - 1 + (if op = 0 then 0 else 2 ^ 30))
  ([BitVec.ofNat 8 code, 0x40] ++ slice f 0 2 ++ leBytes 4 nsid ++ zeros 16 ++ sgl ++ range ++ zeros 12, s)

/-- Nothing more is awaited of a part in its piece's present phase. -/
def PartState.final (x : PartState) : Bool :=
  match x with
  | .flying | .due => false
  | .idle | .ok | .failed _ => true

/-- A failed part: it awaits its retry, and fails for good after it (R268). -/
def Part.fail (x : Part) (unreachable : Bool) : Part := { x with st := if x.retried then .failed unreachable else .due }

/-- What a part asks of its target in each phase. -/
def Piece.partOp (p : Piece) : Nat :=
  match p.phase with
  | .before => 0
  | .rolling => 1
  | _ => match p.kind with
    | .read => 0
    | .write => 1
    | .zeroes => 2
    | .deallocate => 3

/-- A part issued to its target, with FUA where it writes (R266). A target that is not reachable fails it; nothing is
asked of a remote target for a Deallocate (R263; log entry 62). -/
def State.issuePart (i k : Nat) (s : State) : State :=
  match s.piece i with
  | none => s
  | some p =>
    match p.parts[k]? with
    | none => s
    | some x =>
      let set := fun (y : Part) (s : State) => s.modPiece i fun p => { p with parts := p.parts.set k y }
      let op := p.partOp
      if op = 3 ∧ x.extent.remote then set { x with st := .ok } s
      else if s.reachable x.extent then
        let data := if op = 1 then (if p.phase = .rolling then p.image.getD k [] else x.data) else []
        let s := set { x with st := .flying } s
        if x.extent.remote then
          let bytes := if op = 2 then 0 else x.blocks * s.nsBytes p.ns
          let (cmd, s) := s.sqe (some op) x.extent.nsid x.lba x.blocks bytes
          s.emit (.capsule (some (i, k)) (Config.remoteQp x.extent.target) cmd data)
        else s.emit (.backing i k x.extent.target x.extent.nsid x.lba x.blocks op (decide (op = 1 ∨ op = 2)) data)
      else set (x.fail true) s

/-- The parts of a piece issued together, those that a test picks, each with a retry ahead of it. -/
def State.issueParts (i : Nat) (pick : Part → Bool) (s : State) : State :=
  match s.piece i with
  | none => s
  | some p =>
    let ks := (List.range p.parts.length).filter fun k => (p.parts[k]?).any pick
    let s := s.modPiece i fun p =>
      { p with parts := p.parts.map fun x => if pick x then { x with retried := false } else x }
    forAll ks (fun k s => s.issuePart i k) s

/-- The status a failing part gives its command: that of the one lowest in LBA order (R268). -/
def Piece.failStatus (p : Piece) : Option Nat :=
  p.parts.findSome? fun x =>
    match x.st with
    | .failed true => some nvmeTransfer
    | .failed false => some (if p.kind = .read then nvmeReadError else nvmeWriteFault)
    | _ => none

/-- Every part has ended. -/
def Piece.settled (p : Piece) : Bool := p.parts.all (·.st.final)

/-! ## The life of a piece (R265, R266, R268) -/

/-- A write piece committed and its parts issued. -/
def State.commitPiece (i : Nat) (s : State) : State :=
  match s.piece i with
  | none => s
  | some p => ((s.journalCommit p).modPiece i fun p => { p with phase := .issued }).issueParts i fun _ => true

/-- A write piece that has its slots: its before-image is read first when its command is 64 KiB or less and spans two
extents (R266). -/
def State.slotPiece (i : Nat) (slots : List Nat) (s : State) : State :=
  let s := (s.modPiece i fun p => { p with slot := slots[0]?, before := slots[1]? }).noteJournal
  if slots.length = 2 then
    (s.modPiece i fun p => { p with phase := .before, image := p.parts.map fun _ => [] }).issueParts i fun _ => true
  else s.commitPiece i

/-- The journal slots a piece takes. -/
def Piece.slotsWanted (p : Piece) : Nat := if p.small && decide (2 ≤ p.parts.length) then 2 else 1

/-- A piece begins: a Read or Deallocate issues its parts; a write piece takes its journal slots or waits for them. -/
def State.beginPiece (i : Nat) (s : State) : State :=
  match s.piece i with
  | none => s
  | some p =>
    if p.kind = .read ∨ p.kind = .deallocate then
      (s.modPiece i fun p => { p with phase := .issued }).issueParts i fun _ => true
    else
      let slots := s.freeSlots p.slotsWanted
      if slots.length = p.slotsWanted then s.slotPiece i slots
      else (s.modPiece i fun p => { p with phase := .journal }).count Reg.NVME_CNT_JOURNAL_WAIT

/-- A Read's outcome in host memory: data placed, and the buffer of failed LBAs zero-filled (R268). -/
def State.placeRead (p : Piece) (bytes : Nat) (s : State) : State :=
  forAll p.parts (fun x s =>
    let data := if x.st = .ok then slice x.data 0 (x.blocks * bytes) else zeros (x.blocks * bytes)
    s.prpWrite p.cmd (p.blocks * bytes) ((x.off - p.start) * bytes) data) s

/-- A piece has ended with a status: its journal slots are freed. -/
def State.endPiece (i : Nat) (status : Option Nat) (s : State) : State :=
  match s.piece i with
  | none => s
  | some p =>
    let s := s.journalRetire p
    let s := if p.replay then s.count Reg.NVME_CNT_REPLAYED else s
    s.modPiece i fun p => { p with phase := .ended, status := status }

/-- A piece whose parts have all ended in its present phase goes on (R266, R268). -/
def State.advancePiece (i : Nat) (s : State) : State :=
  match s.piece i with
  | none => s
  | some p =>
    if !p.settled then s
    else
      match p.phase, p.failStatus with
      | .before, none => (s.journalBefore p).commitPiece i
      | .before, some st => s.endPiece i (some st)
      | .issued, none =>
        let s := if p.kind = .read then s.placeRead p (s.nsBytes p.ns) else s
        s.endPiece i none
      | .issued, some st =>
        if p.replay then s.modPiece i fun p => { p with phase := .kept, wasKept := true }
        else if p.kind = .read then (s.placeRead p (s.nsBytes p.ns)).endPiece i (some st)
        else if p.before.isSome ∧ p.parts.any (fun x => decide (x.st = .ok)) then
          let spare := fun (x : Part) => if x.st = .ok then x else { x with st := .idle }
          let s := s.modPiece i fun p => { p with phase := .rolling, status := some st, parts := p.parts.map spare }
          (s.count Reg.NVME_CNT_ROLLBACK).issueParts i fun x => decide (x.st = .ok)
        else s.endPiece i (some st)
      | .rolling, none => s.endPiece i p.status
      | .rolling, some st =>
        let end_ := if st = nvmeTransfer then nvmeInternal - nvmeDnr else nvmeInternal
        (s.modPiece i fun p => { p with phase := .kept, wasKept := true, status := some end_ }).count
          Reg.NVME_CNT_ROLLBACK_FAIL
      | _, _ => s

/-! ## Commands end (R264, R265, R268) -/

/-- The pieces of a command. -/
def State.groupOf (s : State) (g : Nat) : List Piece := s.pieces.filter fun p => p.group == g

/-- A command whose pieces have all ended completes, with the status of the failing part lowest in LBA order; a kept
piece stays behind it. -/
def State.finishGroup (g : Nat) (s : State) : State :=
  let ps := s.groupOf g
  match ps.head? with
  | none => s
  | some p =>
    if !ps.all (fun p => decide (p.phase = .ended ∨ p.phase = .kept)) then s
    else
      let status := (ps.findSome? (·.status)).getD 0
      let bytes := (ps.flatMap (·.parts)).foldl (fun n x => n + x.blocks) 0 * s.nsBytes p.ns
      let moved := fun (ks : List PieceKind) => if status = 0 ∧ ks.contains p.kind then bytes else 0
      let left := (s.pieces.filter fun p => p.group != g || decide (p.phase = .kept)).map fun p =>
        if p.group = g then { p with orphan := true } else p
      let s := { s with pieces := left }
      if p.orphan then s else s.ioDone p.cmd status (moved [.read]) (moved [.write, .zeroes])

/-- A piece whose command waited for an earlier one goes on, or ends while its namespace is not ready. -/
def State.releasePiece (i : Nat) (s : State) : State :=
  match s.piece i with
  | none => s
  | some p =>
    if p.phase ≠ .overlap ∨ s.groupWaits p.group then s
    else if s.nsNotReady p.ns then s.modPiece i fun p => { p with phase := .ended, status := some nvmeNotReady }
    else s.beginPiece i

/-! ## The power states of drives (R269) -/

/-- The power state a drive is set to: 0 unless every controller that uses it is in PS1 or PS2. -/
def State.drivePs (s : State) (d : Nat) : Nat :=
  let users := s.spaceList.filterMap fun (_, n) =>
    match n.attached with
    | some (f, _) => if n.extents.any fun e => !e.remote && decide (e.target = d) then some (s.ctrl f).ps else none
    | none => none
  match users with
  | [] => 0
  | x :: xs => xs.foldl min x

/-- A change of power states, of namespaces' users or of the drives there are, and what it sets the drives to. A drive
that has just come stands in state 0. -/
def withDrives (f : State → State) (s : State) : State :=
  let t := f s
  forAll (List.range 16) (fun d u =>
    let was := if (s.drive d).ready then s.drivePs d else 0
    if !(t.drive d).ready ∨ was = t.drivePs d then u else u.emit (.drivePower d (t.drivePs d))) t

/-! ## Detaching (R262) -/

/-- A command already fetched for a namespace has not completed: in the engine, or held by a power state entry. -/
def State.nsBusy (s : State) (i : Nat) (n : Namespace) : Bool :=
  s.pieces.any (fun p => decide (p.ns = i) && !p.wasKept) ||
    n.attached.any fun x => (s.ctrl x.1).delayed.any fun d => decide (d.1.sq ≠ 0 ∧ d.1.nsid = x.2)

/-- NS_DETACH takes effect once no command of the namespace is left (R262). -/
def State.finishDetach (i : Nat) (s : State) : State :=
  match s.space i with
  | none => s
  | some n =>
    match n.detach with
    | none => s
    | some ws =>
      if s.nsBusy i n then s
      else
        forAll ws (fun w s =>
          match (s.ring w.1).taken.find? fun t => t.cursor == w.2 with
          | some t => s.adminDone w.1 t 0 0
          | none => s) (withDrives (State.setSpace i (some { n with attached := none, detach := none })) s)

/-- One round of what the engine does once something has changed. -/
def State.storageRound (s : State) : State :=
  let s := forAll (s.pieces.map (·.id)) State.advancePiece s
  let s := forAll (s.pieces.map (·.group)).dedup State.finishGroup s
  forAll (s.pieces.map (·.id)) State.releasePiece s

/-- Rounds until nothing more can change. -/
def State.storageRounds : Nat → State → State
  | 0, s => s
  | n + 1, s => s.storageRound.storageRounds n

/-- Enabled controllers report ready once the journal's resolution at the start has ended (R267). -/
def State.readyCtrls (s : State) : State :=
  if s.replaying then s else { s with ctrls := s.ctrls.map fun (k, c) => (k, { c with ready := c.enabled }) }

/-- The engine settles, and detaches that waited are carried out. -/
def State.storageSettle (s : State) : State :=
  let waiting := (s.pieces.filter fun p => decide (p.phase = .overlap)).length
  let s := s.storageRounds (2 + 2 * waiting)
  (forAll (s.spaceList.map (·.1)) State.finishDetach s).readyCtrls

/-- The pieces of a new command enter the engine in order. -/
def State.addPieces (mk : Nat → Nat → List Piece) (s : State) : State :=
  let g := s.pieceNext
  let ps := mk g g
  let waits := ps.any s.mustWait
  let s := { s with pieceNext := g + ps.length, pieces := s.pieces ++ ps }
  let s := if waits then s.count Reg.NVME_CNT_OVERLAP_WAIT else s
  s.storageSettle

/-- Commands of a function are discarded: those a test keeps are carried on without a completion (R261). -/
def State.dropPieces (f : Party) (keep : Piece → Bool) (s : State) : State :=
  let mine := fun (p : Piece) => decide (p.cmd.fn = f)
  let left := (s.pieces.filter fun p => !mine p || keep p).map fun p => if mine p then { p with orphan := true } else p
  { s with pieces := left }.noteJournal.storageSettle

/-- A piece whose data is in the journal. -/
def Piece.journaled (p : Piece) : Bool := decide (p.phase = .issued ∨ p.phase = .rolling ∨ p.phase = .kept) && p.slot.isSome

/-- A piece that writes data. -/
def Piece.writes (p : Piece) : Bool := decide (p.kind = .write ∨ p.kind = .zeroes)

/-! ## Kept slots and the journal at a start (R267, R268) -/

/-- A kept piece is tried again: its before-image, or a replay. -/
def State.retryKept (i : Nat) (s : State) : State :=
  match s.piece i with
  | none => s
  | some p =>
    if p.phase ≠ .kept then s
    else if p.replay then (s.modPiece i fun p => { p with phase := .issued }).issueParts i fun _ => true
    else
      (s.modPiece i fun p => { p with phase := .rolling, status := none }).issueParts i fun x => decide (x.st ≠ .idle)

/-- A committed, unretired slot found at a start becomes a piece that is written to every part; it is kept while a
target it needs is not there (R267). -/
def State.resolveSlot (i : Nat) (s : State) : State :=
  let h := journalHeader i
  let w0 := s.ledgerRead h
  if s.ledgerRead (h + 16) = 0 ∨ s.ledgerRead (h + 24) ≠ 0 then s
  else
    let ns := bits w0 15 0
    match s.space ns with
    | none => s
    | some n =>
      let len := bits w0 47 16
      let off := (s.ledgerRead (h + 8)).toNat
      let zero := bit w0 48
      let data := if zero then [] else memRead s.ledger (journalData i) (len * n.lbaBytes)
      let parts := n.partsOf off len data off
      let cmd : NvmeCmd := ⟨.foreman, 0, 0, 0, 0, 0, 0, 0, 0, [], 0, 0⟩
      let all := parts.all fun x => s.reachable x.extent
      let p : Piece := { id := s.pieceNext, group := s.pieceNext, cmd := cmd, ns := ns,
                         kind := if zero then .zeroes else .write, start := off, blocks := len, small := true,
                         phase := if all then .issued else .kept, slot := some i, before := none, image := [],
                         status := none, orphan := true, replay := true, wasKept := !all, parts := parts }
      let s := { s with pieceNext := s.pieceNext + 1, pieces := s.pieces ++ [p] }
      if all then s.issueParts p.id fun _ => true else s

/-- The Foreman resolves the journal before any controller reports ready (R267). Work in flight is gone; the
namespaces stand. -/
def State.resolveJournal (s : State) : State :=
  let s := { s with pieces := [] }
  let s := forAll (List.range journalSlots) State.resolveSlot s
  (s.setReg Reg.NVME_JOURNAL 0).noteJournal.storageSettle

end Sys2Proof.Machine
end

