-- ==== Sys2Proof/Machine/Storage.lean ====
section
/-! DEFINITION. Machine/Storage.lean: virtual controllers and their commands, namespace commands, drives and power
states (R260 to R272; log entries 62 to 65). -/

namespace Sys2Proof.Machine

/-! ## Power states (R269) -/

/-- A controller's power state. -/
def State.setPs (f : Party) (ps : Nat) : State → State := withDrives fun s => s.modCtrl f fun c => { c with ps := ps }

/-! ## Queues (R239, R261) -/

/-- A ring context of the function's share that nothing uses. -/
def State.freeRing (s : State) (f : Party) : Option Nat :=
  let w := s.usable f 0
  ((List.range (bits w 25 16)).map (bits w 15 0 + ·)).find? fun c =>
    let r := s.ring c
    decide (r.phase = .disabled) && (r.isNvme || decide (r.cfg = 0 ∧ r.base = 0))

/-- A queue takes its ring context, of type NVME_SQ (10) or NVME_CQ (11). -/
def State.claimRing (f : Party) (c type base : Nat) (s : State) : State :=
  s.modRing c fun r => { r.cleared with owner := f, cfg := word type, base := word base, phase := .active }

/-- A queue leaves its ring context; one that is HOST_LOST keeps that state (R230). -/
def State.freeNvRing (q : NvQueue) (s : State) : State :=
  s.modRing q.ring fun r => if r.phase = .hostLost then r else { r.cleared with owner := r.owner }

/-- Create I/O Completion Queue. -/
def State.createCq (cmd : NvmeCmd) (s : State) : State :=
  let f := cmd.fn
  let c := s.ctrl f
  let qid := bits cmd.cdw10 15 0
  let size := bits cmd.cdw10 31 16 + 1
  let vec := bits cmd.cdw11 31 16
  if qid = 0 ∨ 64 < qid ∨ (c.cq qid).isSome ∨ s.nvmePairs f < c.cqs.length then s.nvmeDone cmd 0 nvmeBadQueue
  else if size < 2 ∨ 65535 < size then s.nvmeDone cmd 0 nvmeBadSize
  else if !bit cmd.cdw11 0 ∨ cmd.prp % 4096 ≠ 0 then s.nvmeDone cmd 0 nvmeInvalidField
  else if s.vectors f ≤ vec then s.nvmeDone cmd 0 nvmeBadVector
  else
    match s.freeRing f with
    | none => s.nvmeDone cmd 0 nvmeBadQueue
    | some r =>
      let q : NvQueue := ⟨qid, size, 0, 0, vec, cmd.prp, true, bit cmd.cdw11 1, r⟩
      ((s.claimRing f r 11 cmd.prp).modCtrl f fun c => { c with cqs := c.cqs ++ [q] }).nvmeDone cmd 0 0

/-- Create I/O Submission Queue. -/
def State.createSq (cmd : NvmeCmd) (s : State) : State :=
  let f := cmd.fn
  let c := s.ctrl f
  let qid := bits cmd.cdw10 15 0
  let size := bits cmd.cdw10 31 16 + 1
  let cqid := bits cmd.cdw11 31 16
  if qid = 0 ∨ 64 < qid ∨ (c.sq qid).isSome ∨ s.nvmePairs f < c.sqs.length then s.nvmeDone cmd 0 nvmeBadQueue
  else if size < 2 ∨ 65535 < size then s.nvmeDone cmd 0 nvmeBadSize
  else if !bit cmd.cdw11 0 ∨ cmd.prp % 4096 ≠ 0 then s.nvmeDone cmd 0 nvmeInvalidField
  else if cqid = 0 ∨ (c.cq cqid).isNone then s.nvmeDone cmd 0 nvmeCqInvalid
  else
    match s.freeRing f with
    | none => s.nvmeDone cmd 0 nvmeBadQueue
    | some r =>
      let q : NvQueue := ⟨qid, size, 0, 0, cqid, cmd.prp, false, false, r⟩
      ((s.claimRing f r 10 cmd.prp).modCtrl f fun c => { c with sqs := c.sqs ++ [q] }).nvmeDone cmd 0 0

/-- An I/O submission queue goes: what it had outstanding is discarded, writes excepted (R261). -/
def State.dropSq (f : Party) (qid : Nat) (s : State) : State :=
  match (s.ctrl f).sq qid with
  | none => s
  | some q =>
    let s := (s.freeNvRing q).modCtrl f fun c =>
      { c with sqs := c.sqs.filter (·.qid != qid), delayed := c.delayed.filter (·.1.sq != qid) }
    let mine := fun (p : Piece) => decide (p.cmd.fn = f ∧ p.cmd.sq = qid)
    let left := (s.pieces.filter fun p => !mine p || p.writes).map fun p => if mine p then { p with orphan := true } else p
    { s with pieces := left }.noteJournal.storageSettle

/-- An I/O completion queue goes. -/
def State.dropCq (f : Party) (qid : Nat) (s : State) : State :=
  match (s.ctrl f).cq qid with
  | none => s
  | some q =>
    (s.freeNvRing q).modCtrl f fun c =>
      { c with cqs := c.cqs.filter (·.qid != qid), posts := c.posts.filter (·.cq != qid) }

/-- Delete I/O Submission Queue and Delete I/O Completion Queue. -/
def State.deleteSq (cmd : NvmeCmd) (s : State) : State :=
  let qid := bits cmd.cdw10 15 0
  if qid = 0 ∨ ((s.ctrl cmd.fn).sq qid).isNone then s.nvmeDone cmd 0 nvmeBadQueue
  else (s.dropSq cmd.fn qid).nvmeDone cmd 0 0

def State.deleteCq (cmd : NvmeCmd) (s : State) : State :=
  let qid := bits cmd.cdw10 15 0
  let c := s.ctrl cmd.fn
  if qid = 0 ∨ (c.cq qid).isNone then s.nvmeDone cmd 0 nvmeBadQueue
  else if c.sqs.any (fun q => q.link == qid && q.qid != 0) then s.nvmeDone cmd 0 nvmeBadDelete
  else (s.dropCq cmd.fn qid).nvmeDone cmd 0 0

/-! ## Identify, log pages and features (R261; log entry 63) -/

/-- Bytes placed at an offset. -/
def patch (off : Nat) (bs : List Byte) (x : List Byte) : List Byte :=
  slice x 0 off ++ bs ++ x.drop (off + bs.length)

/-- A power state descriptor: MP 0, NOPS, ENLAT and EXLAT in µs. -/
def psDescriptor (nops : Bool) (enlat exlat : Nat) : List Byte :=
  [0, 0, 0, BitVec.ofNat 8 (2 * b2n nops)] ++ leBytes 4 enlat ++ leBytes 4 exlat ++ zeros 20

/-- Identify controller data. Its names, numbers and every field that R261 does not give and that is no feature are
free bytes. -/
def State.identifyCtrl (f : Party) (s : State) : List Byte × State :=
  let (names, s) := s.randomBytes 336
  let awun := if (s.nsAttached f).any (fun x => x.2.2.fmt4k) then 15 else 127
  let base := patch 0 (leBytes 2 0x1E4A ++ leBytes 2 0x1E4A) (zeros 4096)
  let base := patch 4 (slice names 0 68) base
  let base := patch 73 (slice names 68 3) base
  let base := patch 77 [8] base
  let base := patch 78 (slice names 71 2) base
  let base := patch 80 (leBytes 4 0x20000) base
  let base := patch 258 (slice names 73 1) base
  let base := patch 259 (leBytes 1 (Config.nvmeLimit 0)) base
  let base := patch 262 (leBytes 1 (Config.nvmeLimit 1)) base
  let base := patch 263 [2] base
  let base := patch 512 [0x66, 0x44] base
  let base := patch 516 (leBytes 4 1024) base
  let base := patch 520 [0x0C] base
  let base := patch 526 (leBytes 2 awun ++ leBytes 2 awun) base
  let base := patch 768 (slice names 80 256) base
  let base := patch 2048
    (psDescriptor false 0 0 ++ psDescriptor false 1000 2000 ++ psDescriptor true 5000 50000) base
  (base, s)

/-- Identify namespace data: its size, its LBA format of the two, nothing else supported. -/
def identifyNs (n : Namespace) : List Byte :=
  let z := leBytes 8 n.size
  patch 128 ([0, 0, 9, 0] ++ [0, 0, 12, 0]) (patch 25 [1, BitVec.ofNat 8 (b2n n.fmt4k)] (patch 0 (z ++ z ++ z) (zeros 4096)))

/-- Identify, CNS 0x00 to 0x03. -/
def State.identify (cmd : NvmeCmd) (s : State) : State :=
  let f := cmd.fn
  let reply := fun (bs : List Byte) (s : State) => (s.prpWrite cmd 4096 0 bs).nvmeDone cmd 0 0
  match bits cmd.cdw10 7 0 with
  | 0 =>
    if cmd.nsid = 0 ∨ 1024 < cmd.nsid then s.nvmeDone cmd 0 nvmeInvalidNs
    else reply (((s.nsOf f cmd.nsid).map fun x => identifyNs x.2).getD (zeros 4096)) s
  | 1 => let (bs, s) := s.identifyCtrl f; reply bs s
  | 2 =>
    let ids := ((s.nsAttached f).map fun x => x.2.1).filter fun k => decide (cmd.nsid < k)
    reply (slice ((ids.mergeSort fun a b => decide (a ≤ b)).flatMap (leBytes 4)) 0 4096) s
  | 3 =>
    match s.nsOf f cmd.nsid with
    | none => s.nvmeDone cmd 0 nvmeInvalidNs
    | some _ => let (id, s) := s.randomBytes 16; reply (slice ([3, 16, 0, 0] ++ id) 0 4096) s
  | _ => s.nvmeDone cmd 0 nvmeInvalidField

/-- The features a controller has, beside the power state: arbitration, temperature threshold, error recovery, number of
queues, interrupt coalescing and configuration, write atomicity, asynchronous events. -/
def nvmeFeatures : List Nat := [1, 4, 5, 7, 8, 9, 10, 11]

/-- Get Features. -/
def State.getFeatures (cmd : NvmeCmd) (s : State) : State :=
  let c := s.ctrl cmd.fn
  let fid := bits cmd.cdw10 7 0
  if fid = 2 then s.nvmeDone cmd c.ps 0
  else if fid = 7 then let n := s.nvmePairs cmd.fn - 1; s.nvmeDone cmd (n + n * 2 ^ 16) 0
  else if nvmeFeatures.contains fid then s.nvmeDone cmd (Store.get (fun _ => 0) c.features fid).toNat 0
  else s.nvmeDone cmd 0 nvmeInvalidField

/-- Set Features; an entry into PS1 or PS2 completes when it has finished. -/
def State.setFeatures (cmd : NvmeCmd) (s : State) : State :=
  let fid := bits cmd.cdw10 7 0
  let ps := bits cmd.cdw11 4 0
  if fid = 2 then
    if 2 < ps then s.nvmeDone cmd 0 nvmeInvalidField
    else if ps = 0 then (s.setPs cmd.fn 0).nvmeDone cmd 0 0
    else s.modCtrl cmd.fn fun c => { c with psTarget := some (ps, cmd) }
  else if fid = 7 then let n := s.nvmePairs cmd.fn - 1; s.nvmeDone cmd (n + n * 2 ^ 16) 0
  else if nvmeFeatures.contains fid then
    (s.modCtrl cmd.fn fun c =>
      { c with features := Store.put (fun _ => 0) fid (word cmd.cdw11.toNat) c.features }).nvmeDone cmd 0 0
  else s.nvmeDone cmd 0 nvmeInvalidField

/-- One Error Information entry. -/
def errorEntry (x : Nat × NvmeCmd × Nat) : List Byte :=
  let (n, cmd, st) := x
  leBytes 8 n ++ leBytes 2 cmd.sq ++ leBytes 2 cmd.cid ++ leBytes 2 (2 * st) ++ [0xFF, 0xFF]
    ++ leBytes 4 cmd.cdw10.toNat ++ leBytes 4 cmd.cdw11.toNat ++ leBytes 4 cmd.nsid ++ zeros 36

/-- Get Log Page: Error Information and SMART / Health Information, whose values the manual does not give. -/
def State.getLogPage (cmd : NvmeCmd) (s : State) : State :=
  let n := 4 * (bits cmd.cdw10 31 16 + bits cmd.cdw11 15 0 * 2 ^ 16 + 1)
  let reply := fun (page : List Byte) (s : State) => (s.prpWrite cmd n 0 (page.take n)).nvmeDone cmd 0 0
  match bits cmd.cdw10 7 0 with
  | 1 =>
    let size := 64 * (Config.nvmeLimit 1 % 256 + 1)
    reply (slice (((s.ctrl cmd.fn).errors).flatMap errorEntry) 0 size) s
  | 2 => let (page, s) := s.randomBytes 512; reply page s
  | _ => s.nvmeDone cmd 0 (nvmeDnr + 0x109)

/-- An asynchronous event of type Error completes one outstanding request; without one it is not reported. -/
def State.asyncError (f : Party) (info : Nat) (s : State) : State :=
  match (s.ctrl f).aers with
  | [] => s
  | a :: as => (s.modCtrl f fun c => { c with aers := as }).nvmeDone a (info * 2 ^ 8 + 1 * 2 ^ 16) 0

/-- Abort: a command that is held, or that has not yet begun, completes as aborted; result bit 0 tells when none is. -/
def State.abortCmd (cmd : NvmeCmd) (s : State) : State :=
  let f := cmd.fn
  let hit := fun (x : NvmeCmd) => x.fn = f ∧ x.sq = bits cmd.cdw10 15 0 ∧ x.cid = bits cmd.cdw10 31 16
  let c := s.ctrl f
  match c.aers.find? (fun x => decide (hit x)), c.delayed.find? (fun x => decide (hit x.1)) with
  | some x, _ =>
    ((s.modCtrl f fun c => { c with aers := c.aers.filter (· ≠ x) }).nvmeDone x 0 nvmeAborted).nvmeDone cmd 0 0
  | none, some x =>
    ((s.modCtrl f fun c => { c with delayed := c.delayed.filter (· ≠ x) }).nvmeDone x.1 0 nvmeAborted).nvmeDone cmd 0 0
  | none, none =>
    let ps := s.pieces.filter fun p => decide (hit p.cmd) && !p.orphan
    match ps.head? with
    | some p =>
      if ps.all (fun p => decide (p.phase = .overlap ∨ p.phase = .journal)) then
        let s := { s with pieces := s.pieces.filter fun q => q.group != p.group }
        (s.ioDone p.cmd nvmeAborted 0 0).storageSettle.nvmeDone cmd 0 0
      else s.nvmeDone cmd 1 0
    | none => s.nvmeDone cmd 1 0

/-- Asynchronous Event Request. -/
def State.asyncEvent (cmd : NvmeCmd) (s : State) : State :=
  if Config.nvmeLimit 0 % 256 + 1 ≤ (s.ctrl cmd.fn).aers.length then s.nvmeDone cmd 0 nvmeAerLimit
  else s.modCtrl cmd.fn fun c => { c with aers := c.aers ++ [cmd] }

/-! ## I/O commands (R264 to R268) -/

/-- A piece of a command, not yet begun. -/
def freshPiece (id g : Nat) (cmd : NvmeCmd) (ns : Nat) (kind : PieceKind) (start blocks : Nat) (small : Bool)
    (parts : List Part) : Piece :=
  { id := id, group := g, cmd := cmd, ns := ns, kind := kind, start := start, blocks := blocks, small := small,
    phase := .overlap, slot := none, before := none, image := [], status := none, orphan := false, replay := false,
    wasKept := false, parts := parts }

/-- The namespace of an I/O command, where it can be served. -/
def State.onNamespace (cmd : NvmeCmd) (f : Nat → Namespace → State → State) (s : State) : State :=
  match s.nsOf cmd.fn cmd.nsid with
  | none => s.ioDone cmd nvmeInvalidNs 0 0
  | some (i, n) => if s.nsNotReady i then s.ioDone cmd nvmeNotReady 0 0 else f i n s

/-- Read, Write and Write Zeroes: the LBA range, checked, divided and started. A read of the data that failed ends a Write
with Data Transfer Error (R228; log entry 63). -/
def State.transfer (cmd : NvmeCmd) (kind : PieceKind) (data : Option (List Byte)) (s : State) : State :=
  s.onNamespace cmd fun i n s =>
    let lo := cmd.cdw10.toNat + cmd.cdw11.toNat * 2 ^ 32
    let len := bits cmd.cdw12 15 0 + 1
    if n.size < lo + len then s.ioDone cmd nvmeOutOfRange 0 0
    else if kind ≠ .zeroes ∧ 0x100000 < len * n.lbaBytes then s.ioDone cmd nvmeInvalidField 0 0
    else if data.isNone then s.ioDone cmd nvmeTransfer 0 0
    else
      let data := if kind = .write then slice (data.getD []) 0 (len * n.lbaBytes) else []
      let small := decide (len * n.lbaBytes ≤ 65536)
      let ranges := if kind = .read then [(lo, len)] else n.piecesOf lo len
      s.addPieces fun id g => ranges.mapIdx fun k (a, m) =>
        freshPiece (id + k) g cmd i kind lo len small (n.partsOf a m data lo)

/-- Dataset Management, Deallocate: each range is deallocated in order with the other commands; with no range, or with
another attribute, nothing is done. -/
def State.deallocate (cmd : NvmeCmd) (ranges : Option (List (Nat × Nat))) (s : State) : State :=
  s.onNamespace cmd fun i n s =>
    let rs := ((ranges.getD []).take (bits cmd.cdw10 7 0 + 1)).filter fun r => decide (0 < r.2)
    if ranges.isNone then s.ioDone cmd nvmeTransfer 0 0
    else if rs.any (fun r => decide (n.size < r.1 + r.2)) then s.ioDone cmd nvmeOutOfRange 0 0
    else if !bit cmd.cdw11 2 ∨ rs = [] then s.ioDone cmd 0 0 0
    else s.addPieces fun id g => rs.mapIdx fun k (a, m) =>
      freshPiece (id + k) g cmd i .deallocate a m false (n.partsOf a m [] a)

/-- Flush completes without waiting (R261); each remote target of the namespace that can be reached is sent one (R263; log
entry 62). -/
def State.flushCmd (cmd : NvmeCmd) : State → State := State.onNamespace cmd fun _ n s =>
  let ask := fun (e : Extent) (s : State) =>
    let (c, s) := s.sqe none e.nsid 0 0 0
    s.emit (.capsule none (Config.remoteQp e.target) c [])
  (forAll (n.extents.filter fun e => e.remote && s.reachable e) ask s).ioDone cmd 0 0 0

/-! ## Fetching and carrying out (R261, R269) -/

/-- An I/O command. -/
def NvmeOp.isIo (op : NvmeOp) : Bool :=
  match op with
  | .read | .write _ | .flush | .zeroes | .deallocate _ => true
  | _ => false

/-- A command carried out. Fused operations and SGLs are not supported: a command that asks for one ends with Invalid Field
in Command (R261; log entry 63). -/
def State.runNvme (op : NvmeOp) (cmd : NvmeCmd) (s : State) : State :=
  if cmd.fuse ≠ 0 ∨ cmd.psdt ≠ 0 then
    if op.isIo then s.ioDone cmd nvmeInvalidField 0 0 else s.nvmeDone cmd 0 nvmeInvalidField
  else match op with
  | .identify => s.identify cmd
  | .getFeatures => s.getFeatures cmd
  | .setFeatures => s.setFeatures cmd
  | .createSq => s.createSq cmd
  | .createCq => s.createCq cmd
  | .deleteSq => s.deleteSq cmd
  | .deleteCq => s.deleteCq cmd
  | .getLogPage => s.getLogPage cmd
  | .abort => s.abortCmd cmd
  | .asyncEvent => s.asyncEvent cmd
  | .read => s.transfer cmd .read (some [])
  | .write data => s.transfer cmd .write data
  | .flush => s.flushCmd cmd
  | .zeroes => s.transfer cmd .zeroes (some [])
  | .deallocate ranges => s.deallocate cmd ranges

/-- The entry at the head of a submission queue has left it. -/
def State.takeHead (f : Party) (qid : Nat) : State → State := State.modCtrl f fun c =>
  { c with sqs := c.sqs.map fun y => if y.qid = qid then { y with head := (y.head + 1) % y.size } else y }

/-- The read of the entry at the head of a submission queue is held: it has not gone out (R232, R233). -/
def State.headHeld (s : State) (f : Party) (q : NvQueue) : Bool :=
  let at_ := q.base + 64 * q.head
  (f.pfIndex.any fun p => (s.link p).held.any fun h => decide (h.ring = q.ring) && (match h.out with
    | .dmaRead _ _ a n => decide (a ≤ at_ ∧ at_ < a + n)
    | _ => false))

/-- A command fetched from its submission queue: the head advances; during a power state entry the command is delayed;
an I/O command in PS1 or PS2 returns the controller to PS0 first (R261, R269). -/
def State.fetchNvme (op : NvmeOp) (cmd : NvmeCmd) (s : State) : State :=
  let f := cmd.fn
  let c := s.ctrl f
  match c.sq cmd.sq with
  | none => s
  | some q =>
    if !c.ready ∨ s.dmaLost f ∨ s.headHeld f q ∨ q.head = q.tail ∨ op.isIo ≠ decide (cmd.sq ≠ 0) then s
    else
      let s := s.takeHead f q.qid
      if c.psTarget.isSome then
        (s.modCtrl f fun c => { c with delayed := c.delayed ++ [(cmd, op)] }).count Reg.NVME_CNT_PS_DELAYED
      else if op.isIo ∧ c.ps ≠ 0 then (s.setPs f 0).runNvme op cmd
      else s.runNvme op cmd

/-- The read of a command, or of its data, has failed: the command at the head ends with Data Transfer Error, with its
identifier, a free one where its own was not read (R228; log entry 63). -/
def State.failNvme (f : Party) (ring : Nat) (entry : Option (BitVec 32)) (s : State) : State :=
  let c := s.ctrl f
  match c.sqs.find? fun q => decide (q.ring = ring) with
  | none => s
  | some q =>
    if !c.ready ∨ q.head = q.tail then s
    else
      let cid := match entry with
        | some e => e.toNat % 65536
        | none => Config.freeNat s.free % 65536
      let s := { s with free := s.free + b2n entry.isNone }.takeHead f q.qid
      let cmd : NvmeCmd := ⟨f, q.qid, cid, 0, 0, 0, 0, 0, 0, [], 0, 0⟩
      if q.qid = 0 then s.nvmeDone cmd 0 nvmeTransfer else s.ioDone cmd nvmeTransfer 0 0

/-- A power state entry finishes; commands that came during it return the controller to PS0 and are carried out. -/
def psEntryDone (f : Party) (s : State) : State :=
  let c := s.ctrl f
  match c.psTarget with
  | none => s
  | some (ps, cmd) =>
    let s := s.modCtrl f fun c => { c with psTarget := none, delayed := [] }
    let s := (s.setPs f (if c.delayed = [] then ps else 0)).nvmeDone cmd 0 0
    (forAll c.delayed (fun (x, op) s =>
      if (s.ctrl f).psTarget.isSome then s.modCtrl f fun c => { c with delayed := c.delayed ++ [(x, op)] }
      else s.runNvme op x) s).storageSettle

/-! ## CC.EN and doorbells (R260, R261) -/

/-- The window offsets of the writable NVMe registers. -/
abbrev nvmeAqa : Nat := 0x24
abbrev nvmeAsq : Nat := 0x28
abbrev nvmeAcq : Nat := 0x30

def Ctrl.setProp (o : Nat) (v : Word) (c : Ctrl) : Ctrl := { c with props := Store.put (fun _ => 0) o v c.props }

/-- The controller starts: its admin queues take two ring contexts, and CSTS.RDY reads 1, once the journal is resolved
(R267). Without two it stays as it is. -/
def ccEnSet (f : Party) (s : State) : State :=
  let c := s.ctrl f
  if !s.hasCtrl f then s.ignored
  else if c.enabled then s
  else
    let aqa := c.prop nvmeAqa
    let asq := (c.prop nvmeAsq).toNat
    let acq := (c.prop nvmeAcq).toNat
    match s.freeRing f with
    | none => s
    | some r1 =>
      let t := s.claimRing f r1 10 asq
      match t.freeRing f with
      | none => s
      | some r2 =>
        let t := t.claimRing f r2 11 acq
        let sq : NvQueue := ⟨0, max 2 (bits aqa 11 0 + 1), 0, 0, 0, asq, false, false, r1⟩
        let cq : NvQueue := ⟨0, max 2 (bits aqa 27 16 + 1), 0, 0, 0, acq, true, true, r2⟩
        t.modCtrl f fun c =>
          { (c.setProp nvmeCc (setBits (c.prop nvmeCc) 0 0 1)) with
            enabled := true, ready := !s.replaying, sqs := [sq], cqs := [cq] }

/-- A command held by a power state entry that writes data already fetched, which its namespace can take (R261, R269). -/
def State.heldWrite (s : State) (x : NvmeCmd × NvmeOp) : Bool :=
  let cmd := x.1
  let n := bits cmd.cdw12 15 0 + 1
  let kind : Option Bool := match x.2 with
    | .write (some _) => some true
    | .zeroes => some false
    | _ => none
  decide (cmd.fuse = 0 ∧ cmd.psdt = 0) && kind.any fun data =>
    (s.nsOf cmd.fn cmd.nsid).any fun y =>
      !s.nsNotReady y.1 && decide (cmd.cdw10.toNat + cmd.cdw11.toNat * 2 ^ 32 + n ≤ y.2.size)
        && (!data || decide (n * y.2.lbaBytes ≤ 0x100000))

/-- The controller stops: its queues go, CSTS.RDY reads 0, and its commands are discarded. As CC.EN cleared does it (apply),
writes whose data has been fetched are applied, those that a power state entry holds among them; a journaled write always is
(R261). -/
def State.ctrlReset (f : Party) (apply : Bool) (s : State) : State :=
  let c := s.ctrl f
  if !c.enabled then s
  else
    let s := forAll (c.sqs ++ c.cqs) (fun q s => s.freeNvRing q) s
    let s := withDrives (fun s => s.modCtrl f fun c =>
      { Ctrl.reset with props := (c.setProp nvmeCc (setBits (c.prop nvmeCc) 0 0 0)).props }) s
    let s := if apply then forAll (c.delayed.filter s.heldWrite) (fun (cmd, op) s => s.runNvme op cmd) s else s
    s.dropPieces f (if apply then Piece.writes else Piece.journaled)

/-- CC.EN cleared (R261): writes whose data has been fetched are applied. -/
def ccEnClear (f : Party) (s : State) : State := if s.hasCtrl f then s.ctrlReset f true else s.ignored

/-- The entries between a submission queue's tail and its new one, as (first, count), in order round the queue. -/
def NvQueue.newEntries (q : NvQueue) (n : Nat) : List (Nat × Nat) :=
  (if q.tail ≤ n then [(q.tail, n - q.tail)] else [(q.tail, q.size - q.tail), (0, n)]).filter fun x => decide (x.2 ≠ 0)

/-- A doorbell of a virtual controller: an SQ's tail, at which the new entries are read, or a CQ's head. An invalid queue or value is an error event. -/
def nvmeDoorbell (who : Party) (q : Nat) (cq : Bool) (v : BitVec 32) (s : State) : State :=
  let c := s.ctrl who
  let n := bits v 15 0
  if !s.hasCtrl who then s.ignored
  else if !c.ready then s
  else
    match (if cq then c.cq q else c.sq q) with
    | none => s.asyncError who 0
    | some x =>
      if x.size ≤ n then s.asyncError who 1
      else if cq then
        (s.modCtrl who fun c =>
          { c with cqs := c.cqs.map fun y => if y.qid = q then { y with head := n } else y }).nvmeFlushPosts who
      else
        let s := s.modCtrl who fun c =>
          { c with sqs := c.sqs.map fun y => if y.qid = q then { y with tail := n } else y }
        forAll (x.newEntries n) (fun (a, k) s => s.dma who 2 x.ring none (.dmaRead who x.ring (x.base + 64 * a) (64 * k))) s

/-! ## Namespace commands (R262) -/

/-- An extent from its 32-byte entry. -/
def extentOf (b : List Byte) : Extent :=
  ⟨decide (leField b 0 1 = 1), leField b 1 1, leField b 4 4, leField b 8 8, leField b 16 8⟩

/-- LBAs and format of the backing namespace of an extent; none where it is absent. -/
def State.backingOf (s : State) (e : Extent) : Option (Nat × Bool) :=
  if e.remote then
    let n := Config.remoteLbas e.target e.nsid
    if n = 0 then none else some (n, Config.remoteIs4k e.target e.nsid)
  else ((s.drive e.target).spaces.find? fun x => x.1 == e.nsid).map (·.2)

/-- The backing of an extent is there, of the namespace's LBA size, and long enough. -/
def State.backed (s : State) (fmt4k : Bool) (e : Extent) : Bool :=
  match s.backingOf e with
  | some (n, k) => decide (k = fmt4k) && decide (e.start + e.count ≤ n)
  | none => false

/-- Two extents share backing LBAs. -/
def Extent.meets (a b : Extent) : Bool :=
  decide (a.remote = b.remote ∧ a.target = b.target ∧ a.nsid = b.nsid) && overlaps a.start a.count b.start b.count

/-- The range of an enabled drain target (R175). -/
def State.drainExtent (s : State) (m : Nat) : Option Extent :=
  let t := s.reg (Reg.AUD_DRAIN_TGT m)
  if s.drainOn m then
    some ⟨false, bits t 7 4, bits t 63 32, (s.reg (Reg.AUD_DRAIN_BASE m)).toNat, 257 * s.drainSlots⟩
  else none

/-- 0x50 NS_CREATE. -/
def nsCreate (c : Nat) (list : Option (List Byte)) : State → State := onAdmin c 0x50 fun t _ s =>
  let p0 := adminParam t.desc 0
  let i := bits p0 13 0
  let n := bits p0 24 20
  match list with
  | none => s.adminDone c t adminFetch 0
  | some b =>
    let es := (List.range n).map fun k => extentOf (slice b (32 * k) 32)
    let others := s.spaceList.flatMap (·.2.extents) ++ [0, 1].filterMap s.drainExtent
    if (s.space i).isSome then s.adminDone c t 1 0
    else if n = 0 ∨ 16 < n ∨ !es.all (s.backed (bit p0 16))
        ∨ (List.range n).any (fun k => decide (1 < leField b (32 * k) 1)) then
      s.adminDone c t 2 0
    else if es.any (fun e => others.any e.meets) then s.adminDone c t 3 0
    else (s.setSpace i (some ⟨bit p0 16, es, none, none⟩)).adminDone c t 0 0

/-- 0x51 NS_DELETE. -/
def nsDelete (c : Nat) : State → State := onAdmin c 0x51 fun t _ s =>
  let i := bits (adminParam t.desc 0) 13 0
  if (s.space i).any (fun n => n.attached.isSome) then s.adminDone c t 4 0
  else (s.setSpace i none).adminDone c t 0 0

/-- 0x52 NS_ATTACH. -/
def nsAttach (c : Nat) : State → State := onAdmin c 0x52 fun t _ s =>
  let p0 := adminParam t.desc 0
  let i := bits p0 13 0
  let p := bits p0 31 28
  let v := bits p0 27 16
  let f : Party := if v = 0 then .pf p else .vf p v
  let nsid := bits p0 41 32 + 1
  match s.space i with
  | none => s.adminDone c t 5 0
  | some n =>
    if n.attached.isSome ∨ (s.nsOf f nsid).isSome then s.adminDone c t 1 0
    else if !s.hasCtrl f ∨ bits (s.usable f 2) 26 16 ≤ (s.nsAttached f).length then s.adminDone c t 5 0
    else (withDrives (fun s => s.setSpace i (some { n with attached := some (f, nsid) })) s).adminDone c t 0 0

/-- 0x53 NS_DETACH. -/
def nsDetach (c : Nat) : State → State := onAdmin c 0x53 fun t _ s =>
  let i := bits (adminParam t.desc 0) 13 0
  match s.space i with
  | none => s.adminDone c t 6 0
  | some n =>
    if n.attached.isNone then s.adminDone c t 6 0
    else
      let waits := n.detach.getD [] ++ [(c, t.cursor)]
      ((s.startEntry c t.cursor).setSpace i (some { n with detach := some waits })).finishDetach i

/-! ## Parts and drives (R266 to R270) -/

/-- The oldest piece that waits for the journal takes its slots (R266). -/
def journalSlotTaken (s : State) : State :=
  match s.pieces.find? fun p => decide (p.phase = .journal) with
  | none => s
  | some p =>
    let slots := s.freeSlots p.slotsWanted
    if slots.length = p.slotsWanted then (s.slotPiece p.id slots).storageSettle else s

/-- A backing command on a root port has failed (R271). -/
def State.countPortErr (x : Part) (s : State) : State :=
  if x.extent.remote then s else s.count (Reg.NVME_RP_CNT_ERR x.extent.target)

/-- What came of a part at its target. -/
def partComplete (i k : Nat) (r : PartResult) (s : State) : State :=
  match s.piece i with
  | none => s
  | some p =>
    match p.parts[k]? with
    | none => s
    | some x =>
      if x.st ≠ .flying then s
      else
        let set := fun (y : Part) (s : State) => s.modPiece i fun p => { p with parts := p.parts.set k y }
        match r with
        | .ok d =>
          let s := set { x with st := .ok, data := if p.kind = .read then d else x.data } s
          (if p.phase = .before then s.modPiece i fun p => { p with image := p.image.set k d } else s).storageSettle
        | .error => ((set (x.fail false) s).countPortErr x).storageSettle
        | .unreachable => ((set (x.fail true) s).countPortErr x).storageSettle

/-- No answer within 2 s: the part fails (R268). -/
def partTimeout (i k : Nat) : State → State := partComplete i k .error

/-- A failed part is retried once (R268). -/
def partRetry (i k : Nat) (s : State) : State :=
  match (s.piece i).bind fun p => p.parts[k]? with
  | none => s
  | some x =>
    if x.st = .due then
      let s := s.modPiece i fun p => { p with parts := p.parts.set k { x with st := .idle, retried := true } }
      ((s.count Reg.NVME_CNT_EXTENT_FAIL).issuePart i k).storageSettle
    else s

/-- Every second a kept slot is tried again; ok tells that every part of it was written (R268). -/
def nsReadyRetry (i : Nat) (ok : Bool) (s : State) : State :=
  match s.piece i with
  | none => s
  | some p =>
    if p.phase ≠ .kept then s
    else
      let s := s.retryKept i
      if ok then
        (s.modPiece i fun p => { p with parts := p.parts.map fun x => if x.st = .idle then x else { x with st := .ok } }).storageSettle
      else s.modPiece i fun p => { p with phase := .kept }

/-- A drive is removed or lost (R270). -/
def driveRemoved (n : Nat) (s : State) : State :=
  if !(s.drive n).active then s
  else
    let s := (s.modDrive n fun _ => Drive.absent).count (Reg.NVME_RP_CNT_REMOVED n)
    let hit := fun (x : Part) => decide (x.st = .flying) && !x.extent.remote && decide (x.extent.target = n)
    let s := s.countBy (Reg.NVME_RP_CNT_ERR n) ((s.pieces.map fun p => (p.parts.filter hit).length).sum)
    let cut := fun (p : Piece) => { p with parts := p.parts.map fun x => if hit x then x.fail true else x }
    { s with pieces := s.pieces.map cut }.storageSettle

/-- A drive returns to a port in use and is enumerated: kept slots of namespaces on it are carried out (R267, R270,
R272). -/
def driveReturned (n nsid lbas : Nat) (fmt4k : Bool) (s : State) : State :=
  if !bit (s.reg (Reg.NVME_RP_CFG n)) 0 then s
  else
  let s := withDrives (State.modDrive n fun d =>
    { d with active := true, ready := true, spaces := (nsid, lbas, fmt4k) :: d.spaces.filter (·.1 != nsid) }) s
  let kept := s.pieces.filter fun p => decide (p.phase = .kept) &&
    p.parts.any (fun x => !x.extent.remote && decide (x.extent.target = n)) && p.parts.all (fun x => s.reachable x.extent)
  (forAll (kept.map (·.id)) State.retryKept s).storageSettle

/-! ## The meanings -/

/-- A command fetched over the function's link, with the data its reads brought. -/
def nvmeFetch (i : Instr) (op : NvmeOp) (cmd : NvmeCmd) : State → State :=
  whenClocked (onLink cmd.fn i (State.fetchNvme op cmd))

def execIdentify (cmd : NvmeCmd) (s : State) : Answer :=
  within (Instr.wf (.identify cmd)) (nvmeFetch (.identify cmd) .identify cmd s) s

def execGetFeatures (cmd : NvmeCmd) (s : State) : Answer :=
  within (Instr.wf (.getFeatures cmd)) (nvmeFetch (.getFeatures cmd) .getFeatures cmd s) s

def execSetFeatures (cmd : NvmeCmd) (s : State) : Answer :=
  within (Instr.wf (.setFeatures cmd)) (nvmeFetch (.setFeatures cmd) .setFeatures cmd s) s

def execCreateIoSq (cmd : NvmeCmd) (s : State) : Answer :=
  within (Instr.wf (.createIoSq cmd)) (nvmeFetch (.createIoSq cmd) .createSq cmd s) s

def execCreateIoCq (cmd : NvmeCmd) (s : State) : Answer :=
  within (Instr.wf (.createIoCq cmd)) (nvmeFetch (.createIoCq cmd) .createCq cmd s) s

def execDeleteIoSq (cmd : NvmeCmd) (s : State) : Answer :=
  within (Instr.wf (.deleteIoSq cmd)) (nvmeFetch (.deleteIoSq cmd) .deleteSq cmd s) s

def execDeleteIoCq (cmd : NvmeCmd) (s : State) : Answer :=
  within (Instr.wf (.deleteIoCq cmd)) (nvmeFetch (.deleteIoCq cmd) .deleteCq cmd s) s

def execGetLogPage (cmd : NvmeCmd) (s : State) : Answer :=
  within (Instr.wf (.getLogPage cmd)) (nvmeFetch (.getLogPage cmd) .getLogPage cmd s) s

def execAbort (cmd : NvmeCmd) (s : State) : Answer :=
  within (Instr.wf (.abort cmd)) (nvmeFetch (.abort cmd) .abort cmd s) s

def execAsynchronousEventRequest (cmd : NvmeCmd) (s : State) : Answer :=
  within (Instr.wf (.asynchronousEventRequest cmd)) (nvmeFetch (.asynchronousEventRequest cmd) .asyncEvent cmd s) s

def execNvmeRead (cmd : NvmeCmd) (s : State) : Answer :=
  within (Instr.wf (.nvmeRead cmd)) (nvmeFetch (.nvmeRead cmd) .read cmd s) s

def execNvmeWrite (cmd : NvmeCmd) (data : Option (List Byte)) (s : State) : Answer :=
  within (Instr.wf (.nvmeWrite cmd data)) (nvmeFetch (.nvmeWrite cmd data) (.write data) cmd s) s

def execFlush (cmd : NvmeCmd) (s : State) : Answer :=
  within (Instr.wf (.flush cmd)) (nvmeFetch (.flush cmd) .flush cmd s) s

def execWriteZeroes (cmd : NvmeCmd) (s : State) : Answer :=
  within (Instr.wf (.writeZeroes cmd)) (nvmeFetch (.writeZeroes cmd) .zeroes cmd s) s

def execDatasetManagement (cmd : NvmeCmd) (ranges : Option (List (Nat × Nat))) (s : State) : Answer :=
  within (Instr.wf (.datasetManagement cmd ranges)) (nvmeFetch (.datasetManagement cmd ranges) (.deallocate ranges) cmd s) s

def execCcEnClear (fn : Party) (s : State) : Answer :=
  within (Instr.wf (.ccEnClear fn)) (busWrite fn false false (ccEnClear fn) s) s

def execCcEnSet (fn : Party) (s : State) : Answer :=
  within (Instr.wf (.ccEnSet fn)) (busWrite fn false false (ccEnSet fn) s) s

def execNvmeDoorbell (who : Party) (q : Nat) (cq : Bool) (v : BitVec 32) (s : State) : Answer :=
  within (Instr.wf (.nvmeDoorbell who q cq v)) (busWrite who false false (nvmeDoorbell who q cq v) s) s

def execNsCreate (ring : Nat) (extents : Option (List Byte)) (s : State) : Answer :=
  within (Instr.wf (.nsCreate ring extents)) (whenClocked (onLink (s.ring ring).owner (.nsCreate ring extents)
      (nsCreate ring extents)) s) s

def execNsDelete (ring : Nat) (s : State) : Answer :=
  within (Instr.wf (.nsDelete ring)) (whenClocked (nsDelete ring) s) s

def execNsAttach (ring : Nat) (s : State) : Answer :=
  within (Instr.wf (.nsAttach ring)) (whenClocked (nsAttach ring) s) s

def execNsDetach (ring : Nat) (s : State) : Answer :=
  within (Instr.wf (.nsDetach ring)) (whenClocked (nsDetach ring) s) s

def execJournalSlotTaken (s : State) : Answer :=
  within (Instr.wf .journalSlotTaken) (whenClocked journalSlotTaken s) s

def execPartComplete (piece part : Nat) (r : PartResult) (s : State) : Answer :=
  within (Instr.wf (.partComplete piece part r)) (whenClocked (partComplete piece part r) s) s

def execPartTimeout (piece part : Nat) (s : State) : Answer :=
  within (Instr.wf (.partTimeout piece part)) (whenClocked (partTimeout piece part) s) s

def execPartRetry (piece part : Nat) (s : State) : Answer :=
  within (Instr.wf (.partRetry piece part)) (whenClocked (partRetry piece part) s) s

def execNsReadyRetry (piece : Nat) (ok : Bool) (s : State) : Answer :=
  within (Instr.wf (.nsReadyRetry piece ok)) (whenClocked (nsReadyRetry piece ok) s) s

def execPsEntryDone (fn : Party) (s : State) : Answer :=
  within (Instr.wf (.psEntryDone fn)) (whenClocked (psEntryDone fn) s) s

def execDriveRemoved (n : Nat) (s : State) : Answer :=
  within (Instr.wf (.driveRemoved n)) (whenClocked (driveRemoved n) s) s

def execDriveReturned (n nsid lbas : Nat) (fmt4k : Bool) (s : State) : Answer :=
  within (Instr.wf (.driveReturned n nsid lbas fmt4k)) (whenClocked (driveReturned n nsid lbas fmt4k) s) s

end Sys2Proof.Machine
end

