-- ==== Sys2Proof/Machine/Functions.lean ====
section
/-! DEFINITION. Machine/Functions.lean: shares of virtual functions, their enlargement and reduction, mailboxes, the
reset of a VF and the host ABI (R291 to R308; log entry 66). -/

namespace Sys2Proof.Machine

/-! ## Shares (R293, R295, R296) -/

/-- The ten share words in force. -/
def State.shareWords (s : State) (p v : Nat) : List Word := (List.range 10).map fun w => s.voted (shareKey p v w)

/-- A word of a share, the bits the map gives it. -/
def shareMask (w : Nat) (x : Word) : Word :=
  x &&& match w with
    | 0 => 0x03FFFFFF | 1 => 0x07FF3FFF | 2 => 0x0001FFFF07FF7F7F | 3 => 0x1FFF0FFF | 4 => 0x1FFFFFFFF
    | _ => 0xFFFFFFFFFFFFFFFF

/-- A range of a share: base and count. -/
def shareRange (ws : List Word) : Nat → Nat × Nat
  | 0 => (bits (ws.getD 0 0) 15 0, bits (ws.getD 0 0) 25 16)
  | 1 => (bits (ws.getD 1 0) 13 0, bits (ws.getD 1 0) 26 16)
  | 2 => (bits (ws.getD 3 0) 11 0, bits (ws.getD 3 0) 28 16)
  | _ => (bits (ws.getD 4 0) 15 0, bits (ws.getD 4 0) 32 16)

/-- Limits of the four kinds of range: per VF and device total. -/
def rangeLimit : Nat → Nat × Nat
  | 0 => (512, 65536) | 1 => (1024, 16384) | 2 => (4096, 4096) | _ => (65536, 65536)

/-- A count of a share, and its limits: vectors, NVMe queue pairs, namespaces, QPs. -/
def shareCount (ws : List Word) : Nat → Nat
  | 0 => bits (ws.getD 2 0) 6 0
  | 1 => bits (ws.getD 2 0) 14 8
  | 2 => bits (ws.getD 2 0) 26 16
  | _ => bits (ws.getD 2 0) 48 32

def countLimit : Nat → Nat × Option Nat
  | 0 => (64, none) | 1 => (64, none) | 2 => (1024, some 16384) | _ => (65536, some 262142)

/-- A field is above its limit per VF. -/
def aboveLimit (ws : List Word) : Bool :=
  [0, 1, 2, 3].any fun k => decide ((rangeLimit k).1 < (shareRange ws k).2 ∨ (countLimit k).1 < shareCount ws k)

/-- A range ends beyond the device's, or a total is above the device's, beside the other functions' shares. -/
def aboveTotal (ws : List Word) (others : List (List Word)) : Bool :=
  ([0, 1, 2, 3].any fun k =>
    let (b, n) := shareRange ws k
    decide ((rangeLimit k).2 < b + n ∨ (rangeLimit k).2 < n + (others.map fun o => (shareRange o k).2).sum))
  || [0, 1, 2, 3].any fun k =>
    (countLimit k).2.any fun t => decide (t < shareCount ws k + (others.map fun o => shareCount o k).sum)

/-- A VF's share exceeds a limit of R293. -/
def shareExceeds (ws : List Word) (others : List (List Word)) : Bool := aboveLimit ws || aboveTotal ws others

/-- A range overlaps another function's. -/
def shareOverlaps (ws : List Word) (others : List (List Word)) : Bool :=
  [0, 1, 2, 3].any fun k =>
    let (b, n) := shareRange ws k
    others.any fun o => let (c, m) := shareRange o k; decide (0 < n ∧ 0 < m) && overlaps b n c m

/-- The functions whose shares are held: every PF, and every VF in existence. -/
def State.shareHolders (s : State) : List (Nat × Nat) :=
  let keys := s.regs.filterMap fun (k, _) =>
    let i := (k - 0x40000000) / 0x10000
    if 0x40000000 ≤ k ∧ 0x200 ≤ k % 0x10000 ∧ k % 0x10000 < 0x250 then some (i / 4096, i % 4096) else none
  keys.dedup.filter fun (p, v) => decide (v = 0) || s.vfExists p v

/-- The shares of the other functions. -/
def State.otherShares (s : State) (p v : Nat) : List (List Word) :=
  (s.shareHolders.filter fun x => x != (p, v)).map fun (p, v) => s.shareWords p v

/-- Numbers of a range that another range does not hold. -/
def rangeLost (a b : Nat × Nat) : List Nat :=
  ((List.range a.2).map (a.1 + ·)).filter fun i => !decide (b.1 ≤ i ∧ i < b.1 + b.2)

/-- Bit k: row k of R293 loses something between two shares. -/
def shareLoses (old new : List Word) : Nat :=
  let r := fun k => !(rangeLost (shareRange old k) (shareRange new k)).isEmpty
  let c := fun k => decide (shareCount new k < shareCount old k)
  let m := fun w => decide (old.getD w 0 &&& ~~~(new.getD w 0) ≠ 0)
  ([r 0, c 0, r 1, c 1, c 2, c 3, r 2, r 3, [6, 7, 8, 9].any m, m 5].zipIdx.map fun (b, i) => b2n b * 2 ^ i).sum

/-- The share written into its registers; a pending vector that it takes in sends its message (R222). -/
def State.setShare (p v : Nat) (ws : List Word) (s : State) : State :=
  ((List.range 10).foldl (fun s w => s.setRv (shareKey p v w) (shareMask w (ws.getD w 0))) s).msixSettle (.vf p v)

/-- A departing key slot or ring context is in use (R296): AUD_CFG.KEY_SLOT names its slot whether or not the chain is
keyed. -/
def State.shareInUse (s : State) (old new : List Word) : Bool :=
  ((rangeLost (shareRange old 1) (shareRange new 1)).any fun i =>
    s.saNames i || decide (bits (s.reg Reg.AUD_CFG) 45 32 = i))
  || (rangeLost (shareRange old 0) (shareRange new 0)).any fun c =>
    (List.range 16).any fun d => s.isOpen d && decide (s.seqRing d false = c ∨ s.seqRing d true = c)

/-- VF_GRACE in ns (R297, R308). -/
def State.vfGrace (s : State) : Nat := max 1 (bits (s.reg Reg.VFM_CFG) 25 16) * 1000000

/-- Admin 0x30 VF_SHARE_SET (R296, R297). -/
def vfShareSet (c : Nat) (block : Option (List Byte)) : State → State := onAdmin c 0x30 fun t o s =>
  match t.data block with
  | none => s.adminDone c t adminFetch 0
  | some b =>
    let p := o.pfIndex.getD 0
    let v := bits (adminParam t.desc 0) 11 0
    let new := (List.range 10).map fun w => shareMask w (word (leField b (8 * w) 8))
    let old := s.shareWords p v
    let others := s.otherShares p v
    if ((s.vfState p v).shrink).isSome then s.adminDone c t 4 0
    else if v = 0 ∨ 2048 < v ∨ shareExceeds new others then s.adminDone c t 2 0
    else if shareOverlaps new others then s.adminDone c t 1 0
    else if s.shareInUse old new then s.adminDone c t 3 0
    else if shareLoses old new = 0 ∨ !s.vfExists p v then (s.setShare p v new).adminDone c t 0 0
    else
      let x : Shrink := ⟨c, t.cursor, t.tally, new, s.dialNs + s.vfGrace, false, false, false, false⟩
      (s.startEntry c t.cursor).modVf p v fun f => { f with shrink := some x }

/-! ## Mailboxes (R299 to R302) -/

/-- The VF's vector for its mailbox. -/
def State.vfMboxIrq (p v : Nat) (s : State) : State :=
  let cfg := s.reg (Reg.VF_MBOX_CFG p v)
  if bit cfg 7 then s.msix (.vf p v) (bits cfg 5 0) else s

/-- The message words of a buffer. -/
def State.mboxBytes (s : State) (key : Nat → Nat) : List Byte :=
  (List.range 8).flatMap fun w => leBytes 8 (s.reg (key w)).toNat

/-- A mailbox write that the Moafa ignores. -/
def State.mboxIgnored (s : State) : State := s.count Reg.VFM_CNT_MBOX_IGNORED

/-- SHRINK_PENDING of a VF. -/
def State.shrinkPending (s : State) (p v : Nat) : Bool := (s.vfState p v).shrink.isSome

/-- The SHRINK message of a reduction, from the share it takes from (R301). -/
def shrinkWords (old : List Word) (x : Shrink) : List Word :=
  [word (0xF0 + shareLoses old x.new * 2 ^ 8), x.tally, word x.expires, 0, 0, 0, 0, 0]

/-- A SHRINK message placed in VF_MBOX_IN, with the VF's vector. -/
def State.placeShrink (p v : Nat) (ws : List Word) (late : Bool) (s : State) : State :=
  let s := (List.range 8).foldl (fun s w => s.setReg (Reg.VF_MBOX_IN p v w) (ws.getD w 0)) s
  let s := s.modVf p v fun f => { f with inFull := true, inShrink := true, lateShrink := late }
  (s.count (Reg.VF_CNT_MBOX_RECEIVED p v)).vfMboxIrq p v

/-- The SHRINK message is placed in VF_MBOX_IN once that is free (R297, R301); where a message of the PF held
VF_MBOX_IN until the reduction was over, it follows that message (R298). -/
def shrink (p v : Nat) (s : State) : State :=
  let f := s.vfState p v
  if f.inFull then s
  else
    match f.owed, f.shrink with
    | ws :: rest, _ => (s.modVf p v fun f => { f with owed := rest }).placeShrink p v ws true
    | [], some x =>
      if x.placed then s
      else
        (s.modVf p v fun f => { f with shrink := some { x with placed := true } }).placeShrink p v
          (shrinkWords (s.shareWords p v) x) x.expired
    | [], none => s

/-! ## Reductions (R293, R297, R298) -/

/-- The newest QPs of a function, most recent first. -/
def State.newestQps (s : State) (o : Party) : List Nat :=
  ((s.qpsOf o).mergeSort fun a b => decide (b.2.created ≤ a.2.created)).map (·.1)

/-- QPs beyond a count go to ERR and are destroyed (R293). -/
def State.trimQps (o : Party) (n : Nat) (s : State) : State :=
  let k := (s.qpsOf o).length - n
  (forAll ((s.newestQps o).take k) (fun q s => (s.qpError q).modQp q fun _ => Qp.none) s).noteQps

/-- The highest-numbered queues beyond a count are deleted; with none left the controller is gone (R260, R293). -/
def State.trimQueues (o : Party) (n : Nat) (s : State) : State :=
  if n = 0 then s.ctrlReset o true
  else
    let c := s.ctrl o
    let top := fun (qs : List NvQueue) =>
      (((qs.filter fun q => q.qid != 0).map (·.qid)).mergeSort fun a b => decide (b ≤ a)).take (qs.length - 1 - n)
    let s := forAll (top c.sqs) (fun q s => s.dropSq o q) s
    forAll (top c.cqs) (fun q s => s.dropCq o q) s

/-- The highest NSIDs beyond a count are detached (R293). -/
def State.trimSpaces (o : Party) (n : Nat) (s : State) : State :=
  let xs := (s.nsAttached o).mergeSort fun a b => decide (b.2.1 ≤ a.2.1)
  forAll (xs.take (xs.length - n)) (fun (i, _, x) s =>
    (s.setSpace i (some { x with detach := some (x.detach.getD []) })).finishDetach i) s

/-- A key slot zeroised as by KEY_DESTROY, its persistent copy included; while a started job holds the key it waits
(R191, R293). -/
def State.zeroiseKey (i : Nat) (s : State) : State :=
  if s.keySlotAt i = KeySlot.none then s
  else (s.modKeySlot i fun k => { k with dying := some (k.dying.getD []) }).settleDestroy i

/-- The entries that a function's rings have taken, and its waiting jobs, keep the key slots and port slots that they name
and that the function holds now: a reduction of its share leaves them these (R298). -/
def State.grantTaken (o : Party) (s : State) : State :=
  let key := fun (d : List Byte) => s.ownsKey o (jobKeySlot d)
  let holds := fun (r : Ring) (t : Taken) =>
    (decide (r.type = 6) && key t.desc) || (decide (r.type = 9) && s.ownsSlot o (leField t.desc 10 1))
  let ring := fun (r : Ring) =>
    if r.owner = o then { r with taken := r.taken.map fun t => { t with granted := t.granted || holds r t } } else r
  let job := fun (j : Job) => if j.owner = o then { j with granted := j.granted || key j.desc } else j
  { s with rings := s.rings.map fun (c, r) => (c, ring r), lamp := { s.lamp with waiting := s.lamp.waiting.map job } }

/-- Step 3 of a reduction: the actions of R293 on everything that leaves. -/
def State.enforceShrink (p v : Nat) (s : State) : State :=
  match (s.vfState p v).shrink with
  | none => s
  | some x =>
    let o : Party := .vf p v
    let old := s.shareWords p v
    let lostSlots := fun (n : Nat) => (old.getD (6 + n / 64) 0).getLsbD (n % 64) && !(x.new.getD (6 + n / 64) 0).getLsbD (n % 64)
    let s := (s.grantTaken o).modVf p v fun f => { f with shrink := some { x with enforced := true } }
    let s := forAll (rangeLost (shareRange old 0) (shareRange x.new 0)) State.disableRing s
    let s := forAll (rangeLost (shareRange old 1) (shareRange x.new 1)) State.zeroiseKey s
    let s := if shareCount x.new 1 < shareCount old 1 then s.trimQueues o (shareCount x.new 1) else s
    let s := if shareCount x.new 2 < shareCount old 2 then s.trimSpaces o (shareCount x.new 2) else s
    let s := if shareCount x.new 3 < shareCount old 3 then s.trimQps o (shareCount x.new 3) else s
    let onLost := (s.qpsOf o).filter fun (_, q) => decide (q.phase = .rtr ∨ q.phase = .rts) && lostSlots q.slot
    forAll (onLost.map (·.1)) State.qpError s

/-- VF_GRACE expires without an ACK (R297). -/
def graceExpired (p v : Nat) (s : State) : State :=
  match (s.vfState p v).shrink with
  | none => s
  | some x =>
    if x.acked ∨ x.expired ∨ x.enforced ∨ s.dialNs < x.expires then s
    else
      let s := s.modVf p v fun f => { f with lateShrink := f.lateShrink || x.placed, shrink := some { x with expired := true } }
      ((s.count Reg.VFM_CNT_GRACE_EXPIRED).logEvent 0x900 13 [p, v]).enforceShrink p v

/-- A reduction's wait ends as if acknowledged. -/
def State.shrinkAcked (p v : Nat) (s : State) : State :=
  match (s.vfState p v).shrink with
  | none => s
  | some x =>
    if x.acked ∨ x.expired then s
    else (s.modVf p v fun f => { f with shrink := some { x with acked := true } }).enforceShrink p v

/-- Every departing ring context is DISABLED: the new share is written and the command completes (R297). A reset of the VF
has its effects first (R298). -/
def shrinkComplete (p v : Nat) (s : State) : State :=
  match (s.vfState p v).shrink with
  | none => s
  | some x =>
    if !x.enforced ∨ (s.fn (.vf p v)).flr then s
    else
      let cs := rangeLost (shareRange (s.shareWords p v) 0) (shareRange x.new 0)
      let s := forAll cs (fun c s => if (s.ring c).phase = .hostLost then s.disableRing c else s) s
      if cs.any fun c => decide ((s.ring c).phase ≠ .disabled) then s
      else
        let owed := fun (f : VfState) => if x.placed then f.owed else f.owed ++ [shrinkWords (s.shareWords p v) x]
        let s := (s.setShare p v x.new).modVf p v fun f => { f with shrink := none, owed := owed f }
        let s := s.count Reg.VFM_CNT_SHRINKS
        match (s.ring x.ring).taken.find? fun t => t.cursor == x.cursor with
        | some t => s.adminDone x.ring t 0 (b2n x.acked + 2 * b2n x.expired)
        | none => s

/-- VF_MBOX_CTL.DOORBELL (R299, R301, R302). -/
def vfMboxDoorbell (p v : Nat) (s : State) : State :=
  let b := s.mboxBytes (Reg.VF_MBOX_OUT p v)
  let op := leField b 0 1
  if (s.vfState p v).outBusy ∨ 0xF0 ≤ op then s.mboxIgnored
  else
    let (t, s) := s.newTally 0xFFFF (.vf p v) 2 op b
    let s := (s.modVf p v fun f => { f with outBusy := true, outTally := t }).count (Reg.VF_CNT_MBOX_SENT p v)
    s.msix (.pf p) (bits (s.reg Reg.VFM_CFG) 10 0)

/-- VF_MBOX_CTL.ACK: VF_MBOX_IN is freed; the ACK of a SHRINK message ends its wait, or is late (R297, R298). -/
def vfMboxAck (p v : Nat) (s : State) : State :=
  let f := s.vfState p v
  if !f.inFull then s.mboxIgnored
  else
    let s := (s.modVf p v fun f => { f with inFull := false, inShrink := false, lateShrink := false }).count
      Reg.VFM_CNT_MBOX_TO_VF
    if !f.inShrink then s
    else if f.lateShrink then s.count Reg.VFM_CNT_LATE_ACK
    else s.shrinkAcked p v

/-- The VF that a PF's VFM_SEL names. -/
def State.vfSelected (s : State) (p : Nat) : Nat := bits (s.reg (Reg.VFM_SEL p)) 11 0

/-- VFM_MBOX_CTL.DOORBELL: the PF's message goes to the VF, unless the Moafa's SHRINK message goes first (R299,
R300). -/
def vfmMboxDoorbell (p : Nat) (s : State) : State :=
  let v := s.vfSelected p
  let f := s.vfState p v
  if f.inFull ∨ s.shrinkPending p v ∨ !s.vfExists p v then s.mboxIgnored
  else
    let s := s.modVf p v fun f => { f with inFull := true, inShrink := false, lateShrink := false }
    (s.count (Reg.VF_CNT_MBOX_RECEIVED p v)).vfMboxIrq p v

/-- VFM_MBOX_CTL.ACK: the VF's message is acknowledged and its tally record completes (R299, R302). -/
def vfmMboxAck (p : Nat) (s : State) : State :=
  let v := s.vfSelected p
  let f := s.vfState p v
  if !f.outBusy then s.mboxIgnored
  else
    let s := (s.endTally f.outTally 0 0 0xFFFF).modVf p v fun f => { f with outBusy := false }
    s.count Reg.VFM_CNT_MBOX_TO_PF

/-- A direct write of a share word: accepted only while the VF does not exist (R295). -/
def vfmResWrite (p w : Nat) (x : Word) (s : State) : State :=
  let v := s.vfSelected p
  if v = 0 ∨ 2048 < v ∨ s.vfExists p v then s.count Reg.VFM_CNT_CFG_REFUSED
  else s.setRv (shareKey p v w) (shareMask w x)

/-! ## The reset of a function (R205, R304) -/

/-- The jobs of a function that is reset: one on an engine stops at its next segment boundary; one that waits, saved or not
begun, stops now. With the link gone none writes its DST again (R205, R230, R245). -/
def State.abandonJobs (o : Party) (s : State) : State :=
  let up := o.pfIndex.any fun p => (s.link p).dlActive
  let mark := fun (j : Job) =>
    if j.owner = o then { j with abandoned := true, result := if up then j.result else j.result.map fun r => { r with outLen := 0 } }
    else j
  let l := s.lamp
  let mine := fun (j : Job) => decide (j.owner = o)
  let s := { s with lamp := { l with engines := l.engines.map (·.map mark), waiting := l.waiting.filter fun j => !mine j } }
  (forAll (l.waiting.filter mine) (fun j s => s.endJob (mark j)) s).settleKeys

/-- A function's queue pairs, regions, controller, jobs and agreed ABI as its reset leaves them; a VF's controller as by CC.EN
cleared (R304). -/
def State.dropWork (o : Party) (s : State) : State :=
  let s := ((s.drainRdma o).ctrlReset o (decide (o.vfNumber ≠ 0))).abandonJobs o
  match o with
  | .vf p v => (s.setReg (Reg.VF_GEN_ABI_OFFER p v) 0).setReg (Reg.VF_GEN_ABI p v) 0
  | .pf p => (s.setReg (Reg.GEN_ABI_OFFER p) 0).setReg (Reg.GEN_ABI p) 0
  | _ => s

/-- What a VF reset does beside its rings (R298, R304). -/
def State.vfReset (p v : Nat) (s : State) : State :=
  let o : Party := .vf p v
  let keys := shareRange (s.shareWords p v) 1
  let s := s.dropWork o
  let s := forAll ((List.range keys.2).map (keys.1 + ·))
    (fun i s => if (s.keySlotAt i).persistent then s else s.zeroiseKey i) s
  let s := s.modVf p v fun f =>
    { f with inFull := false, inShrink := false, lateShrink := false, owed := [],
             shrink := f.shrink.map fun x => { x with placed := true } }
  let s := (List.range 8).foldl (fun s w => s.setReg (Reg.VF_MBOX_IN p v w) 0) s
  let base := Reg.vf p v 0
  let s := { s with regs := s.regs.filter fun e => !decide (base + 0x8000 ≤ e.1 ∧ e.1 < base + 0xC000) }
  s.shrinkAcked p v

/-- The ring contexts of a VF's share at their reset values (R304). -/
def State.vfRingsReset (p v : Nat) (s : State) : State :=
  let r := shareRange (s.shareWords p v) 0
  forAll ((List.range r.2).map (r.1 + ·)) (fun c s => s.modRing c fun r => { r.cleared with owner := .vf p v }) s

/-! ## The host ABI (R305) -/

/-- GEN_ABI after an offer: the Moafa offers major 1, minor 0. -/
def abiAnswer (v : Word) : Word :=
  let mask := bits v 15 0
  word (2 ^ 32 + (if mask.testBit 0 then 0x10100 else 0))

/-- GEN_ABI_OFFER written by a function. -/
def genAbiOfferWrite (who : Party) (v : Word) (s : State) : State :=
  match who with
  | .vf p n => (s.setReg (Reg.VF_GEN_ABI_OFFER p n) (v &&& 0xFFFFFF)).setReg (Reg.VF_GEN_ABI p n) (abiAnswer v)
  | w => (s.setReg (Reg.GEN_ABI_OFFER w.copy) (v &&& 0xFFFFFF)).setReg (Reg.GEN_ABI w.copy) (abiAnswer v)

/-! ## The meanings -/

def execVfShareSet (ring : Nat) (block : Option (List Byte)) (s : State) : Answer :=
  within (Instr.wf (.vfShareSet ring block)) (whenClocked (onLink (s.ring ring).owner (.vfShareSet ring block)
      (unlessStopped 4 (vfShareSet ring block))) s) s

def execShrink (p v : Nat) (s : State) : Answer :=
  within (Instr.wf (.shrink p v)) (whenClocked (unlessStopped 4 (shrink p v)) s) s

def execGraceExpired (p v : Nat) (s : State) : Answer :=
  within (Instr.wf (.graceExpired p v)) (whenClocked (unlessStopped 4 (graceExpired p v)) s) s

def execShrinkComplete (p v : Nat) (s : State) : Answer :=
  within (Instr.wf (.shrinkComplete p v)) (whenClocked (unlessStopped 4 (shrinkComplete p v)) s) s

def execVfMboxDoorbell (p v : Nat) (s : State) : Answer :=
  within (Instr.wf (.vfMboxDoorbell p v))
    (busWrite (.vf p v) false false (wholeVf (.vf p v) 0x100
      (unlessStopped 4 fun s => if s.vfExists p v then vfMboxDoorbell p v s else s)) s) s

def execVfMboxAck (p v : Nat) (s : State) : Answer :=
  within (Instr.wf (.vfMboxAck p v))
    (busWrite (.vf p v) false false (wholeVf (.vf p v) 0x100
      (unlessStopped 4 fun s => if s.vfExists p v then vfMboxAck p v s else s)) s) s

def execVfmMboxDoorbell (p : Nat) (s : State) : Answer :=
  within (Instr.wf (.vfmMboxDoorbell p)) 
    (busWrite (.pf p) false false (whole (.pf p) Reg.VFM_MBOX_CTL (unlessStopped 4 (vfmMboxDoorbell p))) s) s

def execVfmMboxAck (p : Nat) (s : State) : Answer :=
  within (Instr.wf (.vfmMboxAck p)) 
    (busWrite (.pf p) false false (whole (.pf p) Reg.VFM_MBOX_CTL (unlessStopped 4 (vfmMboxAck p))) s) s

def execVfmResWrite (p w : Nat) (x : Word) (s : State) : Answer :=
  within (Instr.wf (.vfmResWrite p w x)) 
    (busWrite (.pf p) false false (whole (.pf p) (Reg.VFM_RES w) (unlessStopped 4 (vfmResWrite p w x))) s) s

def execGenAbiOfferWrite (who : Party) (v : Word) (s : State) : Answer :=
  within (Instr.wf (.genAbiOfferWrite who v)) 
    (busWrite who true false (wholeAt who 0x8 0x8 (genAbiOfferWrite who v)) s) s

end Sys2Proof.Machine
end

