-- ==== Sys2Proof/Machine/Parser.lean ====
section
/-! DEFINITION. Machine/Parser.lean: the parser of a pipeline (R70, R71, R74) and the reading of SBE headers and
template fields (R75, R77, R89). A frame is given without its FCS. -/

namespace Sys2Proof.Machine

/-! ## What the parser finds (R70) -/

/-- The L3 header: where it begins, IPv6 or IPv4, its addresses in 128-bit form, the protocol after extension headers,
whether the frame is a fragment, and where what follows ends. -/
structure L3 where
  off    : Nat
  v6     : Bool
  src    : Nat
  dst    : Nat
  proto  : Nat
  frag   : Bool
  last   : Nat
  deriving DecidableEq, Repr

/-- The L4 header: UDP or TCP, where it begins, its ports, and a VXLAN VNI. -/
structure L4 where
  off   : Nat
  udp   : Bool
  sport : Nat
  dport : Nat
  vni   : Option Nat
  deriving DecidableEq, Repr

/-- The fields of a parsed frame: the tags' control information, outermost first, the innermost EtherType and where
its contents begin. -/
structure Parsed where
  tags  : List Nat
  etype : Nat
  body  : Nat
  l3    : Option L3
  l4    : Option L4
  deriving DecidableEq, Repr

/-- The parser's outcome (R71). -/
inductive ParseResult where
  | ok (p : Parsed)
  | depth
  | malformed
  deriving DecidableEq, Repr

/-- The 192 bytes within which headers end (R71). -/
abbrev parseSpan : Nat := 192

/-- A header of n bytes at off fits the frame's limit and ends within the parser's span. -/
def headerFits (limit off n : Nat) (k : ParseResult) : ParseResult :=
  if limit < off + n then .malformed else if parseSpan < off + n then .depth else k

/-- ::ffff:a.b.c.d as a number. -/
def mappedAddr (a : Nat) : Nat := 0xFFFF * 2 ^ 32 + a

/-- UDP and TCP (R70): the UDP length and the TCP data offset must fit what the IP header gives. -/
def parseL4 (f : List Byte) (p : Parsed) (h : L3) (off : Nat) : ParseResult :=
  let done := fun (l4 : Option L4) => ParseResult.ok { p with l3 := some h, l4 := l4 }
  if h.frag then done none
  else if h.proto = 17 then
    headerFits h.last off 8
      (if beField f (off + 4) 2 < 8 ∨ h.last < off + beField f (off + 4) 2 then .malformed
       else
        let dport := beField f (off + 2) 2
        let l4 : L4 := ⟨off, true, beField f off 2, dport, none⟩
        if dport = 4789 then headerFits (off + beField f (off + 4) 2) (off + 8) 8 (done (some { l4 with vni := some (beField f (off + 12) 3) }))
        else if dport = 4791 then headerFits (off + beField f (off + 4) 2) (off + 8) 12 (done (some l4))
        else done (some l4))
  else if h.proto = 6 then
    headerFits h.last off 20
      (let n := 4 * (beField f (off + 12) 1 / 16)
       if n < 20 then .malformed
       else headerFits h.last off n (done (some ⟨off, false, beField f off 2, beField f (off + 2) 2, none⟩)))
  else done none

/-- The IPv6 extension headers, at most two (R70, R71): left is how many more there may be. -/
def parseExt (f : List Byte) (p : Parsed) : Nat → L3 → Nat → ParseResult
  | left, h, off =>
    if h.proto = 0 ∨ h.proto = 43 ∨ h.proto = 60 ∨ h.proto = 44 then
      match left with
      | 0 => .depth
      | left + 1 =>
        headerFits h.last off 8
          (let n := if h.proto = 44 then 8 else 8 * (beField f (off + 1) 1 + 1)
           let h' := { h with proto := beField f off 1, frag := h.frag || decide (h.proto = 44) }
           headerFits h.last off n
            (if h.proto = 44 ∧ beField f (off + 2) 2 / 8 ≠ 0 then parseL4 f p h' (off + n)
             else parseExt f p left h' (off + n)))
    else parseL4 f p h off

/-- IPv4, IPv6, or nothing the parser knows (R70). -/
def parseL3 (f : List Byte) (p : Parsed) : ParseResult :=
  let off := p.body
  if p.etype = 0x0800 then
    headerFits f.length off 20
      (let n := 4 * (beField f off 1 % 16)
       let len := beField f (off + 2) 2
       if beField f off 1 / 16 ≠ 4 ∨ n < 20 ∨ len < n ∨ f.length < off + len then .malformed
       else
        let flags := beField f (off + 6) 2
        headerFits (off + len) off n
          (parseL4 f p ⟨off, false, mappedAddr (beField f (off + 12) 4), mappedAddr (beField f (off + 16) 4),
            beField f (off + 9) 1, decide (flags % 16384 ≠ 0), off + len⟩ (off + n)))
  else if p.etype = 0x86DD then
    headerFits f.length off 40
      (let len := beField f (off + 4) 2
       if beField f off 1 / 16 ≠ 6 ∨ f.length < off + 40 + len then .malformed
       else
        parseExt f p 2 ⟨off, true, beField f (off + 8) 16, beField f (off + 24) 16, beField f (off + 6) 1, false,
          off + 40 + len⟩ (off + 40))
  else .ok p

/-- The VLAN tags, at most two (R70, R71). -/
def parseTags (f : List Byte) : Nat → List Nat → Nat → ParseResult
  | left, tags, off =>
    let t := beField f off 2
    if t = 0x8100 ∨ t = 0x88A8 then
      match left with
      | 0 => .depth
      | left + 1 => headerFits f.length (off + 2) 4 (parseTags f left (tags ++ [beField f (off + 2) 2]) (off + 4))
    else parseL3 f ⟨tags, t, off + 2, none, none⟩

/-- The parser (R70). -/
def parseFrame (f : List Byte) : ParseResult := parseTags f 2 [] 12

/-- PTP over Ethernet or over UDP (R70). -/
def Parsed.isPtp (p : Parsed) : Bool :=
  decide (p.etype = 0x88F7) || p.l4.any fun l => l.udp && decide (l.dport = 319 ∨ l.dport = 320)

/-- A fragment (R74). -/
def Parsed.isFrag (p : Parsed) : Bool := p.l3.any (·.frag)

/-- The VID of the outermost tag, 0 when untagged (R145). -/
def Parsed.outerVid (p : Parsed) : Nat := (p.tags.headD 0) % 4096

/-- The priority of the outermost tag; none when untagged. -/
def Parsed.pcp (p : Parsed) : Option Nat := p.tags.head?.map (· / 8192)

/-! ## SBE (R75) -/

/-- The SBE message header found: template, schema and version, and where its fields begin. -/
structure SbeHeader where
  template : Nat
  schema   : Nat
  version  : Nat
  fields   : Nat
  deriving DecidableEq, Repr

/-- Steps 3 and 4 of R75 on a UDP payload of len bytes at off: the header, or the reason code of R84; a header that ends
past the parser's span is PARSE_DEPTH (R71). The two encoding codes of a SOFH are log entry 56. -/
def sbeHeader (f : List Byte) (off len : Nat) (sofh : Bool) : SbeHeader ⊕ Nat :=
  if !sofh then
    if len < 8 then .inr 6 else if parseSpan < off + 8 then .inr 3
    else .inl ⟨leField f (off + 2) 2, leField f (off + 4) 2, leField f (off + 6) 2, off + 8⟩
  else
    let enc := beField f (off + 4) 2
    if len < 14 ∨ (enc ≠ 0xEB50 ∧ enc ≠ 0x5BE0) then .inr 6
    else if beField f off 4 < len then .inr 9
    else if len < beField f off 4 then .inr 6
    else if parseSpan < off + 14 then .inr 3
    else
      let rd := fun o => if enc = 0xEB50 then leField f (off + o) 2 else beField f (off + o) 2
      .inl ⟨rd 8, rd 10, rd 12, off + 14⟩

/-! ## Template fields (R77, R89) -/

/-- The bytes of a field of WIDTH code w. -/
def fieldBytes (w : Nat) : Nat := 2 ^ w

/-- The value of a field descriptor: sign-extended where it is SIGNED; none where it is not PRESENT. -/
def fieldValue (f : List Byte) (start : Nat) (bigEndian : Bool) (desc : Nat) : Option Int :=
  if !desc.testBit 15 then none
  else
    let n := fieldBytes (desc / 4096 % 4)
    let v := if bigEndian then beField f (start + desc % 4096) n else leField f (start + desc % 4096) n
    some (if desc.testBit 14 then signed (8 * n) v else (v : Int))

/-- Every present field ends within the payload. -/
def fieldsFit (start last : Nat) (descs : List Nat) : Bool :=
  descs.all fun d => !d.testBit 15 || decide (start + d % 4096 + fieldBytes (d / 4096 % 4) ≤ last)

/-- A value as an unsigned 64-bit number. -/
def asUnsigned (v : Int) : Nat := (v % 2 ^ 64).toNat

end Sys2Proof.Machine
end

