-- ==== Sys2Proof/Machine/PortLink.lean ====
section
/-! DEFINITION. Machine/PortLink.lean: the modes and the link states of the port slots (R11, R61 to R65, R137). -/

namespace Sys2Proof.Machine

/-! ## Modes (R61, R62) -/

/-- A combination of SPEED, FEC and MEDIUM that R61 permits; chip-to-module interfaces exist from 50 Gb/s up. -/
def modeValid (m : Word) : Bool :=
  let sp := speedOf m
  let fec := fecOf m
  let med := bits m 7 6
  decide (sp ≤ 6) && decide (med ≠ 3) && (decide (med ≠ 1) || decide (2 ≤ sp))
    && (if sp = 0 then decide (fec = 0) else if sp = 1 then decide (fec ≤ 1) else decide (fec = 2))

/-- The slots that a mode on slot n covers beside n itself (R11). -/
def coveredBy (n : Nat) (m : Word) : List Nat := (List.range (lanesOf (speedOf m))).tail.map (n + ·)

/-! ## Link states (R64, R65) -/

/-- Training begins: nothing is aligned, and the live conditions are clear; HI_SER and the codewords that it is judged by
begin anew (DESIGN CHOICE, log entry 93). -/
def PortState.train (p : PortState) : PortState :=
  { p with link := .training, aligned := false, hiSer := false, deskewFail := false, window := [], badAt := []
           receiving := false }

/-- The high error rate as it follows from what the window holds: more than 16 uncorrectable codewords, or the high
bit-error-rate rule over the invalid blocks of its span in modes without FEC (log entry 59). -/
def State.hiSerNow (s : State) (n : Nat) : Bool :=
  let m := s.portMode n
  let p := s.port n
  if fecOf m ≠ 0 then decide (16 < (p.window.filter id).length)
  else
    let span := if speedOf m = 0 then 125000 else 2000000
    decide ((if speedOf m = 0 then 16 else 97) ≤
      (p.badAt.filter fun d => decide (s.clock.toNat < d.toNat + span * nsUnits)).length)

/-- A slot leaves UP (R65): REL is told, and a frame whose reception is cut is dropped with its stamp. -/
def State.leaveUp (n : Nat) (cut : Bool) (s : State) : State :=
  let s := s.egressDown n
  if cut ∨ (s.port n).receiving then (s.countSlot n (Reg.PORT_CNT_RX_ABORTED n)).countSlot n (Reg.PORT_CNT_STAMP_DISCARD n)
  else s

/-- The port goes from UP to DOWN for a cause, and retrains. -/
def State.linkDown (n cause : Nat) (cut : Bool) (s : State) : State :=
  let s := ((s.leaveUp n cut).count (Reg.PORT_CNT_LINK_DOWN n)).logEvent 0x200 2 [n, cause]
  (s.modPort n PortState.train).count (Reg.PORT_CNT_RETRAIN n)

/-- The slot becomes DISABLED. -/
def State.linkOff (n : Nat) (s : State) : State :=
  let s := if s.isUp n then s.leaveUp n false else s
  s.modPort n fun _ => PortState.reset

/-- The exception bucket of a slot (R84), and storing it. -/
def State.excBucket (s : State) (n : Nat) : Bucket := Store.get (fun _ => Bucket.full 100000 256) s.excBuckets n
def State.setExcBucket (n : Nat) (b : Bucket) (s : State) : State :=
  { s with excBuckets := Store.put (fun _ => Bucket.full 100000 256) n b s.excBuckets }

/-- The slot is enabled: TRAINING, with both of its buckets full (R79, R84). -/
def State.linkOn (n : Nat) (s : State) : State :=
  let exc := s.reg (Reg.PIPE_EXC_LIMIT n)
  let s := s.modPort n fun p => { p.train with localFault := false, remoteFault := false }
  let s := s.modPolicer n fun p => p.enabled s.dial
  s.setExcBucket n (Bucket.full (min 1000000 (bits exc 19 0)) (bits exc 47 32))

/-- A write to PORT_MODE (R62, R63, R65, R83). Slots that an enabled new mode covers fall idle; slots that the old one
covered are enabled again where their own mode says so (log entry 54). A slot that is no infrastructure port any more
pauses nobody and is paused by nobody. -/
def portModeWrite (n : Nat) (v : Word) (s : State) : State :=
  let old := s.portMode n
  let new := v &&& 0x3FF
  let other := decide ((old ^^^ new) &&& 0x3FE ≠ 0)
  if !modeValid new ∨ n % lanesOf (speedOf new) ≠ 0 ∨ (other ∧ s.feedsOpen n) then s.count Reg.PORT_CNT_MODE_REFUSED
  else
    let retrain := decide ((old ^^^ new) &&& 0xFE ≠ 0)
    let up := s.isUp n
    let s := s.captureMargins
    let s :=
      if bit old 0 && !bit new 0 then s.linkOff n
      else if bit old 0 && retrain then
        if up then s.linkDown n 4 false else s.modPort n PortState.train
      else s
    let s := s.setRv (Reg.PORT_MODE n) new
    let s := if bit new 0 then (coveredBy n new).foldl (fun s k => s.linkOff k) s else s
    let s := if bit old 9 && !bit new 9 then s.pfcEnd n else s
    let s := if !bit old 0 && bit new 0 then s.linkOn n else s
    let s := ((coveredBy n old).filter fun k => !s.isIdle k && s.slotOn k && decide ((s.port k).link = .disabled)).foldl
      (fun s k => s.linkOn k) s
    s.condPollAll

/-- A slot that has a port of its own. -/
def onPort (n : Nat) (f : State → State) (s : State) : State := if s.isIdle n then s else f s

/-- Alignment, and for a bonded port the deskew of its members: the measured delays, or none where the members cannot
be deskewed (R51, R64). It ends LOCAL_FAULT and REMOTE_FAULT, as ENABLE does (DESIGN CHOICE, log entry 93). -/
def alignmentAchieved (n : Nat) (deskew : Option (List Nat)) (s : State) : State :=
  if (s.port n).link ≠ .training then s
  else
    match if lanesOf (speedOf (s.portMode n)) = 1 then some [] else deskew with
    | some ds =>
      s.modPort n fun p => { p with link := .upHold, aligned := true, deskewFail := false, deskew := ds,
                                    localFault := false, remoteFault := false }
    | none => s.modPort n fun p => { p with aligned := true, deskewFail := true }

/-- A condition that keeps a port from being UP: a fault, or HI_SER with DOWN_ON_HISER = 1 (R64). -/
def State.portSettle (n : Nat) (s : State) : State :=
  let p := s.port n
  if !s.isUp n then s
  else if p.localFault then s.linkDown n 2 false
  else if p.remoteFault then s.linkDown n 3 false
  else if s.hiSerNow n ∧ bit (s.reg (Reg.PORT_LINK_CFG n)) 0 then s.linkDown n 1 false
  else s

/-- Alignment has been held for UP_HOLD_MS. -/
def upHoldExpiry (n : Nat) (s : State) : State :=
  if (s.port n).link = .upHold then
    (((s.modPort n fun p => { p with link := .up }).egressUp n).verifyPreempt n).portSettle n
  else s

/-- Alignment is lost. -/
def alignmentLost (n : Nat) (cut : Bool) (s : State) : State :=
  if !(s.port n).aligned then s
  else
    let s := s.count (Reg.PORT_CNT_ALIGN_LOSS n)
    if s.isUp n then s.linkDown n 0 cut else s.modPort n PortState.train

/-- A local fault is detected. -/
def localFault (n : Nat) (cut : Bool) (s : State) : State :=
  if (s.port n).link = .disabled then s
  else
    let s := s.modPort n fun p => { p with localFault := true }
    if s.isUp n then s.linkDown n 2 cut else s

/-- The link partner signals a remote fault. -/
def remoteFault (n : Nat) (cut : Bool) (s : State) : State :=
  if (s.port n).link = .disabled then s
  else
    let s := s.modPort n fun p => { p with remoteFault := true }
    if s.isUp n then s.linkDown n 3 cut else s

/-- Alignment or deskew has not come within TRAIN_TIMEOUT_MS. -/
def trainTimeout (n : Nat) (s : State) : State :=
  if (s.port n).link = .training then (s.count (Reg.PORT_CNT_TRAIN_TIMEOUT n)).modPort n PortState.train else s

/-! ## The meanings -/

def execPortModeWrite (who : Party) (slot : Nat) (v : Word) (s : State) : Answer :=
  within (Instr.wf (.portModeWrite who slot v))
    (pfWrite who false false (whole who (Reg.PORT_MODE slot)
      (unlessStopped 2 (onSlot slot (portModeWrite slot v)))) s) s

def execAlignmentAchieved (slot : Nat) (deskew : Option (List Nat)) (s : State) : Answer :=
  within (Instr.wf (.alignmentAchieved slot deskew))
    (whenClocked (unlessStopped 2 (onPort slot (alignmentAchieved slot deskew))) s) s

def execUpHoldExpiry (slot : Nat) (s : State) : Answer :=
  within (Instr.wf (.upHoldExpiry slot)) (whenClocked (unlessStopped 2 (onPort slot (upHoldExpiry slot))) s) s

def execAlignmentLost (slot : Nat) (cut : Bool) (s : State) : Answer :=
  within (Instr.wf (.alignmentLost slot cut)) (whenClocked (unlessStopped 2 (onPort slot (alignmentLost slot cut))) s) s

def execLocalFault (slot : Nat) (cut : Bool) (s : State) : Answer :=
  within (Instr.wf (.localFault slot cut)) (whenClocked (unlessStopped 2 (onPort slot (localFault slot cut))) s) s

def execRemoteFault (slot : Nat) (cut : Bool) (s : State) : Answer :=
  within (Instr.wf (.remoteFault slot cut)) (whenClocked (unlessStopped 2 (onPort slot (remoteFault slot cut))) s) s

def execTrainTimeout (slot : Nat) (s : State) : Answer :=
  within (Instr.wf (.trainTimeout slot)) (whenClocked (unlessStopped 2 (onPort slot (trainTimeout slot))) s) s

end Sys2Proof.Machine
end

