-- ==== Sys2Proof/Machine/Ingress.lean ====
section
/-! DEFINITION. Machine/Ingress.lean: a received frame from its lane to where it goes (R50, R61 to R89, R144 to R147,
R283): the receive filter, the class map, the exception path, bridging and routing, order-class recognition, admission
and the risk checks. Frames are without FCS here unless said otherwise. -/

namespace Sys2Proof.Machine

/-! ## The exception path (R84, R85; log entry 55) -/

/-- The exception area's share of a pipeline. -/
abbrev excShare : Nat := 524288

/-- The bytes of the share in use. -/
def State.excUsed (s : State) (pipe : Nat) : Nat := (s.pipe pipe).excFrames.sum

/-- A token of a slot's exception bucket; without one the frame is dropped and counted. -/
def State.excToken (n : Nat) (stamp : Dial) (s : State) : Bool × State :=
  let c := s.reg (Reg.PIPE_EXC_LIMIT n)
  let rate := min 1000000 (bits c 19 0)
  let burst := bits c 47 32
  let b := s.excBucket n
  let b := if b.rate = rate ∧ b.burst = burst then b else b.change stamp rate burst
  let (ok, b) := b.spend stamp
  let s := s.setExcBucket n b
  (ok, if ok then s else s.count (Reg.PIPE_CNT_EXC_DROP_LIMIT n))

/-- A frame sent to the exception path with a reason and the winning class-map index. -/
def State.exception (n reason : Nat) (cls : Option Nat) (stamp : Dial) (f : List Byte) (s : State) : State :=
  let k := n / 32
  let (ok, s) := s.excToken n stamp
  let body := f ++ zeros ((64 - f.length % 64) % 64)
  let size := 32 + body.length
  if !ok then s
  else if excShare < s.excUsed k + size then s.count (Reg.PIPE_CNT_EXC_DROP_FULL n)
  else
    let hdr := leBytes 16 stamp.toNat ++ [BitVec.ofNat 8 n, BitVec.ofNat 8 reason, BitVec.ofNat 8 k, 0]
      ++ leBytes 2 f.length ++ leBytes 2 (cls.getD 0xFFFF) ++ zeros 8
    let s := (s.modPipe k fun p => { p with excFrames := p.excFrames ++ [size] }).emit (.exception k (hdr ++ body))
    (s.count (Reg.PIPE_CNT_EXC_SENT n)).count (Reg.PIPE_CNT_EXC_REASON k reason)

/-- Firmware on the cores consumes the oldest frame of a pipeline's share. -/
def exceptionFrameConsumed (pipe : Nat) (s : State) : State :=
  s.modPipe pipe fun p => { p with excFrames := p.excFrames.tail }

/-! ## The class map (R72, R74, R144, R156) -/

/-- The leading len bits of a 128-bit address equal those of a field. -/
def prefixMatch (len field : Nat) (addr : Option Nat) : Bool :=
  decide (len = 0) || addr.any fun a => decide (a / 2 ^ (128 - len) = field / 2 ^ (128 - len))

/-- A field that must match: the frame has it, with this value. -/
def mustMatch (on : Bool) (want : Nat) (have_ : Option Nat) : Bool := !on || decide (have_ = some want)

/-- A CLASS image matches a frame of a slot (R144). -/
def classMatches (x : BitVec 512) (n : Nat) (p : Parsed) : Bool :=
  let m := fun i => (imgField x 35 1).testBit i
  let be := fun off => beNat (slice (imageBytes x) off 16)
  let l4 := if p.isFrag then none else p.l4
  imgValid x
    && mustMatch (m 0) (imgField x 34 1) (some n)
    && mustMatch (m 1) (imgField x 36 2) (p.tags[0]?.map (· % 4096))
    && mustMatch (m 2) (imgField x 38 2) (p.tags[1]?.map (· % 4096))
    && mustMatch (m 3) (imgField x 40 2) (some p.etype)
    && mustMatch (m 4) (imgField x 42 1) (p.l3.map (·.proto))
    && mustMatch (m 5) (imgField x 44 2) (l4.map (·.sport))
    && mustMatch (m 6) (imgField x 46 2) (l4.map (·.dport))
    && mustMatch (m 7) (imgField x 48 3) (l4.bind (·.vni))
    && prefixMatch (imgField x 32 1) (be 0) (p.l3.map (·.src))
    && prefixMatch (imgField x 33 1) (be 16) (p.l3.map (·.dst))

/-- The stored CLASS entries, lowest index first. -/
def State.classEntries (s : State) : List (Nat × Entry) := s.tables.filter fun (k, _) => keyTable k = 3

/-- The lookup: the winning index, none where nothing matches or where an entry at or below it fails parity, with
the bad entry reported. -/
def State.classLookup (n : Nat) (p : Parsed) (s : State) : Option Nat × State :=
  let es := s.classEntries
  let win := (es.find? fun (_, e) => !e.bad (n / 32) && classMatches e.img n p).map (·.1)
  let bad := es.filter fun (k, e) => e.bad (n / 32) && win.all (fun w => decide (k ≤ w))
  if bad ≠ [] then (none, bad.foldl (fun s (k, _) => s.meetEntry k (n / 32)) s)
  else
    match win with
    | some k => (some (keyIndex k), s.countEntry k (n / 32))
    | none => (none, s)

/-! ## Bridging and learning (R145, R146) -/

/-- A frame of a lane that needs learning falls into the PIPE cycle in which a lower lane of its pipeline has learned: it
is skipped. Commands at one Dial may lie in one PIPE cycle or not, which is free (log entry 87). -/
def State.learnSkips (s : State) (n : Nat) : Bool :=
  (s.pipe (n / 32)).learnt.any fun x => decide (x.1 = s.clock ∧ x.2 < n ∧ Config.freeNat s.free % 2 = 1)

/-- A MAC entry is hit: it is left unmarked (R155, R157). -/
def State.hitEntry (k w : Nat) (e : Entry) (s : State) : State :=
  let now := fun (p : PipeState) => p.hitNow.filter fun x => decide (x.1 = s.clock)
  (s.modPipe k fun p => { p with hitNow := (s.clock, w) :: now p }).modEntry w fun _ => { e with hit := true, mark := false }

/-- An address is learned into a way, or skipped and counted. -/
def State.learnInto (n w : Nat) (e : Entry) (counter : Nat) (s : State) : State :=
  let k := n / 32
  let skip := s.learnSkips n
  let s := if (s.pipe k).learnt.any fun x => decide (x.1 = s.clock ∧ x.2 < n) then { s with free := s.free + 1 } else s
  if skip then s.count (Reg.TBL_CNT_LEARN_SKIP k)
  else ((s.modPipe k fun p => { p with learnt := some (s.clock, n) }).hitEntry k w e).count counter

/-- Learning the source of a bridged frame; the lookup reports a bad way of its bucket (R146, R156). A locked STATIC entry
whose key is heard on another slot meets the row of locked entries and counts nothing (DESIGN CHOICE, log entry 57). -/
def State.learn (n vid : Nat) (mac : List Byte) (s : State) : State :=
  let k := n / 32
  if !bit (s.reg Reg.TBL_CFG) 32 then s
  else
    let s := (bucketKeys k (macBucket vid mac)).foldl (fun s w => s.meetEntry w k) s
    match s.macWay k vid mac with
    | some w =>
      let e := s.entry w
      if e.lock then s.modEntry w fun e => { e with sideHit := true }
      else if imgField e.img 8 1 = n then s.hitEntry k w e
      else if e.img.getLsbD 72 then s.count (Reg.TBL_CNT_STATIC_CONFLICT k)
      else
        let moved := BitVec.ofNat 512 (e.img.toNat - imgField e.img 8 1 * 2 ^ 64 + n * 2 ^ 64)
        s.learnInto n w { e with img := moved } (Reg.TBL_CNT_LEARN_MOVE k)
    | none =>
      let free := (bucketKeys k (macBucket vid mac)).find? fun w =>
        !(s.entry w).lock && (!imgValid (s.entry w).img || (s.entry w).bad 0)
      match free with
      | none => s.count (Reg.TBL_CNT_LEARN_FULL k)
      | some w =>
        let img := BitVec.ofNat 512 (leNat mac + vid * 2 ^ 48 + n * 2 ^ 64 + 2 ^ 496)
        s.learnInto n w { Entry.empty with img := img } (Reg.TBL_CNT_LEARN k)

/-- A frame on its way from an ingress slot: its bytes, and its number in the slot's lossless pool with the bytes it
takes there (R283). -/
structure Ingress where
  bytes : List Byte
  lossless : Option (Nat × Nat)
  deriving DecidableEq, Repr

/-- Copies of a frame sent to slots' queues; the room in the lossless pool is held until the last has left. -/
def State.forwardTo (n : Nat) (g : Ingress) (queue : Nat) (slots : List Nat) (bytes : List Byte) (s : State) : State :=
  let s := match g.lossless with
    | some (id, len) => s.poolTake n id len slots.length
    | none => s
  let s := s.count (Reg.PIPE_CNT_FORWARD n)
  slots.foldl (fun s t => s.enqueue t ⟨bytes, queue, none, g.lossless.map fun x => (n, x.1), some (n / 32)⟩) s

/-- A bridged frame: its source is learned before its destination is looked up (DESIGN CHOICE, log entry 57). -/
def State.bridge (n : Nat) (g : Ingress) (p : Parsed) (queue group : Nat) (s : State) : State :=
  let k := n / 32
  let vid := p.outerVid
  let dst := slice g.bytes 0 6
  let s := (bucketKeys k (macBucket vid dst)).foldl (fun s w => s.meetEntry w k) s
  let s := s.learn n vid (slice g.bytes 6 6)
  let way := if (dst.headD 0).getLsbD 0 then none else s.macWay k vid dst
  match way with
  | some w =>
    let t := imgField (s.entry w).img 8 1
    if t = n then s.count (Reg.TBL_CNT_FILTERED k) else s.forwardTo n g queue [t] g.bytes
  | none =>
    let s := s.meetEntry (entryKey 4 0 group) k
    match s.groupMask group with
    | none => s.count Reg.TBL_CNT_GROUP_INVALID
    | some m => (s.count (Reg.TBL_CNT_FLOOD k)).forwardTo n g queue ((s.maskSlots m).filter (· ≠ n)) g.bytes

/-! ## Routing (R147) -/

/-- A routed frame rewritten: addresses, outer tag, TTL or hop limit, and the IPv4 checksum. A tag that the frame did
not have is inserted with priority 0 (log entry 57). -/
def rewrite (f : List Byte) (p : Parsed) (h : L3) (nh : BitVec 512) : List Byte :=
  let b := imageBytes nh
  let vlan := imgField nh 12 2
  let rest := if p.tags = [] then f.drop 12 else f.drop 16
  let tag :=
    if vlan.testBit 15 then
      match p.tags with
      | t :: _ => (f.drop 12).take 2 ++ beBytes 2 (t / 4096 * 4096 + vlan % 4096)
      | [] => beBytes 2 0x8100 ++ beBytes 2 (vlan % 4096)
    else []
  let l3 := h.off - 12 - (if p.tags = [] then 0 else 4)
  let ip := rest.drop l3
  let ip' :=
    if h.v6 then ip.take 7 ++ [ip.getD 7 0 - 1] ++ ip.drop 8
    else
      let n := 4 * (beField ip 0 1 % 16)
      withIpChecksum (ip.take 8 ++ [ip.getD 8 0 - 1, ip.getD 9 0, 0, 0] ++ (ip.drop 12).take (n - 12)) ++ ip.drop n
  slice b 0 6 ++ slice b 6 6 ++ tag ++ rest.take l3 ++ ip'

/-- A routed frame. -/
def State.route (n : Nat) (g : Ingress) (p : Parsed) (cls queue : Nat) (stamp : Dial) (s : State) : State :=
  let k := n / 32
  let miss := fun (s : State) => (s.count (Reg.TBL_CNT_ROUTE_MISS k)).exception n 1 (some cls) stamp g.bytes
  match p.l3 with
  | none => miss s
  | some h =>
    let w := if h.v6 then 64 else 32
    let addr := if h.v6 then h.dst / 2 ^ 64 else h.dst % 2 ^ 32
    match s.badVisit (k / 2) h.v6 w addr with
    | some b => miss (s.meetNode b)
    | none =>
      match s.longestPrefix (k / 2) h.v6 w addr with
      | none => miss s
      | some q =>
        if beField g.bytes (h.off + (if h.v6 then 7 else 8)) 1 ≤ 1 then
          (s.count (Reg.TBL_CNT_TTL k)).exception n 1 (some cls) stamp g.bytes
        else
          let nk := entryKey 5 (k / 2) q.nexthop
          let s := s.meetEntry nk k
          let e := s.entry nk
          let t := imgField e.img 14 1
          if !imgValid e.img ∨ e.bad 0 ∨ s.isIdle t then s.count (Reg.TBL_CNT_NH_MISS k)
          else (s.countEntry nk k).forwardTo n g queue [t] (rewrite g.bytes p h e.img)

/-! ## The risk checks (R77, R81; log entry 58) -/

/-- The template's eight field descriptors. -/
def State.templateFields (s : State) (i : Nat) : List Nat :=
  let w2 := s.reg (Reg.PIPE_TMPL_W2 i)
  let w3 := s.reg (Reg.PIPE_TMPL_W3 i)
  ((List.range 4).map fun f => bits w2 (16 * f + 15) (16 * f)) ++ (List.range 4).map fun f => bits w3 (16 * f + 15) (16 * f)

/-- The contents of a table entry in force at a stamp, as a lookup by an index of 16 bits sees them. -/
def State.riskEntry (s : State) (table pipe : Nat) (stamp : Dial) (index : Option Nat) : Option (BitVec 512) :=
  match index with
  | none => none
  | some i =>
    let k := entryKey table (lookupInst table pipe) i
    let x := s.imageAt k pipe stamp
    if i ≤ 65535 ∧ !(s.entry k).bad (entryCopy k pipe) ∧ imgValid x then some x else none

/-- The lookups of a message counted, whatever they find, and a bad entry reported (R140, R156). -/
def State.riskTouch (table pipe : Nat) (index : Option Nat) (s : State) : State :=
  match index with
  | none => s
  | some i =>
    if 65535 < i then s
    else
      let k := entryKey table (lookupInst table pipe) i
      (s.meetEntry k pipe).countEntry k pipe

/-- The values that the checks use. -/
structure RiskInput where
  instrument : Option Nat
  price      : Option Int
  quantity   : Option Nat
  session    : Option Nat
  deriving DecidableEq, Repr

/-- The eight checks, in order: which of them fail. passed is the number of messages of the session that have passed
checks 0x01 to 0x03 in the message's Dial millisecond. -/
def riskFails (n : Nat) (v : RiskInput) (ses ins : Option (BitVec 512)) (passed : Nat) : List Bool :=
  let bySession := fun (ok : BitVec 512 → Bool) => !(ses.any ok)
  [ ses.isNone,
    bySession fun x => decide (imgField x 20 1 = n),
    bySession fun x => !x.getLsbD 168,
    ins.isNone,
    bySession fun x => v.quantity.any fun q => decide (q ≠ 0 ∧ q ≤ imgField x 0 8),
    bySession fun x => v.quantity.any fun q => v.price.any fun p => decide (p.natAbs * q ≤ imgField x 8 8),
    !(ins.any fun x => v.price.any fun p => decide ((p - signed 64 (imgField x 0 8)).natAbs ≤ imgField x 8 8)),
    bySession fun x => decide (passed < imgField x 16 4) ]

/-- The reason of a list of failed checks (0 for none), and its bitmap. -/
def riskVerdict (fails : List Bool) : Nat × Nat :=
  ((fails.findIdx? id).elim 0 (· + 1), (fails.zipIdx.map fun (b, i) => if b then 2 ^ i else 0).sum)

/-- The messages of a session that have passed checks 0x01 to 0x03 in a Dial millisecond. -/
def State.passedIn (s : State) (pipe token ms : Nat) : Nat :=
  let x := Store.get (fun _ => (0, 0)) (s.pipe pipe).sessions token
  if x.1 = ms then x.2 else 0

/-- The verdict on an admitted message, with the session's count and the entries' counts. -/
def State.riskCheck (n : Nat) (stamp : Dial) (v : RiskInput) (s : State) : (Nat × Nat) × State :=
  let k := n / 32
  let ms := stamp.ns / 1000000
  let ses := s.riskEntry 0 k stamp v.session
  let ins := s.riskEntry 1 k stamp v.instrument
  let token := v.session.getD 0
  let passed := s.passedIn k token ms
  let fails := riskFails n v ses ins passed
  let s := (s.riskTouch 0 k v.session).riskTouch 1 k v.instrument
  let s :=
    if (fails.take 3).any id then s
    else s.modPipe k fun p => { p with sessions := Store.put (fun _ => (0, 0)) token (ms, passed + 1) p.sessions }
  (riskVerdict fails, s)

/-! ## Order-class recognition and admission (R75 to R82) -/

/-- The values of a template's fields in the roles of R77. -/
def riskInput (f : List Byte) (start : Nat) (bigEndian : Bool) (descs : List Nat) : RiskInput :=
  let v := fun i => fieldValue f start bigEndian (descs.getD i 0)
  ⟨(v 0).map asUnsigned, v 2, (v 3).map asUnsigned, (v 4).map asUnsigned⟩

/-- A recognised order-class message: invalid stamps (R37), admission (R79), the risk checks (R81), and its place in the
pipeline's FIFO to the hold store (R26, R93). -/
def State.orderMessage (n d : Nat) (stamp : Dial) (f : List Byte) (v : RiskInput) (s : State) : State :=
  let k := n / 32
  let long := !s.macsecOn n && decide (1518 < f.length + 4)
  let s := s.count (Reg.PIPE_CNT_ORDER n)
  let s := if long then s.count (Reg.PIPE_CNT_ORDER_LONG n) else s
  if s.dialStopped then s.count Reg.TIME_CNT_STAMP_INVALID
  else
    let p := (s.policer n).upTo stamp
    let (ok, b) := p.bucket.spend stamp
    let p := { p with bucket := b }
    if !ok then
      (s.modPolicer n fun _ => { p with drops := p.drops + 1, fresh := true }).count (Reg.PIPE_CNT_ADMIT_DROP n)
    else
      let s := s.modPolicer n fun _ => p
      let ((reason, map), s) := s.riskCheck n stamp v
      let s :=
        if reason = 0 then s
        else (s.count (Reg.PIPE_CNT_REJECT n)).count (Reg.PIPE_CNT_REJECT_REASON k reason)
      let a := Store.get (fun _ => 0) s.arrivals n
      let s := { s with arrivals := Store.put (fun _ => 0) n (a + 1) s.arrivals }
      let port := if s.stacked d then s.gal.devId * 256 + n else n
      let m : Msg := ⟨d, port, stamp, a, BitVec.ofNat 8 reason, BitVec.ofNat 8 map, long, false, f⟩
      s.modPipe k fun x => { x with fifo := x.fifo ++ [m] }

/-- The steps of R75 on a frame with an ORDER result. -/
def State.order (n cls d : Nat) (form secured : Bool) (stamp : Dial) (f : List Byte) (p : Parsed) (s : State) : State :=
  let exc := fun reason => s.exception n reason (some cls) stamp f
  match p.l4 with
  | none => exc 1
  | some l =>
    let off := l.off + 8
    let len := beField f (l.off + 4) 2 - 8
    if !l.udp ∨ (s.macsecOn n ∧ !secured) then exc 1
    else
      match sbeHeader f off len form with
      | .inr reason => exc reason
      | .inl h =>
        let i := h.template % 1024
        let w0 := s.reg (Reg.PIPE_TMPL_W0 i)
        let w1 := s.reg (Reg.PIPE_TMPL_W1 i)
        let descs := s.templateFields i
        if !bit w0 0 ∨ bits w0 31 16 ≠ h.template ∨ bits w0 47 32 ≠ h.schema ∨ h.version < bits w1 15 0
            ∨ bits w1 31 16 < h.version then exc 7
        else if !fieldsFit h.fields (off + len) descs then exc 8
        else if 2048 < f.length + 4 then exc 10
        else s.orderMessage n d stamp f (riskInput f h.fields (bit w0 1) descs)

/-! ## The pipeline (R70 to R74) -/

/-- A frame that has passed the receive filter. Every parsed frame is looked up (R72); PTP goes to the cores whatever the
class map says (R73), and while DIAL_FAULT reads 1 its stamp is marked invalid (R37). The header of an exception frame or of
a FRAME_RX entry has no place for the mark and carries the stamp as it is (DESIGN CHOICE, log entry 55). -/
def State.pipeline (n : Nat) (stamp : Dial) (secured : Bool) (g : Ingress) (s : State) : State :=
  let f := g.bytes
  match parseFrame f with
  | .depth => s.exception n 3 none stamp f
  | .malformed => s.exception n 4 none stamp f
  | .ok p =>
    let s := if p.isFrag then s.count (Reg.PIPE_CNT_FRAG n) else s
    match s.classLookup n p with
    | (win, s) =>
      if p.isPtp then
        let (ok, s) := s.excToken n stamp
        if ok then s.emit (.ptp n (if s.dialStopped then none else some stamp) f) else s
      else
      match win with
      | none => s.exception n 2 none stamp f
      | some cls =>
        let x := (s.entry (entryKey 3 0 cls)).img
        let a := imgField x 52 1
        let b := imgField x 54 2
        match imgField x 51 1 % 8 with
        | 0 =>
          let q := if a.testBit 3 then p.pcp.getD (a % 8) else a % 8
          if a.testBit 4 then s.route n g p cls q stamp else s.bridge n g p q (b % 16384)
        | 1 => if p.isFrag then s.exception n 5 (some cls) stamp f
               else s.order n cls (a % 16) (a.testBit 4) secured stamp f p
        | 2 => s.exception n 1 (some cls) stamp f
        | 3 => s.frameRx b n cls stamp f
        | 4 =>
          match p.l3, p.l4 with
          | some h, some l =>
            if l.udp ∧ l.dport = 4791 then s.rdmaReceived n stamp cls f h.off l.off h.v6 else s
          | _, _ => s
        | _ => s.count (Reg.PIPE_CNT_CLASS_DROP n)

/-! ## The receive filter (R63, R69, R283) -/

/-- A frame dropped before parsing, its stamp discarded. -/
def State.rxDrop (n key : Nat) (s : State) : State := (s.count key).count (Reg.PORT_CNT_STAMP_DISCARD n)

/-- A good frame counted. -/
def State.rxCount (n : Nat) (f : List Byte) (s : State) : State :=
  (s.count (Reg.PORT_CNT_RX_FRAMES n)).countBy (Reg.PORT_CNT_RX_BYTES n) (f.length + 4)

/-- A good frame (without FCS), after MACsec: counted, and given room in the slot's lossless pool where its priority
is lossless. -/
def State.rxGood (n : Nat) (stamp : Dial) (secured : Bool) (f : List Byte) (s : State) : State :=
  let s := s.rxCount n f
  let prio := if etherType f = 0x8100 ∨ etherType f = 0x88A8 then beField f 14 2 / 8192 else 0
  if s.isInfra n && (s.prioMask n).testBit prio then
    let len := f.length + 4
    if s.poolSize n < s.poolUsed n + len then s.rxDrop n (Reg.RDMA_CNT_LOSSLESS_DROP n)
    else
      let ids := (s.egr n).pool.map (·.1)
      s.pipeline n stamp secured ⟨f, some (ids.foldl max 0 + 1, len)⟩
  else s.pipeline n stamp secured ⟨f, none⟩

/-- A frame arrives on a lane: only a slot that is UP receives. PAUSE and PFC frames are no frames received good
(DESIGN CHOICE, log entry 93). -/
def frameReceived (r : RxFrame) (s : State) : State :=
  let n := s.portOfLane r.lane
  let f := r.bytes.take (r.bytes.length - 4)
  let sec := s.macsecOn n
  let len := r.bytes.length - (if sec then secOverhead f else 0)
  let op := beField f 14 2
  if !s.isUp n then s
  else
    let stamp := s.stamp (laneMode (s.portMode n)) n r
    if r.bytes.drop f.length ≠ fcsBytes f then s.rxDrop n (Reg.PORT_CNT_RX_FCS_ERR n)
    else if r.bytes.length < 64 then s.rxDrop n (Reg.PORT_CNT_RX_RUNT n)
    else if s.maxFrame n < len then s.rxDrop n (Reg.PORT_CNT_RX_OVERSIZE n)
    else if etherType f = 0x8808 ∧ (op = 1 ∨ op = 0x0101) then
      if s.isInfra n then if op = 0x0101 then s.pfcReceived n f else s
      else s.rxDrop n (Reg.PORT_CNT_PAUSE_IGNORED n)
    else if sec then
      match s.macsecRx n f with
      | (.pass g secured, s) => s.rxGood n stamp secured g
      | (.eapol, s) => (s.rxCount n f).emit (.eapol n f)
      | (.drop, s) => s.count (Reg.PORT_CNT_STAMP_DISCARD n)
    else s.rxGood n stamp false f

/-! ## Codewords (R64, R66, R67) -/

/-- The symbols that a FEC corrects. -/
def fecCapacity : Nat → Nat
  | 1 => 7 | 2 => 15 | _ => 0

/-- HI_SER follows the window; its rise may take the port down. -/
def State.hiSerSettle (n : Nat) (s : State) : State :=
  let now := s.hiSerNow n
  if now = (s.port n).hiSer then s
  else
    let s := s.modPort n fun p => { p with hiSer := now }
    if !now then s
    else
      let s := s.count (Reg.PORT_CNT_HISER n)
      if s.isUp n ∧ bit (s.reg (Reg.PORT_LINK_CFG n)) 0 then s.linkDown n 1 false else s

/-- Frames with bytes in an uncorrectable codeword or an invalid block are dropped, with the stamps of those whose SFD was
detected, and those already on their way out are stomped. -/
def State.fecDrop (n touched stamped : Nat) (stomped : List Nat) (s : State) : State :=
  if !s.isUp n then s
  else
    let s := (s.countBy (Reg.PORT_CNT_FEC_FRAME_DROP n) touched).countBy (Reg.PORT_CNT_STAMP_DISCARD n)
      (min stamped touched)
    stomped.foldl (fun s t => (s.emit (.stomped t)).count (Reg.PORT_CNT_TX_STOMPED t)) s

/-- A codeword completes decoding with so many symbols in error; without FEC, symbols counts the invalid 66-bit
blocks. The frames it completes are delivered when it decodes. Of the frames with bytes in it, touched are dropped when
it is bad. -/
def codewordDecoded (lane symbols : Nat) (touched : TouchedFrames) (frames : List RxFrame) (stomped : List Nat)
    (s : State) : State :=
  let n := s.portOfLane lane
  let m := s.portMode n
  let p := s.port n
  if p.link ≠ .up ∧ p.link ≠ .upHold then s
  else
  let s := s.modPort n fun p => { p with receiving := decide (p.link = .up) && touched.partway }
  if fecOf m = 0 then
    let span := if speedOf m = 0 then 125000 else 2000000
    let recent := (List.replicate symbols s.clock ++ p.badAt).filter fun d =>
      decide (s.clock.toNat < d.toNat + span * nsUnits)
    let s := s.modPort n fun p => { p with badAt := recent }
    let s := if symbols = 0 then frames.foldl (fun s r => frameReceived r s) s else s.fecDrop n touched.dropped touched.stamped stomped
    s.hiSerSettle n
  else
    let bad := decide (fecCapacity (fecOf m) < symbols)
    let s := s.count (Reg.PORT_CNT_FEC_CW n)
    let s := s.modPort n fun p => { p with window := (bad :: p.window).take 8192 }
    if bad then ((s.count (Reg.PORT_CNT_FEC_CW_UNCORR n)).fecDrop n touched.dropped touched.stamped stomped).hiSerSettle n
    else
      let s :=
        if symbols = 0 then s
        else (s.count (Reg.PORT_CNT_FEC_CW_CORR n)).countBy (Reg.PORT_CNT_FEC_SYM_CORR n) symbols
      frames.foldl (fun s r => frameReceived r s) (s.hiSerSettle n)

/-! ## Admission limits and templates (R76, R80, R89, R335) -/

/-- Admin 0x20 ADMIT_SET. -/
def admitSet (c : Nat) : State → State := onAdmin c 0x20 fun t _ s =>
  let n := bits (adminParam t.desc 0) 7 0
  let rate := bits (adminParam t.desc 1) 31 0
  let burst := bits (adminParam t.desc 1) 47 32
  if 150000000 < rate ∨ !s.storeFits (fun i => if i = n then rate else s.admitRate i) s.seqCfg then
    s.adminDone c t configLimit 0
  else if s.isIdle n then (s.count Reg.PORT_CNT_IDLE_SLOT_WRITES).adminDone c t 0 0
  else ((s.setReg (Reg.PIPE_ADMIT n) (word (rate + burst * 2 ^ 32))).condPollAll).adminDone c t 0 0

/-- A staged word of a template: 0 where none has been staged since the start; a commit leaves it staged (DESIGN CHOICE, log
entry 57). -/
def State.stagedWord (s : State) (k : Nat) : Word := Store.get (fun _ => 0) s.staged k

/-- A write to word 0 of a template commits its four words. -/
def pipeTmplW0Write (i : Nat) (v : Word) (s : State) : State :=
  if s.anyOpen ∨ bits v 25 16 ≠ i then s.count Reg.PIPE_CNT_TMPL_REFUSED
  else
    let s := s.storeMasked (Reg.PIPE_TMPL_W0 i) v
    [Reg.PIPE_TMPL_W1 i, Reg.PIPE_TMPL_W2 i, Reg.PIPE_TMPL_W3 i].foldl (fun s k => s.storeMasked k (s.stagedWord k)) s

/-! ## FRAME_TX (R251) -/

/-- The entry at the head of a FRAME_TX ring: checked, and its frame put into its queue. -/
def frameTxPost (c : Nat) (frame : Option (List Byte)) (s : State) : State :=
  let r := s.ring c
  match r.head with
  | none => s
  | some t =>
    if r.type ≠ 9 then s
    else
      let len := leField t.desc 8 2 % 16384
      let n := leField t.desc 10 1
      let q := leField t.desc 11 1 % 8
      let f : QFrame := ⟨(frame.getD []).take len, q, some (c, t.cursor, (leField t.desc 11 1).testBit 3), none, none⟩
      let s := s.startEntry c t.cursor
      if len < 60 ∨ 9212 < len then s.txDone f 3 0
      else if s.isIdle n ∨ (!t.granted ∧ !s.ownsSlot r.owner n) then s.txDone f 5 0
      else if frame.isNone then s.txDone f 4 0
      else s.enqueue n f

/-! ## The meanings -/

def execFrameReceived (f : RxFrame) (s : State) : Answer :=
  within (Instr.wf (.frameReceived f)) (whenClocked (unlessStopped 2 (frameReceived f)) s) s

def execCodewordDecoded (lane symbols : Nat) (touched : TouchedFrames) (frames : List RxFrame) (stomped : List Nat)
    (s : State) : Answer :=
  within (Instr.wf (.codewordDecoded lane symbols touched frames stomped))
    (whenClocked (unlessStopped 2 (codewordDecoded lane symbols touched frames stomped)) s) s

def execAdmitSet (ring : Nat) (s : State) : Answer :=
  within (Instr.wf (.admitSet ring)) (whenClocked (admitSet ring) s) s

def execPipeTmplW0Write (who : Party) (i : Nat) (v : Word) (s : State) : Answer :=
  within (Instr.wf (.pipeTmplW0Write who i v)) 
    (pfWrite who false false (whole who (Reg.PIPE_TMPL_W0 i) (pipeTmplW0Write i v)) s) s

def execFrameTxPost (ring : Nat) (frame : Option (List Byte)) (s : State) : Answer :=
  within (Instr.wf (.frameTxPost ring frame)) (whenClocked (onLink (s.ring ring).owner (.frameTxPost ring frame)
      (frameTxPost ring frame)) s) s

def execExceptionFrameConsumed (pipe : Nat) (s : State) : Answer :=
  within (Instr.wf (.exceptionFrameConsumed pipe)) (whenClocked (exceptionFrameConsumed pipe) s) s

end Sys2Proof.Machine
end

