-- ==== Sys2Proof/Machine/Release.lean ====
section
/-! DEFINITION. Machine/Release.lean: posting, accepting, launching and completing releases (R121 to R130), and the
scheduler with its shapers (R131 to R136). -/

namespace Sys2Proof.Machine

/-! ## Taking a posting (R121, R122) -/

/-- The posting that a release descriptor asks for. -/
def postingOf (c : Nat) (t : Taken) : Posting :=
  let d := t.desc
  { ring := c, cursor := t.cursor, rel := 0, tRel := BitVec.ofNat 72 (leField d 16 9), length := leField d 8 2
    group := leField d 10 2 % 2 ^ 14, single := (leField d 12 1) % 2 = 1, tag := word (leField d 32 8)
    acceptNs := 0, frame := [], copies := [], audited := false, status := none, written := false }

/-- A refused posting's counter and record (R129). -/
def State.noteRefusal (p : Posting) (status : Nat) (s : State) : State :=
  (s.count (Reg.REL_CNT_REFUSED status)).audit ⟨.missedRelease, status, 2 ^ 5, 0, p.tRel, p.tag, noDigest⟩

/-- Changing the posting of a ring's entry. -/
def State.modPosting (p : Posting) (f : Posting → Posting) (s : State) : State :=
  { s with postings := s.postings.map fun q => if q.ring = p.ring ∧ q.cursor = p.cursor ∧ q.rel = p.rel then f q else q }

/-- A posting refused after it was taken: codes 3, 4 and 7 carry the acceptance Dial (R121). -/
def State.refusePosting (p : Posting) (status : Nat) (s : State) : State :=
  let at_ := if status = 3 ∨ status = 4 ∨ status = 7 then s.dialNs else 0
  (s.modPosting p fun q => { q with status := some status, acceptNs := at_ }).noteRefusal p status

/-- The first check that a posting fails when it is taken, 0 when none does. -/
def State.postCheck (s : State) (p : Posting) : Nat :=
  if !bit (s.voted Reg.REL_CFG) 0 then 10
  else if s.dialStopped then 8
  else if p.length < 60 ∨ 9212 < p.length then 6
  else if 25165824 < s.relUsed + p.room then 5
  else if 65536 ≤ s.relHeld then 11
  else 0

/-- The next descriptor of a release ring is taken, unless a step is pending (R45, R122). -/
def releasePost (c : Nat) (s : State) : State :=
  let r := s.ring c
  match r.head with
  | none => s
  | some t =>
    if r.type ≠ 3 ∨ s.time.pending.isSome then s
    else
      let p := postingOf c t
      let st := s.postCheck p
      let s := s.startEntry c t.cursor
      if st ≠ 0 then
        ({ s with postings := s.postings ++ [{ p with status := some st }] }).noteRefusal p st
      else
        let s := { s with postings := s.postings ++ [p] }
        let s := s.modReg Reg.REL_BUF_USED fun v => word (max (bits v 56 32) s.relUsed * 2 ^ 32)
        if t.abandoned then s.refusePosting p 9 else s.dma r.owner 0 c none (.dmaRead r.owner c (leField t.desc 0 8) p.length)

/-! ## Acceptance (R122, R123, R128) -/

/-- The posting of a ring whose frame is being read. -/
def State.reading (s : State) (c : Nat) : Option Posting :=
  s.postings.find? fun p => decide (p.ring = c ∧ p.rel = 0 ∧ p.status = none)

/-- The target slots of a posting; none where GROUP refuses it (R123). -/
def State.targets (s : State) (p : Posting) : Option (List Nat) :=
  let ns :=
    if p.single then (if s.isIdle (p.group % 256) then [] else [p.group % 256])
    else ((s.groupMask p.group).map s.maskSlots).getD []
  if ns = [] then none else some ns

/-- MIN_LEAD_NS, at least 2,000 (R139). -/
def State.minLead (s : State) : Nat := max 2000 (bits (s.voted Reg.REL_CFG) 31 16)

/-- A copy takes a wire span on its port unless it was dropped at acceptance (R128). -/
def Copy.spans (c : Copy) : Bool :=
  match c.st with
  | .dropped r => decide (r < 2 ∨ 5 < r)
  | _ => true

/-- Two spans overlap. -/
def overlap (a b : Nat × Nat) : Bool := decide (a.1 < b.2 ∧ b.1 < a.2)

/-- The reason for which a copy is dropped at acceptance, 0 when none applies. -/
def State.acceptDrop (s : State) (p : Posting) (c : Copy) : Nat :=
  let others := s.postings.filter fun q => decide (q.rel ≠ 0 ∧ q.rel ≠ p.rel)
  let taken := others.any fun q => (q.copyOn c.slot).any fun d => d.spans && overlap (s.wireSpan q d) (s.wireSpan p c)
  let armed := (others.filter fun q => (q.copyOn c.slot).any fun d => decide (d.st = .armed)).length
  if s.maxFrame c.slot < p.length + 4 then 2
  else if taken then 3
  else if copyAt p c < fine s.dial + 25 * (s.guardNow c.slot + 100 * nsUnits) then 4
  else if 1024 ≤ armed then 5
  else 0

/-- A copy armed or dropped at acceptance. -/
def State.armCopy (rel n : Nat) (s : State) : State :=
  match s.posting rel with
  | none => s
  | some p =>
    match p.copyOn n with
    | none => s
    | some c =>
      let r := s.acceptDrop p c
      if r = 0 then s else s.dropCopy rel n r

/-- The frame read of a posting completes (none: it failed): the posting is accepted or refused. Under a fault of the
Dial that rose during the read it is accepted, and its copies that are armed drop for it at once (log entry 45). -/
def releaseAcceptance (c : Nat) (frame : Option (List Byte)) (s : State) : State :=
  match s.reading c with
  | none => s
  | some p =>
    match frame with
    | none => s.refusePosting p 9
    | some f =>
      let s := if p.single then s else s.meetEntry (entryKey 4 0 p.group) 0
      match s.targets p with
      | none => s.refusePosting p 7
      | some ns =>
        if p.tRel.toNat < s.dial.toNat + s.minLead * nsUnits then s.refusePosting p 3
        else if s.dial.toNat + nsPerSecond * nsUnits < p.tRel.toNat then s.refusePosting p 4
        else
          let rel := s.relNext
          let t := fine p.tRel
          let copies := ns.map fun n => (⟨n, launchPoint (s.portMode n) t - t, .armed⟩ : Copy)
          let s := { s with relNext := rel + 1 }
          let s := s.modPosting p fun q =>
            { q with rel := rel, acceptNs := s.dialNs, frame := slice f 0 p.length, copies := copies }
          let s := s.count Reg.REL_CNT_ACCEPTED
          let s := ns.foldl (fun s n => s.armCopy rel n) s
          if s.time.dialFault then s.dropArmed.settleRelease rel else s.settleRelease rel

/-! ## At the wire (R125 to R129) -/

/-- The bytes of what is on the wire that have left by now: its gap and what is to come taken off. -/
def State.wireSentBytes (s : State) (n : Nat) : Nat :=
  let e := s.egr n
  e.wireBytes + 12 - divUp ((e.wireEnd.toNat - s.clock.toNat) * macRate (speedOf (s.portMode n))) 2048

/-- A preemptable frame in flight is preempted at its first permitted point: once 64 × (1 + addFragSize) bytes of a
fragment, its 4 bytes of mCRC among them, have left, and while 64 bytes are still to come; a frame without such a point
goes on to its end (R127; log entry 80). -/
def State.preemptWire (n : Nat) (s : State) : State :=
  let e := s.egr n
  match e.wire with
  | none => s
  | some f =>
    let sent := s.wireSentBytes n
    let point := max sent (64 * (1 + e.addFrag) - 4)
    if e.preempt ∧ !s.wireSent n ∧ point + 64 ≤ e.wireBytes then
      (s.modEgr n fun e => { e with wire := none, resume := some (f, e.wireBytes - point)
                                    wireEnd := s.clock + BitVec.ofNat 72 (s.wireTime n (point - sent + 16)) }).count
        (Reg.REL_CNT_PREEMPT n)
    else s

/-- A copy of a release on a slot that has not left. -/
def State.liveCopy (s : State) (n rel : Nat) : Option (Posting × Copy) :=
  match s.posting rel with
  | none => none
  | some p => (p.copyOn n).bind fun c => if c.st = .armed ∨ c.st = .committed then some (p, c) else none

/-- An armed copy of a release on a slot. -/
def State.armedCopy (s : State) (n rel : Nat) : Option (Posting × Copy) :=
  match s.posting rel with
  | none => none
  | some p => (p.copyOn n).bind fun c => if c.st = .armed then some (p, c) else none

/-- The guard of a copy begins, committed or not: from its Dial on nothing starts (State.guarded), and a frame in flight is
preempted where preemption is active (R126, R127). -/
def guardBegin (n rel : Nat) (s : State) : State :=
  match s.liveCopy n rel with
  | none => s
  | some (p, c) => if copyAt p c ≤ fine s.dial + 25 * s.guardNow n then s.preemptWire n else s

/-- The transmit side of a port cannot protect a frame now: SECURE (R128, R197, R213). An encoding SA that is not VALID,
or whose key is not ACTIVE, protects nothing either (DESIGN CHOICE, log entry 47). -/
def State.notSecure (s : State) (n : Nat) (f : List Byte) : Bool := s.protects n f && (s.maskStop || !s.txReady n)

/-- A launcher commits its copy (R125, R128, R196). -/
def launcherCommit (n rel : Nat) (s : State) : State :=
  match s.armedCopy n rel with
  | none => s
  | some (p, c) =>
    if s.dialStopped ∨ fine s.dial + s.copyCal p c < copyAt p c then s
    else if !s.isUp n then s.endCopy rel n 1
    else if s.notSecure n p.frame then s.endCopy rel n 6
    else
      let s := s.modRel rel fun p => p.setCopy n .committed
      let (b, s) := s.wireFrame n p.frame
      (s.emit (.copy n rel b)).auditRelease rel

/-- A committed copy's last bit has left (R126, R128). -/
def copyEnd (n rel : Nat) (s : State) : State :=
  match s.posting rel with
  | none => s
  | some p =>
    match p.copyOn n with
    | none => s
    | some c => if c.st = .committed ∧ s.copyLast p c ≤ fine s.dial then s.copySent rel n else s

/-- Dial reaches T_rel (R129). -/
def releaseInstant (rel : Nat) (s : State) : State := (s.auditRelease rel).prunePostings

/-- Bytes 40 to 55 of a posting's completion (R121). -/
def Posting.fields (p : Posting) : List Byte :=
  let sent := (p.copies.filter fun c => decide (c.st = .sent)).length
  leBytes 2 sent ++ leBytes 2 (p.copies.length - sent) ++ [BitVec.ofNat 8 (p.status.getD 0), 0, 0, 0]
    ++ leBytes 8 p.acceptNs

/-- The oldest posting of a ring whose completion is not written is completed once its outcome is known (R129). -/
def releaseCompletion (c : Nat) (s : State) : State :=
  match s.postings.find? fun p => decide (p.ring = c) && !p.written with
  | none => s
  | some p =>
    if p.status.isNone then s
    else
      let s := s.modPosting p fun q => { q with written := true }
      (s.complete c p.cursor [(40, p.fields)]).prunePostings

/-! ## The shapers (R133 to R136) -/

/-- RATE, BURST and EN of a shaper register. -/
def shaperOn (v : Word) : Bool := bit v 63
def shaperGain (v : Word) : Nat := bits v 31 0 * 16 / 5
def shaperDepth (v : Word) : Int := (bits v 55 32 * 256 : Nat)

/-- One refill of a bucket in 1/256 byte. -/
def shaperStep (v : Word) (tokens : Int) : Int := min (shaperDepth v) (tokens + shaperGain v)

/-- One refill of a port's buckets; a queue shaper turned on since the last refill finds its bucket full. -/
def State.refill (n : Nat) (s : State) : State :=
  let p := s.reg (Reg.REL_PORT_SHAPER n)
  let vs := (List.range 8).map fun q => s.reg (Reg.REL_Q_SHAPER n q)
  let one := fun (v : Word × Word × Int) =>
    if !shaperOn v.1 then v.2.2 else if !shaperOn v.2.1 then shaperDepth v.1 else shaperStep v.1 v.2.2
  s.modEgr n fun e =>
    { e with tokens := if shaperOn p then shaperStep p e.tokens else e.tokens
             qTokens := (vs.zip (e.qShaper.zip e.qTokens)).map one
             qShaper := vs }

/-- Every 100 ns every bucket gains its tokens (R134). -/
def shaperRefill (s : State) : State := (List.range 256).foldl (fun s n => s.refill n) s

/-- REL_PORT_SHAPER written: a change of RATE, BURST or EN resets the bucket in the same cycle (R135). -/
def relPortShaperWrite (n : Nat) (v : Word) (s : State) : State :=
  let k := Reg.REL_PORT_SHAPER n
  let old := s.reg k
  let s := s.storeMasked k v
  let new := s.reg k
  if bits old 55 0 = bits new 55 0 ∧ shaperOn old = shaperOn new then s
  else (s.modEgr n fun e => { e with tokens := if bit new 56 then shaperDepth new else 0 }).count
    (Reg.REL_CNT_SHAPER_RESET n)

/-- REL_Q_SHAPER written: it takes effect at the next refill (R134). -/
def relQShaperWrite (n q : Nat) (v : Word) (s : State) : State := s.storeMasked (Reg.REL_Q_SHAPER n q) v

/-! ## The scheduler (R131) -/

/-- A queue may send: it holds a frame that can be protected where it must be, its shaper permits and no PFC pauses
it. -/
def State.maySend (s : State) (n q : Nat) : Bool :=
  match s.queue n q with
  | [] => false
  | f :: _ =>
    let e := s.egr n
    !s.paused n q && (!shaperOn (e.qShaper.getD q 0) || decide (0 ≤ e.qTokens.getD q 0)) && !s.notSecure n f.bytes

/-- QUANTUM of a queue, at least 64. -/
def State.quantum (s : State) (n q : Nat) : Nat := max 64 (bits (s.reg (Reg.REL_Q_CFG n q)) 15 0)

/-- Where the round robin stands: deficits, the queue in turn, and whether its quantum has been added. -/
abbrev Robin := List Nat × Nat × Bool

/-- The round robin goes on to the next queue; an emptied queue loses its deficit. -/
def robinNext (empty : Nat → Bool) (r : Robin) : Robin :=
  (if r.2.2 ∧ empty r.2.1 then r.1.set r.2.1 0 else r.1, (r.2.1 + 1) % 6, false)

/-- The deficit-weighted round robin up to its next frame: the queue picked, and where the robin then stands. -/
def robin (may empty : Nat → Bool) (quantum len : Nat → Nat) : Nat → Robin → Option Nat × Robin
  | 0, r => (none, r)
  | fuel + 1, r =>
    let q := r.2.1
    if !may q then robin may empty quantum len fuel (robinNext empty r)
    else
      let d := if r.2.2 then r.1.getD q 0 else r.1.getD q 0 + quantum q
      if len q ≤ d then (some q, r.1.set q (d - len q), q, true)
      else robin may empty quantum len fuel (robinNext empty (r.1.set q d, q, true))

/-- The queue whose head goes next, and the robin after it; Q7 and Q6 go first. -/
def State.pick (s : State) (n : Nat) : Option Nat × Robin :=
  let e := s.egr n
  let r : Robin := (e.deficit, e.turn, e.inTurn)
  let may := s.maySend n
  if may 7 then (some 7, r)
  else if may 6 then (some 6, r)
  else if (List.range 6).any may then
    robin may (fun q => (s.queue n q).isEmpty) (s.quantum n)
      (fun q => ((s.queue n q).head?.map (s.shaperLen n)).getD 0) 2000 r
  else (none, r)

/-- A frame starts on the wire; one beyond the port's MAX_FRAME is ended there with an invalid FCS (R132). -/
def State.startFrame (n : Nat) (f : QFrame) (s : State) : State :=
  let len : Int := (256 * s.shaperLen n f : Nat)
  let port := shaperOn (s.reg (Reg.REL_PORT_SHAPER n))
  let size := s.onWire n f
  let stamp := s.txStamp n
  let s := s.modEgr n fun e =>
    { e with qTokens := if shaperOn (e.qShaper.getD f.queue 0) then putAt 0 e.qTokens f.queue (e.qTokens.getD f.queue 0 - len)
                        else e.qTokens
             tokens := if port then e.tokens - len else e.tokens
             deferred := e.deferred.filter (· ≠ f.queue), maskHeld := e.maskHeld.filter (· ≠ f.queue) }
  if s.maxFrame n < f.size then
    let t := s.wireTime n (s.maxFrame n + 20)
    let s := s.modEgr n fun e => { e with wire := some f, stomped := true, wireBytes := s.maxFrame n, wireAt := stamp
                                          wireEnd := s.clock + BitVec.ofNat 72 t }
    (s.emit (.stomped n)).count (Reg.PORT_CNT_TX_STOMPED n)
  else
    let t := s.wireTime n (size + 20)
    let (b, s) := s.wireFrame n f.bytes
    (s.modEgr n fun e => { e with wire := some f, wireBytes := size, wireAt := stamp, wireEnd := s.clock + BitVec.ofNat 72 t }).emit
      (.frame n b)

/-- A queue's head that MASK_FAIL = STOP holds back counts once (R213). -/
def State.countMaskHeld (n : Nat) (s : State) : State :=
  if !s.maskStop then s
  else (List.range 8).foldl (fun s q =>
    if (s.queue n q).head?.any (fun f => s.protects n f.bytes) && !(s.egr n).maskHeld.contains q then
      (s.modEgr n fun e => { e with maskHeld := e.maskHeld ++ [q] }).count (Reg.LAMP_CNT_TX_MASK_STOP n)
    else s) s

/-- The frame that a guard holds back counts once: the head of each queue that could send but for the guard (R126). -/
def State.countDeferred (n : Nat) (s : State) : State :=
  (List.range 8).foldl (fun s q =>
    if !s.maySend n q ∨ (s.egr n).deferred.contains q then s
    else (s.modEgr n fun e => { e with deferred := e.deferred ++ [q] }).count (Reg.REL_CNT_GUARD_DEFER n)) s

/-- The wire of a port is free: the next frame is picked and started (R131), at any Dial (DESIGN CHOICE, log entry 44).
While it is not, a guard that has begun preempts what is on it (R127). -/
def txSchedule (n : Nat) (s : State) : State :=
  if !s.isUp n then s
  else if s.clock < (s.egr n).wireEnd then if s.guarded n then s.preemptWire n else s
  else
    let s := (s.wireDone n).countMaskHeld n
    let e := s.egr n
    let permits := !shaperOn (s.reg (Reg.REL_PORT_SHAPER n)) || decide (0 ≤ e.tokens)
    if s.guarded n then if permits then s.countDeferred n else s
    else
      match e.resume with
      | some (f, left) =>
        s.modEgr n fun e => { e with wire := some f, resume := none, wireBytes := left
                                     wireEnd := s.clock + BitVec.ofNat 72 (s.wireTime n (left + 20)) }
      | none =>
        if !permits then s
        else
          match s.pick n with
          | (none, _) => s
          | (some q, d, turn, inTurn) =>
            match s.queue n q with
            | [] => s
            | f :: rest =>
              let s := s.setQueue n q rest
              let ends := decide (q < 6) && rest.isEmpty
              let s := s.modEgr n fun e =>
                { e with deficit := if ends then d.set q 0 else d, turn := if ends then (turn + 1) % 6 else turn
                         inTurn := inTurn && !ends }
              s.startFrame n f

/-! ## The meanings -/

def execReleasePost (ring : Nat) (s : State) : Answer :=
  within (Instr.wf (.releasePost ring)) (whenClocked (unlessStopped 3 (releasePost ring)) s) s

def execReleaseAcceptance (ring : Nat) (frame : Option (List Byte)) (s : State) : Answer :=
  within (Instr.wf (.releaseAcceptance ring frame)) (whenClocked (onLink (s.ring ring).owner (.releaseAcceptance ring frame)
      (unlessStopped 3 (releaseAcceptance ring frame))) s) s

def execGuardBegin (slot rel : Nat) (s : State) : Answer :=
  within (Instr.wf (.guardBegin slot rel)) (whenClocked (unlessStopped 3 (guardBegin slot rel)) s) s

def execLauncherCommit (slot rel : Nat) (s : State) : Answer :=
  within (Instr.wf (.launcherCommit slot rel)) (whenClocked (unlessStopped 3 (launcherCommit slot rel)) s) s

def execCopyEnd (slot rel : Nat) (s : State) : Answer :=
  within (Instr.wf (.copyEnd slot rel)) (whenClocked (unlessStopped 3 (copyEnd slot rel)) s) s

def execReleaseCompletion (ring : Nat) (s : State) : Answer :=
  within (Instr.wf (.releaseCompletion ring)) (whenClocked (unlessStopped 3 (releaseCompletion ring)) s) s

def execReleaseInstant (rel : Nat) (s : State) : Answer :=
  within (Instr.wf (.releaseInstant rel)) (whenClocked (unlessStopped 3 (releaseInstant rel)) s) s

def execTxSchedule (slot : Nat) (s : State) : Answer :=
  within (Instr.wf (.txSchedule slot)) (whenClocked (unlessStopped 3 (txSchedule slot)) s) s

def execShaperRefill (s : State) : Answer := within (Instr.wf .shaperRefill) (whenClocked (unlessStopped 3 shaperRefill) s) s

def execRelPortShaperWrite (who : Party) (slot : Nat) (v : Word) (s : State) : Answer :=
  within (Instr.wf (.relPortShaperWrite who slot v))
    (pfWrite who false false (whole who (Reg.REL_PORT_SHAPER slot)
      (unlessStopped 3 (onSlot slot (relPortShaperWrite slot v)))) s) s

def execRelQShaperWrite (who : Party) (slot q : Nat) (v : Word) (s : State) : Answer :=
  within (Instr.wf (.relQShaperWrite who slot q v))
    (pfWrite who false false (whole who (Reg.REL_Q_SHAPER slot q)
      (unlessStopped 3 (onSlot slot (relQShaperWrite slot q v)))) s) s

end Sys2Proof.Machine
end

