-- ==== Sys2Proof/Machine/HostPort.lean ====
section
/-! DEFINITION. Machine/HostPort.lean: host links, functions, resets, errors and the freeze (R216 to R236; log entries 67
and 94). -/

namespace Sys2Proof.Machine

/-! ## Functions of a link (R220, R221, R232) -/

/-- The VFs in existence on a PF. -/
def State.vfNumbers (s : State) (p : Nat) : List Nat :=
  let f := s.fn (.pf p)
  if f.vfEnable then (List.range f.numVfs).map (· + 1) else []

/-- The PF of a link and its VFs. -/
def State.linkFunctions (s : State) (p : Nat) : List Party := .pf p :: (s.vfNumbers p).map (.vf p)

/-- The ring contexts owned by functions that satisfy a test and not DISABLED. -/
def State.ringsOwned (s : State) (f : Party → Bool) : List Nat :=
  s.ringsWhere fun _ r => f r.owner && decide (r.phase ≠ .disabled)

/-- The staging latches of a function are cleared, without counting (R365): slot k's latch has key 32 × function + k. -/
def State.clearLatches (f : Party) (s : State) : State :=
  { s with latches := s.latches.filter fun e => decide (e.1 / 32 ≠ f.key) }

/-- A function's configuration after a reset that keeps its sticky fields: an FLR, or the loss of its link (R223, R230;
log entry 94). -/
def Function.resetKeeping (f : Function) : Function :=
  { Function.reset with
    uncorr := f.uncorr, corr := f.corr, uncorrMask := f.uncorrMask, uncorrSev := f.uncorrSev, corrMask := f.corrMask
    header := f.header, laneErr := f.laneErr }

/-- A function's own state after its reset; PERST_N takes the sticky fields too. -/
def State.fnReset (f : Party) (sticky : Bool) (s : State) : State :=
  (s.modFn f fun x => if sticky then x.resetKeeping else Function.reset).clearLatches f

/-- The entries of a ring that are not begun and fail with its host's loss, as postings. -/
def State.lostPosts (s : State) (c : Nat) : List Posting :=
  let r := s.ring c
  if r.type = 3 then (r.taken.filter fun t => !t.started && !t.abandoned).map (postingOf c) else []

/-- The rings of functions that satisfy a test lose their host: a posting not begun, or one whose frame was still being read,
fails FETCH, as every piece of work that needs host memory does (R129, R244, R245). -/
def State.ringsLost (f : Party → Bool) (s : State) : State :=
  let cs := s.ringsOwned f
  let s := forAll (cs.flatMap s.lostPosts) (fun p s => s.noteRefusal p 9) (forAll cs State.hostLost s)
  let reading := s.postings.filter fun p => decide (p.rel = 0 ∧ p.status = none) && f (s.ring p.ring).owner
  forAll reading (fun p s => s.refusePosting p 9) s

/-! ## What waits on a link (R232 to R234) -/

/-- The NUMBER of a dump is on its way: the dump is written, and what it states of skipped ones is stated (R377, R378). -/
def State.dumpWritten (d : Nat) (s : State) : State :=
  let s := { s with pmu := { s.pmu with skipped := s.pmu.skipped - s.pmu.stated } }
  (s.setReg Reg.PMU_DUMP_SEQ (word d)).count Reg.PMU_CNT_DUMPS

/-- A held request goes out; with it, an entry's OWN returns, or a dump, whose class no other request has, is written. -/
def State.sendHeld (h : HeldOut) (s : State) : State :=
  let s := s.emit h.out
  match h.entry, h.out with
  | some cur, _ => s.entryDone h.ring cur
  | none, .dmaWrite _ _ bs _ => if h.cls = 4 ∧ bs.length = 8 then s.dumpWritten (leNat bs) else s
  | none, _ => s

/-- What a link holds for functions that may send now goes out, in the order of urgency, ring and issue (R20, R224,
R234). -/
def State.flushHeldOut (p : Nat) (s : State) : State :=
  let all := (s.link p).held
  let now := all.filter fun h => s.dmaOpen h.fn
  let s := s.modLink p fun l => { l with held := all.filter fun h => !s.dmaOpen h.fn }
  (forAll (now.insertionSort fun a b => a.cls < b.cls ∨ a.cls = b.cls ∧ a.ring ≤ b.ring) State.sendHeld s).flushReplies p

/-- The admin commands that read host memory (R188, R257, R262, R275, R296). -/
def adminReads : List Nat := [0x30, 0x40, 0x43, 0x44, 0x46, 0x50, 0x61]

/-- A failed DMA read of a ring: its fetch (none), or the data of the entry with that number, which completes with its
type's fetch-failure status; the ring goes on (R228, R243). The numbers from 65,536 on are the work queues of QPs. -/
def State.failRead (c : Nat) (entry : Option (BitVec 32)) (s : State) : State :=
  let r := s.ring c
  if noRing ≤ c then s.failQueueRead c entry
  else if r.type = 10 then s.failNvme r.owner c entry
  else match entry with
  | none => if r.fetching ∧ r.phase = .active then s.fetchFail c else s
  | some cur =>
    match r.taken.find? fun t => t.cursor == cur && !t.held with
    | none => s
    | some t =>
      match r.type with
      | 3 =>
        match s.postings.find? fun p => decide (p.ring = c ∧ p.cursor = cur ∧ p.rel = 0 ∧ p.status = none) with
        | some p => s.refusePosting p 9
        | none => s
      | 4 =>
        let op := updOp t.desc
        if t.started ∨ s.updHeld c ∨ !(decide (op = 2 ∨ op = 4 ∨ op = 5) || (decide (op = 0) && decide (6 ≤ updTable t.desc)))
        then s else (s.startEntry c cur).updDone c t 11
      | 5 =>
        let op := adminOpcode t.desc
        if t.started ∨ !adminReads.contains op then s
        else if 0x40 ≤ op ∧ op ≤ 0x48 then s.keyDone c t r.owner 11 0
        else s.adminDone c t adminFetch 0
      | 6 => if t.started then s else s.refuseJob c t 9
      | 9 => if t.started then s else s.complete c cur [(16, zeros 16), (40, [4])]
      | _ => s

/-- A command that brought what a DMA read asked for, while its link was frozen: the function whose read it was, and the
command's meaning, which the release runs (R233, R234). -/
def State.heldCommand (s : State) : Instr → Party × (State → Answer)
  | .descriptorFetch c es => ((s.ring c).owner, execDescriptorFetch c es)
  | .piRead c pi es => (s.fetcher c, execPiRead c pi es)
  | .releaseAcceptance c f => ((s.ring c).owner, execReleaseAcceptance c f)
  | .frameTxPost c f => ((s.ring c).owner, execFrameTxPost c f)
  | .tableRead c b => ((s.ring c).owner, execTableRead c b)
  | .tableWrite c b => ((s.ring c).owner, execTableWrite c b)
  | .tableInsert c b => ((s.ring c).owner, execTableInsert c b)
  | .tableDelete c b => ((s.ring c).owner, execTableDelete c b)
  | .keyLoad c b => ((s.ring c).owner, execKeyLoad c b)
  | .keyAgree c x y => ((s.ring c).owner, execKeyAgree c x y)
  | .keyDeriveMka c b => ((s.ring c).owner, execKeyDeriveMka c b)
  | .keySeal c x y => ((s.ring c).owner, execKeySeal c x y)
  | .cbc c x y => ((s.ring c).owner, execCbc c x y)
  | .ctr c x y => ((s.ring c).owner, execCtr c x y)
  | .cfb8 c x y => ((s.ring c).owner, execCfb8 c x y)
  | .cfb128 c x y => ((s.ring c).owner, execCfb128 c x y)
  | .ofb c x y => ((s.ring c).owner, execOfb c x y)
  | .gcm c x y => ((s.ring c).owner, execGcm c x y)
  | .ccm c x y => ((s.ring c).owner, execCcm c x y)
  | .xts c x y => ((s.ring c).owner, execXts c x y)
  | .cmac c x y => ((s.ring c).owner, execCmac c x y)
  | .sha384 c x => ((s.ring c).owner, execSha384 c x)
  | .sha512 c x => ((s.ring c).owner, execSha512 c x)
  | .sealVerify c x y => ((s.ring c).owner, execSealVerify c x y)
  | .digestVerify c x y => ((s.ring c).owner, execDigestVerify c x y)
  | .vfShareSet c b => ((s.ring c).owner, execVfShareSet c b)
  | .nsCreate c b => ((s.ring c).owner, execNsCreate c b)
  | .qpModify c b => ((s.ring c).owner, execQpModify c b)
  | .identify x => (x.fn, execIdentify x)
  | .getFeatures x => (x.fn, execGetFeatures x)
  | .setFeatures x => (x.fn, execSetFeatures x)
  | .createIoSq x => (x.fn, execCreateIoSq x)
  | .createIoCq x => (x.fn, execCreateIoCq x)
  | .deleteIoSq x => (x.fn, execDeleteIoSq x)
  | .deleteIoCq x => (x.fn, execDeleteIoCq x)
  | .getLogPage x => (x.fn, execGetLogPage x)
  | .abort x => (x.fn, execAbort x)
  | .asynchronousEventRequest x => (x.fn, execAsynchronousEventRequest x)
  | .nvmeRead x => (x.fn, execNvmeRead x)
  | .nvmeWrite x d => (x.fn, execNvmeWrite x d)
  | .flush x => (x.fn, execFlush x)
  | .writeZeroes x => (x.fn, execWriteZeroes x)
  | .datasetManagement x rs => (x.fn, execDatasetManagement x rs)
  | .send q e d => ((s.qp q).owner, execSend q e d)
  | .sendImm q e d => ((s.qp q).owner, execSendImm q e d)
  | .rdmaWrite q e d => ((s.qp q).owner, execRdmaWrite q e d)
  | .writeImm q e d => ((s.qp q).owner, execWriteImm q e d)
  | .dmaCompletion r _ =>
    let o := s.fetcher r.ring
    (o, fun s => .next ((s.count (Reg.HOST_CNT_DMA_RD_FAIL (o.pfIndex.getD 0))).failRead r.ring r.entry))
  | _ => (.cores, .next)

/-- The state that an answer goes on with. -/
def Answer.after (a : Answer) (s : State) : State :=
  match a with
  | .next t => t
  | _ => s

/-- What a link keeps for functions that satisfy a test is discarded: their requests, and the completions for them. -/
def State.dropWaiting (p : Nat) (f : Party → Bool) (s : State) : State :=
  s.modLink p fun l =>
    { l with held := l.held.filter fun h => !f h.fn, waits := l.waits.filter fun i => !f (s.heldCommand i).1 }

/-- The VFs of a PF are reset and cease to exist; with rings, their ring contexts return to reset values (R304). -/
def State.dropVfs (p : Nat) (rings : Bool) (s : State) : State :=
  let vs := s.vfNumbers p
  let s := forAll vs (fun v s =>
    let s := s.vfReset p v
    (if rings then s.vfRingsReset p v else s).fnReset (.vf p v) false) s
  s.modFn (.pf p) fun f => { f with vfEnable := false, numVfs := 0 }

/-! ## Links (R217, R230, R231) -/

/-- The width a link is configured for (R216). -/
def State.linkWidth (s : State) (p : Nat) : Nat := if bit (s.reg (Reg.HOST_PORT_CFG (p - p % 2))) 0 then 8 else 16

/-- The highest rate allowed by MAX_RATE, as a RATE code (R236). -/
def State.linkMaxRate (s : State) (p : Nat) : Nat :=
  match bits (s.reg (Reg.HOST_PORT_CFG p)) 4 2 with
  | 2 => 4 | 3 => 3 | 4 => 2 | _ => 5

/-- A link may train: in recovery mode only that of PF index 0 (R231). -/
def State.mayTrain (s : State) (p : Nat) : Bool :=
  s.pfExists p && !s.perst p && s.clocked && (decide (s.phase ≠ .recovery) || decide (p = 0))

/-- A link reaches DL_Active, or settles at another rate or width; an entry to the degraded condition is counted
(R217). -/
def hostLinkUp (p rate width : Nat) (flit : Bool) (s : State) : State :=
  if !s.mayTrain p ∨ s.linkMaxRate p < rate ∨ (rate = 5 ∧ !flit) ∨ width = 0 ∨ s.linkWidth p < width then s
  else
    let deg := decide (width < s.linkWidth p ∨ rate < s.linkMaxRate p)
    let was := (s.link p).dlActive && (s.link p).degraded
    let s := s.modLink p fun l => { l with dlActive := true, rate := rate, width := width, flit := flit, degraded := deg }
    let s := s.flushHeldOut p
    if deg ∧ !was then (s.count (Reg.HOST_CNT_DEGRADED p)).logEvent 0x701 9 [p, width, rate] else s

/-- What the loss of a link does: its rings enter HOST_LOST, its functions are reset, a freeze ends (R230, R234). -/
def State.linkLost (p : Nat) (s : State) : State :=
  let s := s.modLink p fun l => { HostLink.down with perst := l.perst }
  let s := s.ringsLost fun o => decide (o.pfIndex = some p)
  let s := ((s.dropVfs p false).dropWork (.pf p)).fnReset (.pf p) (!s.perst p)
  (s.count (Reg.HOST_CNT_LINK_DOWN p)).logEvent 0x700 9 [p]

/-- A link leaves DL_Active. -/
def hostLinkDown (p : Nat) (s : State) : State := if (s.link p).dlActive then s.linkLost p else s

/-- The links of a host port. -/
def State.portLinks (s : State) (n : Nat) : List Nat := [2 * n, 2 * n + 1].filter s.pfExists

/-- PERST_N[n] is asserted: it resets every link of its host port (R230). The pin's level stands in the record of link
2n, whether or not the port runs as two links; without clocks, as in Deep Rest, nothing else comes of it (R354). -/
def perstAssert (n : Nat) (s : State) : State :=
  if s.perst (2 * n) then s
  else whenClocked (fun s => forAll (s.portLinks n) State.linkLost s) (s.modLink (2 * n) fun l => { l with perst := true })

/-- PERST_N[n] is deasserted: the links may train again (R231). -/
def perstDeassert (n : Nat) (s : State) : State := s.modLink (2 * n) fun l => { l with perst := false }

/-! ## SR-IOV (R221, R295) -/

/-- The shares of the VFs that VF Enable would bring, with those that stand, pass R293. -/
def State.sharesFit (s : State) (p n : Nat) : Bool :=
  let named := (s.regs.filterMap fun (k, _) =>
    let i := (k - 0x40000000) / 0x10000
    if 0x40000000 ≤ k ∧ 0x200 ≤ k % 0x10000 ∧ k % 0x10000 < 0x250 ∧ i / 4096 = p ∧ 1 ≤ i % 4096 ∧ i % 4096 ≤ n then
      some (p, i % 4096) else none).dedup
  let all := (s.shareHolders ++ named).dedup
  named.all fun x =>
    let ws := s.shareWords x.1 x.2
    let others := (all.filter fun y => y != x).map fun y => s.shareWords y.1 y.2
    !shareExceeds ws others && !shareOverlaps ws others

/-- The VFs enabled on PFs other than p. -/
def State.vfsElsewhere (s : State) (p : Nat) : Nat :=
  (((List.range 16).filter fun q => decide (q ≠ p)).map fun q => (s.vfNumbers q).length).sum

/-- VF Enable set, with NumVFs (R221, R295). -/
def vfEnable (p n : Nat) (s : State) : State :=
  let f := s.fn (.pf p)
  if !(s.link p).dlActive ∨ s.phase = .recovery then s
  else if f.vfEnable then if f.numVfs = n then s else s.count (Reg.HOST_CNT_VF_REFUSED p)
  else if 8192 < n + s.vfsElsewhere p ∨ 2048 < n ∨ !s.sharesFit p n then s.count (Reg.HOST_CNT_VF_REFUSED p)
  else s.modFn (.pf p) fun f => { f with vfEnable := true, numVfs := n }

/-- VF Enable cleared: the VFs' rings lose their host, and every VF is reset and leaves (R232, R298, R304). -/
def vfDisable (p : Nat) (s : State) : State :=
  if (s.link p).dlActive then
    let ofVf := fun (o : Party) => decide (o.pfIndex = some p) && decide (o.vfNumber ≠ 0)
    ((s.dropWaiting p ofVf).ringsLost ofVf).dropVfs p true
  else s

/-! ## Function level reset and Bus Master Enable (R232) -/

/-- An FLR is received: no new request, rings HOST_LOST, work discarded (R232, R244, R304). -/
def flr (f : Party) (s : State) : State :=
  match f.pfIndex with
  | none => s
  | some p =>
    if !s.fnExists f ∨ !(s.link p).dlActive ∨ (s.fn f).flr then s
    else
      let s := s.count (Reg.HOST_CNT_FLR p)
      let fs := if f.vfNumber = 0 then s.linkFunctions p else [f]
      let s := s.dropWaiting p fs.contains
      let s := forAll fs (fun g s => (s.modFn g fun x => { x with flr := true }).clearLatches g) s
      forAll fs (fun g s =>
        match g with
        | .vf p v => s.vfReset p v
        | g => s.dropWork g) (s.ringsLost fs.contains)

/-- The FLR completes: ring contexts are DISABLED, a VF's at their reset values (R232, R304). -/
def flrComplete (f : Party) (s : State) : State :=
  match f.pfIndex with
  | none => s
  | some p =>
    if !(s.fn f).flr then s
    else
      let fs := if f.vfNumber = 0 then s.linkFunctions p else [f]
      let s := forAll (s.ringsOwned fs.contains) State.disableRing s
      let s := forAll fs (fun g s =>
        (match g with
          | .vf p v => s.vfRingsReset p v
          | _ => s).fnReset g true) s
      if f.vfNumber = 0 then s.modFn f fun x => { x with vfEnable := false, numVfs := 0 } else s

/-- A function's link serves configuration requests (R217). -/
def State.linkServes (s : State) (f : Party) : Bool := f.pfIndex.any fun p => (s.link p).dlActive

/-- Bus Master Enable = 0, or D3hot: DMA and MSI-X pause. -/
def busMasterDisable (f : Party) (d3 : Bool) (s : State) : State :=
  if !s.fnExists f ∨ !s.linkServes f then s
  else s.modFn f fun x => if d3 then { x with d3 := true } else { x with busMaster := false }

/-- Bus Master Enable = 1 in D0: what was paused goes out. -/
def busMasterEnable (f : Party) (s : State) : State :=
  if !s.fnExists f ∨ !s.linkServes f then s
  else (s.modFn f fun x => { x with busMaster := true, d3 := false }).flushHeldOut (f.pfIndex.getD 0)

/-! ## Errors (R223, R227 to R229) -/

/-- A completion of a DMA read of a ring arrives: the one of the entry with a number, or of the ring's own fetch. An error
is reported at once; the read fails, at the release of a frozen link (R228, R233). What a good one brings comes with the
command whose read it was (log entry 67). -/
def dmaCompletion (r : HostRead) (err : Option BusError) (s : State) : State :=
  let o := s.fetcher r.ring
  match o.pfIndex, err with
  | some p, some e =>
    if !(s.link p).carries then s
    else
      let was := (s.link p).frozen
      let s := s.report o (if r.ring < noRing then 10 else 12) (min r.ring 0xFFFF) e
      if !e.failsRead then s
      else if was then s.modLink p fun l => { l with waits := l.waits ++ [.dmaCompletion r (some e)] }
      else (s.count (Reg.HOST_CNT_DMA_RD_FAIL p)).failRead r.ring r.entry
  | _, _ => s

/-- A DMA read goes unanswered past its completion timeout, unless the timeout is disabled; during a freeze it fails at
the release (R218, R228, R233). -/
def completionTimeout (r : HostRead) (s : State) : State :=
  if (s.pfOf (s.fetcher r.ring)).devCtl2.getLsbD 4 then s else dmaCompletion r (some .timeout) s

/-- HOST_FREEZE.RELEASE = 1 from any PF: what is held goes out, then the completions that arrived are used (R234). -/
def hostFreezeRelease (p : Nat) (s : State) : State :=
  let l := s.link p
  if !s.pfExists p then s
  else if !l.frozen ∨ !l.dlActive then s.count (Reg.HOST_CNT_RELEASE_IGNORED p)
  else
    let s := (s.modLink p fun l => { l with frozen := false, waits := [] }).flushHeldOut p
    forAll l.waits (fun i s => ((s.heldCommand i).2 s).after s) s

/-- A configuration write of a function. One to a register that holds RW1C fields re-arms them all, whatever its value:
an AER status register (the uncorrectable one frees the header log), Device Control and Status, Command and Status, Lane
Error Status (R223). The register's settings take the value, in the bits that the Base Specification gives a function of
the features of R218; the other bits are reserved and read 0 (R7; log entry 94). -/
def aerStatusWrite (f : Party) (reg : CfgReg) (v : BitVec 32) (s : State) : State :=
  if !s.fnExists f ∨ !s.linkServes f then s
  else
    let low : BitVec 16 := v.setWidth 16
    s.modFn f fun x => match reg with
      | .uncorrStatus => { x with uncorr := 0, header := none }
      | .corrStatus => { x with corr := 0 }
      | .device => { x with devStatus := 0, devCtl := low &&& 0x71FF }
      | .command => { x with status := 0, command := low &&& 0x0140 }
      | .laneError => { x with laneErr := 0 }
      | .uncorrMask => { x with uncorrMask := v &&& 0x57F010 }
      | .uncorrSeverity => { x with uncorrSev := v &&& 0x57F010 }
      | .corrMask => { x with corrMask := v &&& 0xF1C1 }
      | .device2 => { x with devCtl2 := low &&& 0x101F }

/-! ## The meanings -/

def execPerstAssert (n : Nat) (s : State) : Answer :=
  within (Instr.wf (.perstAssert n)) (perstAssert n s) s

def execPerstDeassert (n : Nat) (s : State) : Answer :=
  within (Instr.wf (.perstDeassert n)) (perstDeassert n s) s

def execHostLinkUp (p rate width : Nat) (flit : Bool) (s : State) : Answer :=
  within (Instr.wf (.hostLinkUp p rate width flit)) (hostLinkUp p rate width flit s) s

def execHostLinkDown (p : Nat) (s : State) : Answer :=
  within (Instr.wf (.hostLinkDown p)) (whenClocked (hostLinkDown p) s) s

def execVfEnable (p numVfs : Nat) (s : State) : Answer :=
  within (Instr.wf (.vfEnable p numVfs)) (whenClocked (vfEnable p numVfs) s) s

def execVfDisable (p : Nat) (s : State) : Answer :=
  within (Instr.wf (.vfDisable p)) (whenClocked (vfDisable p) s) s

def execFlr (fn : Party) (s : State) : Answer := within (Instr.wf (.flr fn)) (whenClocked (flr fn) s) s

def execFlrComplete (fn : Party) (s : State) : Answer :=
  within (Instr.wf (.flrComplete fn)) (whenClocked (flrComplete fn) s) s

def execBusMasterDisable (fn : Party) (d3 : Bool) (s : State) : Answer :=
  within (Instr.wf (.busMasterDisable fn d3)) (whenClocked (busMasterDisable fn d3) s) s

def execBusMasterEnable (fn : Party) (s : State) : Answer :=
  within (Instr.wf (.busMasterEnable fn)) (whenClocked (busMasterEnable fn) s) s

def execAerStatusWrite (fn : Party) (reg : CfgReg) (v : BitVec 32) (s : State) : Answer :=
  within (Instr.wf (.aerStatusWrite fn reg v)) (whenClocked (aerStatusWrite fn reg v) s) s

def execDmaCompletion (read : HostRead) (err : Option BusError) (s : State) : Answer :=
  within (Instr.wf (.dmaCompletion read err)) (whenClocked (dmaCompletion read err) s) s

def execCompletionTimeout (read : HostRead) (s : State) : Answer :=
  within (Instr.wf (.completionTimeout read)) (whenClocked (completionTimeout read) s) s

def execHostFreezeRelease (who : Party) (link : Nat) (s : State) : Answer :=
  within (Instr.wf (.hostFreezeRelease who link)) 
    (pfWrite who true true (whole who (Reg.HOST_FREEZE link) (hostFreezeRelease link)) s) s

end Sys2Proof.Machine
end

