-- ==== Sys2Proof/Machine/Boot.lean ====
section
/-! DEFINITION. Machine/Boot.lean: image checks and measurement, a start and what it keeps, the Provision image,
recovery and the roll-back fuse (R325 to R339, R342; log entries 69 to 71). -/

namespace Sys2Proof

open Machine

/-! ## Images (R326 to R328) -/

/-- The sections in their order. -/
def Image.sections (m : Image) : List (List Byte) := [m.stage1, m.coreFw, m.provision]

/-- Every 4 KiB block of a byte list. -/
def blocks4k : Nat → List Byte → List (List Byte)
  | 0, _ => []
  | n + 1, bs => if bs.isEmpty then [] else slice bs 0 4096 :: blocks4k n (bs.drop 4096)

/-- The section blocks, in order. -/
def Image.blocks (m : Image) : List (List Byte) :=
  let bs := m.sections.flatten
  blocks4k (bs.length / 4096 + 1) bs

/-- SVN of the header (R326). -/
def Image.svn (m : Image) : Nat := min 256 (leField m.header 6 2)
/-- GENERATION of the header. -/
def Image.generation (m : Image) : Nat := leField m.header 8 4

/-- MAGIC, HDR_CRC and lengths. -/
def Image.headerGood (m : Image) : Bool :=
  let off := fun i => leField m.header (16 + 8 * i) 4
  let len := fun i => leField m.header (20 + 8 * i) 4
  let table := leField m.header 48 4
  decide (slice m.header 0 4 = [0x5A, 0x42, 0x4F, 0x54])
    && decide (leField m.header 60 4 = (crc32c (slice m.header 0 60)).toNat)
    && decide ((m.sections.map List.length) = [len 0, len 1, len 2])
    && [0, 1, 2].all (fun i => decide (off i % 4096 = 0 ∧ len i % 4096 = 0))
    && decide (len 0 + len 1 + len 2 ≤ 0x1800000 ∧ table = 4 * ((len 0 + len 1 + len 2) / 4096))
    && decide (m.crcTable.length = table ∧ 4096 + table ≤ off 0 ∧ off 0 + len 0 ≤ off 1 ∧ off 1 + len 1 ≤ off 2
      ∧ off 2 + len 2 ≤ 0x2000000)

/-- The first section block that fails its CRC-32C. -/
def Image.badBlock (m : Image) : Option Nat :=
  let bs := m.blocks
  (List.range bs.length).find? fun i =>
    decide (leField m.crcTable (4 * i) 4 ≠ (crc32c (bs.getD i [])).toNat)

/-- REASON codes of BOOT_BANK_INFO. -/
abbrev bootHeader : Nat := 1
abbrev bootFormat : Nat := 2
abbrev bootRollback : Nat := 3
abbrev bootBlockCrc : Nat := 4
abbrev bootImageCrc : Nat := 5
abbrev bootProvision : Nat := 6
abbrev bootProvLimit : Nat := 7
abbrev bootFlash : Nat := 8

/-- The checks of R327 as far as IMAGE_CRC: the reason of the first that fails, and the failing block. -/
def Image.check (m : Image) (fuse : Nat) : Nat × Nat :=
  if !m.answers then (bootFlash, 0)
  else if !m.headerGood then (bootHeader, 0)
  else if leField m.header 4 1 ≠ 1 then (bootFormat, 0)
  else if m.svn < fuse then (bootRollback, 0)
  else
    match m.badBlock with
    | some i => (bootBlockCrc, i)
    | none =>
      if leField m.header 40 8 = (crc64 m.sections.flatten).toNat then (0, 0) else (bootImageCrc, 0)

/-- The digest of a retained image (R336). -/
def Image.digest (m : Image) : List Byte := Sha.sha384 m.sections.flatten

/-- The boot measurement (R328). -/
def Image.measure (m : Image) : List Byte :=
  m.sections.foldl (fun acc sec => Sha.sha384 (acc ++ Sha.sha384 sec)) (zeros 48)

/-- GENERATION as the header gives it; 0 if unreadable. -/
def Image.generationRead (m : Image) : Nat := if m.answers && m.headerGood then m.generation else 0

end Sys2Proof

namespace Sys2Proof.Machine

/-- COUNT of the roll-back fuse: the bits that read blown, counted upward from bit 0; a bit reads blown if either of its
elements is (R330). -/
def State.fuseCount (s : State) : Nat :=
  ((List.range 256).takeWhile fun i => (s.boot.fuseA ||| s.boot.fuseB).getLsbD i).length

/-! ## The Provision image (R333 to R335) -/

/-- A record: TYPE, REQUIRED and value. -/
structure ProvRecord where
  type     : Nat
  required : Bool
  value    : List Byte
  deriving DecidableEq, Repr

/-- The records of a section after its header; none when one runs past the end. -/
def provRecords : Nat → List Byte → Option (List ProvRecord)
  | 0, _ => some []
  | n + 1, bs =>
    let w := leField bs 0 8
    let len := w / 2 ^ 32
    if bs.length < 8 + len then none
    else
      (provRecords n (bs.drop (8 + 8 * divUp len 8))).map fun rs =>
        ⟨w % 2 ^ 16, decide (w / 2 ^ 16 % 2 = 1), slice bs 8 len⟩ :: rs

/-- The records of a well-formed Provision image of major 1. -/
def provision (sec : List Byte) : Option (List ProvRecord) :=
  let total := leField sec 8 4
  if leField sec 1 1 = 1 ∧ leField sec 60 4 = (crc32c (sec.drop 64)).toNat ∧ total ≤ sec.length then
    provRecords (leField sec 4 4) (sec.drop 64)
  else none

/-- The registers that a record of a TYPE sets. -/
def provNames : Nat → List String
  | 1 => ["PORT_MODE", "PORT_FRAME", "PORT_LINK_CFG"]
  | 2 => ["HOST_PORT_CFG"]
  | 3 => ["NVME_RP_CFG"]
  | 4 => ["GAL_CFG", "GAL_LINK_CFG"]
  | 6 => ["PIPE_ADMIT", "PIPE_ADMIT_FLOOR", "PIPE_EXC_LIMIT"]
  | 7 => ["PIPE_TMPL_W0", "PIPE_TMPL_W1", "PIPE_TMPL_W2", "PIPE_TMPL_W3"]
  | 9 => ["TIME_LANE_RX_CAL", "TIME_LANE_TX_CAL"]
  | 10 => ["SEQ_DOMAIN_CFG", "SEQ_FEED"]
  | 11 => ["TIME_CFG", "LAMP_POLICY", "AUD_CFG", "REL_CFG"]
  | _ => []

/-- Every TYPE known. -/
def provKnown (t : Nat) : Bool := decide (1 ≤ t ∧ t ≤ 11)

/-- The fields that the image gives the registers which no write sets (R88, R236, R272, R324). -/
def provMask (name : String) : Word :=
  match name with
  | "HOST_PORT_CFG" | "GAL_LINK_CFG" => 0x1F
  | "NVME_RP_CFG" => 0xF
  | "GAL_CFG" => 0x0000FFFF0007FF01
  | "PIPE_ADMIT" => 0x0000FFFFFFFFFFFF
  | _ => 0

/-- A value that its own register would refuse (R334). -/
def provRefused (name : String) (i : Nat) (v : Word) : Bool :=
  if name = "PORT_MODE" then !modeValid v || decide (i % lanesOf (speedOf v) ≠ 0)
  else if name = "SEQ_DOMAIN_CFG" then !seqCfgValid v
  else if name = "PIPE_ADMIT" then decide (150000000 < bits v 31 0)
  else if name = "PIPE_TMPL_W0" then decide (bits v 25 16 ≠ i)
  else false

/-- A register of the image stored as a write of it stores it (R7, R11, R39): configuration for a slot that a bonded port
covers is ignored and counted; TIME_CFG moves the discipline state; a template word stands staged and committed. A register
that takes no writes gets its fields from the image alone (R333). -/
def provStore (r : RegRow) (idx : List Nat) (key : Nat) (v : Word) (s : State) : State :=
  let i := idx.headD 0
  match r.write with
  | .timeCfg => timeCfgWrite v s
  | .portMode => onSlot i (State.setRv key (v &&& r.mask)) s
  | .slotPlain => onSlot i (State.storeMasked key v) s
  | .pipePlain => onSlot (32 * i + idx.getD 1 0) (State.storeMasked key v) s
  | .tmplW0 => s.storeMasked key v
  | .tmplStage => { s with staged := Store.put (fun _ => 0) key v s.staged }.storeMasked key v
  | .none =>
    let m := provMask r.name
    let set := fun (s : State) => s.setReg key ((s.reg key &&& ~~~m) ||| (v &&& m))
    if r.name = "PIPE_ADMIT" then onSlot (32 * i + idx.getD 1 0) set s else set s
  | _ => if r.access = .rv then s.setRv key (v &&& r.mask) else s.storeMasked key v

/-- One register set by a record; none when it names a register of another kind or a value refused. -/
def provSet (type key : Nat) (v : Word) (s : State) : Option State :=
  if type = 5 then
    if 0x40000000 ≤ key ∧ 0x200 ≤ key % 0x10000 ∧ key % 0x10000 < 0x250 ∧ key % 8 = 0 then
      some (s.setRv key (shareMask (key % 0x10000 / 8 - 64) v))
    else none
  else
    match findReg (key / 0x100000) (key % 0x100000) with
    | none => none
    | some (r, i) =>
      if !(provNames type).contains r.name || provRefused r.name (i.headD 0) v then none
      else some (provStore r i key v s)

/-- The sets of a record, one after the other. -/
def provSets (type : Nat) : List (Nat × BitVec 64) → State → Option State
  | [], s => some s
  | (k, v) :: xs, s => (provSet type k v s).bind (provSets type xs)

/-- A table entry of the image, as a WRITE stores it (R142, R143); none for an entry that no table has. -/
def provEntry (k : Nat) (img : BitVec 512) (s : State) : Option State :=
  let t := keyTable k
  if keyIndex k < tableSize t then some (s.modEntry k fun e => { e with img := storedImage t img }) else none

/-- A prefix of the image, as an INSERT installs it (R142, R148); none where an INSERT would refuse it. -/
def provPrefix (pair : Nat) (v6 : Bool) (len value nexthop : Nat) (s : State) : Option State :=
  let p : Prefix := ⟨pair, v6, value, len, nexthop⟩
  let rest := s.prefixes pair v6
  if 4 ≤ pair ∨ lpmWidth v6 < len ∨ 2 ^ len ≤ value ∨ 65536 ≤ nexthop ∨ maxPrefixes v6 ≤ rest.length
      ∨ 16384 < lpmBlocks (p :: rest) then none
  else if s.lpm.any fun q => q.names pair v6 len (value * 2 ^ (lpmWidth v6 - len)) then none
  else some { s with lpm := s.lpm ++ [p] }

/-- The table contents of a TABLES record; none where one is refused. -/
def provTables (value : List Byte) (s : State) : Option State :=
  let s := (Config.provisionTables value).foldl (fun s x => s.bind (provEntry x.1 x.2)) (some s)
  (Config.provisionPrefixes value).foldl (fun s x => s.bind (provPrefix x.1 x.2.1 x.2.2.1 x.2.2.2.1 x.2.2.2.2)) s

/-- One known record applied; none where it is refused. -/
def provRecord (r : ProvRecord) (s : State) : Option State :=
  (if r.type = 8 then provTables r.value s else some s).bind (provSets r.type (Config.provisionRegs r.type r.value))

/-- The records applied: a required unknown one refuses the image, another unknown one is skipped and recorded. The answer
says whether all were taken. -/
def provApply : List ProvRecord → State → Bool × State
  | [], s => (true, s)
  | r :: rs, s =>
    if !provKnown r.type then
      if r.required then (false, s) else provApply rs (s.logEvent 0x031 16 [r.type])
    else
      match provRecord r s with
      | none => (false, s)
      | some t => provApply rs t

/-- What stays of a refused image: the logbook's events of the records that it skipped. -/
def State.noteSkips (s t : State) : State :=
  ((t.log.queue.drop s.log.queue.length).filter fun e => e.number == 0x031).foldl
    (fun s e => s.logEvent e.number e.block e.params) s

/-- The shares as provisioned keep R293. -/
def State.sharesSound (s : State) : Bool :=
  s.shareHolders.all fun x =>
    let ws := s.shareWords x.1 x.2
    let others := s.otherShares x.1 x.2
    !(decide (x.2 ≠ 0) && aboveLimit ws) && !aboveTotal ws others && !shareOverlaps ws others

/-- The calibration records of the ledger: word n holds TIME_LANE_RX_CAL of lane n, word 256 + n TIME_LANE_TX_CAL (DESIGN
CHOICE of the layout, log entry 16). -/
def calibrationAddr : Nat := 0x3B000000

/-- The Foreman loads the latencies that production test has stored in the ledger (R54). -/
def State.loadCalibration (s : State) : State :=
  let mine := s.ledger.filterMap fun e =>
    if calibrationAddr ≤ e.1 ∧ e.1 < calibrationAddr + 4096 then some ((e.1 - calibrationAddr) / 8) else none
  mine.dedup.foldl (fun s i =>
    s.storeMasked (if i < 256 then Reg.TIME_LANE_RX_CAL i else Reg.TIME_LANE_TX_CAL (i - 256))
      (s.ledgerRead (calibrationAddr + 8 * i))) s

/-- The state with the calibration records and an image's Provision applied, which may replace them; or the reason it is
refused, with the state that this leaves (R54, R334, R335). -/
def State.provisioned (m : Image) (s : State) : Nat × State :=
  match provision m.provision with
  | none => (bootProvision, s)
  | some rs =>
    let (ok, t) := provApply rs s.loadCalibration
    if !ok ∨ !t.sharesSound then (bootProvision, s.noteSkips t)
    else if !t.storeFits t.admitRate t.seqCfg then (bootProvLimit, s.noteSkips t)
    else (0, t)

/-! ## What a start keeps (R21, R342, R356, R382) -/

/-- The registers kept in the ledger's retained configuration or fused. -/
def keptReg (k : Nat) : Bool :=
  [Reg.BOOT_CNT_COLD, Reg.BOOT_CNT_WAKE_FAST, Reg.BOOT_CNT_WAKE_FULL,
   Reg.BOOT_CNT_BANK_FAIL, Reg.BOOT_CNT_FUSE_RAISE, Reg.PWR_RESET_CAUSE, Reg.PWR_CNT_THERMTRIP, Reg.PWR_CNT_WATCHDOG,
   Reg.LOG_TOTAL, Reg.LOG_HOURS, Reg.LOG_POWER_CYCLES, Reg.GEN_ID, Reg.GEN_SERIAL, Reg.AUD_START_COUNT,
   Reg.AUD_DRAIN_NEXT].contains k || (List.range 16).any fun d => decide (k = Reg.AUD_OPEN_COUNT d)

def keepRegs (m : Store Word) : Store Word := m.filter fun e => keptReg e.1

/-- The persistent key slots, CLOSED until they are tried (R192). -/
def closedSlots (m : Store KeySlot) : Store KeySlot :=
  (m.filter fun e => e.2.persistent).map fun e => (e.1, { e.2 with state := .closed })

/-- A whole-device reset: every volatile state is lost; the ledger, fuses, the boot flash, persistent key slots,
namespaces, the service-life records and the levels of pins stay (R342; log entry 69). -/
def State.wipe (s : State) : State :=
  { State.reset with
    pending := s.pending
    regs := keepRegs s.regs
    copyB := keepRegs s.copyB
    copyC := keepRegs s.copyC
    free := s.free
    aud := { AudState.reset with queue := s.aud.queue, segs := s.aud.segs, torn := s.aud.torn }
    ledger := s.ledger
    retention := s.retention
    lamp := { LampState.reset with slots := closedSlots s.lamp.slots }
    links := (List.range 16).foldl (fun m p =>
      Store.put (fun _ => HostLink.down) p { HostLink.down with perst := (s.link p).perst } m) []
    spaces := s.spaces.filter fun e => e.2.isSome
    gal := { GalState.reset with devId := s.gal.devId, master := s.gal.master }
    boot := { BootState.reset with bankA := s.boot.bankA, bankB := s.boot.bankB, retained := s.boot.retained,
                                   digest := s.boot.digest, bootedFrom := s.boot.bootedFrom, fuseA := s.boot.fuseA,
                                   fuseB := s.boot.fuseB }
    power := { PowerState.reset with trip := s.power.trip, tripNote := s.power.tripNote }
    life := { s.life with bytesSeen := 0 }
    out := s.out }

/-! ## A start (R180, R192, R193, R209, R255, R267, R337, R383) -/

/-- The Tally journal at a start: records still PENDING read INTERRUPTED, and numbering resumes above the highest
(R254, R255). -/
def State.recoverTally (s : State) : State :=
  let slots := (s.ledger.filterMap fun (a, _) =>
    if 0x38000000 ≤ a ∧ a < 0x3A000000 then some ((a - 0x38000000) / 32) else none).dedup
  let s := slots.foldl (fun s i =>
    let a := 0x38000000 + 32 * i
    let w := s.ledgerRead (a + 8)
    if s.ledgerRead a ≠ 0 ∧ bits w 15 0 = 0xFFFF then s.ledgerWord (a + 8) (setBits w 15 0 0xFFFE) else s) s
  let top := (slots.map fun i => (s.ledgerRead (0x38000000 + 32 * i)).toNat).foldl max 0
  s.setReg Reg.RING_TALLY_NEXT (word (top + 1))

/-- A source fails its start-up test: that is counted and recorded (R209). -/
def State.startFail (x : Nat) (ok : Bool) (s : State) : State :=
  if ok then s else (s.count (Reg.LAMP_CNT_SRC_FAIL x)).logEvent 0x601 8 [x]

/-- The start-up tests of the noise sources (R209, R211). A start that the device begins itself gives no samples: a source
passes unless it stands failed (log entry 69). -/
def State.startSources (inp : StartInputs) (s : State) : State :=
  let pass : Nat → Option (List Byte) → Bool := fun x vs => match vs with
    | some vs => decide (vs.length = 4096) && samplesPass vs
    | none => !(s.source x).failed
  let a := pass 0 inp.samplesA
  let b := pass 1 inp.samplesB
  let src := fun (ok : Bool) => { Source.reset with failed := !ok }
  let c := if a ∧ b then 0 else if a ∨ b then 1 else 3
  ({ s with lamp := { s.lamp with srcA := src a, srcB := src b, canary := c, instantiated := a || b } }.startFail 0 a).startFail
    1 b

/-- Enabled ports train; a bonded port's covered slots do not (R11, R64). -/
def State.startPorts (s : State) : State :=
  forAll ((List.range 256).filter fun n => s.slotOn n && !s.isIdle n) State.linkOn s

/-- STRAP_ERR is settled with the STACK_EN of the image, and enabled Gallery links train; hellos refuse them while the straps
are in error, so that none comes UP (R310, R311). -/
def State.startGallery (s : State) : State :=
  let link := fun i => { GalLink.off with phase := if bit (s.reg (Reg.GAL_LINK_CFG i)) 0 then GalPhase.training else .disabled }
  s.setGal fun g => { g with
    strapErr := (g.master && decide (g.devId ≠ 0)) || (s.stackEn && !g.master && decide (g.devId = 0))
    links := (List.range 8).map link
    cutAt := s.stackPeers.map fun dev => (dev, s.clockNs)
    present := if s.stackEn then BitVec.ofNat 8 (2 ^ g.devId) else 0 }

/-- The clusters run at 2.8 GHz (R345). -/
def State.startClusters (s : State) : State :=
  (List.range 8).foldl (fun s k => s.setReg (Reg.PWR_CLUSTER_FREQ k) 2800) s

/-- The policers start full, at the RATE and BURST of the Provision image (R79, R335). -/
def State.startPolicers (s : State) : State :=
  (List.range 256).foldl
    (fun s n => s.modPolicer n fun p => { p with bucket := Bucket.full (s.admitRate n) (s.admitBurst n) }) s

/-- The spare rows of a memory that stand for another row. -/
def LifeState.rowsOf (l : LifeState) (t : ScrubTarget) : Nat := (l.rows.filter fun x => x.1 == t).length

/-- A row of an SRAM array is mapped out, while a spare row of its array is left (R401). -/
def LifeState.mapRow (t : ScrubTarget) (row : Nat) (l : LifeState) : LifeState :=
  if l.rows.contains (t, row) ∨ Config.spareRows t ≤ l.rowsOf t then l else { l with rows := l.rows ++ [(t, row)] }

/-- Step 4 (R337, R401): a spare takes the name of each core retired before, while spares are left. A full start tests
itself: a core that fails is retired until the next start, and rows that fail are mapped out. A fast wake applies the map
that retention SRAM keeps (log entry 77). -/
def State.repair (inp : StartInputs) (s : State) : State :=
  let l := s.life
  let used := min l.spares l.stopped.length
  let waiting := l.stopped.drop used
  if s.boot.fastWake then { s with life := { l with spares := l.spares - used, stopped := waiting } }
  else
    let failing := inp.coresFailed.dedup.filter fun c => decide (c < 64) && !waiting.contains c
    let s := { s with life := { l with spares := l.spares - used, stopped := waiting ++ failing } }
    inp.rowsFailed.foldl (fun s x => { s with life := s.life.mapRow x.1 x.2 }) s

/-- A device whose image has passed every check: measured, provisioned, its records recovered, its datapath ready.
from is BOOTED_FROM. -/
def State.runImage (m : Image) (source : Nat) (inp : StartInputs) (s : State) : State :=
  let meas := m.measure
  let s := (List.range 6).foldl (fun s w => s.setReg (Reg.BOOT_MEASURE w) (word (leField meas (8 * w) 8))) s
  let s := s.setReg Reg.BOOT_IMAGE (word (m.svn + m.generation * 2 ^ 32))
  let s := s.setReg Reg.BOOT_PROV_VERSION (word (0x1000000 + leField m.provision 0 2))
  let s := { s with boot := { s.boot with recovery := false, bootedFrom := source, running := some m } }
  let s := ((s.repair inp).startSources inp).reopenKeys.startClusters.startPolicers
  let s := s.recoverChain.recoverTally.resolveJournal
  let s := { s with phase := .running }
  let s := s.startPorts.startGallery
  s.logEvent 0x001 17 [0x100, bits (s.reg Reg.PWR_RESET_CAUSE) 3 0, source]

/-- BOOT_BANK_INFO of a bank. -/
def bankInfo (reason block gen : Nat) : Word := word (reason + block % 2 ^ 16 * 2 ^ 16 + gen * 2 ^ 32)

/-- The image a bank holds. -/
def State.bankImage (s : State) (b : Nat) : Image := if b = 0 then s.boot.bankA else s.boot.bankB

/-- The outcome of an image's checks, with the state it would run in. -/
def State.tryImage (m : Image) (s : State) : Nat × Nat × State :=
  let (r, blk) := m.check s.fuseCount
  if r ≠ 0 then (r, blk, s) else let (r, t) := s.provisioned m; (r, 0, t)

/-- The banks in their order; the first that passes every check boots; none: recovery (R327, R332). -/
def State.tryBanks (inp : StartInputs) : List Nat → State → State
  | [], s => { s with phase := .recovery, boot := { s.boot with recovery := true, bootedFrom := 3, running := none } }
  | b :: bs, s =>
    let m := s.bankImage b
    let (r, blk, t) := s.tryImage m
    if r = 0 then
      let t := t.setReg (Reg.BOOT_BANK_INFO b) (bankInfo 0 0 m.generation)
      let t := t.runImage m b inp
      { t with retention := [], boot := { t.boot with retained := some m, digest := some m.digest } }
    else
      let s := t.setReg (Reg.BOOT_BANK_INFO b) (bankInfo r blk m.generationRead)
      let s := (s.count Reg.BOOT_CNT_BANK_FAIL).logEvent 0x030 16 [b, r, blk, m.generationRead]
      s.tryBanks inp bs

/-- The bank order of BOOT_POLICY (R327). -/
def State.bankOrder (s : State) : List Nat :=
  match bits (s.voted Reg.BOOT_POLICY) 1 0 with
  | 1 => [0, 1]
  | 2 => [1, 0]
  | _ => if s.boot.bankA.generationRead < s.boot.bankB.generationRead then [1, 0] else [0, 1]

/-- A start that reads flash. -/
def State.fullStart (inp : StartInputs) (s : State) : State :=
  let s := [0, 1].foldl (fun s b => s.setReg (Reg.BOOT_BANK_INFO b) 0) s
  s.tryBanks inp s.bankOrder

/-- Bit n - 1 of the roll-back fuse is programmed: which of its elements blow is a free value, and one does where the bit
is to read blown (R330, R331). -/
def State.blowFuse (n : Nat) (blown : Bool) (s : State) : State :=
  let x := Config.freeNat s.free % 3
  let b := BitVec.ofNat 256 (2 ^ (n - 1))
  let s := { s with free := s.free + 1 }
  if !blown then s
  else
    { s with boot := { s.boot with
      fuseA := if x = 1 then s.boot.fuseA else s.boot.fuseA ||| b
      fuseB := if x = 2 then s.boot.fuseB else s.boot.fuseB ||| b } }

/-- A fuse bit whose programming a reset cut reads either blown or not (R331). -/
def State.settleFuse (s : State) : State :=
  match s.boot.fuse with
  | some f =>
    if f.confirmed then { s with free := s.free + 1 }.blowFuse f.count (decide (Config.freeNat s.free % 2 = 1)) else s
  | none => s

/-- A PROGRAM that a reset cuts leaves the bank failing HEADER (R332). -/
def State.cutProgram (s : State) : State :=
  let bad : Image := { Image.none with answers := true }
  match s.boot.busy with
  | some (3, true, _) => { s with boot := { s.boot with bankA := bad } }
  | some (4, true, _) => { s with boot := { s.boot with bankB := bad } }
  | _ => s

/-- The words on their way to the ledger when a reset comes: the one in flight completes, and all of them after a power
failure, whose step has them written (R161, R177, R342). -/
def State.settleLedger (s : State) : State := if s.phase = .powerFailed then s.ledgerCommit else s.collapse 1

/-- The Foreman reloads BOOT_POLICY, or takes its reset value when there is no valid copy in the ledger (R338). -/
def State.loadPolicy (s : State) : State :=
  let w := s.ledgerRead policyAddr
  s.setRv Reg.BOOT_POLICY (if bit w 63 ∧ !s.aud.torn.contains policyAddr then w &&& 0x33 else resetOf Reg.BOOT_POLICY)

/-- The reset itself, with its cause: the word in flight of the ledger completes, all of its words after a power failure
(R161, R177, R342); power cycles rise (R383). -/
def State.wholeReset (cause : Nat) (s : State) : State :=
  let s := s.settleFuse.cutProgram
  let s := s.settleLedger
  let s := s.wipe.loadPolicy
  let s := s.modReg Reg.LOG_POWER_CYCLES fun v => word (min 0xFFFFFF (v.toNat + 1))
  match cause, s.power.tripNote with
  | 3, some (i, t) => s.setReg Reg.PWR_RESET_CAUSE (word (3 + i * 2 ^ 8 + (BitVec.ofInt 8 t).toNat * 2 ^ 16))
  | _, _ => s.setReg Reg.PWR_RESET_CAUSE (word cause)

/-- The Foreman's record and count of a trip, at the start that follows it (R351). -/
def State.noteTrip (s : State) : State :=
  match s.power.tripNote with
  | none => s
  | some (i, t) =>
    let s := (s.count Reg.PWR_CNT_THERMTRIP).logEvent 0x021 15 [i, (BitVec.ofInt 32 t).toNat]
    { s with power := { s.power with tripNote := none } }

/-- The reference as a start finds it, and the banks: as the flash held them, or as something else has left them. -/
def State.findFlash (inp : StartInputs) (s : State) : State :=
  { s with time := { s.time with refPresent := inp.refPresent, pllLocked := inp.refPresent }
           boot := { s.boot with bankA := inp.bankA.getD s.boot.bankA, bankB := inp.bankB.getD s.boot.bankB } }

/-- The straps in force: STACK_MASTER with a STACK_ID other than 0 is an error whatever image runs (R311). -/
def State.setStraps (devId : Nat) (master : Bool) (s : State) : State :=
  s.setGal fun g => { g with devId := devId, master := master, strapErr := master && decide (devId ≠ 0) }

/-- The straps of a cold start (R311). -/
def State.sampleStraps (inp : StartInputs) (s : State) : State := s.setStraps (inp.stackId % 8) inp.stackMaster

/-- The flash as a start finds it. -/
def State.coldStart (cause : Nat) (inp : StartInputs) (s : State) : State :=
  (((((s.wholeReset cause).sampleStraps inp).findFlash inp).count Reg.BOOT_CNT_COLD).noteTrip).fullStart inp

/-- Sensors below 100 °C, the test of Stage 0 (R352). -/
def coolEnough (xs : List Int) : Bool := xs.all fun t => decide (t < 100)

/-- The supply of retention SRAM is gone: the image, its digest and the SRAM repair map (R21, R342). -/
def State.loseRetention (s : State) : State :=
  { s with retention := [], boot := { s.boot with retained := none, digest := none }, life := { s.life with rows := [] } }

/-- A VAON ramp; Stage 0 goes on below 100 °C (R342, R352). -/
def powerOn (inp : StartInputs) (s : State) : State :=
  let s := { s.loseRetention with power := { s.power with trip := false, seqErr := false } }
  if coolEnough inp.sensors then s.coldStart 1 inp
  else { s.settleFuse.cutProgram.settleLedger.wipe with phase := .tripped }

/-- RESET_N: ignored in Deep Rest and without supply; after a trip Stage 0 first reads the sensors (R342, R352,
R354). -/
def resetNAssert (inp : StartInputs) (s : State) : State :=
  match s.phase with
  | .rest | .off | .seqHeld => s
  | .tripped =>
    if coolEnough inp.sensors then
      ({ s.loseRetention with power := { s.power with trip := false } }.emit (.pin "THERMTRIP_N" true)).coldStart
        (if s.power.trip then 3 else 1) inp
    else s
  | _ => s.coldStart 2 inp

/-- The Foreman's watchdog expires (R342). -/
def watchdog (inp : StartInputs) (s : State) : State :=
  if s.clocked then (s.count Reg.PWR_CNT_WATCHDOG).coldStart 4 inp else s

/-- Every 100 ms after a trip (R352). -/
def thermtripRecheck (readings : List Int) (inp : StartInputs) (s : State) : State :=
  if s.phase = .tripped then resetNAssert { inp with sensors := readings } s else s

/-- WAKE_N in Deep Rest: a fast wake from the retained image, or a full start (R336, R354). -/
def wake (inp : StartInputs) (s : State) : State :=
  if s.phase ≠ .rest then s
  else
    let freq := s.reg Reg.TIME_ADJ_FREQ
    let straps := s.gal
    let kept := s.boot.retained
    let s := (s.wholeReset 5).setReg Reg.TIME_ADJ_FREQ freq
    let s := (s.setStraps straps.devId straps.master).findFlash inp
    let full := fun (s : State) => (s.count Reg.BOOT_CNT_WAKE_FULL).fullStart inp
    match kept with
    | none => full s
    | some m =>
      if !bit (s.voted Reg.BOOT_POLICY) 4 ∨ s.boot.digest ≠ some m.digest ∨ m.svn < s.fuseCount then full s
      else
        let (r, t) := s.provisioned m
        if r ≠ 0 then full t
        else
          let t := { t with boot := { t.boot with fastWake := true } }
          (t.count Reg.BOOT_CNT_WAKE_FAST).runImage m s.boot.bootedFrom inp

/-! ## Recovery (R332) -/

/-- What a start without new inputs finds: the straps, banks and sources as they are. -/
def State.asFound (s : State) : StartInputs :=
  ⟨s.gal.devId, s.gal.master, s.time.refPresent, none, none, [], none, none, [], []⟩

/-- An image as it lies in the staging area: the header block, the CRC table, and each section at its offset. -/
def imageCells (m : Image) : List Host.Cell :=
  let off := fun i => leField m.header (16 + 8 * i) 4
  let start := memWrite 4096 m.crcTable (memWrite 0 m.header [])
  (m.sections.zipIdx.map fun x => (off x.2, x.1)).foldl (fun c x => memWrite x.1 x.2 c) start

/-- The staging area, which is the 25 MiB that otherwise hold the retained image (R21, R332): while that image's digest is
valid it is what lies there. -/
def State.staging (s : State) : List Host.Cell :=
  match s.boot.retained with
  | some m => imageCells m
  | none => s.retention

/-- The retained digest is invalid from here on; what lies in the area stays (R332). -/
def State.dropDigest (s : State) : State :=
  { s with retention := s.staging, boot := { s.boot with retained := none, digest := none } }

/-- The upload in the staging area, as an image. -/
def State.upload (s : State) : Image :=
  let n := min 0x1900000 (bits (s.reg Reg.BOOT_REC_LEN) 24 0)
  let area := s.staging
  let at_ := fun (o k : Nat) => memRead area o (min k (n - o))
  let h := at_ 0 4096
  let sec := fun i => at_ (leField h (16 + 8 * i) 4) (leField h (20 + 8 * i) 4)
  ⟨true, h, at_ 4096 (leField h 48 4), sec 0, sec 1, sec 2⟩

/-- A write to the upload window: the first one invalidates the retained digest; an offset above 99 is ignored. -/
def bootRecWinWrite (off : Nat) (v : Word) (s : State) : State :=
  let unit := bits (s.reg Reg.BOOT_REC_OFFSET) 24 18
  if 99 < unit ∨ 0x40000 ≤ off then s.count Reg.BOOT_CNT_REFUSED
  else
    { s with retention := memWrite (0x40000 * unit + off / 8 * 8) (leBytes 8 v.toNat) s.staging
             boot := { s.boot with retained := none, digest := none } }

/-- BOOT_REC_CTL.ACTION: refused in a state that does not permit it, or begun. -/
def recAction (a : Nat) (s : State) : State :=
  let running := decide (s.phase = .running)
  let ok := match a with
    | 1 => true
    | 2 => decide (s.phase = .recovery)
    | 0 | 5 | 6 | 7 => false
    | _ => decide (s.phase = .recovery) ||
        (running && bit (s.voted Reg.BOOT_POLICY) 5 && decide (s.boot.bootedFrom ≠ a - 3))
  if s.boot.busy.isSome then s.setReg Reg.BOOT_REC_RESULT 4
  else if !ok then s.setReg Reg.BOOT_REC_RESULT 3
  else
    let (r, s) := if a = 2 then
        let (r, _, t) := s.tryImage s.upload
        (r, if r = 0 then s else t)
      else ((s.upload.check s.fuseCount).1, s)
    { s with boot := { s.boot with busy := some (a, decide (r = 0), r) } }.setReg Reg.BOOT_REC_RESULT 0

/-- The device in recovery mode boots an image: the host link of PF index 0 trains anew (R231, R332). -/
def State.bootFromRecovery (m : Image) (source : Nat) (s : State) : State :=
  let (r, _, t) := s.tryImage m
  if r = 0 then ((hostLinkDown 0 t).runImage m source s.asFound) else s

/-- A recovery action finishes. -/
def recActionComplete (readBackOk : Bool) (s : State) : State :=
  match s.boot.busy with
  | none => s
  | some (a, ok, reason) =>
    let s := { s with boot := { s.boot with busy := none } }
    let failed := fun (r : Nat) (s : State) => s.setReg Reg.BOOT_REC_RESULT (word (2 + 16 * r))
    let done := fun (s : State) => s.setReg Reg.BOOT_REC_RESULT 1
    if !ok then failed reason s
    else
      let m := s.upload
      match a with
      | 1 => done s
      | 2 => (done s).bootFromRecovery m 2
      | _ =>
        let img := if readBackOk then m else { Image.none with answers := true }
        let s := { s with boot :=
          { s.boot with bankA := if a = 3 then img else s.boot.bankA, bankB := if a = 4 then img else s.boot.bankB } }
        if !readBackOk then failed bootFlash s
        else
          let s := done { s.dropDigest with boot := { s.dropDigest.boot with flashNewer := true } }
          if s.phase = .recovery then s.bootFromRecovery m (a - 3) else s

/-! ## The roll-back fuse (R331) -/

/-- A confirmation written at a Dial ns matches: in time, with the same count and the low 16 bits of the tally number. -/
def FuseCmd.confirmedBy (f : FuseCmd) (ns : Nat) (v : Word) : Bool :=
  decide (bits v 8 0 = f.count ∧ bits v 31 16 = f.tally.toNat % 65536 ∧ ns < f.due)

/-- Admin 0x70 FUSE_RAISE. One raise at a time waits for its confirmation, which may come as soon as its entry is taken;
the checks come before it. -/
def fuseRaise (c : Nat) : State → State := onAdmin c 0x70 fun t _ s =>
  let n := bits (adminParam t.desc 0) 8 0
  if s.boot.fuse.isSome then s
  else if s.fuseCount = 256 then s.adminDone c t 3 0
  else if n ≠ s.fuseCount + 1 then s.adminDone c t 1 0
  else if bits (s.reg Reg.BOOT_IMAGE) 15 0 < n then s.adminDone c t 2 0
  else
    let f : FuseCmd := ⟨c, t.cursor, t.tally, n, t.acceptNs + 10 * nsPerSecond, false⟩
    let seen := s.boot.confirms.any fun x => decide (t.acceptNs ≤ x.1) && f.confirmedBy x.1 x.2
    { s.startEntry c t.cursor with boot := { s.boot with fuse := some { f with confirmed := seen }, confirms := [] } }

/-- The pending raise ends with a status. -/
def State.fuseDone (f : FuseCmd) (status : Nat) (s : State) : State :=
  let s := { s with boot := { s.boot with fuse := none } }
  match (s.ring f.ring).taken.find? fun t => t.cursor == f.cursor with
  | some t => s.adminDone f.ring t status 0
  | none => s

/-- BOOT_FUSE_CONFIRM, through the SIDEBAND interface only: a matching one lets the bit be programmed. -/
def bootFuseConfirm (who : Party) (v : Word) (s : State) : State :=
  if who ≠ .sideband then s.count Reg.BOOT_CNT_REFUSED
  else
    let s := s.setReg Reg.BOOT_FUSE_CONFIRM (v &&& 0xFFFF01FF)
    let recent := s.boot.confirms.filter fun x => decide (s.dialNs < x.1 + 10 * nsPerSecond)
    let s := { s with boot := { s.boot with confirms := (s.dialNs, v) :: recent } }
    match s.boot.fuse with
    | none => s
    | some f =>
      { s with boot := { s.boot with fuse := some { f with confirmed := f.confirmed || f.confirmedBy s.dialNs v } } }

/-- 10 s without a matching confirmation. -/
def noConfirm (s : State) : State :=
  match s.boot.fuse with
  | none => s
  | some f => if f.confirmed ∨ s.dialNs < f.due then s else s.fuseDone f 4

/-- Programming has finished. -/
def fuseProgramDone (blown : Bool) (s : State) : State :=
  match s.boot.fuse with
  | none => s
  | some f =>
    if !f.confirmed then s
    else
      let s := s.blowFuse f.count blown
      if blown then (s.count Reg.BOOT_CNT_FUSE_RAISE).fuseDone f 0 else s.fuseDone f 5

/-! ## The meanings -/

/-- A recovery action of PF0 of H0. -/
def recWrite (a : Nat) (s : State) : State := whenClocked (unlessStopped 6 (busWrite (.pf 0) true false (whole (.pf 0) Reg.BOOT_REC_CTL (recAction a)))) s

def execPowerOn (inp : StartInputs) (s : State) : Answer := within (Instr.wf (.powerOn inp)) (powerOn inp s) s

def execResetNAssert (inp : StartInputs) (s : State) : Answer :=
  within (Instr.wf (.resetNAssert inp)) (resetNAssert inp s) s

def execWatchdog (inp : StartInputs) (s : State) : Answer := within (Instr.wf (.watchdog inp)) (watchdog inp s) s

def execWake (inp : StartInputs) (s : State) : Answer := within (Instr.wf (.wake inp)) (wake inp s) s

def execThermtripRecheck (readings : List Int) (inp : StartInputs) (s : State) : Answer :=
  within (Instr.wf (.thermtripRecheck readings inp)) (thermtripRecheck readings inp s) s

def execCheck (s : State) : Answer := within (Instr.wf .check) (recWrite 1 s) s

def execBoot (s : State) : Answer := within (Instr.wf .boot) (recWrite 2 s) s

def execProgramA (s : State) : Answer := within (Instr.wf .programA) (recWrite 3 s) s

def execProgramB (s : State) : Answer := within (Instr.wf .programB) (recWrite 4 s) s

def execRecActionComplete (readBackOk : Bool) (s : State) : Answer :=
  within (Instr.wf (.recActionComplete readBackOk)) (whenClocked (unlessStopped 6 (recActionComplete readBackOk)) s) s

def execBootRecWinWrite (who : Party) (off : Nat) (v : Word) (s : State) : Answer :=
  within (Instr.wf (.bootRecWinWrite who off v))
    (pfWrite who true false (fun s => (unlessStopped 6 fun s =>
      if who = .pf 0 then bootRecWinWrite off v s else s.count Reg.BOOT_CNT_REFUSED)
      (s.unstage (slotLatch who 16) (offsetName (0x1040000 + off)))) s) s

def execFuseRaise (ring : Nat) (s : State) : Answer :=
  within (Instr.wf (.fuseRaise ring)) (whenClocked (unlessStopped 6 (fuseRaise ring)) s) s

def execBootFuseConfirmWrite (who : Party) (v : Word) (s : State) : Answer :=
  within (Instr.wf (.bootFuseConfirmWrite who v)) (pfWrite who true false (whole who Reg.BOOT_FUSE_CONFIRM (unlessStopped 6 (bootFuseConfirm who v))) s) s

def execNoConfirm (s : State) : Answer := within (Instr.wf .noConfirm) (whenClocked (unlessStopped 6 noConfirm) s) s

def execFuseProgramDone (blown : Bool) (s : State) : Answer :=
  within (Instr.wf (.fuseProgramDone blown)) (whenClocked (unlessStopped 6 (fuseProgramDone blown)) s) s

end Sys2Proof.Machine
end

