-- ==== Sys2Proof/Machine/Power.lean ====
section
/-! DEFINITION. Machine/Power.lean: power failure, PLLs, Sprint, the shedding ladder, the trip and Deep Rest (R177,
R179, R340 to R357; log entry 72). -/

namespace Sys2Proof.Machine

def State.setPower (f : PowerState → PowerState) (s : State) : State := { s with power := f s.power }

/-! ## Power failure (R177 to R179, R341) -/

/-- Every port leaves UP, with what R65, R128 and R137 have that bring; nothing more is sent. -/
def State.portsDark (s : State) : State :=
  forAll ((List.range 256).filter s.isUp) (fun n s => (s.leaveUp n false).modPort n fun p => { p with link := .down }) s

/-- A power failure is detected: the ports leave UP, none of whose copies is audited any more (R178), then come the
closing records of the chain, and everything stops. cause 0 is PWRFAIL_N, 1 the droop detector. Before the datapath is
ready there is no chain to close. -/
def State.powerFailure (cause : Nat) (s : State) : State :=
  let armed := s.armedCount
  let s := { s with aud := { s.aud with pwrFail := true } }.portsDark
  let s := if s.phase = .running then s.auditPowerFail cause armed else s
  { s with phase := .powerFailed }

/-- PWRFAIL_N falls. In Deep Rest it is ignored (R354). -/
def powerFail (s : State) : State := if s.clocked then s.powerFailure 0 else s

/-- The droop detector trips (R341). -/
def droopTrip (s : State) : State := if s.clocked then (s.count Reg.PWR_CNT_DROOP).powerFailure 1 else s

/-- The supply falls: of the ledger's queued words the first ones are written; retention SRAM is lost (R161, R179,
R342). -/
def supplyCollapse (written : Nat) (s : State) : State :=
  { (s.collapse written).loseRetention with phase := .off }

/-! ## Clusters and Sprint (R344 to R346) -/

/-- PWR_CLUSTER_FREQ of a cluster, in MHz. -/
def State.clusterFreq (s : State) (k : Nat) : Nat := bits (s.reg (Reg.PWR_CLUSTER_FREQ k)) 11 0

/-- A cluster's frequency set, unless its PLL has stopped it. -/
def State.setFreq (k mhz : Nat) (s : State) : State :=
  if s.power.stopped.getLsbD k then s else s.setReg (Reg.PWR_CLUSTER_FREQ k) (word mhz)

/-- Some cluster sprints. -/
def State.sprinting (s : State) : Bool := decide (s.power.sprint ≠ 0)

/-- Sprint ends for every cluster: those that sprinted return to 2.8 GHz. -/
def State.endSprint (s : State) : State :=
  let was := s.power.sprint
  let s := s.setPower fun p => { p with sprint := 0 }
  forAll ((List.range 8).filter was.getLsbD) (fun k s => s.setFreq k 2800) s

/-- SPRINT_LEFT in ms, and the 1 ms average in 0.1 W. -/
def State.sprintLeft (s : State) : Nat := bits (s.reg Reg.PWR_SPRINT_LEFT) 14 0

/-- The conditions of R345. -/
def State.sprintAllowed (s : State) : Bool :=
  let cfg := s.reg Reg.PWR_CFG
  bit cfg 0 && decide (1000 ≤ s.sprintLeft) && decide (s.power.average + 10 * bits cfg 15 8 ≤ 6900)
    && decide (s.power.level = 0)

/-- Sprint granted to every requesting cluster that does not sprint (R345, R346). -/
def State.grantSprint (s : State) : State :=
  let ask := BitVec.ofNat 8 (bits (s.reg Reg.PWR_SPRINT_REQ) 7 0) &&& ~~~s.power.sprint &&& ~~~s.power.stopped
  if ask ≠ 0 ∧ s.sprintAllowed then
    let s := (s.setPower fun p => { p with sprint := p.sprint ||| ask }).count Reg.PWR_CNT_SPRINTS
    forAll ((List.range 8).filter ask.getLsbD) (fun k s => s.setFreq k 3400) s
  else s

/-- PWR_SPRINT_REQ written (R345, R346, R356): clusters no longer requested stop sprinting. -/
def sprintReqWrite (who : Party) (v : Word) (s : State) : State :=
  if who ≠ .pf 0 ∧ who ≠ .foreman ∧ who ≠ .cores then s.ignored
  else
    let req := BitVec.ofNat 8 (bits v 7 0)
    let s := s.setReg Reg.PWR_SPRINT_REQ (word req.toNat)
    let beyond := (List.range 8).filter fun k => s.power.sprint.getLsbD k && !req.getLsbD k
    let s := s.setPower fun p => { p with sprint := p.sprint &&& req }
    (forAll beyond (fun k s => s.setFreq k 2800) s).grantSprint

/-! ## The ladder (R347, R348) -/

/-- The level that the temperature, the cap and its duration ask for. -/
def State.levelWanted (s : State) : Nat :=
  let t := s.power.tj
  let long := s.power.capped && s.power.capAt.any fun a => decide (a + 50000000 ≤ s.clockNs)
  if 105 ≤ t then 3 else if 100 ≤ t ∨ long then 2 else if 95 ≤ t ∨ s.power.capped then 1 else 0

/-- The exit condition of a level. -/
def State.levelCool (s : State) : Bool :=
  match s.power.level with
  | 1 => decide (s.power.tj < 92) && !s.power.capped
  | 2 => decide (s.power.tj < 97) && !s.power.capped
  | 3 => decide (s.power.tj < 102)
  | _ => false

/-- The counter of the entries to a level. -/
def levelCounter : Nat → Nat
  | 1 => Reg.PWR_CNT_SHED_CORES
  | 2 => Reg.PWR_CNT_SHED_CIPHER
  | _ => Reg.PWR_CNT_HOT

/-- Levels entered up to one: each is counted; Sprint ends; level 3 is recorded and its vector sent. -/
def State.raiseLevel (l : Nat) (s : State) : State :=
  let old := s.power.level
  if l ≤ old then s
  else
    let s := s.setPower fun p => { p with level := l, below := 0 }
    let s := forAll ((List.range l).filter fun k => decide (old ≤ k)) (fun k s => s.count (levelCounter (k + 1))) s
    let s := if old = 0 then s.endSprint else s
    if l = 3 then
      (s.logEvent 0x022 15 [s.power.hotSensor, (BitVec.ofInt 32 s.power.tj).toNat]).msix (.pf 0)
        (bits (s.reg Reg.PWR_CFG) 58 48)
    else s

/-- The trip: clocks stop once the ledger's word in flight is complete, and the trip is recorded (R351). -/
def State.trip (sensor : Nat) (t : Int) (s : State) : State :=
  let s := (s.collapse 1).emit (.pin "THERMTRIP_N" false)
  { s with phase := .tripped, power := { s.power with trip := true, tripNote := some (sensor, t) } }

/-- The highest reading and the lowest sensor that gives it. -/
def hottest (xs : List Int) : Nat × Int :=
  (xs.zipIdx.foldl (fun b x => match b with
    | none => some (x.2, x.1)
    | some (i, t) => if t < x.1 then some (x.2, x.1) else some (i, t)) none).getD (0, 0)

/-- PWR_TJ and PWR_TEMP after a sample. -/
def State.storeTemps (xs : List Int) (s : State) : State :=
  let (i, t) := hottest xs
  let s := (xs.take 40).zipIdx.foldl (fun s x => s.setReg (Reg.PWR_TEMP x.2) (word (BitVec.ofInt 8 x.1).toNat)) s
  let s := s.modReg Reg.PWR_TJ fun v =>
    let peak := max t (signed 8 (bits v 23 16))
    word ((BitVec.ofInt 8 t).toNat + i % 256 * 2 ^ 8 + (BitVec.ofInt 8 peak).toNat * 2 ^ 16)
  s.setPower fun p => { p with tj := t, hotSensor := i }

/-- The bytes per second that the enabled port slots could carry at line rate in both directions (R400). -/
def State.lineRate (s : State) : Nat :=
  (((List.range 256).filter fun n => s.slotOn n && !s.isIdle n).map fun n => macRate (speedOf (s.portMode n))).sum * 250000000

/-- The byte counters of all slots together, modulo 2^48. -/
def State.lineBytes (s : State) : Nat :=
  ((List.range 256).map fun n =>
    bits (s.reg (Reg.PORT_CNT_RX_BYTES n)) 47 0 + bits (s.reg (Reg.PORT_CNT_TX_BYTES n)) 47 0).sum % 2 ^ 48

/-- The averages of the service life take a sample every second, which is every 10,000th sample of the sensors (R347, R400). -/
def State.averageTick (s : State) : State :=
  let l := s.life
  if l.tick < 9999 then { s with life := { l with tick := l.tick + 1 } }
  else
    let b := s.lineBytes
    { s with life := { l with
      tick := 0, hourTj := l.hourTj + s.power.tj, hourN := l.hourN + 1, hourRoom := l.hourRoom + s.lineRate
      hourBytes := l.hourBytes + (b + 2 ^ 48 - l.bytesSeen) % 2 ^ 48, bytesSeen := b } }

/-- A sample of the forty sensors (R347, R348, R351, R400). -/
def sensorSample (xs : List Int) (s : State) : State :=
  if xs = [] then s
  else
    let s := s.storeTemps xs
    let (i, t) := hottest xs
    if 110 ≤ t then s.trip i t
    else
      let s := s.raiseLevel s.levelWanted
      let s := if s.levelCool then
          if 9 ≤ s.power.below then
            s.setPower fun p => { p with level := p.level - 1, below := 0, rise := if p.level = 1 then 0 else p.rise }
          else s.setPower fun p => { p with below := p.below + 1 }
        else s.setPower fun p => { p with below := 0 }
      s.averageTick.grantSprint

/-- An engine leaves service at its segment boundary: its job is saved (R207, R348). -/
def State.shedEngine (s : State) : State :=
  let n := s.lamp.shed + 1
  let e := 16 - n
  let l := { s.lamp with shed := n }
  match l.engines.getD e none with
  | none => { s with lamp := l }
  | some j =>
    let w := l.waiting ++ [{ j with preempted := true }]
    ({ s with lamp := { l with engines := putAt none l.engines e none, waiting := w } }.count Reg.LAMP_CNT_PREEMPT).fillEngines

/-- Every 1 ms: clusters and engines follow the ladder (R348). -/
def ladderStep (s : State) : State :=
  let p := s.power
  let hot := decide (95 ≤ p.tj) || p.capped
  let s :=
    if 1 ≤ p.level ∧ hot then
      forAll ((List.range 8).filter fun k => decide (800 < s.clusterFreq k))
        (fun k s => s.setFreq k (max 800 (s.clusterFreq k - 200))) s
    else if p.level = 0 ∧ 9 ≤ p.rise then
      (forAll ((List.range 8).filter fun k => decide (0 < s.clusterFreq k ∧ s.clusterFreq k < 2800))
        (fun k s => s.setFreq k (min 2800 (s.clusterFreq k + 200))) s).setPower fun p => { p with rise := 0 }
    else if p.level = 0 then s.setPower fun p => { p with rise := p.rise + 1 }
    else s
  let low := (List.range 8).all fun k => decide (s.clusterFreq k ≤ 800)
  let s := if p.capped ∧ low ∧ p.capAt.isNone then s.setPower fun p => { p with capAt := some s.clockNs } else s
  if 2 ≤ p.level ∧ s.lamp.shed < 12 then s.shedEngine
  else if p.level < 2 ∧ 0 < s.lamp.shed then { s with lamp := { s.lamp with shed := s.lamp.shed - 1 } }.fillEngines
  else s

/-- The power cap after an average (R348). -/
def State.judgeCap (s : State) : State :=
  let p := s.power
  if p.capped then
    if p.average ≤ 6700 then s.setPower fun p => { p with capped := false, capAt := none } else s.raiseLevel s.levelWanted
  else if 6900 < p.average ∧ !s.sprinting then
    ((s.setPower fun p => { p with capped := true, capAt := none }).count Reg.PWR_CNT_CAP).raiseLevel (max 1 s.levelWanted)
  else s

/-- The 1 ms average of package power, in 0.1 W (R345, R346, R348). -/
def powerAverage (w : Nat) (s : State) : State :=
  let s := s.setPower fun p => { p with average := w }
  let s := s.modReg Reg.PWR_POWER fun v => word (w % 65536 + max w (bits v 47 32) % 65536 * 2 ^ 32)
  let base := 10 * min 690 (bits (s.reg Reg.PWR_CFG) 25 16)
  let s :=
    if s.sprinting then
      let s := s.setReg Reg.PWR_SPRINT_LEFT (word (s.sprintLeft - 1))
      if 6900 ≤ w then s.endSprint.count Reg.PWR_CNT_SPRINT_CAPPED
      else if s.sprintLeft = 0 then s.endSprint
      else s
    else
      let s := if w < base then s.setReg Reg.PWR_SPRINT_LEFT (word (min 20000 (s.sprintLeft + 1))) else s
      s.judgeCap
  s.grantSprint

/-! ## PLLs and rails (R341, R343) -/

/-- A PLL loses lock. -/
def pllLockLoss (pll : Pll) (s : State) : State :=
  match pll with
  | .system | .hbm | .alwaysOn => s.coldStart 4 s.asFound
  | .cluster k =>
    if 8 ≤ k ∨ s.power.stopped.getLsbD k then s
    else
      let s := s.setReg (Reg.PWR_CLUSTER_FREQ k) 0
      let s := s.setPower fun p => { p with stopped := p.stopped ||| BitVec.ofNat 8 (2 ^ k),
                                            sprint := p.sprint &&& ~~~(BitVec.ofNat 8 (2 ^ k)) }
      { s with life := { s.life with coreFaults := s.life.coreFaults + 1 } }
  | .time =>
    let s := { s with time := { s.time with pllLocked := false } }
    if s.time.disc = .acquire ∨ s.time.disc = .locked then s.setDisc .holdover true else s
  | .cipher => { s with lamp := { s.lamp with pllLost := true } }
  | .trace => { s with pmu := { s.pmu with portStopped := true } }

/-- A rail ramped out of order: the device is held in reset until the rails are cycled in order (R341). -/
def seqErr (s : State) : State :=
  let s := s.settleLedger.wipe
  { s with phase := .seqHeld, power := { s.power with seqErr := true } }

/-! ## Deep Rest (R353) -/

/-- The first check that fails; 1 when all pass. -/
def State.restResult (s : State) (who : Party) : Nat :=
  if who ≠ .pf 0 ∧ who ≠ .foreman then 6
  else if s.anyOpen then 2
  else if s.anyArmed then 3
  else if !s.journalUsed.isEmpty then 4
  else if s.gal.links.any fun l => decide (l.phase = .up) then 5
  else 1

/-- PWR_REST_CTL.ENTER: refused, or the entry runs through its steps: links and ports down, the epoch sealed with TAIL,
the holdover state stored, REST_READY. -/
def deepRestEnter (who : Party) (s : State) : State :=
  let r := s.restResult who
  let s := s.setReg Reg.PWR_REST_RESULT (word r)
  if r ≠ 1 then s.count Reg.PWR_CNT_REST_REFUSED
  else
    let s := s.count Reg.PWR_CNT_REST
    let s := forAll (List.range 16) hostLinkDown s
    let s := s.portsDark
    let s := (s.auditSeal true false).ledgerCommit
    let s := s.setPower fun p => { p with restReady := true }
    { s.emit (.pin "ALERT" true) with phase := .rest }

/-- ENTER reaches the device that runs; while an entry is in progress it is ignored and counted (R355). -/
def restWrite (who : Party) (s : State) : State :=
  if s.phase = .rest then s.count Reg.PWR_CNT_REST_REFUSED else pfWrite who false false (whole who Reg.PWR_REST_CTL (deepRestEnter who)) s

/-! ## The meanings -/

def execPowerFail (s : State) : Answer := within (Instr.wf .powerFail) (powerFail s) s

def execDroopTrip (s : State) : Answer := within (Instr.wf .droopTrip) (droopTrip s) s

def execSupplyCollapse (written : Nat) (s : State) : Answer :=
  within (Instr.wf (.supplyCollapse written)) (supplyCollapse written s) s

def execPllLockLoss (pll : Pll) (s : State) : Answer :=
  within (Instr.wf (.pllLockLoss pll)) (whenClocked (pllLockLoss pll) s) s

def execSeqErr (s : State) : Answer := within (Instr.wf .seqErr) (seqErr s) s

def execSensorSample (readings : List Int) (s : State) : Answer :=
  within (Instr.wf (.sensorSample readings)) (whenClocked (sensorSample readings) s) s

def execLadderStep (s : State) : Answer := within (Instr.wf .ladderStep) (whenClocked ladderStep s) s

def execPowerAverage (deciwatts : Nat) (s : State) : Answer :=
  within (Instr.wf (.powerAverage deciwatts)) (whenClocked (powerAverage deciwatts) s) s

def execPwrSprintReqWrite (who : Party) (v : Word) (s : State) : Answer :=
  within (Instr.wf (.pwrSprintReqWrite who v)) 
    (pfWrite who false false (whole who Reg.PWR_SPRINT_REQ (sprintReqWrite who v)) s) s

def execDeepRestEnter (who : Party) (s : State) : Answer :=
  within (Instr.wf (.deepRestEnter who)) (restWrite who s) s

end Sys2Proof.Machine
end

