-- ==== Sys2Proof/Machine/Flags.lean ====
section
/-! DEFINITION. Machine/Flags.lean: every status flag and every register that shows a condition of the moment instead of a
stored value, as a read finds it (R8, R369 and the field tables of the maps). -/

namespace Sys2Proof.Machine

/-- Flags as a word: flag i of the list at the bit it names. -/
def flagWord (fs : List (Nat × Bool)) : Word := word ((fs.map fun f => b2n f.2 * 2 ^ f.1).sum)

/-! ## TIME, PORT and PIPE (R59, R87, R88) -/

/-- DOMAIN_HALT: the domain is HALTED, or, open, stopped with its block (R32, R120; log entry 20). -/
def State.domainStopped (s : State) (d : Nat) : Bool :=
  decide ((s.dom d).phase = .halted) || (s.isOpen d && s.stopped 1)

/-- TIME_STATUS. -/
def State.timeStatus (s : State) : Word :=
  word s.time.disc.code ||| flagWord
    [(4, !s.time.refPresent && !bit (s.voted Reg.TIME_CFG) 2),
     (5, decide (s.timeSource = 1) && !s.time.ppsSeen), (6, s.dialStopped), (7, s.anyOpen),
     (8, s.anyArmed), (9, decide (s.phaseRemain ≠ 0)), (10, s.time.pending.isSome)]

/-- The STATE code of a link (R64). -/
def Link.code : Link → Nat
  | .disabled => 0 | .training => 1 | .upHold => 2 | .up => 3 | .down => 4

/-- PORT_STATUS. -/
def State.portStatus (s : State) (n : Nat) : Word :=
  let p := s.port n
  word p.link.code ||| flagWord
    [(3, p.aligned), (4, s.hiSerNow n), (5, p.localFault), (6, p.remoteFault), (7, p.deskewFail)]

/-- PORT_LINK_MAP[m]: bit i for slot 64m + i. -/
def State.linkMap (s : State) (m : Nat) : Word :=
  flagWord ((List.range 64).map fun i => (i, s.isUp (64 * m + i)))

/-- PIPE_STATUS: less than 96 bytes of the share are free (R84); the AUDIT_PRESSURE floor is in force. -/
def State.pipeStatus (s : State) (k : Nat) : Word :=
  flagWord [(0, decide (excShare < s.excUsed k + 96)), (1, s.floorOn)]

/-! ## SEQ, REL and TBL (R119, R139, R159) -/

/-- The STATE code of a domain (R115). -/
def DomPhase.code : DomPhase → Nat
  | .closed => 0 | .opening => 1 | .opened => 2 | .closing => 3 | .halted => 4

/-- SEQ_DOMAIN_STATUS. -/
def State.domainStatus (s : State) (d : Nat) : Word :=
  let x := s.dom d
  word (x.phase.code + x.fenced.toNat * 2 ^ 4 + (s.condBits d).toNat * 2 ^ 8) ||| flagWord
    [(3, s.domainStopped d), (7, s.musterShort d), (12, !(x.backM.isEmpty && x.backR.isEmpty)),
     (13, decide (s.role d = 2) && s.isOpen d && !x.mismatch)]

/-- SEQ_STATUS. -/
def State.seqStatus (s : State) : Word :=
  flagWord ([(6, s.dialStopped), (7, s.anyOpen)] ++ (List.range 16).map fun d => (16 + d, s.isOpen d))

/-- SEQ_FRONTIER: Dial [71:8] of F, which lies MUSTER_NS before the Dial at which it last advanced; it moves with Dial
while the domain is CLOSED or OPENING (R98, R111). -/
def State.seqFrontier (s : State) (d : Nat) : Word :=
  match (s.dom d).phase with
  | .closed | .opening => word (s.dialNs - s.musterNs d)
  | .opened | .closing | .halted => word ((s.dom d).frontier.ns - s.musterNs d)

/-- SEQ_BACKLOG: the backlog, and its peak since the domain opened (R101). -/
def State.seqBacklog (s : State) (d : Nat) : Word :=
  word (bits (s.reg (Reg.SEQ_BACKLOG d)) 44 32 * 2 ^ 32 + (s.dom d).backlog)

/-- REL_STATUS. -/
def State.relStatus (s : State) : Word :=
  flagWord [(6, s.dialStopped), (7, s.anyOpen), (8, s.anyArmed)]

/-- REL_PORT_STATUS. -/
def State.relPortStatus (s : State) (n : Nat) : Word :=
  let e := s.egr n
  flagWord [(0, s.guarded n), (1, e.preempt), (2, e.holdFrom.isSome),
            (3, (List.range 8).any fun q => s.paused n q)]

/-- TBL_STATUS. A sweep pass runs from its boundary to the command that ends it. -/
def State.tblStatus (s : State) : Word :=
  flagWord [(0, (List.range 8).any fun k => decide (0 < s.sweeping k)), (1, !s.heldUpd.isEmpty), (2, (List.range 8).any fun k => decide (256 ≤ s.sideUsed k))]

/-- TBL_MAC_USED: valid MAC entries of a pipeline. -/
def State.macUsed (s : State) (pipe : Nat) : Nat :=
  (s.tables.filter fun e => decide (keyTable e.1 = 2) && (entryPipes e.1).contains pipe && imgValid e.2.img).length

/-! ## AUD and LAMP (R184, R215) -/

/-- AUD_STATUS. -/
def State.audStatus (s : State) : Word :=
  let a := s.aud
  flagWord [(0, a.pressure), (1, a.full), (2, a.drainFault), (3, s.ackWait), (4, s.ready && a.keySlot.isNone),
            (5, a.pwrFail), (6, s.ready && s.drainTargets.isEmpty)]

/-- LAMP_STATUS. -/
def State.lampStatus (s : State) : Word :=
  let l := s.lamp
  let stage := l.waiting.any fun j => j.result.isNone && jobStage j.desc
  word l.canary ||| flagWord
    [(2, l.srcA.failed), (3, l.srcB.failed), (4, decide (l.canary = 3)), (5, s.maskStop),
     (6, decide (4096 ≤ s.jobsHeld)), (7, stage && decide (32 ≤ s.stagesHeld)), (8, decide (0 < l.shed))]

/-- LAMP_SLOTS_USED. -/
def State.slotsUsed (s : State) : Word :=
  word ((s.lamp.slots.filter fun e => decide (e.2.state ≠ .empty)).length
    + (s.lamp.slots.filter fun e => e.2.persistent).length * 2 ^ 32)

/-- LAMP_ENGINES: the engines in service (R343, R348). -/
def State.enginesInService (s : State) : Word := if s.lamp.pllLost then 0 else word (2 ^ (16 - s.lamp.shed) - 1)

/-! ## HOST, RING and NVME (R236, R259, R272) -/

/-- HOST_LINK_STATUS. -/
def State.linkStatus (s : State) (p : Nat) : Word :=
  let l := s.link p
  word (l.rate * 2 + l.width % 32 * 16) ||| flagWord
    [(0, l.dlActive), (9, l.flit), (10, l.degraded), (11, l.frozen), (12, s.perst p), (13, s.ready),
     (14, decide (s.phase = .recovery ∧ p = 0))]

/-- RING_STATUS of a context. -/
def State.ringStatus (s : State) (c : Nat) : Word :=
  let r := s.ring c
  word (r.phase.code * 2 + (if r.phase = .error then r.cause else 0) * 16) ||| flagWord
    [(0, decide (r.phase = .disabled)), (6, decide (r.type = 1 ∨ r.type = 2) && s.ringWaiting c)]

/-- A window register of a context, by its RING offset (R258, R259). -/
def State.ringWord (s : State) (c o : Nat) : Word :=
  let r := s.ring c
  match o with
  | 0x100 => r.base
  | 0x108 => r.cfg
  | 0x110 => r.piAddr
  | 0x118 => r.irq
  | 0x120 => word (b2n r.enable)
  | 0x128 => s.ringStatus c
  | 0x130 => word (r.devCur.toNat + r.doneCur.toNat * 2 ^ 32)
  | 0x138 => word ((ownerIn s.ringShares c).getD r.owner).source
  | 0x140 => word r.hamper.length
  | _ => 0

/-- The function that an NVME_SEL value names. -/
def selectedFn (v : Word) : Party :=
  let p := bits v 15 12
  let n := bits v 11 0
  if n = 0 then .pf p else .vf p n

/-- NVME_CTRL_STATUS of a function's controller. -/
def State.ctrlStatus (s : State) (f : Party) : Word :=
  let c := s.ctrl f
  if !s.hasCtrl f then 0
  else word (c.ps % 4 * 4) ||| flagWord
    [(0, true), (1, c.ready), (4, c.psTarget.isSome), (5, (s.nsAttached f).any fun x => s.nsNotReady x.1)]

/-- NVME_STATUS: JOURNAL_FULL while no slot is free or a piece waits for its slots (R266). -/
def State.nvmeStatus (s : State) : Word :=
  flagWord [(0, decide (journalSlots ≤ s.journalUsed.length) || s.pieces.any fun p => decide (p.phase = .journal)),
            (1, s.pieces.any Piece.pending)]

/-- NVME_RP_STATUS: four lanes, at a rate of 8 GT/s or more and no higher than MAX_RATE (R270, R272). -/
def State.rootStatus (s : State) (n : Nat) : Word :=
  let d := s.drive n
  let top := match bits (s.reg (Reg.NVME_RP_CFG n)) 3 1 with
    | 2 => 4 | 3 => 3 | 4 => 2 | _ => 5
  let rate := max 2 (min top (Config.rootLink n))
  if d.active then word (rate * 2 + 4 * 16) ||| flagWord [(0, true), (7, d.ready)] else 0

/-! ## RDMA and VFM (R289, R306, R307) -/

/-- RDMA_MR_USED. -/
def State.mrUsed (s : State) : Nat := (s.rdma.mrs.filter fun e => e.2.live).length

/-- VFM_POOL. -/
def State.vfPool (s : State) (p : Nat) : Word :=
  word (((List.range 16).map fun q => (s.vfNumbers q).length).sum + (s.vfNumbers p).length * 2 ^ 16)

/-- VFM_MBOX_STATUS of a VF. -/
def State.vfmMboxStatus (s : State) (p v : Nat) : Word :=
  let f := s.vfState p v
  flagWord [(0, f.outBusy), (1, f.inFull), (2, s.shrinkPending p v)]

/-- VFM_MBOX_PEND[m]. -/
def State.mboxPend (s : State) (p m : Nat) : Word :=
  flagWord ((List.range 64).map fun i => (i, (s.vfState p (64 * m + i + 1)).outBusy))

/-- VF_MBOX_STATUS. -/
def State.vfMboxStatus (s : State) (p v : Nat) : Word :=
  let f := s.vfState p v
  flagWord [(0, f.outBusy), (1, f.inFull), (2, s.shrinkPending p v)]

/-- VF_SHARE_NEXT[w]. -/
def State.shareNext (s : State) (p v w : Nat) : Word :=
  match (s.vfState p v).shrink with
  | some x => x.new.getD w 0
  | none => s.voted (shareKey p v w)

/-! ## GAL, PWR and BOOT (R324, R357, R339) -/

/-- GAL_STATUS. -/
def State.galStatus (s : State) : Word :=
  let g := s.gal
  word (g.devId % 8 + g.authority % 8 * 2 ^ 8 + g.present.toNat * 2 ^ 16) ||| flagWord
    [(3, g.master), (4, g.strapErr), (5, g.dialLock), (6, s.stackLock), (7, g.masterLost)]

/-- The STATE code of a Gallery link (R310). -/
def GalPhase.code : GalPhase → Nat
  | .disabled => 0 | .training => 1 | .hello => 2 | .up => 3

/-- GAL_LINK_STATUS. -/
def State.galLinkStatus (s : State) (i : Nat) : Word :=
  let l := s.galLink i
  word (l.phase.code + l.peer % 8 * 4 + l.refuse % 8 * 2 ^ 8 + l.major % 256 * 2 ^ 16 + l.minor % 256 * 2 ^ 24)
    ||| flagWord [(5, l.relay)]

/-- PWR_STATUS. -/
def State.pwrStatus (s : State) : Word :=
  let p := s.power
  word (p.level + p.sprint.toNat * 2 ^ 16) ||| flagWord
    [(3, decide (p.sprint ≠ 0)), (4, p.capped), (5, decide (3 ≤ p.level)), (6, p.seqErr), (7, s.aud.pwrFail),
     (8, p.restReady)]

/-- BOOT_STATUS. -/
def State.bootStatus (s : State) : Word :=
  let b := s.boot
  word (b.bootedFrom % 4 * 16) ||| flagWord
    [(0, b.recovery), (1, b.flashNewer), (2, b.busy.isSome), (6, b.fastWake)]

/-! ## GEN, LOG, PMU and TRC (R371, R390, R391, R393) -/

/-- GEN_STATUS: VOTE_FAULT is stored, and stays until the next whole-device reset (R368). -/
def State.genStatus (s : State) : Word :=
  (s.reg Reg.GEN_STATUS &&& 0x7F00) ||| flagWord [(0, s.ready), (1, s.boot.recovery)]

/-- LOG_STATUS. -/
def State.logStatus (s : State) : Word :=
  flagWord [(0, decide (4096 ≤ (s.reg Reg.LOG_TOTAL).toNat)), (1, decide (1024 ≤ s.log.queue.length)),
            (2, !s.log.suppressed.isEmpty)]

/-- The STATE code of a headcount bank (R376). -/
def BankPhase.code : BankPhase → Nat
  | .empty => 0 | .pending => 1 | .filling => 2 | .valid => 3

/-- A headcount bank. -/
def State.bank (s : State) (b : Nat) : Bank := if b = 0 then s.pmu.bank0 else s.pmu.bank1

/-- A dump is being written: writes of it wait on a link (R378, R390). -/
def State.dumpBusy (s : State) : Bool := (List.range 16).any fun p => (s.link p).held.any fun h => h.cls == 4

/-- PMU_STATUS. -/
def State.pmuStatus (s : State) : Word :=
  let is := fun (x : BankPhase) => decide (s.pmu.bank0.phase = x ∨ s.pmu.bank1.phase = x)
  flagWord [(0, is .pending), (1, is .filling), (2, s.dumpBusy)]

/-- PMU_BANK_INFO. -/
def Bank.info (b : Bank) : Word := word (b.phase.code + b2n b.rearm * 4 + b.number % 2 ^ 32 * 2 ^ 32)

/-- The counter that entry i of the list shows a PF: the counters of RING are those of the PF and its VFs (R258, R373;
log entry 74). -/
def counterKey (p k : Nat) : Nat := if k / 0x100000 = 10 then Reg.perPf p k else k

/-- PMU_BANK[i] as a PF reads it: entry i of the list in the selected bank (R376). -/
def State.bankEntry (s : State) (p i : Nat) : Word :=
  let b := s.bank (bits (s.reg Reg.PMU_BANK_SEL) 0 0)
  match counterList[i]? with
  | some k => Store.get (fun _ => 0) b.values (counterKey p k)
  | none => 0

/-- PMU_BLOCK_FIRST[s] (R373). -/
def blockFirst (n : Nat) : Nat := (counterList.takeWhile fun k => decide (k / 0x100000 < n)).length

/-- TRC_CFG.SINK: 3 acts as 0. -/
def State.traceSink (s : State) : Nat := bits (s.reg Reg.TRC_CFG) 1 0 % 3

/-- The size of the trace buffer. -/
def State.traceSize (s : State) : Nat := 2 ^ clampNat 12 34 (bits (s.reg Reg.TRC_BUF_SIZE) 5 0)

/-- The buffer has no room for n bytes and does not wrap; once a frame has found no room, none follows it before there is
room for that one. -/
def State.traceFull (s : State) (n : Nat) : Bool :=
  decide (s.traceSink = 2) && !bit (s.reg Reg.TRC_CFG) 2
    && decide (s.traceSize < bits (s.reg Reg.TRC_BUF_WPTR) 62 0 + max n s.pmu.bufNeed)

/-- A core's encoder is selected, has a sink, and is that of a core that runs (R386, R401). -/
def State.traced (s : State) (c : Nat) : Bool :=
  bit (s.reg Reg.TRC_EN) c && decide (s.traceSink ≠ 0) && !(decide (s.traceSink = 1) && s.pmu.portStopped)
    && !s.life.stopped.contains c

/-- TRC_STATUS. -/
def State.trcStatus (s : State) : Word :=
  flagWord [(0, !s.traceFull 1 && (List.range 64).any fun c => s.traced c && !s.pmu.idle.getLsbD c), (1, s.traceFull 1),
            (2, (List.range 64).any fun c => decide (Store.get (fun _ => 0) s.pmu.lostPkts c ≠ 0))]

/-! ## What a read finds -/

/-- A register of a block slot at its first instance's offset, with its instance numbers, as a party reads it: the value
its rule computes, or else the stored or voted one. A write-only register reads 0 (R8). -/
def State.readRow (s : State) (who : Party) (r : RegRow) (idx : List Nat) (key : Nat) : Word :=
  let p := who.pfIndex.getD 0
  let i := idx.headD 0
  let j := idx.getD 1 0
  let sel := bits (s.reg (Reg.RING_SEL who.copy)) 15 0
  let v := s.vfSelected p
  match r.slot, r.base with
  | 0, 0x28 => word p
  | 0, 0x8 => s.reg (Reg.perPf who.copy key)
  | 0, 0x10 => s.reg (Reg.perPf who.copy key) ||| (if s.ready || s.boot.recovery then 0x100000000 else 0)
  | 0, 0x30 => s.genStatus
  | 1, 0x8 => s.timeStatus
  | 1, 0x10 => word s.dialNs
  | 1, 0x18 => s.reg (Reg.perPf who.copy key)
  | 1, 0x30 => wordOfInt s.phaseRemain
  | 2, 0x8 => s.portStatus i
  | 2, 0x80100 => s.linkMap i
  | 3, 0x8 => s.pipeStatus i
  | 3, 0x1018 => word (s.rateInForce (32 * i + j))
  | 4, 0x10 => s.domainStatus i
  | 14, 0x100 => word (s.premerge i)
  | 4, 0x38 => s.seqFrontier i
  | 4, 0x40 => word (s.musterMin i)
  | 4, 0x48 => s.seqBacklog i
  | 4, 0x20000 => s.seqStatus
  | 5, 0x8 => s.relStatus
  | 5, 0x18 => word (s.postings.filter Posting.armed).length
  | 5, 0x10008 => s.relPortStatus i
  | 5, 0x10 => word (bits (s.reg key) 56 32 * 2 ^ 32 + s.relUsed)
  | 5, 0x10010 => word (s.guardOf i + (if (s.egr i).preempt then s.guardPre i * 2 ^ 32 else 0))
  | 6, 0x8 => s.tblStatus
  | 6, 0x10000 => word (s.macUsed i)
  | 6, 0x20000 => word ((s.prefixes i false).length + (s.prefixes i true).length * 2 ^ 32)
  | 6, 0x20008 => word (lpmBlocks (s.prefixes i false) + lpmBlocks (s.prefixes i true) * 2 ^ 32)
  | 7, 0x8 => s.audStatus
  | 8, 0x8 => s.lampStatus
  | 8, 0x18 => s.slotsUsed
  | 8, 0x20 => word (s.jobsHeld + bits (s.reg Reg.LAMP_CTX_USED) 44 32 * 2 ^ 32)
  | 8, 0x28 => s.enginesInService
  | 8, 0x40000 => (s.keySlotAt i).info
  | 8, 0x80000 => s.reg key ||| (if bit (s.encodingSa i) 1 then 0x10000 else 0)
  | 9, 0x8 => s.linkStatus i
  | 10, 0x0 => s.reg (Reg.perPf who.copy key)
  | 10, 0x80000 => 0
  | 10, 0x1000 => s.reg key
  | 10, 0x1008 => s.reg key
  | 10, o => if 0x1100 ≤ o then s.reg (Reg.perPf p key)
             else if (s.windowOwner who sel).isSome then s.ringWord sel o else 0
  | 11, 0x40000 => s.reg (Reg.perPf who.copy key)
  | 11, 0x40008 => s.ctrlStatus (selectedFn (s.reg (Reg.NVME_SEL who.copy)))
  | 11, 0x40010 => s.nvmeStatus
  | 11, 0x50008 => s.rootStatus i
  | 12, 0x8 => word s.rdma.broken.toNat
  | 12, 0x18 => word s.mrUsed
  | 13, 0x0 => s.reg (Reg.perPf who.copy key)
  | 13, 0x10 => s.vfPool p
  | 13, 0x100 => s.voted (shareKey p v i)
  | 13, 0x188 => s.vfmMboxStatus p v
  | 13, 0x200 => s.reg (Reg.VF_MBOX_OUT p v i)
  | 13, 0x240 => s.reg (Reg.VF_MBOX_IN p v i)
  | 13, 0x400 => s.mboxPend p i
  | 14, 0x8 => s.galStatus
  | 14, 0x10008 => s.galLinkStatus i
  | 15, 0x8 => s.pwrStatus
  | 16, 0x8 => s.bootStatus
  | 16, 0x20 => word s.fuseCount
  | 17, 0x8 => s.logStatus
  | 18, 0x8 => s.pmuStatus
  | 18, 0x20 => (s.bank i).info
  | 18, 0x28 => word ((s.bank i).at_ / nsUnits)
  | 18, 0x48 => word counterList.length
  | 18, 0x100 => word (blockFirst i)
  | 18, 0x80000 => s.bankEntry p i
  | 19, 0x8 => s.trcStatus
  | _, _ => if r.access = .wo then 0 else if r.access = .rv then s.voted key else s.reg key

end Sys2Proof.Machine
end

