-- ==== Sys2Proof/Machine/Observe.lean ====
section
/-! DEFINITION. Machine/Observe.lean: headcounts, periodic dumps, the logbook's records and the core trace (R374 to R388;
log entries 73 to 76). -/

namespace Sys2Proof.Machine

/-! ## Headcount (R374 to R376, R379) -/

/-- Changing a headcount bank. -/
def State.modBank (b : Nat) (f : Bank → Bank) (s : State) : State :=
  if b = 0 then { s with pmu := { s.pmu with bank0 := f s.pmu.bank0 } }
  else { s with pmu := { s.pmu with bank1 := f s.pmu.bank1 } }

/-- PMU_HC_CTL written: with GO, a headcount is accepted for a bank, or BUSY. -/
def headcountWrite (v : Word) (s : State) : State :=
  let b := bits v 1 1
  let x := s.bank b
  if !bit v 0 then s
  else if x.phase = .pending ∨ x.phase = .filling then (s.setReg Reg.PMU_HC_RESULT 2).count Reg.PMU_CNT_HC_REFUSED
  else
    let at_ := max ((s.reg Reg.PMU_HC_AT).toNat * nsUnits) (s.dial.plusNs 100).toNat
    (s.modBank b fun x => { x with phase := .pending, rearm := bit v 2, at_ := at_ }).setReg Reg.PMU_HC_RESULT 1

/-- A register is a counter: of the device counter list (R373) or of a VF's view (R379). -/
def isCounter (k : Nat) : Bool :=
  if 0x40000000 ≤ k then decide (0x8000 ≤ k % 0x10000 ∧ k % 0x10000 < 0x9200)
  else (findReg (k % 0x2000000 / 0x100000) (k % 0x100000)).any fun x => x.1.counter

/-- The counters with their values. -/
def State.counters (s : State) : Store Word := s.regs.filter fun e => isCounter e.1

/-- The OVF bit of every counter re-armed. -/
def State.rearmOvf (s : State) : State :=
  s.counters.foldl (fun s e => s.setReg e.1 (e.2 &&& 0x0000FFFFFFFFFFFF)) s

/-- The VFs that exist. -/
def State.allVfs (s : State) : List (Nat × Nat) :=
  (List.range 16).flatMap fun p => (s.vfNumbers p).map fun v => (p, v)

/-- The captured view of every VF, with the instant and the number of the capture (R379). -/
def State.captureVfs (values : Store Word) (ns number : Nat) (s : State) : State :=
  let old := s.regs.filter fun e =>
    !(decide (0x40000000 ≤ e.1) && decide (0xA000 ≤ e.1 % 0x10000 ∧ e.1 % 0x10000 < 0xB200))
  let live := values.filter fun e => decide (0x40000000 ≤ e.1) && isCounter e.1
  let s := live.foldl (fun s e => s.setReg (e.1 + 0x2000) e.2) { s with regs := old }
  forAll s.allVfs (fun x s =>
    (s.setReg (Reg.VF_HC_AT x.1 x.2) (word ns)).setReg (Reg.VF_HC_NUMBER x.1 x.2) (word number)) s

/-- The counters as a capture at an instant, in 1/256 ns, copies them: captures with one instant copy identical values,
before any of them re-arms (R375, R388). -/
def State.capturedAt (s : State) (at_ : Nat) : Store Word :=
  let taken := fun (b : Bank) => decide (b.at_ = at_) && !b.stale && decide (b.phase = .filling ∨ b.phase = .valid)
  if taken s.pmu.bank0 then s.pmu.bank0.values
  else if taken s.pmu.bank1 then s.pmu.bank1.values
  else if s.pmu.dumpTaken = some at_ then s.pmu.dumpBank
  else s.counters

/-- The capture instant: every counter is copied, then re-armed where that is asked. -/
def capture (b : Nat) (s : State) : State :=
  let x := s.bank b
  if x.phase ≠ .pending ∨ s.dial.toNat < x.at_ then s
  else
    let n := s.pmu.number + 1
    let values := s.capturedAt x.at_
    let s := { s with pmu := { s.pmu with number := n } }
    let s := s.modBank b fun x => { x with phase := .filling, number := n, values := values, stale := false }
    let s := s.captureVfs values (x.at_ / nsUnits) n
    if x.rearm then s.rearmOvf else s

/-- Every entry of a bank is written. -/
def bankFilled (b : Nat) (s : State) : State :=
  if (s.bank b).phase = .filling then (s.modBank b fun x => { x with phase := .valid }).count Reg.PMU_CNT_HEADCOUNTS
  else s

/-! ## Periodic dumps (R377, R378) -/

/-- COUNT, held to its limits. -/
def State.dumpCount (s : State) : Nat := clampNat 1 256 (bits (s.reg Reg.PMU_DUMP_CFG) 40 32)

/-- The header of a dump, bytes 0 to 55. -/
def dumpHeader (ns skipped : Nat) : List Byte :=
  [0x5A, 0x50, 0x4D, 0x55, 1, 0, 0, 0] ++ leBytes 4 counterList.length ++ zeros 4 ++ leBytes 16 (dialOfNs ns).toNat
    ++ zeros 8 ++ leBytes 8 skipped ++ zeros 8

/-- PMU_DUMP_CFG written: the boundaries that Dial has passed by then are no capture instants any more (R377). -/
def dumpCfgWrite (v : Word) (s : State) : State :=
  let s := s.storeMasked Reg.PMU_DUMP_CFG v
  { s with pmu := { s.pmu with dumpAt := some (s.dialNs / s.dumpPeriod * s.dumpPeriod) } }

/-- At a multiple of the period a capture is taken and written to the next buffer, entries first and NUMBER last. It is
skipped while the last one is not fully written, or without DL_Active; it counts as written once its NUMBER is on its way
(log entry 73). -/
def periodicDump (s : State) : State :=
  let cfg := s.reg Reg.PMU_DUMP_CFG
  let p := bits cfg 51 48
  let f : Party := .pf p
  let ns := s.dialNs / s.dumpPeriod * s.dumpPeriod
  if !bit cfg 63 ∨ s.pmu.dumpAt.any fun m => decide (ns ≤ m) then s
  else
    let busy := s.dumpBusy
    let values := s.capturedAt (ns * nsUnits)
    let s := { s with pmu := { s.pmu with dumpAt := some ns, dumpTaken := some (ns * nsUnits), dumpBank := values } }
    if busy ∨ !(s.link p).dlActive then
      { s with pmu := { s.pmu with skipped := s.pmu.skipped + 1 } }.count Reg.PMU_CNT_DUMP_SKIP
    else
      let d := s.pmu.dumps + 1
      let size := divUp (64 + 8 * counterList.length) 4096 * 4096
      let a := (s.reg Reg.PMU_DUMP_BASE).toNat + (d - 1) % s.dumpCount * size
      let entries := counterList.flatMap fun k => leBytes 8 (Store.get (fun _ => 0) values (counterKey p k)).toNat
      let s := s.dma f 4 noRing none (.dmaWrite f (a + 64) entries false)
      let s := s.dma f 4 noRing none (.dmaWrite f a (dumpHeader ns s.pmu.skipped) false)
      let s := { s with pmu := { s.pmu with stated := s.pmu.skipped, dumps := d } }
      let open_ := s.dmaOpen f
      let s := s.dma f 4 noRing none (.dmaWrite f (a + 56) (leBytes 8 d) false)
      if open_ then s.dumpWritten d else s

/-! ## Logbook (R381 to R385) -/

/-- The event numbers with their severities. -/
def logNumbers : List (Nat × Nat) :=
  [(0x001, 4), (0x002, 3), (0x011, 0), (0x021, 0), (0x022, 2), (0x030, 2), (0x031, 3), (0x100, 3), (0x101, 2),
   (0x102, 2), (0x103, 0), (0x200, 2), (0x201, 3), (0x300, 2), (0x301, 2), (0x302, 1), (0x303, 1), (0x304, 1),
   (0x305, 3), (0x306, 2), (0x400, 2), (0x500, 2), (0x600, 3), (0x601, 1), (0x602, 3), (0x700, 2), (0x701, 2),
   (0x702, 1), (0x800, 1), (0x801, 2), (0x900, 2), (0x901, 1)]

/-- The severity of a number. -/
def logSeverity (n : Nat) : Nat := ((logNumbers.find? fun e => e.1 == n).map (·.2)).getD 4

/-- FATAL numbers, LOG_START and SUPPRESSED are never limited. -/
def logUnlimited (n : Nat) : Bool := decide (logSeverity n = 0 ∨ n = 0x001 ∨ n = 0x002)

/-- RATE and BURST, of which 0 acts as 1. -/
def logRateOf (v : Word) : Nat := max 1 (bits v 15 0)
def logBurstOf (v : Word) : Nat := max 1 (bits v 31 16)

/-- What a number's bucket lacks of BURST at a Dial, in 1/1,024 token, and the Dial up to which it has been refilled. -/
def State.logLack (s : State) (n now : Nat) : Nat × Nat :=
  let (lack, last) := Store.get (fun _ => (0, 0)) s.log.buckets n
  let r := 1024 * logRateOf (s.reg Reg.LOG_RATE)
  let gain := (now - last) * r / nsPerSecond
  if lack ≤ gain then (0, now) else (lack - gain, last + divUp (gain * nsPerSecond) r)

/-- The ledger address of record n. -/
def logAddr (n : Nat) : Nat := 0x3A000000 + 32 * (if n < 4096 then n else 4096 + (n - 4096) % 65536)

/-- The 32 bytes of a record. -/
def State.logBytes (s : State) (e : LogEvent) : List Byte :=
  let par := fun i => e.params.getD i 0
  let body := leBytes 2 (e.number % 4096 + logSeverity e.number * 4096) ++ leBytes 1 e.block
    ++ leBytes 3 (s.reg Reg.LOG_POWER_CYCLES).toNat ++ leBytes 4 (s.reg Reg.LOG_HOURS).toNat
    ++ leBytes 4 (par 0) ++ leBytes 4 (par 1) ++ leBytes 4 (par 2) ++ leBytes 4 (par 3)
    ++ leBytes 2 (s.reg Reg.LOG_TOTAL).toNat
  body ++ leBytes 4 (crc32c body).toNat

/-- A record that states occurrences since the last one written leaves none of those it states (R79, R115, R385). -/
def State.logStated (e : LogEvent) (s : State) : State :=
  let i := e.params.getD 0 0
  let n := e.params.getD 1 0
  match e.number with
  | 0x201 => s.modPolicer i fun p => { p with drops := p.drops - n }
  | 0x305 => s.modDom i fun x => { x with outside := x.outside - n }
  | _ => s

/-- A record written: its words in ascending order, then LOG_TOTAL. -/
def State.logWrite (e : LogEvent) (s : State) : State :=
  let n := (s.reg Reg.LOG_TOTAL).toNat
  let s := s.ledgerWords (logAddr n) (wordsOf (s.logBytes e))
  ((s.setReg Reg.LOG_TOTAL (word (n + 1))).count Reg.LOG_CNT_RECORDS).logStated e

/-- An occurrence not written: it counts, and its number's next SUPPRESSED record states it. -/
def State.logSuppress (e : LogEvent) (s : State) : State :=
  let m := Store.modify (fun _ => (0, 0)) e.number
    (fun (c, d) => (c + 1, if c = 0 then e.dial else d)) s.log.suppressed
  { s with log := { s.log with suppressed := m } }.count Reg.LOG_CNT_SUPPRESSED

/-- The Foreman takes the oldest event of the queue. -/
def logRecordWrite (s : State) : State :=
  match s.log.queue with
  | [] => s
  | e :: rest =>
    let s := { s with log := { s.log with queue := rest } }
    if logUnlimited e.number then s.logWrite e
    else
      let (lack, last) := s.logLack e.number e.dial.ns
      let full := 1024 * logBurstOf (s.reg Reg.LOG_RATE)
      let put := fun (lack : Nat) (s : State) =>
        { s with log := { s.log with buckets := Store.put (fun _ => (0, 0)) e.number (lack, last) s.log.buckets } }
      if lack + 1024 ≤ full then (put (lack + 1024) s).logWrite e else (put lack s).logSuppress e

/-- LOG_RATE written: each bucket keeps its tokens, clipped to the new BURST. -/
def logRateWrite (v : Word) (s : State) : State :=
  let old := 1024 * logBurstOf (s.reg Reg.LOG_RATE)
  let new := 1024 * logBurstOf v
  let now := s.dialNs
  let move := fun (m : Store (Nat × Nat)) (e : Nat × Nat) =>
    let tokens := old - (s.logLack e.1 now).1
    Store.put (fun _ => (0, 0)) e.1 (new - min tokens new, now) m
  { s with log := { s.log with buckets := logNumbers.foldl move s.log.buckets } }.storeMasked Reg.LOG_RATE v

/-- 1/1,024 h in which VCORE is powered, outside Deep Rest (R383). -/
def hoursTick (s : State) : State :=
  if s.phase = .rest ∨ s.phase = .off then s
  else s.modReg Reg.LOG_HOURS fun v => word (min 0xFFFFFFFF (v.toNat + 1))

/-! ## Core trace (R386, R387) -/

/-- TRC_BUF_WPTR after n bytes. -/
def State.traceMove (n : Nat) (s : State) : State :=
  if s.traceSink ≠ 2 then s
  else
    let w := bits (s.reg Reg.TRC_BUF_WPTR) 62 0 + n
    let wraps := bit (s.reg Reg.TRC_CFG) 2 && decide (s.traceSize ≤ w)
    s.modReg Reg.TRC_BUF_WPTR fun v =>
      word ((if wraps then w % s.traceSize else w) + b2n (wraps || bit v 63) * 2 ^ 63)

/-- A frame's bytes: the 16-bit header with CORE, TYPE and LENGTH, and the payload, padded to 16 bits (R386). -/
def traceBytes (core type : Nat) (payload : List Byte) : List Byte :=
  leBytes 2 (core % 64 + type % 16 * 2 ^ 6 + payload.length % 64 * 2 ^ 10) ++ payload ++ zeros (payload.length % 2)

/-- A frame's bytes at the sink: at the trace port, or in the buffer from its base on, around its end where it wraps. -/
def State.traceOut (bs : List Byte) (s : State) : State :=
  if s.traceSink ≠ 2 then s.emit (.trace bs)
  else
    let base := (s.reg Reg.TRC_BUF_BASE).toNat
    let w := bits (s.reg Reg.TRC_BUF_WPTR) 62 0
    let n := s.traceSize - w
    let s := s.emit (.traceBuffer (base + w) (bs.take n))
    if bs.length ≤ n then s else s.emit (.traceBuffer base (bs.drop n))

/-- A frame reaches the sink and counts, a POWER_GAP in its own counter too. One that finds no room in the buffer stops
tracing (R388, R392). -/
def State.traceFrame (core type : Nat) (payload : List Byte) (s : State) : State :=
  let bs := traceBytes core type payload
  if s.traceFull bs.length then { s with pmu := { s.pmu with bufNeed := max bs.length s.pmu.bufNeed } }
  else
    let s := { s with pmu := { s.pmu with bufNeed := 0 } }
    let s := ((s.traceOut bs).traceMove bs.length).count Reg.TRC_CNT_FRAMES
    if type = 2 then s.count Reg.TRC_CNT_GAPS else s

/-- A DIAL_SYNC frame. -/
def State.traceSync (core : Nat) (s : State) : State :=
  { s with pmu := { s.pmu with syncAt := Store.put (fun _ => 0) core (s.dialNs + 1) s.pmu.syncAt } }.traceFrame core 1
    (leBytes 9 s.dial.toNat)

/-- n packets of a core are lost, and counted (R387, R388). -/
def State.traceLoss (core n : Nat) (s : State) : State :=
  let lost := Store.modify (fun _ => 0) core (· + n) s.pmu.lostPkts
  { s with pmu := { s.pmu with lostPkts := lost } }.countBy Reg.TRC_CNT_OVERFLOW n

/-- The packets that a core has lost and no OVERFLOW has stated. -/
def State.unstated (s : State) (core : Nat) : Nat := Store.get (fun _ => 0) s.pmu.lostPkts core

/-- OVERFLOW states the packets that a core has lost since its last one, and precedes what comes next (R387). -/
def State.traceOverflow (core : Nat) (s : State) : State :=
  let k := s.unstated core
  if k = 0 ∨ !s.traced core then s
  else if s.traceFull 6 then s.traceFrame core 3 (leBytes 4 k)
  else { s with pmu := { s.pmu with lostPkts := Store.put (fun _ => 0) core 0 s.pmu.lostPkts } }.traceFrame core 3 (leBytes 4 k)

/-- A full synchronisation packet, in a privilege mode that PRIV selects; the mode and the E-Trace payload are free values
(log entry 76). One that finds the buffer full is lost and counts (R388). -/
def State.tracePacketSync (core : Nat) (s : State) : State :=
  let mode := Config.freeNat s.free % 3
  let n := Config.freeNat (s.free + 1) % 64
  let (bs, s) := State.randomBytes n { s with free := s.free + 2 }
  if !bit (s.reg Reg.TRC_CFG) (3 + mode) then s
  else
    let s := if s.traceFull (traceBytes core 0 bs).length then s.traceLoss core 1 else s
    s.traceFrame core 0 bs

/-- SYNC_US of Dial have passed since a core's last DIAL_SYNC (R386; DESIGN CHOICE of the clock, log entry 76). -/
def State.syncDue (s : State) (core : Nat) : Bool :=
  let last := Store.get (fun _ => 0) s.pmu.syncAt core
  decide (last = 0 ∨ s.dialNs + 1 < last ∨ last + 1000 * max 1 (bits (s.reg Reg.TRC_CFG) 31 16) ≤ s.dialNs + 1)

/-- Every SYNC_US: a traced core that is not in idle emits DIAL_SYNC; packets lost and not stated come first, by OVERFLOW,
and a full synchronisation follows them (R386, R387). -/
def dialSync (core : Nat) (s : State) : State :=
  if !s.traced core ∨ s.pmu.idle.getLsbD core ∨ !s.syncDue core then s
  else
    let t := (s.traceOverflow core).traceSync core
    if t.unstated core < s.unstated core then t.tracePacketSync core else t

/-- A core enters idle: what is unsent after 2 µs is lost and marked, and POWER_GAP follows. -/
def powerGap (core : Nat) (gated : Bool) (unsent : Nat) (s : State) : State :=
  if s.pmu.idle.getLsbD core ∨ s.life.stopped.contains core then s
  else
    let on := bit (s.reg Reg.TRC_EN) core && decide (s.traceSink ≠ 0)
    let s := if on then (s.traceLoss core unsent).traceOverflow core else s
    let s :=
      if s.traced core then s.traceFrame core 2 (leBytes 9 s.dial.toNat ++ [BitVec.ofNat 8 (b2n gated)]) else s
    { s with pmu := { s.pmu with idle := s.pmu.idle ||| BitVec.ofNat 64 (2 ^ core) } }

/-- A core leaves idle: OVERFLOW where packets are lost and not stated, DIAL_SYNC and a synchronisation packet come before
its trace. -/
def idleExit (core : Nat) (s : State) : State :=
  if !s.pmu.idle.getLsbD core ∨ s.life.stopped.contains core then s
  else
    let s := { s with pmu := { s.pmu with idle := s.pmu.idle &&& ~~~(BitVec.ofNat 64 (2 ^ core)) } }
    if s.traced core then ((s.traceOverflow core).traceSync core).tracePacketSync core else s

/-! ## The meanings -/

def execHeadcount (who : Party) (v : Word) (s : State) : Answer :=
  within (Instr.wf (.headcount who v)) (pfWrite who false false (whole who Reg.PMU_HC_CTL (headcountWrite v)) s) s

def execCapture (bank : Nat) (s : State) : Answer := within (Instr.wf (.capture bank)) (whenClocked (capture bank) s) s

def execBankFilled (bank : Nat) (s : State) : Answer :=
  within (Instr.wf (.bankFilled bank)) (whenClocked (bankFilled bank) s) s

def execPeriodicDump (s : State) : Answer := within (Instr.wf .periodicDump) (whenClocked periodicDump s) s

def execLogRecordWrite (s : State) : Answer := within (Instr.wf .logRecordWrite) (whenClocked logRecordWrite s) s

def execHoursTick (s : State) : Answer := within (Instr.wf .hoursTick) (hoursTick s) s

def execDialSync (core : Nat) (s : State) : Answer := within (Instr.wf (.dialSync core)) (whenClocked (dialSync core) s) s

def execPowerGap (core : Nat) (powerGated : Bool) (unsent : Nat) (s : State) : Answer :=
  within (Instr.wf (.powerGap core powerGated unsent)) (whenClocked (powerGap core powerGated unsent) s) s

def execIdleExit (core : Nat) (s : State) : Answer := within (Instr.wf (.idleExit core)) (whenClocked (idleExit core) s) s

end Sys2Proof.Machine
end

