-- ==== Sys2Proof/Machine/Life.lean ====
section
/-! DEFINITION. Machine/Life.lean: the meaning of the voters' scrubber, the memories' ECC scrubber, and what supports and
reports the service life (R30, R367, R368, R400 to R402; log entry 77). -/

namespace Sys2Proof.Machine

/-! ## Memories (R30, R401) -/

/-- The key of a row of a scrubbed memory. -/
def ScrubRow.key (t : ScrubTarget) (row : Nat) : Nat :=
  7 * row + match t with
    | .packetBuffer => 0 | .l2 => 1 | .l3 => 2 | .retention => 3 | .hbm => 4 | .ledger => 5 | .hostLink => 6

/-- A correction in an SRAM row: the third within 24 operating hours remaps the row while a spare is left (R401). -/
def State.rowCorrected (t : ScrubTarget) (row : Nat) (s : State) : State :=
  let k := ScrubRow.key t row
  let now := (s.reg Reg.LOG_HOURS).toNat
  let hits := now :: (Store.get (fun _ => []) s.life.rowHits k).filter fun h => decide (now < h + 24 * 1024)
  let l := s.life
  if 3 ≤ hits.length ∧ l.rowsOf t < Config.spareRows t then
    { s with life := { l with rows := l.rows ++ [(t, row)], rowHits := Store.put (fun _ => []) k [] l.rowHits } }
  else { s with life := { l with rowHits := Store.put (fun _ => []) k hits l.rowHits } }

/-- A message lost before its sequencing: an ingress error (R30). -/
def State.ingressError (s : State) : State := { s with life := { s.life with ingressErr := s.life.ingressErr + 1 } }

/-- A core that suffers an uncorrectable fault is retired: it stops, and a spare takes its name at the next start (R401). -/
def State.retireCore (c : Nat) (s : State) : State :=
  if 64 ≤ c ∨ s.life.stopped.contains c then s
  else { s with life := { s.life with stopped := s.life.stopped ++ [c], coreFaults := s.life.coreFaults + 1 } }

/-- What an uncorrectable row held is discarded (R30; log entry 77): a waiting frame; an order-class message, an ingress
error, before its sequencing; the frame of a release posting, whose copies not yet sent are dropped as ABORTED; a record
for the cores; the retained image. A read of the HBM returns poisoned data, and a host function that asked for it reports
an uncorrectable internal error (DESIGN CHOICE of the error, log entry 77). -/
def State.discardItem (item : RowItem) (row : Nat) (s : State) : State :=
  match item with
  | .other => s
  | .queued n q i =>
    match (s.queue n q)[i]? with
    | some f =>
      let s := if i = 0 then s.modEgr n fun e => { e with deferred := e.deferred.filter (· ≠ q) } else s
      (s.setQueue n q ((s.queue n q).eraseIdx i)).loseFrame f 2
    | none => s
  | .arriving k i =>
    if i < (s.pipe k).fifo.length then (s.modPipe k fun p => { p with fifo := p.fifo.eraseIdx i }).ingressError else s
  | .held d i =>
    if i < (s.dom d).held.length then ((s.modDom d fun x => { x with held := x.held.eraseIdx i }).ingressError).condPoll d
    else s
  | .release rel =>
    match s.posting rel with
    | none => s
    | some p =>
      let live := p.copies.filter fun c => decide (c.st = .armed ∨ c.st = .committed)
      live.foldl (fun s c => s.endCopy rel c.slot 8) s
  | .exception k i => s.modPipe k fun p => { p with excFrames := p.excFrames.eraseIdx i }
  | .retained => s.dropDigest
  | .core c => s.retireCore c
  | .read who => (s.emit (.poisonedRead who row)).report who 9 0xFFFF .internal

/-- The memory whose rows hold such a thing (R21): frames and messages lie in the packet buffer, exception records in the
L3 area, the retained image in retention SRAM; a core needs its L2 and the L3, and only the HBM answers with poisoned
data. -/
def liesIn (item : RowItem) (t : ScrubTarget) : Bool :=
  match item with
  | .other => true
  | .queued _ _ _ | .arriving _ _ | .held _ _ | .release _ => t == .packetBuffer
  | .exception _ _ => t == .l3
  | .retained => t == .retention
  | .core _ => t == .l2 || t == .l3
  | .read _ => t == .hbm

/-- The scrubber reads a word or a row: what is correctable is corrected and counted; what is not is counted and what the
row held discarded. An uncorrectable ledger word is reported, and its record counts as torn; for the ledger the row is the
word's address. A fault in the buffers of a host link, whose row is the link's PF index, is reported by that PF (R30,
R227). -/
def memoryScrub (t : ScrubTarget) (place : ScrubPlace) (r : EccResult) (s : State) : State :=
  let row := place.row
  match r with
  | .clean => s
  | .corrected =>
    let s := { s with life := { s.life with eccCorr := s.life.eccCorr + 1 } }
    if t = .ledger then s.count Reg.AUD_CNT_ECC_CORR
    else if t = .hostLink then s.report (.pf row) 9 0xFFFF .correctedInternal
    else if t = .packetBuffer ∨ t = .l2 ∨ t = .l3 ∨ t = .retention then s.rowCorrected t row
    else s
  | .uncorrectable =>
    let s := { s with life := { s.life with eccUncorr := s.life.eccUncorr + 1 } }
    if t = .ledger then
      let a := row / 8 * 8
      { s with aud := { s.aud with torn := a :: s.aud.torn.filter (· != a) } }.count Reg.AUD_CNT_ECC_UNCORR
    else if t = .hostLink then s.report (.pf row) 9 0xFFFF .internal
    else if liesIn place.item t then s.discardItem place.item row
    else s

/-! ## Service life (R400 to R402) -/

/-- The average of n samples of Tj with a sum, in 1/16 °C, and the part of what lines could carry that they did, in
0.01 %; both rounded down. -/
def averageTj (sum : Int) (n : Nat) : Int := if n = 0 then 0 else 16 * sum / n
def averageUtil (bytes room : Nat) : Nat := if room = 0 then 0 else 10000 * bytes / room

/-- The averages of Tj and of line utilisation. -/
def LifeState.avgTj (l : LifeState) : Int := averageTj l.tjSum l.samples
def LifeState.avgUtil (l : LifeState) : Nat := averageUtil l.lineBytes l.lineRoom

/-- An operating hour ends, and enters the averages (R400, R402). The command names the hour's means; one that names others
is of no hour of this device, and changes nothing (log entry 77). -/
def lifeAverageUpdate (tj : Int) (util : Nat) (s : State) : State :=
  let l := s.life
  if tj ≠ averageTj l.hourTj l.hourN ∨ util ≠ averageUtil l.hourBytes l.hourRoom then s
  else
    { s with life := { l with
      tjSum := l.tjSum + l.hourTj, samples := l.samples + l.hourN, lineBytes := l.lineBytes + l.hourBytes
      lineRoom := l.lineRoom + l.hourRoom, hourTj := 0, hourN := 0, hourBytes := 0, hourRoom := 0 } }

/-- WITHIN: A1 asks nothing of the averages; A2 asks 80 °C and 60 % (R400). -/
def LifeState.within (l : LifeState) (grade : Nat) : Bool :=
  decide (grade ≠ 2) || (decide (l.tjSum ≤ 80 * l.samples) && decide (100 * l.lineBytes ≤ 60 * l.lineRoom))

/-- The spare rows in use, and those that are free, over the four SRAM memories (R401, R402). -/
def sramArrays : List ScrubTarget := [.packetBuffer, .l2, .l3, .retention]
def LifeState.rowsUsed (l : LifeState) : Nat := (sramArrays.map l.rowsOf).sum
def LifeState.rowsLeft (l : LifeState) : Nat := (sramArrays.map fun t => Config.spareRows t - l.rowsOf t).sum

/-- CORES_RETIRED: the stopped cores for which no spare is left. -/
def LifeState.stoppedForGood (l : LifeState) : Nat := l.stopped.length - l.spares

/-- The 64-byte block of R402. -/
def State.lifeBlock (s : State) : List Byte :=
  let l := s.life
  let grade := bits (s.reg Reg.GEN_ID) 41 40
  slice (leBytes 4 (s.reg Reg.LOG_HOURS).toNat ++ leBytes 2 (BitVec.ofInt 16 l.avgTj).toNat ++ leBytes 2 l.avgUtil
    ++ leBytes 1 grade ++ leBytes 1 (b2n (l.within grade)) ++ leBytes 1 l.spares ++ leBytes 1 l.stoppedForGood
    ++ leBytes 4 l.rowsUsed ++ leBytes 4 l.rowsLeft ++ leBytes 1 l.margin ++ leBytes 2 l.lowLanes.length) 0 64

/-- Admin 0x71 LIFE_QUERY. -/
def lifeQuery (c : Nat) : State → State := onAdmin c 0x71 fun t o s =>
  (s.entryWrite c t (adminParam t.desc 1).toNat s.lifeBlock false).adminDone c t 0 64

/-- The eye margin of a lane: it reports low margin, or no longer does. -/
def laneMarginCheck (lane : Nat) (low : Bool) (s : State) : State :=
  let rest := s.life.lowLanes.filter (· != lane)
  { s with life := { s.life with lowLanes := if low then lane :: rest else rest } }

/-- The margins left at the ageing monitors, in %: AGE_MARGIN is the worst. -/
def ageingCheck (margins : List Nat) (s : State) : State :=
  { s with life := { s.life with margin := margins.foldl min 100 } }

/-! ## The meanings -/

def execVoteScrub (key : Nat) (s : State) : Answer := within (Instr.wf (.voteScrub key)) (whenClocked (voteScrub key) s) s

def execMemoryScrub (t : ScrubTarget) (place : ScrubPlace) (r : EccResult) (s : State) : Answer :=
  within (Instr.wf (.memoryScrub t place r)) (whenClocked (memoryScrub t place r) s) s

def execLifeQuery (ring : Nat) (s : State) : Answer :=
  within (Instr.wf (.lifeQuery ring)) (whenClocked (lifeQuery ring) s) s

def execLifeAverageUpdate (tj : Int) (util : Nat) (s : State) : Answer :=
  within (Instr.wf (.lifeAverageUpdate tj util)) (whenClocked (lifeAverageUpdate tj util) s) s

def execLaneMarginCheck (lane : Nat) (low : Bool) (s : State) : Answer :=
  within (Instr.wf (.laneMarginCheck lane low)) (whenClocked (laneMarginCheck lane low) s) s

def execAgeingCheck (margins : List Nat) (s : State) : Answer :=
  within (Instr.wf (.ageingCheck margins)) (whenClocked (ageingCheck margins) s) s

end Sys2Proof.Machine
end

