-- ==== Sys2Proof/Machine/Operands.lean ====
section
/-! DEFINITION. Machine/Operands.lean: the operand forms of a register access: what a party's BAR0 address reaches, the
two halves of a register, and the function's staging latches (R219, R306, R358 to R365). -/

namespace Sys2Proof.Machine

/-- What an aligned access reaches. -/
inductive Target where
  /-- A register of a block slot: its row, its instance numbers and its key. -/
  | reg (row : RegRow) (idx : List Nat) (key : Nat)
  /-- A register of a VF BAR0, by its offset. -/
  | vfReg (o : Nat)
  /-- A virtual controller's window (R260), by the offset in it. -/
  | nvme (f : Party) (o : Nat)
  /-- A word of a function's MSI-X table (R222). -/
  | msix (f : Party) (i : Nat)
  /-- BOOT_REC_WIN (R332). -/
  | upload (o : Nat)
  /-- A window that takes no writes. -/
  | readOnly
  deriving DecidableEq, Repr

/-- The slot whose rules an access follows (R358, R359): VF BAR0 is decoded whole (R306), and its ABI registers are
GEN's. -/
def accessSlot (who : Party) (a : Nat) : Nat :=
  match who with
  | .vf _ _ => if a % 0x10000 < 0x20 then 0 else 13
  | _ => slotOf a

/-- What an access to PF BAR0 reaches (R358 to R363). -/
def barTarget (who : Party) (a : Nat) : Option Target :=
  let slot := slotOf a
  let o := a % 0x100000 % 2 ^ decodeWidth slot
  if inWindow slot o then
    match slot with
    | 11 => some (.nvme (.pf (o / 0x2000)) (o % 0x2000))
    | 9 =>
      match who with
      | .pf p => if o < 0x88000 then some (.msix (.pf p) ((o - 0x80000) / 8)) else some .readOnly
      | _ => some .readOnly
    | 16 => some (.upload (o - 0x40000))
    | _ => some .readOnly
  else (landing a).map fun l => .reg l.row l.idx (regKey slot l.offset)

/-- What an access to VF BAR0 reaches (R306). -/
def vfTarget (who : Party) (a : Nat) : Target :=
  let o := a % 0x10000 / 8 * 8
  if 0x2000 ≤ o ∧ o < 0x4000 then .nvme who (o - 0x2000)
  else if 0xF000 ≤ o ∧ o < 0xF400 then .msix who ((o - 0xF000) / 8)
  else .vfReg o

/-- What an access reaches. -/
def target (who : Party) (a : Nat) : Option Target :=
  match who with
  | .vf _ _ => some (vfTarget who a)
  | _ => barTarget who (a / 8 * 8)

/-- The access got there through a repeat, an alias or an unassigned slot, and counts in GEN_CNT_ALIAS (R361). -/
def aliased (who : Party) (a : Nat) : Bool :=
  match who with
  | .vf _ _ => false
  | _ =>
    let a8 := a / 8 * 8
    let slot := slotOf a8
    let o := a8 % 0x100000 % 2 ^ decodeWidth slot
    if inWindow slot o then decide (a8 % 0x100000 ≠ o)
    else (landing a8).any (·.counted)

/-! ## Access width (R219, R364) -/

/-- A size and alignment that BAR0 completes. -/
def accessAligned (a size : Nat) : Bool := (decide (size = 8) && decide (a % 8 = 0)) || (decide (size = 4) && decide (a % 4 = 0))

/-- The two halves of a 64-bit value. -/
def joinHalves (hi lo : BitVec 32) : Word := hi ++ lo

/-! ## Staging latches (R365) -/

/-- The key of a function's latch for the slot that an access falls in. -/
def latchKey (who : Party) (a : Nat) : Nat := slotLatch who (accessSlot who a)

/-- The register that an address names, whichever of its addresses is used: its key, or the 8-byte offset. -/
def regName (who : Party) (a : Nat) : Nat :=
  match target who a with
  | some (.reg _ _ k) => barName k
  | some (.vfReg o) => offsetName o
  | some (.upload o) => offsetName (0x1040000 + o)
  | _ => offsetName a

/-- The write acts at once in either half: its action ignores the value written (R365). -/
def actsAtOnce (who : Party) (a : Nat) : Bool :=
  match target who a with
  | some (.reg r _ _) => decide (r.write = .ringDoorbell)
  | some (.vfReg o) => decide (0x1000 ≤ o ∧ o < 0x2000)
  | _ => false

end Sys2Proof.Machine
end

