-- ==== Sys2Proof/Machine/Sequencer.lean ====
section
/-! DEFINITION. Machine/Sequencer.lean: the sequencer's commands (R90 to R119, R288, R335, R405): arrivals, releases,
configuration, opening and closing, takeover. -/

namespace Sys2Proof.Machine

/-! ## Arrivals -/

/-- The message at the front of a pipeline's FIFO reaches the hold store (R26, R405). -/
def holdStoreArrival (pipe : Nat) (s : State) : State :=
  match (s.pipe pipe).fifo with
  | [] => s
  | m :: rest =>
    let s := s.modPipe pipe fun p => { p with fifo := rest }
    s.arrive (s.inFeed m.domain (m.port % 256)) m

/-- The message of a mirror record; a reject's reason and bitmap, which the record does not carry, are free (R288;
log entry 42). -/
def mirrorMsg (r : MirrorRec) (d free : Nat) : Msg :=
  let rej := r.flags.getLsbD 0
  ⟨d, r.stackPort, r.stamp, r.arrival, if rej then BitVec.ofNat 8 (1 + Config.freeNat free % 8) else 0,
   if rej then Config.freeByte (free + 1) else 0, false, r.flags.getLsbD 2, r.bytes⟩

/-- A merger that takes the streams of other devices (R316): its input does not come from mirror records. -/
def State.streamFed (s : State) (d : Nat) : Bool := s.stacked d && !(s.feeders d).isEmpty

/-- A mirror record reaches a standby: it is kept for the comparison of R113, which is made at once where its number has
been assigned already. Where no streams reach the standby, the record is also its input, and one whose number does not
follow the previous record's is a difference (R288; log entry 19). -/
def mirrorRecord (d : Nat) (r : MirrorRec) (s : State) : State :=
  if s.role d ≠ 2 then s
  else
    let x := s.dom d
    let gap := !s.streamFed d && (x.mirrorSeq.map fun n => n + 1 != r.seq).getD false
    let s := s.modDom d fun x => { x with mirrorSeq := some r.seq, mirrors := x.mirrors ++ [r] }
    let s := if gap then s.mirrorDiffers d r.seq else s
    let s := match x.kept.find? fun n => n.seq == r.seq with
      | some n => s.compareMirror d n
      | none => s
    if s.streamFed d then s else ({ s with free := s.free + 2 }).arrive true (mirrorMsg r d s.free)

/-! ## Configuration (R90, R96, R117, R119, R335) -/

/-- An ignored configuration or command write. -/
def State.seqRefused (d : Nat) (s : State) : State := s.count (Reg.SEQ_CNT_CFG_REFUSED d)

/-- SEQ_FEED[m] written (R90). -/
def seqFeedWrite (d m : Nat) (v : Word) (s : State) : State :=
  if s.isOpen d then s.seqRefused d else s.setReg (Reg.SEQ_FEED d m) v

/-- SEQ_DOMAIN_CFG with its reserved bits as they read. -/
def seqCfgMask : Word := 0x00001FFF007FFFFF

/-- SEQ_DOMAIN_CFG written (R96, R119). -/
def seqDomainCfgWrite (d : Nat) (v : Word) (s : State) : State :=
  if s.isOpen d || !seqCfgValid v then s.seqRefused d else s.setRv (Reg.SEQ_DOMAIN_CFG d) (v &&& seqCfgMask)

/-- SEQ_NEXT written (R117). -/
def seqNextWrite (d : Nat) (v : Word) (s : State) : State :=
  if s.isOpen d || v == 0 then s.seqRefused d else s.setNext d v

/-- The register fields of R22 and R103 as they stand, with one domain's SEQ_DOMAIN_CFG replaced. -/
def State.storeFitsCfg (s : State) (d : Nat) (v : Word) : Bool :=
  s.storeFits s.admitRate fun e => if e = d then v else s.seqCfg e

/-- Admin 0x21 SEQ_CFG_SET (R335). -/
def seqCfgSet (c : Nat) : State → State := onAdmin c 0x21 fun t _ s =>
  let d := bits (adminParam t.desc 0) 3 0
  let v := adminParam t.desc 1
  if s.isOpen d || !seqCfgValid v || !s.storeFitsCfg d v then s.adminDone c t configLimit 0
  else (s.setRv (Reg.SEQ_DOMAIN_CFG d) (v &&& seqCfgMask)).adminDone c t 0 0

/-! ## Opening (R116) -/

/-- A ring context is enabled and of a type (R116). -/
def State.ringIs (s : State) (c type : Nat) : Bool := decide ((s.ring c).phase = .active ∧ (s.ring c).type = type)

/-- The bytes per second that this device's open stacked domains, with d among them, would send over a link (R317). -/
def State.linkLoad (s : State) (d l : Nat) : Nat :=
  ((List.range 16).map fun e =>
    if (decide (e = d) || s.isOpen e) && s.stacked e && (s.mergers e).any (fun dev => s.carrier dev == some l) then
      ((s.feed e).map s.admitRate).sum * 2112
    else 0).sum

/-- The result of an OPEN: 1, or the code of the first check of R116 that fails. -/
def State.openResult (s : State) (d : Nat) : Nat :=
  let total := ((List.range 16).map fun e => if decide (e = d) || s.isOpen e then s.feedRate e else 0).sum
  if s.isOpen d then 2
  else if !(decide (s.time.disc = .locked) || decide (s.time.disc = .holdover) || bit (s.voted Reg.TIME_CFG) 3) then 3
  else if s.dialStopped then 4
  else if s.musterShort d && !bit (s.seqCfg d) 19 then 5
  else if 250000000 < s.feedRate d ∨ 2000000000 < total then 6
  else if s.feed d = [] ∧ (s.stacked d = false ∨ s.feeders d = []) then 7
  else if !s.isFeeder d && !(s.ringIs (s.seqRing d false) 1 && s.ringIs (s.seqRing d true) 2) then 8
  else if s.stacked d && (!s.stackLock || (List.range 8).any fun l => decide (96000000000 < s.linkLoad d l)) then 9
  else if !s.storeFitsCfg d (s.seqCfg d) then 10
  else 1

/-- The instant a command names: its register's, or the Dial at acceptance where that is 0 or already past (R116). -/
def State.instantOf (s : State) (k : Nat) : Dial :=
  let v := s.reg k
  let at_ := dialOfNs v.toNat
  if v = 0 ∨ at_ < s.dial then s.dial else at_

/-- An OPEN is decided but for its record (R115, R116, R32, R166): the open count rises in the ledger before it takes
effect. -/
def admitOpen (d : Nat) (s : State) : State :=
  let r := s.openResult d
  let s := s.setReg (Reg.SEQ_OPEN_RESULT d) (word r)
  if r ≠ 1 then s
  else
    let o := (s.reg (Reg.AUD_OPEN_COUNT d)).toNat + 1
    let s := (s.setReg (Reg.AUD_OPEN_COUNT d) (word o)).ledgerQueue (openCountAddr d) [word o]
    let n := s.reg (Reg.SEQ_NEXT d)
    let at_ := s.instantOf (Reg.SEQ_OPEN_AT d)
    let s := s.modDom d fun x =>
      { DomState.reset with phase := .opening, openAt := at_, frontier := s.dial, copyA := n, copyB := n, copyC := n,
                            outside := x.outside, outsideNew := x.outsideNew, lastStamp := x.lastStamp,
                            condLast := x.condLast, suspect := x.fenced }
    let s := (s.setReg (Reg.SEQ_HALT_INFO d) 0).setReg (Reg.SEQ_BACKLOG d) 0
    { s with rdma := { s.rdma with broken := s.rdma.broken &&& ~~~(BitVec.ofNat 16 (2 ^ d)) } }

/-- The record of an OPEN just decided, where it was accepted. -/
def noteOpen (d : Nat) (s : State) : State :=
  if s.reg (Reg.SEQ_OPEN_RESULT d) ≠ 1 then s
  else
    (s.domainEvent d 0 (s.dom d).openAt (s.reg (Reg.SEQ_NEXT d)) (s.reg (Reg.AUD_OPEN_COUNT d)).toNat).condPoll d

/-- An OPEN is decided, with its record. -/
def decideOpen (d : Nat) (s : State) : State := noteOpen d (admitOpen d s)

/-- OPENs decided in one TIME cycle, in their order of arrival; their records stand in ascending domain order (R45,
R167). -/
def decideOpens (ds : List Nat) (s : State) : State :=
  (ds.insertionSort (· ≤ ·)).foldl (fun s d => noteOpen d s) (ds.foldl (fun s d => admitOpen d s) s)

/-- OPEN: decided at once, or after the pending step (R45, R116). -/
def openCommand (d : Nat) (s : State) : State :=
  let s := s.setReg (Reg.SEQ_OPEN_RESULT d) 0
  if s.time.pending.isSome then
    if s.openWait.contains d then s else { s with openWait := s.openWait ++ [d] }
  else decideOpen d s

/-- Dial reaches T_o (R115). -/
def domainOpens (d : Nat) (s : State) : State :=
  if (s.dom d).phase = .opening ∧ (s.dom d).openAt ≤ s.dial then
    s.modDom d fun x => { x with phase := .opened, frontier := s.dial }
  else s

/-! ## Closing (R115, R117) -/

/-- The domain enters CLOSED. -/
def State.toClosed (d event : Nat) (s : State) : State :=
  let s := s.domainEvent d event s.dial (s.reg (Reg.SEQ_LAST_NUMBER d)) 0
  (s.modDom d fun x => { x with phase := .closed, held := [], treeA := [], treeB := [], treeC := [], backM := [], backR := [], kept := [], mirrors := [],
                                mirrorSeq := none, takeover := false }).condPoll d

/-- CLOSE (R115, R116). -/
def closeCommand (d : Nat) (s : State) : State :=
  let result := fun (r : Word) => s.setReg (Reg.SEQ_OPEN_RESULT d) r
  match (s.dom d).phase with
  | .opening => (result 1).toClosed d 1
  | .opened =>
    let at_ := s.instantOf (Reg.SEQ_CLOSE_AT d)
    (result 1).modDom d fun x => { x with phase := .closing, closeAt := at_ }
  | .closed | .closing | .halted => result 2

/-- A CLOSING domain is past T_c plus its muster delay, with the merge and the backlog empty (R115). -/
def domainCloses (d : Nat) (s : State) : State :=
  let x := s.dom d
  let due := x.closeAt.toNat + max (s.musterNs d) (s.musterMin d) * nsUnits
  if x.phase = .closing ∧ due ≤ s.dial.toNat ∧ x.held = [] ∧ x.backlog = 0 then s.toClosed d 1 else s

/-- The highest number in a domain's backlog. -/
def DomState.lastWaiting (x : DomState) : Word :=
  ((x.backM.getLast?.toList ++ x.backR.getLast?.toList).map (·.seq.toNat)).foldl max 0 |> word

/-- The lowest number in a domain's backlog. -/
def DomState.firstWaiting (x : DomState) : Option Word :=
  match x.backM, x.backR with
  | [], [] => none
  | m :: _, [] => some m.seq
  | [], r :: _ => some r.seq
  | m :: _, r :: _ => some (if m.seq ≤ r.seq then m.seq else r.seq)

/-- FORCE_CLOSE (R115 to R117): held and waiting messages are discarded and counted. Where anything was discarded, the
logbook record gives the first of their numbers and how many numbers there are from it to the last, so both are told
(log entry 96). -/
def forceClose (d : Nat) (s : State) : State :=
  let x := s.dom d
  if x.phase = .closed then s.setReg (Reg.SEQ_OPEN_RESULT d) 2
  else
    let gone := x.held.length + x.merging + x.backlog
    let first := x.firstWaiting.getD 0
    let span := if x.backlog = 0 then 0 else (x.lastWaiting - first).toNat + 1
    let s := (s.setReg (Reg.SEQ_OPEN_RESULT d) 1).countBy (Reg.SEQ_CNT_CLOSE_DISCARD d) gone
    let s := if gone = 0 then s else s.logEvent 0x306 4 [d, span, bits first 31 0, bits first 63 32]
    s.toClosed d 3

/-- SEQ_DOMAIN_CTL written: one command, or ignored and counted (R116). -/
def seqCtlWrite (d : Nat) (v : Word) (s : State) : State :=
  match bits v 2 0 with
  | 0 => s
  | 1 => openCommand d s
  | 2 => closeCommand d s
  | 4 => forceClose d s
  | _ => s.seqRefused d

/-! ## Takeover (R114) -/

/-- The result of a takeover at boundary n: 1, or the code of the first check that fails. A standby that has kept no
message since it opened has no oldest one, and passes the third check for every n (DESIGN CHOICE, log entry 96). -/
def State.takeoverResult (s : State) (d : Nat) (n : Word) : Nat :=
  let x := s.dom d
  let old := (x.kept.head?).map (·.seq.toNat)
  if s.role d ≠ 2 ∨ x.phase ≠ .opened then 2
  else if x.mismatch then 3
  else if (old.map fun o => decide (n.toNat + 1 < o)).getD false then 4
  else if s.reg (Reg.SEQ_LAST_NUMBER d) < n then 5
  else 1

/-- The kept messages from the boundary on, as the domain now delivers them: the first carries TAKEOVER. -/
def takeoverMsgs : List Numbered → List Numbered
  | [] => []
  | n :: ns => { n with flags := n.flags ||| 0x010 } :: ns

/-- A list of numbered messages published in order. -/
def State.publishAll (d : Nat) : List Numbered → State → State
  | [], s => s
  | n :: ns, s => State.publishAll d ns (s.publish d n)

/-- SEQ_TAKEOVER written (R114). -/
def takeoverCommand (v : Word) (s : State) : State :=
  let d := bits v 3 0
  let n := s.reg Reg.SEQ_TAKEOVER_AT
  if !bit v 4 then s
  else
    let r := s.takeoverResult d n
    let s := s.setReg Reg.SEQ_TAKEOVER_RESULT (word r)
    if r ≠ 1 then s
    else
      let ms := takeoverMsgs ((s.dom d).kept.filter fun k => n < k.seq)
      let s := s.setRv (Reg.SEQ_DOMAIN_CFG d) (setBits (s.seqCfg d) 22 21 0)
      let s := s.count Reg.SEQ_CNT_TAKEOVERS
      let s := s.modDom d fun x => { x with kept := [], mirrors := [], takeover := ms.isEmpty }
      (s.domainEvent d 4 s.dial n 0).publishAll d ms

/-! ## The meanings -/

def execHoldStoreArrival (pipe : Nat) (s : State) : Answer :=
  within (Instr.wf (.holdStoreArrival pipe)) (whenClocked (unlessStopped 1 (holdStoreArrival pipe)) s) s

def execMusterRelease (d : Nat) (s : State) : Answer :=
  within (Instr.wf (.musterRelease d)) (whenClocked (unlessStopped 1 (musterRelease d)) s) s

def execBacklogDelivery (d : Nat) (reject : Bool) (s : State) : Answer :=
  within (Instr.wf (.backlogDelivery d reject)) (whenClocked (unlessStopped 1 (backlogDelivery d reject)) s) s

def execSeqFeedWrite (who : Party) (d m : Nat) (v : Word) (s : State) : Answer :=
  within (Instr.wf (.seqFeedWrite who d m v)) 
    (pfWrite who false false (whole who (Reg.SEQ_FEED d m) (unlessStopped 1 (seqFeedWrite d m v))) s) s

def execSeqDomainCfgWrite (who : Party) (d : Nat) (v : Word) (s : State) : Answer :=
  within (Instr.wf (.seqDomainCfgWrite who d v)) 
    (pfWrite who false false (whole who (Reg.SEQ_DOMAIN_CFG d) (unlessStopped 1 (seqDomainCfgWrite d v))) s) s

def execSeqNextWrite (who : Party) (d : Nat) (v : Word) (s : State) : Answer :=
  within (Instr.wf (.seqNextWrite who d v)) 
    (pfWrite who false false (whole who (Reg.SEQ_NEXT d) (unlessStopped 1 (seqNextWrite d v))) s) s

def execSeqCfgSet (ring : Nat) (s : State) : Answer :=
  within (Instr.wf (.seqCfgSet ring)) (whenClocked (unlessStopped 1 (seqCfgSet ring)) s) s

def execOpen (who : Party) (d : Nat) (s : State) : Answer :=
  within (Instr.wf (.open who d)) (pfWrite who false false (whole who (Reg.SEQ_DOMAIN_CTL d) (unlessStopped 1 (openCommand d))) s) s

def execClose (who : Party) (d : Nat) (s : State) : Answer :=
  within (Instr.wf (.close who d)) (pfWrite who false false (whole who (Reg.SEQ_DOMAIN_CTL d) (unlessStopped 1 (closeCommand d))) s) s

def execForceClose (who : Party) (d : Nat) (s : State) : Answer :=
  within (Instr.wf (.forceClose who d)) (pfWrite who false false (whole who (Reg.SEQ_DOMAIN_CTL d) (unlessStopped 1 (forceClose d))) s) s

def execDomainOpens (d : Nat) (s : State) : Answer :=
  within (Instr.wf (.domainOpens d)) (whenClocked (unlessStopped 1 (domainOpens d)) s) s

def execDomainCloses (d : Nat) (s : State) : Answer :=
  within (Instr.wf (.domainCloses d)) (whenClocked (unlessStopped 1 (domainCloses d)) s) s

def execTakeover (who : Party) (v : Word) (s : State) : Answer :=
  within (Instr.wf (.takeover who v)) (pfWrite who false false (whole who Reg.SEQ_TAKEOVER (unlessStopped 1 (takeoverCommand v))) s) s

def execMirrorRecord (d : Nat) (r : MirrorRec) (s : State) : Answer :=
  within (Instr.wf (.mirrorRecord d r)) (whenClocked (unlessStopped 1 (mirrorRecord d r)) s) s

end Sys2Proof.Machine
end

