-- ==== Sys2Proof/Machine/Tick.lean ====
section
/-! DEFINITION. Machine/Tick.lean: what the passing of Dial brings: the TIME cycle, the end of a slew, a pending step
and a whole Dial second (R30, R33 to R37, R44 to R46, R79, R80, R163, R385). -/

namespace Sys2Proof.Machine

/-! ## The TIME cycle (R30, R33, R34, R37) -/

/-- The contribution of the phase slew in progress (R44); in its last cycle what is left of it, where that is less than
PHASE_RATE. A slew in progress goes on to its end when SOURCE becomes 0 or HOLDOVER begins: R39 bars new corrections (DESIGN
CHOICE, log entry 92). -/
def State.slewStep (s : State) : Int := clampInt (-(s.phaseRate : Int)) s.phaseRate s.time.slew

/-- The clamp of R33. -/
def freqClamp (i : Int) : Int := clampInt (-42949) 42949 i

/-- What a cycle absorbs of the slew remainder (R44). -/
def State.slewAbsorbed (s : State) : Int := freqClamp (s.adjFreq + s.slewStep) - freqClamp s.adjFreq

/-- DIAL_FAULT rises (R30, R39, R111, R128). -/
def State.raiseDialFault (s : State) : State :=
  let s := { s with time := { s.time with dialFault := true } }
  let s := (s.logEvent 0x103 1 []).setDisc .fault false
  let s := (List.range 16).foldl (fun s d => s.haltDomain d causeDial) s
  s.dropArmed

/-- The vote of a TIME cycle: the disagreeing copy is reloaded, counted and logged; three that differ raise DIAL_FAULT
(R30). -/
def State.voteDial (s : State) : State :=
  let t := s.time
  let fix := fun (copy : Nat) =>
    let v := t.voted
    ({ s with time := { t with a := v, b := v, c := v } }.count Reg.TIME_CNT_DIAL_CORRECTED).logEvent 0x102 1 [copy]
  if t.a = t.b ∧ t.b = t.c then s
  else if t.a = t.b then fix 2
  else if t.a = t.c then fix 1
  else if t.b = t.c then fix 0
  else s.raiseDialFault

/-- The Dial counter adds its increment (R33). -/
def State.advance (s : State) : State :=
  let sum := s.adjFreq + s.slewStep
  let inc := BitVec.ofInt 96 (2 ^ 32 + freqClamp sum)
  let s' := { s with time := { s.time with a := s.time.a + inc, b := s.time.b + inc, c := s.time.c + inc,
                                           slew := s.time.slew - s.slewAbsorbed } }
  if freqClamp sum = sum then s' else s'.count Reg.TIME_CNT_FREQ_CLAMPED

/-- Every running frontier stands at the Dial of the cycle that ends (R98). -/
def State.keepFrontiers (s : State) : State :=
  (List.range 16).foldl (fun s d =>
    if (s.dom d).phase = .opened ∨ (s.dom d).phase = .closing then s.modDom d fun x => { x with frontier := s.dial }
    else s) s

/-- Dial reaches a SWEEP_MS boundary: with ageing enabled every pipeline's sweeper begins a pass, or has begun one before
that still runs, and the SWEEP_MS in force from here on gives the next boundary (R157). -/
def State.sweepBoundary (s : State) : State :=
  if s.dialNs / 1000000 < s.tbl.boundary then s
  else
    let begun := fun (m : Store Nat) (k : Nat) => Store.put (fun _ => 0) k (Store.get (fun _ => 0) m k + 1) m
    let passes := if bit (s.reg Reg.TBL_CFG) 33 then (List.range 8).foldl begun s.tbl.passes else s.tbl.passes
    { s with tbl := { s.tbl with passes := passes, boundary := s.nextSweep } }

/-- One TIME cycle. While DIAL_FAULT reads 1 the counter is stopped (R32). -/
def dialTick (s : State) : State :=
  let s := if s.time.dialFault then s else s.voteDial
  let s := if s.time.dialFault then s else s.keepFrontiers.advance
  let s := { s with time := { s.time with stepped := none } }
  s.refSettle.ledgerCommit.sweepBoundary

/-- The TIME cycle that absorbs the rest of a slew; where a cycle does not absorb it, nothing happens (log entry 2). -/
def slewComplete (s : State) : State :=
  if s.time.slew ≠ 0 ∧ s.slewAbsorbed = s.time.slew ∧ !s.time.dialFault then dialTick s.passCycle else s

/-! ## A pending step (R45, R46, R116) -/

/-- What waited for the step is decided in its order of arrival: OPENs, and a NEW_CHAIN behind one of them (R45, R182). -/
def decideWaiting (ws : List Nat) (s : State) : State :=
  if ws.contains chainWait then
    decideOpens ((ws.dropWhile (· ≠ chainWait)).filter (· ≠ chainWait))
      (decideChain (decideOpens (ws.takeWhile (· ≠ chainWait)) s))
  else decideOpens ws s

/-- The pending step completes; then comes what waited for it. With no release armed, completed postings are
forgotten. -/
def stepDone (s : State) : State :=
  if s.time.pending.isNone then s
  else
    let s := stepComplete s
    let waiting := s.openWait
    let s := { s with openWait := [], postings := s.postings.filter fun p => !(p.written && (p.audited || p.rel == 0)) }
    decideWaiting waiting s

/-! ## A whole Dial second (R79, R80, R115, R163, R385) -/

/-- The rate and depth that a slot's policer takes from a whole second (R80): a write of PIPE_ADMIT_FLOOR while the floor
is in force acts there too (DESIGN CHOICE, log entry 93). -/
def State.wantedRate (s : State) (n : Nat) : Nat × Nat :=
  let r := s.admitRate n
  let floor := bits (s.reg (Reg.PIPE_ADMIT_FLOOR n)) 31 0
  (if s.floorOn then min r floor else r, s.admitBurst n)

/-- The rate and depth a policer has last been given. -/
def Policer.last (p : Policer) : Nat × Nat :=
  match p.changes.getLast? with
  | some c => c.2
  | none => (p.bucket.rate, p.bucket.burst)

/-- A change scheduled for the second, where the wanted rate or depth differs. -/
def State.scheduleRate (n sec : Nat) (s : State) : State :=
  let w := s.wantedRate n
  if (s.policer n).last = w then s
  else s.modPolicer n fun p => { p with changes := p.changes ++ [(sec, w.1, w.2)] }

/-- The ADMIT_DROPS record of a slot with drops in the second that ends (R79). -/
def State.summariseDrops (n : Nat) (s : State) : State :=
  if (s.policer n).fresh then
    (s.modPolicer n fun p => { p with fresh := false }).logEvent 0x201 3 [n, (s.policer n).drops]
  else s

/-- The OUTSIDE record of a domain (R115). -/
def State.summariseOutside (d : Nat) (s : State) : State :=
  if (s.dom d).outsideNew then
    (s.modDom d fun x => { x with outsideNew := false }).logEvent 0x305 4 [d, (s.dom d).outside]
  else s

/-- One SUPPRESSED record for every number with suppressed occurrences (R385); those of a record that finds the queue full
stay to be stated (log entry 74). -/
def State.summariseSuppressed (s : State) : State :=
  s.log.suppressed.foldl (fun s (n, c, d) =>
    let full := decide (1024 ≤ s.log.queue.length)
    let s := s.logEvent 0x002 17 [n, min c 0xFFFFFFFF, d.toNat / 256 % 2 ^ 32, d.toNat / 2 ^ 40]
    if full then s
    else { s with log := { s.log with suppressed := Store.put (fun _ => (0, 0)) n (0, 0) s.log.suppressed } }) s

/-- Dial passes a whole second. -/
def wholeDialSecond (s : State) : State :=
  let sec := s.dialNs / nsPerSecond
  if sec ≤ s.time.second then s
  else
    let s := { s with time := { s.time with second := sec }, floorOn := s.aud.pressure }
    let s := (List.range 256).foldl (fun s n => s.scheduleRate n sec) s
    let s := (List.range 256).foldl (fun s n => s.summariseDrops n) s
    let s := (List.range 16).foldl (fun s d => s.summariseOutside d) s
    let s := s.summariseSuppressed
    let s :=
      if bit (s.reg Reg.AUD_CFG) 0 then s.audit ⟨.heartbeat, 0, 0, 0, dialOfNs (sec * nsPerSecond), 0, noDigest⟩ else s
    s.condPollAll

/-! ## The meanings -/

def execDialTick (s : State) : Answer := within (Instr.wf .dialTick) (whenClocked (fun s => unlessStopped 0 dialTick s.passCycle) s) s

def execSlewComplete (s : State) : Answer :=
  within (Instr.wf .slewComplete) (whenClocked (unlessStopped 0 slewComplete) s) s

def execStepComplete (s : State) : Answer := within (Instr.wf .stepComplete) (whenClocked (unlessStopped 0 stepDone) s) s

def execWholeDialSecond (s : State) : Answer := within (Instr.wf .wholeDialSecond) (whenClocked wholeDialSecond s) s

end Sys2Proof.Machine
end

