-- ==== Sys2Proof/Machine/Registers.lean ====
section
/-! DEFINITION. Machine/Registers.lean: what a committed write of each register does, and the three forms in which a write
reaches it: whole, as a low half and as a high half (R7, R8, R219, R231, R306, R358 to R366; log entries 75 and 78). -/

namespace Sys2Proof.Machine

/-! ## Registers with rules of their own and no command of their own -/

/-- A calibration or extension of a lane: refused while the slot that uses it feeds an open domain (R52). -/
def laneCalWrite (k n : Nat) (v : Word) (s : State) : State :=
  if s.feedsOpen (s.portOfLane n) then s.count Reg.TIME_CNT_CAL_REFUSED else s.storeMasked k v

/-- A staged word of a template, unless a domain is open; the register keeps the committed one (R76, R88, R89). -/
def templateStage (k : Nat) (v : Word) (s : State) : State :=
  if s.anyOpen then s.count Reg.PIPE_CNT_TMPL_REFUSED
  else { s with staged := Store.put (fun _ => 0) k v s.staged }

/-- The sum of POOL_KIB over a pipeline's slots but one (R290). -/
def State.poolOthers (s : State) (n : Nat) : Nat :=
  (((List.range 32).map (32 * (n / 32) + ·)).filter (· ≠ n)).map (fun i => bits (s.reg (Reg.RDMA_PORT_PFC i)) 19 8) |>.sum

/-- RDMA_PORT_PFC written (R290). -/
def portPfcWrite (n : Nat) (v : Word) (s : State) : State :=
  if !bit (s.voted (Reg.PORT_MODE n)) 9 ∨ 3072 < bits v 19 8 + s.poolOthers n then s.count Reg.RDMA_CNT_CFG_REFUSED
  else s.storeMasked (Reg.RDMA_PORT_PFC n) v

/-- RDMA_SEQ_COPY written (R288). -/
def seqCopyWrite (d : Nat) (v : Word) (s : State) : State :=
  if s.isOpen d then s.count Reg.RDMA_CNT_CFG_REFUSED else s.storeMasked (Reg.RDMA_SEQ_COPY d) v

/-- GAL_DOM written: only while its domain is CLOSED (R316). -/
def galDomWrite (d : Nat) (v : Word) (s : State) : State :=
  if s.isOpen d then s.count Reg.GAL_CNT_CFG_REFUSED else s.storeMasked (Reg.GAL_DOM d) v

/-- GAL_LINK_ASYM written: only while no stacked domain is open (R324). -/
def galAsymWrite (i : Nat) (v : Word) (s : State) : State :=
  if (List.range 16).any (fun d => s.stacked d && s.isOpen d) then s.count Reg.GAL_CNT_CFG_REFUSED
  else s.storeMasked (Reg.GAL_LINK_ASYM i) v

/-- VFM_MBOX_TO_VF[w] written: ignored while the buffer is full, and while the Moafa's SHRINK message is to go first
(R300). -/
def mboxToWrite (p w : Nat) (x : Word) (s : State) : State :=
  let v := s.vfSelected p
  let f := s.vfState p v
  if f.inFull ∨ s.shrinkPending p v then s.mboxIgnored else s.setReg (Reg.VF_MBOX_IN p v w) x

/-- VF_MBOX_OUT[w] written: ignored while the buffer is busy (R300). -/
def mboxOutWrite (p v w : Nat) (x : Word) (s : State) : State :=
  if (s.vfState p v).outBusy then s.mboxIgnored else s.setReg (Reg.VF_MBOX_OUT p v w) x

/-- A PWR register written: only by PF0 of H0 and the Foreman (R356). -/
def pwrWrite (who : Party) (k : Nat) (v : Word) (s : State) : State :=
  if who = .pf 0 ∨ who = .foreman then s.storeMasked k v else s.ignored

/-- An effect of BOOT that PF0 of H0 alone may have; any other write is refused (R338). -/
def bootWrite (who : Party) (f : State → State) (s : State) : State :=
  if who = .pf 0 then f s else s.count Reg.BOOT_CNT_REFUSED

/-- BOOT_REC_OFFSET written: a unit above 99 is ignored and counted (R338). -/
def recOffsetWrite (v : Word) (s : State) : State :=
  if 99 < bits v 24 18 then s.count Reg.BOOT_CNT_REFUSED else s.storeMasked Reg.BOOT_REC_OFFSET v

/-- BOOT_REC_CTL written (R332). -/
def recCtlWrite (v : Word) (s : State) : State := recAction (bits v 2 0) s

/-- BOOT_POLICY written: in the register, and in the ledger's retained configuration with the mark of a valid copy
(R338). -/
def bootPolicyWrite (v : Word) (s : State) : State :=
  (s.setRv Reg.BOOT_POLICY (v &&& 0x33)).ledgerQueue policyAddr [(v &&& 0x33) ||| 0x8000000000000000]

/-- A read-only register written: BOOT counts what comes from another party than PF0 of H0 (R7, R338). -/
def readOnlyWrite (who : Party) (slot : Nat) (s : State) : State :=
  if slot = 16 then bootWrite who State.ignored s else s.ignored

/-- The number of R367 of the block that owns the registers of a slot. -/
def slotBlock (slot : Nat) : Option Nat :=
  match slot with
  | 1 => some 0 | 4 => some 1 | 2 => some 2 | 5 => some 3 | 13 => some 4 | 8 => some 5 | 16 => some 6
  | _ => none

/-- A write that a block takes: not while it is stopped (R368). -/
def whileRuns (slot : Nat) (f : State → State) (s : State) : State :=
  match slotBlock slot with
  | some k => unlessStopped k f s
  | none => f s

/-- LOG_WIN_BASE written (R391). -/
def logWinBaseWrite (v : Word) (s : State) : State :=
  if 67 < bits v 6 0 then s.ignored else s.storeMasked Reg.LOG_WIN_BASE v

/-- TIME_STEP_CTL written (R44, R46, R58). -/
def stepCtlWrite (v : Word) (s : State) : State := if bit v 0 then stepGo (bit v 1) s else s

/-- Every register that a write only stores: the writable bits, in all three copies of an RV one. -/
def State.storeRow (r : RegRow) (k : Nat) (v : Word) (s : State) : State :=
  if r.access = .rv then s.setRv k ((s.voted k &&& ~~~r.mask) ||| (v &&& r.mask)) else s.storeMasked k v

/-- What a stored write to a register of a slot brings at once: HI_SER with DOWN_ON_HISER = 1 takes the port down (R64),
and PREEMPT_EN offers preemption or ends it (R127). -/
def slotSettle (n k : Nat) (s : State) : State :=
  if k = Reg.PORT_LINK_CFG n then s.portSettle n
  else if k = Reg.REL_PORT_SCHED n then s.verifyPreempt n
  else s

/-- TIME_PPS_OUT written: with EN = 0 the pin is held low from there on (R43). -/
def ppsOutWrite (r : RegRow) (v : Word) (s : State) : State :=
  let s := s.storeRow r Reg.TIME_PPS_OUT v
  if bit v 0 then s else ppsOutEdge s

/-- A window register of a context written; a read-only one takes nothing, and counts as refused on a context that the
party may not act on (R258, R259). -/
def ringWindowWrite (who : Party) (c o : Nat) (v : Word) (s : State) : State :=
  if 0x128 ≤ o then onWindow who c (fun _ => State.ignored) s
  else if o = 0x120 then if bit v 0 then ringEnable who c s else ringDisable who c s
  else ringConfigWrite who c o v s

/-! ## What a committed write does -/

/-- A write committed to a register of a block slot, by the rule that governs it. -/
def State.writeRow (who : Party) (r : RegRow) (idx : List Nat) (k : Nat) (v : Word) (s : State) : State :=
  let i := idx.headD 0
  let j := idx.getD 1 0
  let p := who.pfIndex.getD 0
  match r.write with
  | .none =>
    if r.slot = 10 ∧ 0x128 ≤ r.base ∧ r.base ≤ 0x140 then
      ringWindowWrite who (bits (s.reg (Reg.RING_SEL who.copy)) 15 0) r.base v s
    else readOnlyWrite who r.slot s
  | .plain =>
    if k = Reg.TIME_PPS_OUT then ppsOutWrite r v s
    else if k = Reg.PMU_DUMP_CFG then dumpCfgWrite v s
    else s.storeRow r k v
  | .slotPlain => onSlot i (fun s => slotSettle i k (s.storeRow r k v)) s
  | .pipePlain => onSlot (32 * i + j) (State.storeRow r k v) s
  | .perPf => s.setReg (Reg.perPf who.copy k) (v &&& r.mask)
  | .timeCfg => timeCfgWrite v s
  | .adjFreq => timeAdjFreq who v s
  | .adjPhase => timeAdjPhase who v s
  | .stepCtl => stepCtlWrite v s
  | .disc => timeDiscWrite who v s
  | .laneRxCal => laneCalWrite k i v s
  | .laneTxCal => laneCalWrite k i v s
  | .laneExt => onSlot i (laneCalWrite k i v) s
  | .portMode => onSlot i (portModeWrite i v) s
  | .tmplW0 => pipeTmplW0Write i v s
  | .tmplStage => templateStage k v s
  | .domainCfg => seqDomainCfgWrite i v s
  | .domainCtl => seqCtlWrite i v s
  | .seqNext => seqNextWrite i v s
  | .seqFeed => seqFeedWrite i j v s
  | .takeover => takeoverCommand v s
  | .portShaper => onSlot i (relPortShaperWrite i v) s
  | .queueShaper => onSlot i (relQShaperWrite i j v) s
  | .audCtl => audCtlWrite v s
  | .drainTgt => drainTgtWrite i v s
  | .drainAck => drainAckWrite v s
  | .lampTxSc => onSlot i (encodingAnWrite who i v) s
  | .lampSa => onSlot i (lampSaWrite who i (k - (0x880000 + 0x800 * i)) v) s
  | .hostFreeze => if bit v 0 then hostFreezeRelease i s else s
  | .ringWindow => ringWindowWrite who (bits (s.reg (Reg.RING_SEL who.copy)) 15 0) r.base v s
  | .ringDoorbell => ringDoorbell who i s
  | .rdmaDoorbell => rdmaDoorbell who (bits v 23 0) (bit v 24) s
  | .seqCopy => seqCopyWrite i v s
  | .portPfc => onSlot i (portPfcWrite i v) s
  | .vfmRes => vfmResWrite p i v s
  | .vfmMboxCtl =>
    let s := if bit v 0 then vfmMboxDoorbell p s else s
    if bit v 1 then vfmMboxAck p s else s
  | .vfmMboxTo => mboxToWrite p i v s
  | .galSucceed => if bit v 0 then galSucceed s else s
  | .galDom => galDomWrite i v s
  | .galAsym => galAsymWrite i v s
  | .pwrPlain => pwrWrite who k v s
  | .sprintReq => sprintReqWrite who v s
  | .restCtl => if bit v 0 ∨ (who ≠ .pf 0 ∧ who ≠ .foreman) then deepRestEnter who s else s
  | .bootPolicy => bootWrite who (bootPolicyWrite v) s
  | .fuseConfirm => bootFuseConfirm who v s
  | .recOffset => bootWrite who (recOffsetWrite v) s
  | .bootPlain => bootWrite who (State.storeRow r k v) s
  | .recCtl => bootWrite who (recCtlWrite v) s
  | .abiOffer => genAbiOfferWrite who v s
  | .logRate => logRateWrite v s
  | .logWinBase => logWinBaseWrite v s
  | .hcCtl => headcountWrite v s

/-- The 32-bit registers of a virtual controller's window that take writes: doorbells, CC, AQA, ASQ and ACQ (R261). -/
def nvmeTakes (o : Nat) : Bool :=
  decide (0x1000 ≤ o ∨ o = nvmeCc ∨ o = nvmeAqa ∨ o = nvmeAsq ∨ o = nvmeAsq + 4 ∨ o = nvmeAcq ∨ o = nvmeAcq + 4)

/-- The fields of CC that NVMe gives a controller: EN, CSS, MPS, AMS, SHN, IOSQES, IOCQES (R7; log entry 63). -/
def nvmeCcMask : Word := 0xFFFFF1

/-- A 32-bit write in a virtual controller's window (R260, R261). Reserved bits do not hold what is written to them (R7). Registers that NVMe reserves or makes read-only take
none. -/
def nvmeWindowWrite (f : Party) (o : Nat) (v : BitVec 32) (s : State) : State :=
  let c := s.ctrl f
  if !s.hasCtrl f then s.ignored
  else if 0x1000 ≤ o then nvmeDoorbell f ((o - 0x1000) / 8) (decide (o / 4 % 2 = 1)) v s
  else if o = nvmeCc then
    let s := s.modCtrl f (Ctrl.setProp nvmeCc (setBits (word v.toNat &&& nvmeCcMask) 0 0 (b2n c.enabled)))
    if v.getLsbD 0 ∧ !c.enabled then ccEnSet f s else if !v.getLsbD 0 ∧ c.enabled then ccEnClear f s else s
  else if o = nvmeAqa then s.modCtrl f (Ctrl.setProp nvmeAqa (word v.toNat &&& 0x0FFF0FFF))
  else if o = nvmeAsq ∨ o = nvmeAcq then s.modCtrl f (Ctrl.setProp o (setBits (c.prop o) 31 12 (v.toNat / 4096)))
  else if o = nvmeAsq + 4 ∨ o = nvmeAcq + 4 then
    s.modCtrl f (Ctrl.setProp (o - 4) (setBits (c.prop (o - 4)) 63 32 v.toNat))
  else s.ignored

/-- The offsets of VF BAR0 that the map lists as read-only (R306). -/
def vfReadOnly (o : Nat) : Bool :=
  decide (o = 0x0 ∨ o = 0x10 ∨ o = 0x108 ∨ 0x180 ≤ o ∧ o < 0x1C0 ∨ 0x200 ≤ o ∧ o < 0x250 ∨ 0x280 ≤ o ∧ o < 0x2D0
    ∨ 0x8000 ≤ o ∧ o < 0xC000 ∨ 0xF800 ≤ o ∧ o < 0xF808)

/-- The context that VF_RING_SEL names. -/
def State.vfRing (s : State) (p v : Nat) : Nat :=
  bits (s.share (.vf p v) 0) 15 0 + bits (s.reg (Reg.VF_RING_SEL p v)) 8 0

/-- A write committed to a register of VF BAR0 (R306). -/
def State.writeVf (p v o : Nat) (x : Word) (s : State) : State :=
  let who : Party := .vf p v
  if o = 0x8 then genAbiOfferWrite who x s
  else if o = 0x100 then
    unlessStopped 4 (fun s =>
      let s := if bit x 0 then vfMboxDoorbell p v s else s
      if bit x 1 then vfMboxAck p v s else s) s
  else if o = 0x110 then s.setReg (Reg.VF_MBOX_CFG p v) (x &&& 0xBF)
  else if 0x140 ≤ o ∧ o < 0x180 then mboxOutWrite p v ((o - 0x140) / 8) x s
  else if o = 0x400 then s.setReg (Reg.VF_RING_SEL p v) (x &&& 0x1FF)
  else if 0x500 ≤ o ∧ o < 0x548 then ringWindowWrite who (s.vfRing p v) (o - 0x400) x s
  else if 0x1000 ≤ o ∧ o < 0x2000 then ringDoorbell who (bits (s.share who 0) 15 0 + (o - 0x1000) / 8) s
  else if o = 0x4000 then rdmaDoorbell who (bits x 23 0) (bit x 24) s
  else if vfReadOnly o then s.ignored
  else s.count Reg.VFM_CNT_CFG_REFUSED

/-- A 64-bit write in a virtual controller's window: each half that takes one; a write that neither half takes is one
ignored write (R260, R364). -/
def nvmeWrite64 (f : Party) (o : Nat) (v : Word) (s : State) : State :=
  let lo := fun (s : State) => nvmeWindowWrite f o (BitVec.ofNat 32 (bits v 31 0)) s
  let hi := fun (s : State) => nvmeWindowWrite f (o + 4) (BitVec.ofNat 32 (bits v 63 32)) s
  if !s.hasCtrl f ∨ (!nvmeTakes o ∧ !nvmeTakes (o + 4)) then s.ignored
  else if !nvmeTakes o then hi s
  else if !nvmeTakes (o + 4) then lo s
  else hi (lo s)

/-- A whole write committed at what an access reaches. -/
def State.commit (who : Party) (t : Target) (v : Word) (s : State) : State :=
  match t with
  | .reg r idx k =>
    if r.slot = 9 ∧ !s.pfExists (idx.headD 0) then s.ignored else whileRuns r.slot (State.writeRow who r idx k v) s
  | .vfReg o =>
    match who with
    | .vf p n => if s.vfExists p n then s.writeVf p n o v else s
    | _ => s
  | .nvme f o => nvmeWrite64 f o v s
  | .msix f i => s.msixTableWrite f i v
  | .upload o => bootWrite who (unlessStopped 6 (bootRecWinWrite o v)) s
  | .readOnly => s.ignored

/-- The low half last committed at what an access reaches: 0 for a WO register (R365). -/
def State.lowCommitted (s : State) (who : Party) (t : Target) : BitVec 32 :=
  let low := fun (w : Word) => BitVec.ofNat 32 (bits w 31 0)
  match t with
  | .reg r idx k => low (s.readRow who r idx k)
  | .vfReg o =>
    match who with
    | .vf p n =>
      if o = 0x100 ∨ o = 0x4000 then 0
      else if 0x500 ≤ o ∧ o < 0x528 then low (s.ringWord (s.vfRing p n) (o - 0x400))
      else low (s.reg (Reg.vf p n o))
    | _ => 0
  | .nvme _ _ => 0
  | .msix f i => low ((s.fn f).msixWord i)
  | .upload _ => 0
  | .readOnly => 0

/-- A half written where halves act on their own: doorbells, NVMe registers and MSI-X entries (R362, R365; log
entry 75). -/
def State.commitHalf (who : Party) (t : Target) (hi : Bool) (v : BitVec 32) (s : State) : State :=
  match t with
  | .nvme f o => nvmeWindowWrite f (if hi then o + 4 else o) v s
  | .msix f i =>
    let w := (s.fn f).msixWord i
    s.msixTableWrite f i (if hi then setBits w 63 32 v.toNat else setBits w 31 0 v.toNat)
  | t => s.commit who t (word v.toNat)

/-- Halves at a target act on their own. -/
def Target.halves (t : Target) : Bool :=
  match t with
  | .nvme _ _ | .msix _ _ => true
  | _ => false

/-! ## The three forms of a write -/

/-- GEN, HOST and BOOT take writes before the datapath is ready (R231). -/
def earlySlot (who : Party) (a : Nat) : Bool :=
  let k := accessSlot who a
  decide (k = 0 ∨ k = 9 ∨ k = 16)

/-- HOST_FREEZE, the one register that a frozen link's functions may write (R233). -/
def isFreeze (who : Party) (a : Nat) : Bool :=
  match target who a with
  | some (.reg r _ _) => decide (r.write = .hostFreeze)
  | _ => false

/-- A write on its way to what it reaches: counted when it got there by a repeat or an alias, and subject to readiness
and freezes (R231, R233, R361). -/
def onAccess (who : Party) (a : Nat) (f : Target → State → State) (s : State) : State :=
  match target who a with
  | none => s
  | some t =>
    let s := if aliased who a ∧ s.reaches who then s.count Reg.GEN_CNT_ALIAS else s
    busWrite who (earlySlot who a) (isFreeze who a) (f t) s

/-- A 64-bit write: a low half staged for the register is discarded and counted (R365). -/
def write64 (who : Party) (a : Nat) (v : Word) : State → State := onAccess who a fun t s =>
  (s.unstage (latchKey who a) (regName who a)).commit who t v

/-- A low half: it is staged, and takes the place of another register's (R365). -/
def writeLow (who : Party) (a : Nat) (v : BitVec 32) : State → State := onAccess who a fun t s =>
  if t.halves || actsAtOnce who a then s.commitHalf who t false v
  else
    let k := latchKey who a
    let held := (s.latch k).1
    let s := if held ≠ 0 ∧ held ≠ regName who a then s.count Reg.GEN_CNT_SPLIT_DISCARD else s
    s.setLatch k (regName who a, v)

/-- A high half: it commits with the staged low half, or with the one last committed, and the latch is cleared (R365). -/
def writeHighReady (who : Party) (a : Nat) (v : BitVec 32) : State → State := onAccess who a fun t s =>
  if t.halves || actsAtOnce who a then s.commitHalf who t true v
  else
    let l := s.latch (latchKey who a)
    let low := if l.1 = regName who a then l.2 else s.lowCommitted who t
    (s.setLatch (latchKey who a) latchEmpty).commit who t (joinHalves v low)

/-- A high half; one that comes before its block is ready clears the latch (R366). -/
def writeHigh (who : Party) (a : Nat) (v : BitVec 32) (s : State) : State :=
  let t := writeHighReady who a v s
  if who.isHost ∧ s.reaches who ∧ !s.ready ∧ !earlySlot who a then t.setLatch (latchKey who a) latchEmpty else t

/-- A request of a wrong size or alignment: an Unsupported Request (R219). -/
def State.badAccess (who : Party) (s : State) : State :=
  match who.pfIndex with
  | none => s
  | some p =>
    if s.reaches who then (s.count (Reg.HOST_CNT_MMIO_UR p)).report who 9 0xFFFF .unsupported else s.unreached who

/-- A write of any size: other sizes and alignments are discarded, and count as Unsupported Requests (R219); one that
comes poisoned over a host link is discarded (R227, R228). -/
def registerWrite (who : Party) (a size : Nat) (v : BusValue) (s : State) : State :=
  if v.poisoned ∧ who.isHost then if s.reaches who then s.report who 9 0xFFFF .poisoned else s.unreached who
  else if accessAligned a size then
    if size = 8 then write64 who a v.value s
    else if a % 8 = 0 then writeLow who a (BitVec.ofNat 32 (bits v.value 31 0)) s
    else writeHigh who a (BitVec.ofNat 32 (bits v.value 31 0)) s
  else s.badAccess who

/-! ## The meanings -/

def execRegisterWrite (who : Party) (addr size : Nat) (v : BusValue) (s : State) : Answer :=
  within (Instr.wf (.registerWrite who addr size v)) (whenClocked (registerWrite who addr size v) s) s

def execLowHalfWrite (who : Party) (addr : Nat) (v : BitVec 32) (s : State) : Answer :=
  within (Instr.wf (.lowHalfWrite who addr v)) (whenClocked (writeLow who addr v) s) s

def execHighHalfWrite (who : Party) (addr : Nat) (v : BitVec 32) (s : State) : Answer :=
  within (Instr.wf (.highHalfWrite who addr v)) (whenClocked (writeHigh who addr v) s) s

end Sys2Proof.Machine
end

