-- ==== Sys2Proof/Machine/Dispatch.lean ====
section
/-! DEFINITION. Machine/Dispatch.lean: one arm per command, each one call of its meaning. -/

namespace Sys2Proof.Machine

/-- The effect of a command on everything but the queue. -/
def exec (i : Instr) (s : State) : Host.Outcome State Fault Refusal :=
  match i with
  | .dialTick => Sys2Proof.Machine.execDialTick s
  | .slewComplete => Sys2Proof.Machine.execSlewComplete s
  | .timeDialNsRead who => Sys2Proof.Machine.execTimeDialNsRead who s
  | .timeAdjFreqWrite who v => Sys2Proof.Machine.execTimeAdjFreqWrite who v s
  | .timeAdjPhaseWrite who v => Sys2Proof.Machine.execTimeAdjPhaseWrite who v s
  | .timeCfgWrite who v => Sys2Proof.Machine.execTimeCfgWrite who v s
  | .timeDiscWrite who v => Sys2Proof.Machine.execTimeDiscWrite who v s
  | .step who => Sys2Proof.Machine.execStep who s
  | .absoluteLoad who => Sys2Proof.Machine.execAbsoluteLoad who s
  | .stepComplete => Sys2Proof.Machine.execStepComplete s
  | .refLoss => Sys2Proof.Machine.execRefLoss s
  | .refReturn => Sys2Proof.Machine.execRefReturn s
  | .ppsEdge falling strobe code => Sys2Proof.Machine.execPpsEdge falling strobe code s
  | .ppsMissing => Sys2Proof.Machine.execPpsMissing s
  | .ppsOutEdge => Sys2Proof.Machine.execPpsOutEdge s
  | .utcOffsetApply => Sys2Proof.Machine.execUtcOffsetApply s
  | .recalUpdate octet target => Sys2Proof.Machine.execRecalUpdate octet target s
  | .tdcRecal lane table => Sys2Proof.Machine.execTdcRecal lane table s
  | .frameReceived f => Sys2Proof.Machine.execFrameReceived f s
  | .pfcPauseExpiry slot prio => Sys2Proof.Machine.execPfcPauseExpiry slot prio s
  | .pfcRefresh slot => Sys2Proof.Machine.execPfcRefresh slot s
  | .pfcWatchdog slot prio => Sys2Proof.Machine.execPfcWatchdog slot prio s
  | .codewordDecoded lane symbols touched frames stomped => Sys2Proof.Machine.execCodewordDecoded lane symbols touched frames stomped s
  | .portModeWrite who slot v => Sys2Proof.Machine.execPortModeWrite who slot v s
  | .alignmentAchieved slot deskew => Sys2Proof.Machine.execAlignmentAchieved slot deskew s
  | .upHoldExpiry slot => Sys2Proof.Machine.execUpHoldExpiry slot s
  | .alignmentLost slot cut => Sys2Proof.Machine.execAlignmentLost slot cut s
  | .localFault slot cut => Sys2Proof.Machine.execLocalFault slot cut s
  | .remoteFault slot cut => Sys2Proof.Machine.execRemoteFault slot cut s
  | .trainTimeout slot => Sys2Proof.Machine.execTrainTimeout slot s
  | .admitSet ring => Sys2Proof.Machine.execAdmitSet ring s
  | .pipeTmplW0Write who idx v => Sys2Proof.Machine.execPipeTmplW0Write who idx v s
  | .wholeDialSecond => Sys2Proof.Machine.execWholeDialSecond s
  | .holdStoreArrival pipe => Sys2Proof.Machine.execHoldStoreArrival pipe s
  | .musterRelease d => Sys2Proof.Machine.execMusterRelease d s
  | .backlogDelivery d reject => Sys2Proof.Machine.execBacklogDelivery d reject s
  | .seqFeedWrite who d m v => Sys2Proof.Machine.execSeqFeedWrite who d m v s
  | .seqDomainCfgWrite who d v => Sys2Proof.Machine.execSeqDomainCfgWrite who d v s
  | .seqNextWrite who d v => Sys2Proof.Machine.execSeqNextWrite who d v s
  | .seqCfgSet ring => Sys2Proof.Machine.execSeqCfgSet ring s
  | .open who d => Sys2Proof.Machine.execOpen who d s
  | .close who d => Sys2Proof.Machine.execClose who d s
  | .forceClose who d => Sys2Proof.Machine.execForceClose who d s
  | .domainOpens d => Sys2Proof.Machine.execDomainOpens d s
  | .domainCloses d => Sys2Proof.Machine.execDomainCloses d s
  | .takeover who v => Sys2Proof.Machine.execTakeover who v s
  | .mirrorRecord d r => Sys2Proof.Machine.execMirrorRecord d r s
  | .releasePost ring => Sys2Proof.Machine.execReleasePost ring s
  | .releaseAcceptance ring frame => Sys2Proof.Machine.execReleaseAcceptance ring frame s
  | .guardBegin slot rel => Sys2Proof.Machine.execGuardBegin slot rel s
  | .launcherCommit slot rel => Sys2Proof.Machine.execLauncherCommit slot rel s
  | .copyEnd slot rel => Sys2Proof.Machine.execCopyEnd slot rel s
  | .releaseCompletion ring => Sys2Proof.Machine.execReleaseCompletion ring s
  | .txSchedule slot => Sys2Proof.Machine.execTxSchedule slot s
  | .shaperRefill => Sys2Proof.Machine.execShaperRefill s
  | .relPortShaperWrite who slot v => Sys2Proof.Machine.execRelPortShaperWrite who slot v s
  | .relQShaperWrite who slot q v => Sys2Proof.Machine.execRelQShaperWrite who slot q v s
  | .portHoldExpiry slot => Sys2Proof.Machine.execPortHoldExpiry slot s
  | .frameTxPost ring frame => Sys2Proof.Machine.execFrameTxPost ring frame s
  | .tableRead ring buf => Sys2Proof.Machine.execTableRead ring buf s
  | .tableLock ring => Sys2Proof.Machine.execTableLock ring s
  | .tableWrite ring image => Sys2Proof.Machine.execTableWrite ring image s
  | .tableUnlock ring => Sys2Proof.Machine.execTableUnlock ring s
  | .tableInsert ring image => Sys2Proof.Machine.execTableInsert ring image s
  | .tableDelete ring image => Sys2Proof.Machine.execTableDelete ring image s
  | .oldContentsRelease table inst index => Sys2Proof.Machine.execOldContentsRelease table inst index s
  | .sweepPass pipe => Sys2Proof.Machine.execSweepPass pipe s
  | .sweepOverrun pipe => Sys2Proof.Machine.execSweepOverrun pipe s
  | .tableScrub table inst index => Sys2Proof.Machine.execTableScrub table inst index s
  | .epochTimeout => Sys2Proof.Machine.execEpochTimeout s
  | .sealNow who => Sys2Proof.Machine.execSealNow who s
  | .newChain who => Sys2Proof.Machine.execNewChain who s
  | .drainResume who => Sys2Proof.Machine.execDrainResume who s
  | .drainWrite => Sys2Proof.Machine.execDrainWrite s
  | .drainWriteComplete target ok => Sys2Proof.Machine.execDrainWriteComplete target ok s
  | .drainRetry target => Sys2Proof.Machine.execDrainRetry target s
  | .audDrainAckWrite who v => Sys2Proof.Machine.execAudDrainAckWrite who v s
  | .audDrainTgtWrite who m v => Sys2Proof.Machine.execAudDrainTgtWrite who m v s
  | .powerFail => Sys2Proof.Machine.execPowerFail s
  | .droopTrip => Sys2Proof.Machine.execDroopTrip s
  | .keyLoad ring blob => Sys2Proof.Machine.execKeyLoad ring blob s
  | .keyGenerate ring => Sys2Proof.Machine.execKeyGenerate ring s
  | .keyEcdhGen ring => Sys2Proof.Machine.execKeyEcdhGen ring s
  | .keyAgree ring point info => Sys2Proof.Machine.execKeyAgree ring point info s
  | .keyDeriveMka ring ckn => Sys2Proof.Machine.execKeyDeriveMka ring ckn s
  | .keyExport ring => Sys2Proof.Machine.execKeyExport ring s
  | .keySeal ring m1 m2 => Sys2Proof.Machine.execKeySeal ring m1 m2 s
  | .keyDestroy ring => Sys2Proof.Machine.execKeyDestroy ring s
  | .keyQuery ring => Sys2Proof.Machine.execKeyQuery ring s
  | .lampSaWrite who slot off v => Sys2Proof.Machine.execLampSaWrite who slot off v s
  | .encodingAnWrite who slot v => Sys2Proof.Machine.execEncodingAnWrite who slot v s
  | .cbc ring src aux => Sys2Proof.Machine.execCbc ring src aux s
  | .ctr ring src aux => Sys2Proof.Machine.execCtr ring src aux s
  | .cfb8 ring src aux => Sys2Proof.Machine.execCfb8 ring src aux s
  | .cfb128 ring src aux => Sys2Proof.Machine.execCfb128 ring src aux s
  | .ofb ring src aux => Sys2Proof.Machine.execOfb ring src aux s
  | .gcm ring src aux => Sys2Proof.Machine.execGcm ring src aux s
  | .ccm ring src aux => Sys2Proof.Machine.execCcm ring src aux s
  | .xts ring src aux => Sys2Proof.Machine.execXts ring src aux s
  | .cmac ring src aux => Sys2Proof.Machine.execCmac ring src aux s
  | .sha384 ring src => Sys2Proof.Machine.execSha384 ring src s
  | .sha512 ring src => Sys2Proof.Machine.execSha512 ring src s
  | .sealVerify ring src aux => Sys2Proof.Machine.execSealVerify ring src aux s
  | .digestVerify ring src aux => Sys2Proof.Machine.execDigestVerify ring src aux s
  | .random ring => Sys2Proof.Machine.execRandom ring s
  | .jobPreempt engine => Sys2Proof.Machine.execJobPreempt engine s
  | .noiseSample source v => Sys2Proof.Machine.execNoiseSample source v s
  | .sourceRetest source samples => Sys2Proof.Machine.execSourceRetest source samples s
  | .graceSpent => Sys2Proof.Machine.execGraceSpent s
  | .drbgReseed => Sys2Proof.Machine.execDrbgReseed s
  | .maskReseed datapath => Sys2Proof.Machine.execMaskReseed datapath s
  | .perstAssert n => Sys2Proof.Machine.execPerstAssert n s
  | .perstDeassert n => Sys2Proof.Machine.execPerstDeassert n s
  | .hostLinkUp p rate width flit => Sys2Proof.Machine.execHostLinkUp p rate width flit s
  | .hostLinkDown p => Sys2Proof.Machine.execHostLinkDown p s
  | .vfEnable p numVfs => Sys2Proof.Machine.execVfEnable p numVfs s
  | .vfDisable p => Sys2Proof.Machine.execVfDisable p s
  | .flr fn => Sys2Proof.Machine.execFlr fn s
  | .flrComplete fn => Sys2Proof.Machine.execFlrComplete fn s
  | .busMasterDisable fn d3 => Sys2Proof.Machine.execBusMasterDisable fn d3 s
  | .busMasterEnable fn => Sys2Proof.Machine.execBusMasterEnable fn s
  | .aerStatusWrite fn reg v => Sys2Proof.Machine.execAerStatusWrite fn reg v s
  | .dmaCompletion read err => Sys2Proof.Machine.execDmaCompletion read err s
  | .completionTimeout read => Sys2Proof.Machine.execCompletionTimeout read s
  | .hostFreezeRelease who link => Sys2Proof.Machine.execHostFreezeRelease who link s
  | .ringDoorbell who c => Sys2Proof.Machine.execRingDoorbell who c s
  | .periodicScan c => Sys2Proof.Machine.execPeriodicScan c s
  | .descriptorFetch c entries => Sys2Proof.Machine.execDescriptorFetch c entries s
  | .piRead c pi entries => Sys2Proof.Machine.execPiRead c pi entries s
  | .ringEnable who c => Sys2Proof.Machine.execRingEnable who c s
  | .ringDisable who c => Sys2Proof.Machine.execRingDisable who c s
  | .ringConfigWrite who c reg v => Sys2Proof.Machine.execRingConfigWrite who c reg v s
  | .irqHoldoff c => Sys2Proof.Machine.execIrqHoldoff c s
  | .ringSnapshot ring => Sys2Proof.Machine.execRingSnapshot ring s
  | .identify cmd => Sys2Proof.Machine.execIdentify cmd s
  | .getFeatures cmd => Sys2Proof.Machine.execGetFeatures cmd s
  | .setFeatures cmd => Sys2Proof.Machine.execSetFeatures cmd s
  | .createIoSq cmd => Sys2Proof.Machine.execCreateIoSq cmd s
  | .createIoCq cmd => Sys2Proof.Machine.execCreateIoCq cmd s
  | .deleteIoSq cmd => Sys2Proof.Machine.execDeleteIoSq cmd s
  | .deleteIoCq cmd => Sys2Proof.Machine.execDeleteIoCq cmd s
  | .getLogPage cmd => Sys2Proof.Machine.execGetLogPage cmd s
  | .abort cmd => Sys2Proof.Machine.execAbort cmd s
  | .asynchronousEventRequest cmd => Sys2Proof.Machine.execAsynchronousEventRequest cmd s
  | .nvmeRead cmd => Sys2Proof.Machine.execNvmeRead cmd s
  | .nvmeWrite cmd data => Sys2Proof.Machine.execNvmeWrite cmd data s
  | .flush cmd => Sys2Proof.Machine.execFlush cmd s
  | .writeZeroes cmd => Sys2Proof.Machine.execWriteZeroes cmd s
  | .datasetManagement cmd ranges => Sys2Proof.Machine.execDatasetManagement cmd ranges s
  | .ccEnClear fn => Sys2Proof.Machine.execCcEnClear fn s
  | .nsCreate ring extents => Sys2Proof.Machine.execNsCreate ring extents s
  | .nsDelete ring => Sys2Proof.Machine.execNsDelete ring s
  | .nsAttach ring => Sys2Proof.Machine.execNsAttach ring s
  | .nsDetach ring => Sys2Proof.Machine.execNsDetach ring s
  | .journalSlotTaken => Sys2Proof.Machine.execJournalSlotTaken s
  | .partComplete piece part r => Sys2Proof.Machine.execPartComplete piece part r s
  | .partTimeout piece part => Sys2Proof.Machine.execPartTimeout piece part s
  | .partRetry piece part => Sys2Proof.Machine.execPartRetry piece part s
  | .nsReadyRetry piece ok => Sys2Proof.Machine.execNsReadyRetry piece ok s
  | .psEntryDone fn => Sys2Proof.Machine.execPsEntryDone fn s
  | .driveRemoved drv => Sys2Proof.Machine.execDriveRemoved drv s
  | .driveReturned drv nsid lbas fmt4k => Sys2Proof.Machine.execDriveReturned drv nsid lbas fmt4k s
  | .qpCreate ring => Sys2Proof.Machine.execQpCreate ring s
  | .qpModify ring attr => Sys2Proof.Machine.execQpModify ring attr s
  | .qpQuery ring => Sys2Proof.Machine.execQpQuery ring s
  | .qpDestroy ring => Sys2Proof.Machine.execQpDestroy ring s
  | .mrReg ring => Sys2Proof.Machine.execMrReg ring s
  | .mrDereg ring => Sys2Proof.Machine.execMrDereg ring s
  | .rdmaDoorbell who qpn rq => Sys2Proof.Machine.execRdmaDoorbell who qpn rq s
  | .send qpn entry data => Sys2Proof.Machine.execSend qpn entry data s
  | .sendImm qpn entry data => Sys2Proof.Machine.execSendImm qpn entry data s
  | .rdmaWrite qpn entry data => Sys2Proof.Machine.execRdmaWrite qpn entry data s
  | .writeImm qpn entry data => Sys2Proof.Machine.execWriteImm qpn entry data s
  | .rdmaRead qpn entry => Sys2Proof.Machine.execRdmaRead qpn entry s
  | .ackTimeout qpn => Sys2Proof.Machine.execAckTimeout qpn s
  | .rnrDelayExpiry qpn => Sys2Proof.Machine.execRnrDelayExpiry qpn s
  | .triggeredStart qpn => Sys2Proof.Machine.execTriggeredStart qpn s
  | .vfShareSet ring block => Sys2Proof.Machine.execVfShareSet ring block s
  | .shrink p v => Sys2Proof.Machine.execShrink p v s
  | .graceExpired p v => Sys2Proof.Machine.execGraceExpired p v s
  | .shrinkComplete p v => Sys2Proof.Machine.execShrinkComplete p v s
  | .vfMboxDoorbell p v => Sys2Proof.Machine.execVfMboxDoorbell p v s
  | .vfMboxAck p v => Sys2Proof.Machine.execVfMboxAck p v s
  | .vfmMboxDoorbell p => Sys2Proof.Machine.execVfmMboxDoorbell p s
  | .vfmMboxAck p => Sys2Proof.Machine.execVfmMboxAck p s
  | .vfmResWrite p w x => Sys2Proof.Machine.execVfmResWrite p w x s
  | .genAbiOfferWrite who v => Sys2Proof.Machine.execGenAbiOfferWrite who v s
  | .hello link h => Sys2Proof.Machine.execHello link h s
  | .galTrainRetry link => Sys2Proof.Machine.execGalTrainRetry link s
  | .galLinkLoss link => Sys2Proof.Machine.execGalLinkLoss link s
  | .dialSampleSend link => Sys2Proof.Machine.execDialSampleSend link s
  | .dialSample link x => Sys2Proof.Machine.execDialSample link x s
  | .sampleTimeout => Sys2Proof.Machine.execSampleTimeout s
  | .peerLost dev => Sys2Proof.Machine.execPeerLost dev s
  | .streamSend d => Sys2Proof.Machine.execStreamSend d s
  | .streamMessage m => Sys2Proof.Machine.execStreamMessage m s
  | .galSucceed who => Sys2Proof.Machine.execGalSucceed who s
  | .powerOn inp => Sys2Proof.Machine.execPowerOn inp s
  | .resetNAssert inp => Sys2Proof.Machine.execResetNAssert inp s
  | .watchdog inp => Sys2Proof.Machine.execWatchdog inp s
  | .wake inp => Sys2Proof.Machine.execWake inp s
  | .check => Sys2Proof.Machine.execCheck s
  | .boot => Sys2Proof.Machine.execBoot s
  | .programA => Sys2Proof.Machine.execProgramA s
  | .programB => Sys2Proof.Machine.execProgramB s
  | .recActionComplete readBackOk => Sys2Proof.Machine.execRecActionComplete readBackOk s
  | .bootRecWinWrite who off v => Sys2Proof.Machine.execBootRecWinWrite who off v s
  | .fuseRaise ring => Sys2Proof.Machine.execFuseRaise ring s
  | .bootFuseConfirmWrite who v => Sys2Proof.Machine.execBootFuseConfirmWrite who v s
  | .noConfirm => Sys2Proof.Machine.execNoConfirm s
  | .fuseProgramDone blown => Sys2Proof.Machine.execFuseProgramDone blown s
  | .lifeQuery ring => Sys2Proof.Machine.execLifeQuery ring s
  | .sensorSample readings => Sys2Proof.Machine.execSensorSample readings s
  | .thermtripRecheck readings inp => Sys2Proof.Machine.execThermtripRecheck readings inp s
  | .ladderStep => Sys2Proof.Machine.execLadderStep s
  | .powerAverage deciwatts => Sys2Proof.Machine.execPowerAverage deciwatts s
  | .pwrSprintReqWrite who v => Sys2Proof.Machine.execPwrSprintReqWrite who v s
  | .deepRestEnter who => Sys2Proof.Machine.execDeepRestEnter who s
  | .seqErr => Sys2Proof.Machine.execSeqErr s
  | .registerWrite who addr size v => Sys2Proof.Machine.execRegisterWrite who addr size v s
  | .lowHalfWrite who addr v => Sys2Proof.Machine.execLowHalfWrite who addr v s
  | .highHalfWrite who addr v => Sys2Proof.Machine.execHighHalfWrite who addr v s
  | .voteScrub key => Sys2Proof.Machine.execVoteScrub key s
  | .headcount who v => Sys2Proof.Machine.execHeadcount who v s
  | .capture bank => Sys2Proof.Machine.execCapture bank s
  | .bankFilled bank => Sys2Proof.Machine.execBankFilled bank s
  | .periodicDump => Sys2Proof.Machine.execPeriodicDump s
  | .logRecordWrite => Sys2Proof.Machine.execLogRecordWrite s
  | .hoursTick => Sys2Proof.Machine.execHoursTick s
  | .lifeAverageUpdate tj util => Sys2Proof.Machine.execLifeAverageUpdate tj util s
  | .dialSync core => Sys2Proof.Machine.execDialSync core s
  | .powerGap core powerGated unsent => Sys2Proof.Machine.execPowerGap core powerGated unsent s
  | .idleExit core => Sys2Proof.Machine.execIdleExit core s
  | .laneMarginCheck lane low => Sys2Proof.Machine.execLaneMarginCheck lane low s
  | .ageingCheck margins => Sys2Proof.Machine.execAgeingCheck margins s
  | .releaseInstant rel => Sys2Proof.Machine.execReleaseInstant rel s
  | .supplyCollapse written => Sys2Proof.Machine.execSupplyCollapse written s
  | .pllLockLoss pll => Sys2Proof.Machine.execPllLockLoss pll s
  | .jobCompletion engine written => Sys2Proof.Machine.execJobCompletion engine written s
  | .exceptionFrameConsumed pipe => Sys2Proof.Machine.execExceptionFrameConsumed pipe s
  | .nvmeDoorbell who q cq v => Sys2Proof.Machine.execNvmeDoorbell who q cq v s
  | .ccEnSet fn => Sys2Proof.Machine.execCcEnSet fn s
  | .memoryScrub t place r => Sys2Proof.Machine.execMemoryScrub t place r s

end Sys2Proof.Machine
end

