-- ==== Sys2Proof/Machine/Reads.lean ====
section
/-! DEFINITION. Machine/Reads.lean: what a 64-bit read finds: a register, a controller's properties, an MSI-X table, or a
window onto the ledger (R181, R219, R222, R231, R256, R260, R306, R358 to R364, R391). No command of the table but
TIME_DIAL_NS_READ is a read; State.readRequest says of every read what it answers and what it changes. -/

namespace Sys2Proof.Machine

/-- A word of a virtual controller's properties (R261); a function without a controller reads 0 (R260). -/
def State.nvmeRead (s : State) (f : Party) (o : Nat) : Word :=
  let c := s.ctrl f
  if !s.hasCtrl f then 0
  else
    match o with
    | 0x0 => word (0xFFFE + 2 ^ 16 + 2 * 2 ^ 24 + 2 ^ 37 + 4 * 2 ^ 52)
    | 0x8 => 0x20000
    | 0x10 => word (bits (c.prop nvmeCc) 31 0 * 2 ^ 32)
    | 0x18 => word ((b2n c.ready + (if bits (c.prop nvmeCc) 15 14 = 0 then 0 else 8)) * 2 ^ 32)
    | 0x20 => word (bits (c.prop nvmeAqa) 31 0 * 2 ^ 32)
    | 0x28 => c.prop nvmeAsq
    | 0x30 => c.prop nvmeAcq
    | _ => 0

/-- A word of a function's pending bit array (R222). -/
def Function.pbaWord (f : Function) (m : Nat) : Word :=
  flagWord ((List.range 64).map fun i => (i, f.pba.contains (64 * m + i)))

/-- A word of the journal as a party sees it: a PF sees the records of that PF and its VFs, and of others only word 0
(R256). -/
def State.tallyRead (s : State) (who : Party) (a : Nat) : Word :=
  let source := bits (s.ledgerRead (a / 32 * 32 + 24)) 47 32
  let own : Bool := match who.pfIndex with
    | some p => decide (source / 4096 = p)
    | none => true
  if a % 32 = 0 ∨ own then s.ledgerRead a else 0

/-- A word of a read-only window, by its slot and offset: the ledger with the words on their way to it, so that a record
below AUD_NEXT_INDEX reads complete (R181, R182). -/
def State.windowRead (s : State) (who : Party) (slot o : Nat) : Word :=
  let s := s.ledgerCommit
  match slot with
  | 7 => s.ledgerRead (bits (s.reg Reg.AUD_WIN_BASE) 29 16 % 0x3000 * 0x10000 + (o - 0x80000))
  | 9 =>
    match who with
    | .pf p => if 0x88000 ≤ o ∧ o < 0x88100 then (s.fn (.pf p)).pbaWord ((o - 0x88000) / 8) else 0
    | _ => 0
  | 10 => s.tallyRead who (0x38000000 + bits (s.reg Reg.RING_TALLY_WIN_BASE) 24 16 * 0x10000 + (o - 0x40000))
  | 17 => s.ledgerRead (0x3A000000 + bits (s.reg Reg.LOG_WIN_BASE) 6 0 * 0x8000 + (o - 0x8000))
  | _ => 0

/-- A register of VF BAR0 (R306); an offset that the map does not list reads 0. -/
def State.readVf (s : State) (p v o : Nat) : Word :=
  if o = 0x10 then s.reg (Reg.VF_GEN_ABI p v) ||| (if s.ready || s.boot.recovery then 0x100000000 else 0)
  else if o = 0x108 then s.vfMboxStatus p v
  else if 0x200 ≤ o ∧ o < 0x250 then s.voted (shareKey p v ((o - 0x200) / 8))
  else if 0x280 ≤ o ∧ o < 0x2D0 then s.shareNext p v ((o - 0x280) / 8)
  else if 0x500 ≤ o ∧ o < 0x548 then
    if bits (s.reg (Reg.VF_RING_SEL p v)) 8 0 < bits (s.share (.vf p v) 0) 25 16 then s.ringWord (s.vfRing p v) (o - 0x400)
    else 0
  else if 0xF800 ≤ o ∧ o < 0xF808 then (s.fn (.vf p v)).pbaWord 0
  else if o = 0x100 ∨ o = 0x4000 ∨ 0x1000 ≤ o ∧ o < 0x2000 then 0
  else s.reg (Reg.vf p v o)

/-- What is at a target. -/
def State.readTarget (s : State) (who : Party) (slot o : Nat) (t : Target) : Word :=
  match t with
  | .reg r idx k => if r.slot = 9 ∧ !s.pfExists (idx.headD 0) then 0 else s.readRow who r idx k
  | .vfReg o =>
    match who with
    | .vf p v => s.readVf p v o
    | _ => 0
  | .nvme f o => s.nvmeRead f o
  | .msix f i => (s.fn f).msixWord i
  | .upload _ => 0
  | .readOnly => s.windowRead who slot o

/-- An aligned 64-bit read by a party whose request reaches the registers; a host's read outside GEN, HOST and BOOT
returns 0 before the datapath is ready (R231). -/
def State.read (s : State) (who : Party) (a : Nat) : Word :=
  if who.isHost ∧ !s.ready ∧ !earlySlot who a then 0
  else
    match target who a with
    | some t => s.readTarget who (slotOf a) (a % 0x100000 % 2 ^ decodeWidth (slotOf a)) t
    | none => 0

/-- A half of a register, as it stands at the read (R364). -/
def State.readHalf (s : State) (who : Party) (a : Nat) : BitVec 32 :=
  let w := s.read who (a / 8 * 8)
  BitVec.ofNat 32 (if a / 4 % 2 = 0 then bits w 31 0 else bits w 63 32)

/-! ## A read request (R217, R219) -/

/-- The RV register that a read shows: the one it names, or the word of a share behind VFM_RES or VF_SHARE (R306, R307,
R367). -/
def State.rvShown (s : State) (who : Party) (t : Target) : Option Nat :=
  match t, who with
  | .reg r idx k, _ =>
    let p := who.pfIndex.getD 0
    if r.write = .vfmRes then some (shareKey p (s.vfSelected p) (idx.headD 0)) else if r.access = .rv then some k else none
  | .vfReg o, .vf p v => if 0x200 ≤ o ∧ o < 0x250 then some (shareKey p v ((o - 0x200) / 8)) else none
  | _, _ => none

/-- What a read that gets data does: it counts where it came by a repeat or an alias, the voter compares the copies of an
RV register, and the fraction is latched by a read of all of TIME_DIAL_NS (R35, R361, R364, R367). -/
def State.readEffect (who : Party) (a size : Nat) (s : State) : State :=
  let s := if aliased who (a / 8 * 8) then s.count Reg.GEN_CNT_ALIAS else s
  match target who (a / 8 * 8) with
  | some t =>
    match s.rvShown who t, t with
    | some k, _ => voteScrub k s
    | none, .reg _ _ k => if k = Reg.TIME_DIAL_NS ∧ size = 8 ∧ (s.ready ∨ !who.isHost) then s.latchFrac who else s
    | none, _ => s
  | none => s

/-- What answers a party's read request of a size at an address: its data, or none, an Unsupported Request, where the
size or alignment is no form of BAR0's or the link stands at 2.5 or 5 GT/s, with what that counts and reports. -/
def State.readRequest (who : Party) (a size : Nat) (s : State) : Option Word × State :=
  if !s.reaches who then (none, s.unreached who)
  else if !accessAligned a size then (none, s.badAccess who)
  else if size = 8 then (some (s.read who a), s.readEffect who a size)
  else (some (word (s.readHalf who a).toNat), s.readEffect who a size)

end Sys2Proof.Machine
end

