-- ==== Sys2Proof/Certificates/Slice0/Obligations.lean ====
section
/-! DEFINITION. Certificates/Slice0/Obligations.lean: the statements for the provers. Each names the rules of spec/ that
it formalises; a premise speaks of the state before the command and its operands alone. -/

namespace Sys2Proof.Claims

open Sys2Proof.Machine

/-- A write of a party to PF BAR0 is taken: it reaches the registers (R217, R230), the datapath is ready (R231), its link
is not frozen (R233), and no VF sends it (R306). -/
def accepted (who : Party) (s : State) : Bool :=
  who.wf && s.reaches who &&
    match who with
    | .vf _ _ => false
    | .pf p => s.ready && !(s.link p).frozen
    | _ => true

/-- The clocks run, and block k of R367 is not stopped and its voters find no copy that differs (R367, R368). -/
def running (k : Nat) (s : State) : Bool := s.clocked && !s.stopped k && (s.disputed k).isEmpty

/-- A staged half of a register of PF BAR0 that its writer's latch holds: the register's 64-bit write discards and counts
it (R365). -/
def discarded (who : Party) (k : Nat) (s : State) : State := s.unstage (slotLatch who (k / 0x100000)) (barName k)

/-- The same of a register that PFs reach by its key k and VFs at their offset o (R306). -/
def discardedAt (who : Party) (k o : Nat) (s : State) : State :=
  match who with
  | .vf _ _ => s.unstage (slotLatch who (if o < 0x20 then 0 else 13)) (offsetName o)
  | _ => discarded who k s

/-- Register k has counted n events (R372). -/
def counts (k n : Nat) (s t : State) : Prop := t.reg k = if n = 0 then s.reg k else counterPlus n (s.reg k)

/-- Only the registers of a list may differ. -/
def onlyRegs (ks : List Nat) (s t : State) : Prop := t = { s with regs := t.regs } ∧ ∀ k, k ∉ ks → t.reg k = s.reg k

/-- The registers that an audit record may change: AUD's, and the count of dropped logbook events. -/
def auditReg (k : Nat) : Bool := decide (k / 0x100000 = 7) || decide (k = Reg.LOG_CNT_QUEUE_DROP)

/-- Of the registers outside the audit's only those of a list may differ. -/
def regsBut (ks : List Nat) (s t : State) : Prop := ∀ k, auditReg k = false → k ∉ ks → t.reg k = s.reg k

/-- Entry x is the one a ring acts on next: its oldest not begun, which HOST_LOST has not abandoned (R244, R245). -/
def atHead (c : Nat) (x : Taken) (s : State) : Bool :=
  decide ((s.ring c).head = some x) && decide ((s.ring c).taken.find? (fun t => t.cursor == x.cursor) = some x) &&
    !x.abandoned && !x.held

/-- An ADMIN ring acts next on entry x, which asks an opcode that its owner may give (R248, R291). -/
def adminAt (c op : Nat) (x : Taken) (s : State) : Bool :=
  decide (c < 65536) && s.clocked && atHead c x s && decide ((s.ring c).type = 5) && decide (adminOpcode x.desc = op) &&
    adminPermitted (s.ring c).owner op

/-- What a function sends leaves the device at once: its link carries DMA and is not frozen, and its Bus Master Enable is
1 outside D3hot and FLR (R217, R230 to R233). -/
def issues (fn : Party) (s : State) : Bool :=
  match fn.pfIndex with
  | none => true
  | some p => (s.link p).carries && !(s.link p).frozen && !(s.fn fn).flr && (s.fn fn).busMaster && !(s.fn fn).d3

/-- A completion for a DMA read of a function is acted on at once: its link is not frozen (R233). -/
def arrives (fn : Party) (s : State) : Bool :=
  match fn.pfIndex with
  | none => true
  | some p => !(s.link p).frozen

/-- DONE_CUR of a ring after an entry's completion: one more, or the same while the ring's function may not write it out,
the write-back being held (R232, R233, R237). -/
def oneDone (c : Nat) (s t : State) : Prop :=
  (t.ring c).doneCur = (s.ring c).doneCur + BitVec.ofNat 32 (b2n (issues (s.ring c).owner s))

/-- Entry x of an ADMIN ring completes with a status: DONE_CUR follows, and the ledger changes in word 1 of the entry's
tally record alone (R248, R255). -/
def adminEnds (c status : Nat) (x : Taken) (s t : State) : Prop :=
  oneDone c s t ∧
    t.ledger = (s.ledgerWord (tallyAddr x.tally.toNat + 8) (tallyWord1 status 0 c)).ledger

/-- A table-update ring acts next on entry x, an operation that R150 allows within the table's range and
its owner's share (R154, R247, R293). -/
def tableAt (c op : Nat) (x : Taken) (s : State) : Bool :=
  decide (c < 65536) && s.clocked && atHead c x s && decide ((s.ring c).type = 4) && !s.updHeld c &&
    opAllowed (updTable x.desc) op && decide (updOp x.desc = op) &&
    indexOk (updTable x.desc) (updTarget x.desc) (updIndex x.desc) &&
    s.updShared (s.ring c).owner (updTable x.desc) (updTarget x.desc) (updIndex x.desc)

/-- Entry x of a table-update ring completes with a status (R154, R255). -/
def tableEnds (c status : Nat) (x : Taken) (s t : State) : Prop :=
  oneDone c s t ∧
    t.ledger = (s.ledgerWord (tallyAddr x.tally.toNat + 8) (tallyWord1 status (s.dialNs - x.acceptNs) c)).ledger

/-- An unprotected frame with a good FCS that a slot which is UP receives and that neither a filter drops nor MAC control
takes (R63, R69). -/
def receivable (r : RxFrame) (s : State) : Bool :=
  let n := s.portOfLane r.lane
  let f := r.bytes.take (r.bytes.length - 4)
  r.wf && running 2 s && s.isUp n && !s.macsecOn n && !s.isInfra n && decide (r.bytes.drop f.length = fcsBytes f) &&
    decide (64 ≤ r.bytes.length ∧ r.bytes.length ≤ s.maxFrame n) &&
    !(decide (etherType f = 0x8808) && decide (beField f 14 2 = 1 ∨ beField f 14 2 = 0x0101))

/-- A party's write to a register of its own BAR0, a VF's included, is taken (R217, R230, R231, R233). -/
def granted (who : Party) (s : State) : Bool :=
  who.wf && s.reaches who &&
    match who.pfIndex with
    | none => true
    | some p => s.ready && !(s.link p).frozen

/-- The next command of a submission queue can be fetched and carried out: its controller is ready in PS0 and its function
served, its entry's read is not held, its completion queue has room, and it asks for no fused operation and no SGL (R232, R261,
R269). -/
def fetchable (cmd : NvmeCmd) (io : Bool) (s : State) : Bool :=
  let c := s.ctrl cmd.fn
  cmd.wf && decide (cmd.fuse = 0) && decide (cmd.psdt = 0) && s.clocked && c.ready && s.fnServed cmd.fn && c.psTarget.isNone && decide (c.ps = 0) &&
    (decide (cmd.sq ≠ 0) == io) &&
    (c.sq cmd.sq).any fun q => decide (q.head ≠ q.tail) && !s.headHeld cmd.fn q && (c.cq q.link).any fun x => !x.full

/-- A completion of a command with a result and a status has been written to its completion queue (R261). -/
def answers (cmd : NvmeCmd) (result status : Nat) (t : State) : Prop :=
  ∃ cq a head ph, Out.dmaWrite cmd.fn a (cqe ⟨cq, cmd, result, status⟩ head ph) false ∈ t.out

/-- The image that a start finds in a bank of the flash: the one put there since, or the one it held (R332). -/
def bankOf (inp : StartInputs) (b : Nat) (s : State) : Image :=
  if b = 0 then inp.bankA.getD s.boot.bankA else inp.bankB.getD s.boot.bankB

/-- A start that reads flash, for a cause: the device runs the image of the bank that BOOTED_FROM names, which passes the
checks of R327, or is in recovery mode, as it is when neither image passes them (R327, R332, R342). -/
def started (cause : Nat) (inp : StartInputs) (s t : State) : Prop :=
  bits (t.reg Reg.PWR_RESET_CAUSE) 3 0 = cause ∧ (t.phase = .running ∨ t.phase = .recovery) ∧
    (t.phase = .running → ∃ b, b < 2 ∧ t.boot.bootedFrom = b ∧ t.boot.running = some (bankOf inp b s) ∧
      ((bankOf inp b s).check s.fuseCount).1 = 0) ∧
    (t.phase = .recovery → t.boot.bootedFrom = 3) ∧
    ((∀ b, b < 2 → ((bankOf inp b s).check s.fuseCount).1 ≠ 0) → t.phase = .recovery)

/-- The ledger, retention SRAM and the register file are in canonical form: keys strictly rising, and nothing listed that
an unlisted key would read as. -/
def sound (s : State) : Bool := memWf s.ledger && memWf s.retention && Store.wf resetOf s.regs

end Sys2Proof.Claims

section

open Sys2Proof Sys2Proof.Machine Sys2Proof.Claims

/-! ## Dial time (R30 to R60, R404) -/

/-- R38, R39, R44, R47: outside HOLDOVER the writer that the mode names, on no stack member, stores TIME_ADJ_FREQ with a
frequency write and adds a phase write to the slew remainder, both counted, with nothing changed beyond these, the audit
and the logbook; any other party's write is ignored and counted. A half staged for the register is discarded (R365). -/
def Obligations.OnlyTimeWriterAdjustsDial : Prop :=
  ∀ (who : Party) (v : Word) (s : State), accepted who s = true → running 0 s = true →
    let writer := decide (s.stackMember = false ∧
      (s.timeSource = 2 ∧ who = .cores ∨ s.timeSource = 3 ∧ who = .pf 0))
    (writer = true → s.time.disc ≠ .holdover →
      (∃ t, exec (.timeAdjFreqWrite who v) s = .next t ∧ t.reg Reg.TIME_ADJ_FREQ = word (bits v 31 0) ∧
        counts Reg.TIME_CNT_ADJ_WRITES 1 s t ∧
        t = { discarded who Reg.TIME_ADJ_FREQ s with regs := t.regs, aud := t.aud, log := t.log } ∧
        regsBut [Reg.TIME_ADJ_FREQ, Reg.TIME_CNT_ADJ_WRITES] (discarded who Reg.TIME_ADJ_FREQ s) t) ∧
      (∃ t, exec (.timeAdjPhaseWrite who v) s = .next t ∧ t.time.slew = s.time.slew + v.toInt * 2 ^ 24 ∧
        counts Reg.TIME_CNT_ADJ_WRITES 1 s t ∧
        t = { discarded who Reg.TIME_ADJ_PHASE s with
              regs := t.regs, aud := t.aud, log := t.log, time := { s.time with slew := t.time.slew } } ∧
        regsBut [Reg.TIME_CNT_ADJ_WRITES] (discarded who Reg.TIME_ADJ_PHASE s) t)) ∧
    (writer = false →
      (∃ t, exec (.timeAdjFreqWrite who v) s = .next t ∧ counts Reg.TIME_CNT_ADJ_IGNORED 1 s t ∧
        onlyRegs [Reg.TIME_CNT_ADJ_IGNORED] (discarded who Reg.TIME_ADJ_FREQ s) t) ∧
      ∃ t, exec (.timeAdjPhaseWrite who v) s = .next t ∧ counts Reg.TIME_CNT_ADJ_IGNORED 1 s t ∧
        onlyRegs [Reg.TIME_CNT_ADJ_IGNORED] (discarded who Reg.TIME_ADJ_PHASE s) t)

/-- R404: TIME_DISC is written by firmware on the cores while SOURCE = 2 and by PF0 of H0 while SOURCE = 3, on no stack
member, and any other write is ignored and counted; an accepted one stores LOCKED and acts on the discipline by the
first case that applies. -/
def Obligations.DisciplineFollowsAcceptedWrites : Prop :=
  ∀ (who : Party) (v : Word) (s : State), accepted who s = true → running 0 s = true →
    let writer := decide (s.stackMember = false ∧
      (s.timeSource = 2 ∧ who = .cores ∨ s.timeSource = 3 ∧ who = .pf 0))
    ∃ t, exec (.timeDiscWrite who v) s = .next t ∧
      (writer = false →
        counts Reg.TIME_CNT_ADJ_IGNORED 1 s t ∧ onlyRegs [Reg.TIME_CNT_ADJ_IGNORED] (discarded who Reg.TIME_DISC s) t) ∧
      (writer = true → t.reg Reg.TIME_DISC = word (b2n (bit v 0)) ∧
        t.time.disc =
          (if bit v 0 = true ∧ (s.time.disc = .acquire ∨ s.time.disc = .holdover ∧ s.refIsPresent = true) then .locked
          else if bit v 0 = false ∧ s.time.disc = .locked then .holdover
          else if bit v 1 = true ∧ s.time.disc = .holdover ∧ s.refIsPresent = true then .acquire
          else s.time.disc) ∧
        t = { discarded who Reg.TIME_DISC s with regs := t.regs, log := t.log, time := t.time } ∧
        ∀ k, k ≠ Reg.TIME_DISC → k ≠ Reg.LOG_CNT_QUEUE_DROP → t.reg k = (discarded who Reg.TIME_DISC s).reg k)

/-- R39, R59: a write to TIME_CFG stores its fields in all three copies; one that changes SOURCE takes the discipline to
FREERUN (SOURCE 0) or ACQUIRE while the reference is there, and in FAULT only stores, as on a stack member, whose state
GAL sets (R314; DESIGN CHOICE, log entry 92). -/
def Obligations.SourceWriteMovesDiscipline : Prop :=
  ∀ (who : Party) (v : Word) (s : State), accepted who s = true → running 0 s = true → s.time.refPresent = true →
    ∃ t, exec (.timeCfgWrite who v) s = .next t ∧ t.reg Reg.TIME_CFG = v &&& 0x0000FFFF0000FF3F ∧
      t.regB Reg.TIME_CFG = v &&& 0x0000FFFF0000FF3F ∧ t.regC Reg.TIME_CFG = v &&& 0x0000FFFF0000FF3F ∧
      (s.time.disc = .fault ∨ s.stackMember = true → t.time.disc = s.time.disc) ∧
      (s.time.disc ≠ .fault → s.stackMember = false → bits v 1 0 ≠ s.timeSource →
        t.time.disc = if bits v 1 0 = 0 then .freerun else .acquire) ∧
      t = { discarded who Reg.TIME_CFG s with
            regs := t.regs, copyB := t.copyB, copyC := t.copyC, log := t.log, time := t.time }

/-- R33, R35, R44: a TIME cycle adds to every Dial copy 2^32 units and the frequency and slew adjustments, their sum
held to ±42,949 (±10 ppm); a slew's last cycle adds what is left of it where that is less than PHASE_RATE (DESIGN
CHOICE, log entry 92), and leaves none. A read of TIME_DIAL_NS gives Dial [71:8] and latches Dial [7:0] for its reader
alone, but that the management sideband shares the Foreman's TIME_DIAL_FRAC (log entry 92). -/
def Obligations.DialCountsAndReads : Prop :=
  (∀ s : State, running 0 s = true → s.time.dialFault = false → s.time.a = s.time.b → s.time.b = s.time.c →
    (∃ t, exec .dialTick s = .next t ∧
      (let sum := s.adjFreq + clampInt (-(s.phaseRate : Int)) s.phaseRate s.time.slew
       t.time.a = s.time.a + BitVec.ofInt 96 (2 ^ 32 + clampInt (-42949) 42949 sum) ∧ t.time.b = t.time.a ∧
       t.time.c = t.time.a ∧
       (sum < -42949 ∨ 42949 < sum → counts Reg.TIME_CNT_FREQ_CLAMPED 1 s t))) ∧
    (s.time.slew ≠ 0 → s.slewAbsorbed = s.time.slew → ∃ t, exec .slewComplete s = .next t ∧ t.time.slew = 0)) ∧
  ∀ (who : Party) (s : State), accepted who s = true →
    ∃ t, exec (.timeDialNsRead who) s = .next t ∧ t.out = .readData who (word s.dialNs) :: s.out ∧
      t.reg (Reg.perPf who.copy Reg.TIME_DIAL_FRAC) = word (bits s.dial 7 0) ∧
      t = { s with regs := t.regs, out := t.out } ∧
      ∀ k, k ≠ Reg.perPf who.copy Reg.TIME_DIAL_FRAC → t.reg k = s.reg k

/-- R44, R45, R46: GO with nothing open, armed or pending, on no stack member, leaves the step or load pending; it
completes by setting every Dial copy, discarding the slew remainder, counting the step and showing DONE. R44: a GO is
refused by the first condition that fails, in the order BUSY, stack member, domain open, release armed; its code stands
in TIME_STEP_RESULT, it is counted, and no step is pending that was not before. -/
def Obligations.StepsRunOrAreRefused : Prop :=
  (∀ s : State, running 0 s = true →
    (∀ who, accepted who s = true → s.time.pending = none → s.stackMember = false → s.anyOpen = false →
      s.anyArmed = false →
      let value := BitVec.ofNat 72 ((s.reg Reg.TIME_STEP_LO).toNat + bits (s.reg Reg.TIME_STEP_HI) 7 0 * 2 ^ 64)
      let go := { discarded who Reg.TIME_STEP_CTL s with time := { s.time with pending := some ⟨false, value⟩ } }
      let load := { go with time := { s.time with pending := some ⟨true, value⟩ } }
      (∃ t, exec (.step who) s = .next t ∧ bits (t.reg Reg.TIME_STEP_RESULT) 3 0 = 0 ∧
        onlyRegs [Reg.TIME_STEP_RESULT] go t) ∧
      ∃ t, exec (.absoluteLoad who) s = .next t ∧ bits (t.reg Reg.TIME_STEP_RESULT) 3 0 = 0 ∧
        onlyRegs [Reg.TIME_STEP_RESULT] load t) ∧
    ∀ r, s.time.pending = some r → s.openWait = [] →
      ∃ t, exec .stepComplete s = .next t ∧ t.time.pending = none ∧ t.time.slew = 0 ∧
        counts Reg.TIME_CNT_STEPS 1 s t ∧ bits (t.reg Reg.TIME_STEP_RESULT) 3 0 = 1 ∧
        t.time.a = (if r.absolute then r.value.count else BitVec.ofNat 96 (s.time.voted.toNat + r.value.toNat * 2 ^ 24)) ∧
        t.time.b = t.time.a ∧ t.time.c = t.time.a ∧ (r.absolute = true → t.time.dialFault = false)) ∧
  ∀ (who : Party) (s : State), accepted who s = true → running 0 s = true →
    s.time.pending.isSome || s.stackMember || s.anyOpen || s.anyArmed →
    ∀ c ∈ [Instr.step who, .absoluteLoad who],
      ∃ t, exec c s = .next t ∧
        bits (t.reg Reg.TIME_STEP_RESULT) 3 0 =
          (if s.time.pending.isSome then 5 else if s.stackMember then 4 else if s.anyOpen then 2 else 3) ∧
        counts Reg.TIME_CNT_STEP_REFUSED 1 s t ∧ t.time = s.time ∧
        t = { discarded who Reg.TIME_STEP_CTL s with regs := t.regs, log := t.log } ∧
        ∀ k, k ∉ [Reg.TIME_STEP_RESULT, Reg.TIME_CNT_STEP_REFUSED, Reg.LOG_CNT_QUEUE_DROP] →
          t.reg k = (discarded who Reg.TIME_STEP_CTL s).reg k

/-- R39 to R43: the reference's loss is counted and takes LOCKED and ACQUIRE to HOLDOVER, its return takes a HOLDOVER it
began to ACQUIRE, its PLL locked at once (DESIGN CHOICE, log entry 9), but on a stack member, whose state GAL sets (log
entry 92); a selected PPS_IN edge sets TIME_PPS_ERR to its distance from the nearest whole second, in every mode and by
its low 32 bits (DESIGN CHOICE, log entry 6; of a step's cycle, by the Dial after it, R45), a Dial second without one
counts, and PPS_OUT takes the level R43 gives, inside a pulse's window too (DESIGN CHOICE, log entry 92). -/
def Obligations.ReferenceAndPpsFollowed : Prop :=
  (∀ s : State, s.time.refPresent = true →
    ∃ t, exec .refLoss s = .next t ∧ t.time.refPresent = false ∧
      (running 0 s = true → counts Reg.TIME_CNT_REF_LOSS 1 s t ∧
        (s.stackMember = false → s.timeSource ≠ 0 → s.pllRef = false → s.time.disc = .acquire ∨ s.time.disc = .locked →
          t.time.disc = .holdover) ∧
        (s.stackMember = true → t.time.disc = s.time.disc))) ∧
  (∀ s : State, ∃ t, exec .refReturn s = .next t ∧ t.time.refPresent = true ∧ t.time.pllLocked = true ∧
    (running 0 s = true → s.stackMember = false → s.time.disc = .holdover → s.time.byRefLoss = true →
      t.time.disc = .acquire)) ∧
  ∀ s : State, running 0 s = true →
    (∀ (falling : Bool) (strobe : Dial) (code : Byte), falling = bit (s.voted Reg.TIME_CFG) 4 →
      let e := pps_error (((s.strobeDial strobe).toNat + s.tdc 256 code : Nat) - signed 32 (bits (s.reg Reg.TIME_PPS_CAL) 31 0))
      (s.timeSource = 1 → s.stackMember = false → e.natAbs ≤ 25600) →
      ∃ t, exec (.ppsEdge falling strobe code) s = .next t ∧
        t.reg Reg.TIME_PPS_ERR = word (BitVec.ofInt 32 e).toNat ∧ counts Reg.TIME_CNT_PPS_EDGES 1 s t ∧
        t.time.ppsSeen = true) ∧
    (s.timeSource = 1 → s.stackMember = false →
      ∃ t, exec .ppsMissing s = .next t ∧ counts Reg.TIME_CNT_PPS_MISSING 1 s t ∧ t.time.ppsBad = s.time.ppsBad + 1 ∧
        (s.time.disc = .locked → 2 ≤ s.time.ppsBad → t.time.disc = .holdover)) ∧
    (s.ppsOutLevel ≠ s.time.ppsOut →
      ∃ t, exec .ppsOutEdge s = .next t ∧ t.time.ppsOut = s.ppsOutLevel ∧
        t.out = .pin "PPS_OUT" s.ppsOutLevel :: s.out ∧ t = { s with time := t.time, out := t.out })

/-- R48, R55, R56, R80: a UTC offset in time is applied and its instant cleared; a lane's temperature correction moves
by at most 4/256 ns toward its measured value, within ±2.0 ns, while RECAL_EN = 1; a new converter table replaces its
lane's; and a whole Dial second is acted on once, however many a command passes (DEDUCED, log entry 10), taking the
audit floor from AUDIT_PRESSURE and stating every suppressed occurrence while the log's queue has room (R385; DESIGN
CHOICE, log entry 74). -/
def Obligations.UtcCalibrationAndSeconds : Prop :=
  ∀ s : State, running 0 s = true →
    (s.reg Reg.TIME_UTC_EFFECTIVE ≠ 0 → (s.reg Reg.TIME_UTC_EFFECTIVE).toNat ≤ s.dialNs / nsPerSecond →
      ∃ t, exec .utcOffsetApply s = .next t ∧
        bits (t.reg Reg.TIME_UTC_OFFSET) 15 0 = bits (s.reg Reg.TIME_UTC_OFFSET) 31 16 ∧
        t.reg Reg.TIME_UTC_EFFECTIVE = 0 ∧ onlyRegs [Reg.TIME_UTC_OFFSET, Reg.TIME_UTC_EFFECTIVE] s t) ∧
    (s.recalEn = true →
      (∀ (octet : Nat) (target : List Int), octet < 32 →
        ∃ t, exec (.recalUpdate octet target) s = .next t ∧ ∀ i x, target[i]? = some x → i < 8 →
          let k := Reg.TIME_LANE_TEMP (8 * octet + i)
          let old := signed 16 (bits (s.reg k) 15 0)
          signed 16 (bits (t.reg k) 15 0) = clampInt (-512) 512 (old + clampInt (-4) 4 (x - old))) ∧
      ∀ (lane : Nat) (table : List Byte), lane < 257 →
        ∃ t, exec (.tdcRecal lane table) s = .next t ∧ Store.get (fun _ => []) t.time.tdc lane = table ∧
          (∀ l, l ≠ lane → Store.get (fun _ => []) t.time.tdc l = Store.get (fun _ => []) s.time.tdc l) ∧
          t = { s with time := { s.time with tdc := t.time.tdc } }) ∧
    (s.time.second < s.dialNs / nsPerSecond →
      ∃ t, exec .wholeDialSecond s = .next t ∧ t.time.second = s.dialNs / nsPerSecond ∧ t.floorOn = s.aud.pressure ∧
        (Store.wf (fun _ => (0, 0)) s.log.suppressed = true →
          s.log.queue.length + s.log.suppressed.length + 272 ≤ 1024 → t.log.suppressed = []))

/-! ## The audit chain and the ledger (R160 to R184, R403) -/

/-- R168 to R172, R182: an epoch that is due, or SEAL_NOW, is sealed while the ring has a slot: one record more, the
next epoch number, one seal counted. NEW_CHAIN with nothing open or armed and a usable key raises CHAIN_ID, opens the
key and counts the start as the chain's first; behind an OPEN that waits for a step it waits in its order of arrival,
its result reading 0 meanwhile (DEDUCED, log entry 95). DRAIN_RESUME ends a drain fault. Each command's result reads
DONE, that of a DRAIN_RESUME with nothing to resume too (DEDUCED, log entry 81). R171: NEW_CHAIN is refused with
REFUSED_DOMAIN_OPEN, then REFUSED_RELEASE_ARMED, then REFUSED_KEY, counted in AUD_CNT_CTL_REFUSED (DEDUCED, log entry
81), with no record and no key changed. -/
def Obligations.EpochsSealAndChainsBegin : Prop :=
  ((∀ (s : State) (e : Epoch), s.clocked = true → s.aud.epoch = some e → s.epochDue e = true →
    s.auditNoSlot = false →
    ∃ t, exec .epochTimeout s = .next t ∧ t.aud.epoch = none ∧
      t.reg Reg.AUD_NEXT_INDEX = s.reg Reg.AUD_NEXT_INDEX + 1 ∧ t.reg Reg.AUD_EPOCH = s.reg Reg.AUD_EPOCH + 1 ∧
      counts Reg.AUD_CNT_SEALS 1 s t ∧ t = { s with regs := t.regs, aud := t.aud, log := t.log } ∧ regsBut [] s t) ∧
  ∀ (who : Party) (s : State), accepted who s = true →
    (s.auditNoSlot = false → ∃ t, exec (.sealNow who) s = .next t ∧ t.aud.epoch = none ∧ t.reg Reg.AUD_CTL_RESULT = 1 ∧
      (s.aud.epoch ≠ none → t.reg Reg.AUD_EPOCH = s.reg Reg.AUD_EPOCH + 1 ∧ counts Reg.AUD_CNT_SEALS 1 s t) ∧
      (s.aud.epoch = none → onlyRegs [Reg.AUD_CTL_RESULT] (discarded who Reg.AUD_CTL s) t)) ∧
    (s.openWait = [] → s.anyOpen = false → s.anyArmed = false → s.chainKeySlot.isSome → s.chainId < 0xFFFFFFFF →
      ∃ t, exec (.newChain who) s = .next t ∧ t.reg Reg.AUD_CTL_RESULT = 1 ∧
        t.reg Reg.AUD_CHAIN = word (s.chainId + 1) ∧ t.reg Reg.AUD_START_COUNT = 1 ∧
        t.aud.keySlot = s.chainKeySlot ∧ t = { discarded who Reg.AUD_CTL s with regs := t.regs, aud := t.aud, log := t.log } ∧
        regsBut [] (discarded who Reg.AUD_CTL s) t) ∧
    (s.openWait ≠ [] → s.openWait.contains chainWait = false →
      ∃ t, exec (.newChain who) s = .next t ∧ t.openWait = s.openWait ++ [chainWait] ∧
        t = { discarded who Reg.AUD_CTL s with openWait := t.openWait, regs := t.regs } ∧ t.reg Reg.AUD_CTL_RESULT = 0 ∧
        ∀ k, k ≠ Reg.AUD_CTL_RESULT → t.reg k = (discarded who Reg.AUD_CTL s).reg k) ∧
    ∃ t, exec (.drainResume who) s = .next t ∧ t.aud.drainFault = false ∧ t.reg Reg.AUD_CTL_RESULT = 1 ∧
      t = { discarded who Reg.AUD_CTL s with regs := t.regs, aud := { s.aud with drainFault := false } } ∧
      ∀ k, k ≠ Reg.AUD_CTL_RESULT → t.reg k = (discarded who Reg.AUD_CTL s).reg k) ∧
  ∀ (who : Party) (s : State), accepted who s = true → s.openWait = [] →
    s.anyOpen || s.anyArmed || s.chainKeySlot.isNone →
    ∃ t, exec (.newChain who) s = .next t ∧
      t.reg Reg.AUD_CTL_RESULT = (if s.anyOpen then 2 else if s.anyArmed then 3 else 4) ∧
      counts Reg.AUD_CNT_CTL_REFUSED 1 s t ∧ onlyRegs [Reg.AUD_CTL_RESULT, Reg.AUD_CNT_CTL_REFUSED] (discarded who Reg.AUD_CTL s) t

/-- R172, R175: with a full segment and nothing in flight the segment is issued to every enabled target's root port and
namespace, at its drive slot's LBA, in 257 blocks with FUA; when its last awaited write completes the segment counts and
the drain moves to the next; a write that failed 1 ms ago, by the time that has passed (DESIGN CHOICE, log entry 97), is
retried and counted; an acknowledgement is stored; and a target's register is written while nothing is in flight. -/
def Obligations.DrainRuns : Prop :=
  ∀ s : State,
    (s.clocked = true → s.aud.drain = none → s.aud.drainFault = false → s.aud.pwrFail = false → s.drainTargets ≠ [] →
      segmentSlots ≤ s.auditFill → s.ackWait = false →
      ∃ t, exec .drainWrite s = .next t ∧ t.aud.drain = some ⟨s.drainNext, s.drainTargets, [], [], []⟩ ∧
        t = { s with aud := { s.aud with drain := t.aud.drain }, out := t.out } ∧
        ∀ m ∈ s.drainTargets, ∃ header data, Out.drain m (bits (s.reg (Reg.AUD_DRAIN_TGT m)) 7 4)
          (bits (s.reg (Reg.AUD_DRAIN_TGT m)) 63 32) s.drainNext
          ((s.reg (Reg.AUD_DRAIN_BASE m)).toNat + 257 * (s.drainNext % s.drainSlots)) 257 true header data ∈ t.out) ∧
    (∀ m d, m < 2 → s.clocked = true → s.aud.drain = some d →
      (d.waiting.contains m = true → (d.due.any fun x => x.1 == m) = false → s.drainUnfit m = false →
        ∃ t, exec (.drainWriteComplete m true) s = .next t ∧
          (d.waiting = [m] → t.aud.drain = none ∧ counts Reg.AUD_CNT_SEGMENTS 1 s t ∧
            t.reg Reg.AUD_DRAIN_NEXT = s.reg Reg.AUD_DRAIN_NEXT + 1) ∧
          (d.waiting.filter (· ≠ m) ≠ [] →
            t.aud.drain = some { d with waiting := d.waiting.filter (· ≠ m), done := m :: d.done } ∧
              t = { s with aud := { s.aud with drain := t.aud.drain } })) ∧
      ((d.due.any fun x => decide (x.1 = m ∧ x.2 + 1000000 ≤ s.clockNs)) = true →
        ∃ t, exec (.drainRetry m) s = .next t ∧ counts Reg.AUD_CNT_DRAIN_RETRY 1 s t ∧
          t.aud.drain = some { d with due := d.due.filter (·.1 ≠ m) } ∧
          (∃ lba header data, t.out = .drain m (s.drainPort m) (s.drainNsid m) d.segment lba 257 true header data :: s.out))) ∧
    ∀ (who : Party) (v : Word), accepted who s = true →
      (∃ t, exec (.audDrainAckWrite who v) s = .next t ∧ t.reg Reg.AUD_DRAIN_ACK = v ∧
        onlyRegs [Reg.AUD_DRAIN_ACK] (discarded who Reg.AUD_DRAIN_ACK s) t) ∧
      ∀ m, m < 2 → s.aud.drain = none →
        ∃ t, exec (.audDrainTgtWrite who m v) s = .next t ∧
          t.reg (Reg.AUD_DRAIN_TGT m) =
            (s.reg (Reg.AUD_DRAIN_TGT m) &&& ~~~(writableBits (Reg.AUD_DRAIN_TGT m))) |||
              (v &&& writableBits (Reg.AUD_DRAIN_TGT m)) ∧
          onlyRegs [Reg.AUD_DRAIN_TGT m] (discarded who (Reg.AUD_DRAIN_TGT m) s) t

/-! ## Ports and links (R61 to R65, R136, R137, R283, R284) -/

/-- R61, R62: a permitted mode on a slot that no bonded port leaves idle and that feeds no open domain is stored in all
three copies, and one with ENABLE = 0 disables the port. R11, R61, R62: a combination that R61 does not permit, and a
mode change of a slot that feeds an open domain, are refused and counted; a write to a slot that a bonded port leaves
idle is ignored and counted. Nothing else changes, but that a half staged for the register is discarded (R365). -/
def Obligations.PortModesStoredOrRefused : Prop :=
  (∀ (who : Party) (slot : Nat) (v : Word) (s : State), slot < 256 → accepted who s = true → running 2 s = true →
    s.isIdle slot = false → modeValid (v &&& 0x3FF) = true → slot % lanesOf (speedOf (v &&& 0x3FF)) = 0 →
    s.feedsOpen slot = false →
    ∃ t, exec (.portModeWrite who slot v) s = .next t ∧ t.reg (Reg.PORT_MODE slot) = v &&& 0x3FF ∧
      t.regB (Reg.PORT_MODE slot) = v &&& 0x3FF ∧ t.regC (Reg.PORT_MODE slot) = v &&& 0x3FF ∧
      (bit (s.portMode slot) 0 = true → bit v 0 = false → (t.port slot).link = .disabled)) ∧
  ∀ (who : Party) (slot : Nat) (v : Word) (s : State), slot < 256 → accepted who s = true → running 2 s = true →
    (s.isIdle slot = true →
      ∃ t, exec (.portModeWrite who slot v) s = .next t ∧ counts Reg.PORT_CNT_IDLE_SLOT_WRITES 1 s t ∧
        onlyRegs [Reg.PORT_CNT_IDLE_SLOT_WRITES] (discarded who (Reg.PORT_MODE slot) s) t) ∧
    (s.isIdle slot = false →
      modeValid (v &&& 0x3FF) = false ∨ ((s.portMode slot ^^^ v) &&& 0x3FE ≠ 0 ∧ s.feedsOpen slot = true) →
      ∃ t, exec (.portModeWrite who slot v) s = .next t ∧ counts Reg.PORT_CNT_MODE_REFUSED 1 s t ∧
        onlyRegs [Reg.PORT_CNT_MODE_REFUSED] (discarded who (Reg.PORT_MODE slot) s) t)

/-- R64: alignment, with deskew on a bonded port, takes a training port to UP_HOLD, and failed deskew keeps it in
TRAINING with DESKEW_FAIL; the hold's end takes it UP when no fault stands; the loss of alignment or, when it is UP, a
fault takes it back to TRAINING; a training timeout counts and starts training again. -/
def Obligations.LinkStatesFollowR64 : Prop :=
  ∀ (slot : Nat) (cut : Bool) (s : State), slot < 256 → running 2 s = true → s.isIdle slot = false →
    (∀ deskew : Option (List Nat), (s.port slot).link = .training →
      ∃ t, exec (.alignmentAchieved slot deskew) s = .next t ∧ (t.port slot).aligned = true ∧
        t = { s with ports := t.ports } ∧ (∀ n, n ≠ slot → t.port n = s.port n) ∧
        (lanesOf (speedOf (s.portMode slot)) = 1 ∨ deskew.isSome → (t.port slot).link = .upHold) ∧
        (lanesOf (speedOf (s.portMode slot)) ≠ 1 → deskew = none →
          (t.port slot).link = .training ∧ (t.port slot).deskewFail = true)) ∧
    ((s.port slot).link = .upHold → (s.port slot).localFault = false → (s.port slot).remoteFault = false →
      s.hiSerNow slot = false ∨ bit (s.reg (Reg.PORT_LINK_CFG slot)) 0 = false → ∃ t, exec (.upHoldExpiry slot) s = .next t ∧ (t.port slot).link = .up) ∧
    ((s.port slot).aligned = true →
      ∃ t, exec (.alignmentLost slot cut) s = .next t ∧ (t.port slot).link = .training ∧ (t.port slot).aligned = false ∧
        ((s.port slot).link ≠ .up → counts (Reg.PORT_CNT_ALIGN_LOSS slot) 1 s t ∧
          onlyRegs [Reg.PORT_CNT_ALIGN_LOSS slot] { s with ports := t.ports } t)) ∧
    ((s.port slot).link ≠ .disabled →
      (∃ t, exec (.localFault slot cut) s = .next t ∧ (t.port slot).localFault = true ∧
        (t.port slot).link = if (s.port slot).link = .up then .training else (s.port slot).link) ∧
      ∃ t, exec (.remoteFault slot cut) s = .next t ∧ (t.port slot).remoteFault = true ∧
        (t.port slot).link = if (s.port slot).link = .up then .training else (s.port slot).link) ∧
    ((s.port slot).link = .training →
      ∃ t, exec (.trainTimeout slot) s = .next t ∧ counts (Reg.PORT_CNT_TRAIN_TIMEOUT slot) 1 s t ∧
        (t.port slot).link = .training ∧ (t.port slot).aligned = false ∧
        onlyRegs [Reg.PORT_CNT_TRAIN_TIMEOUT slot] { s with ports := t.ports } t)

/-- R136, R137, R283, R284: a PFC pause whose quanta have run out ends and is cleared; a pause toward the partner is
sent again while occupancy stays at XON or above; the watchdog empties a queue paused for its time, whose pause ends,
and ignores the priority's PFC for 100 ms; and a hold that has run out on a port that is not UP frees every held frame.
These durations run by the time that has passed and not by Dial (DESIGN CHOICE, log entry 97). -/
def Obligations.PausesAndHoldsEnd : Prop :=
  ∀ (slot prio : Nat) (s : State), slot < 256 → prio < 8 → running 3 s = true →
    ((∃ d, pauseItem (s.egr slot).pauseEnd prio = some d ∧ d ≤ s.clock) →
      ∃ t, exec (.pfcPauseExpiry slot prio) s = .next t ∧ pauseItem (t.egr slot).pauseEnd prio = none ∧
        pauseItem (t.egr slot).pausedAt prio = none ∧
        (∀ p, p ≠ prio → pauseItem (t.egr slot).pauseEnd p = pauseItem (s.egr slot).pauseEnd p) ∧
        t = { s with egress := t.egress } ∧ ∀ n, n ≠ slot → t.egr n = s.egr n) ∧
    (s.isInfra slot = true → (s.egr slot).xoff = true → s.xonLevel slot ≤ s.poolUsed slot →
      (s.egr slot).pfcAt.toNat + s.quantaTime slot 0x7FFF ≤ s.clock.toNat →
      ∃ t, exec (.pfcRefresh slot) s = .next t ∧ t.out = .pfc slot (s.prioMask slot) 0xFFFF :: s.out ∧
        (t.egr slot).pfcAt = s.clock ∧ t = { s with egress := t.egress, out := t.out }) ∧
    ((let wd := bits (s.reg (Reg.RDMA_PORT_PFC slot)) 59 48
      wd ≠ 0 ∧ s.paused slot prio = true ∧
        ∃ d, pauseItem (s.egr slot).pausedAt prio = some d ∧ d.toNat + wd * 1000000 * nsUnits ≤ s.clock.toNat) →
      ∃ t, exec (.pfcWatchdog slot prio) s = .next t ∧ t.queue slot prio = [] ∧
        pauseItem (t.egr slot).pauseEnd prio = none ∧
        pauseItem (t.egr slot).wdUntil prio = some (s.clock.plusNs 100000000) ∧ prio ∉ (t.egr slot).deferred) ∧
    (s.holdOver slot = true → s.isUp slot = false →
      ∃ t, exec (.portHoldExpiry slot) s = .next t ∧ (t.egr slot).holdFrom = none ∧ ∀ q, t.queue slot q = [])

/-! ## The sequencer (R90 to R119, R405) -/

/-- R90, R96, R117, R119, R335: feeds, configuration and the next number of a CLOSED domain are stored, by a register
write or by SEQ_CFG_SET; of an open one they are refused and counted, with nothing else changed but that a half staged
for the register is discarded (R365). -/
def Obligations.DomainConfigurationStored : Prop :=
  ∀ (who : Party) (d m : Nat) (v : Word) (s : State), d < 16 → m < 4 → accepted who s = true → running 1 s = true →
    (s.isOpen d = false →
      (∃ t, exec (.seqFeedWrite who d m v) s = .next t ∧ t.reg (Reg.SEQ_FEED d m) = v ∧
        onlyRegs [Reg.SEQ_FEED d m] (discarded who (Reg.SEQ_FEED d m) s) t) ∧
      (seqCfgValid v = true →
        ∃ t, exec (.seqDomainCfgWrite who d v) s = .next t ∧ t.seqCfg d = v &&& 0x00001FFF007FFFFF ∧
          t = { discarded who (Reg.SEQ_DOMAIN_CFG d) s with regs := t.regs, copyB := t.copyB, copyC := t.copyC } ∧
          ∀ k, k ≠ Reg.SEQ_DOMAIN_CFG d → t.reg k = (discarded who (Reg.SEQ_DOMAIN_CFG d) s).reg k) ∧
      (v ≠ 0 →
        ∃ t, exec (.seqNextWrite who d v) s = .next t ∧ t.reg (Reg.SEQ_NEXT d) = v ∧ (t.dom d).copyA = v ∧
          (t.dom d).copyB = v ∧ (t.dom d).copyC = v ∧ onlyRegs [Reg.SEQ_NEXT d] { discarded who (Reg.SEQ_NEXT d) s with doms := t.doms } t)) ∧
    (s.isOpen d = true →
      ∀ c ∈ [(Instr.seqFeedWrite who d m v, Reg.SEQ_FEED d m), (.seqDomainCfgWrite who d v, Reg.SEQ_DOMAIN_CFG d),
          (.seqNextWrite who d v, Reg.SEQ_NEXT d)],
        ∃ t, exec c.1 s = .next t ∧ counts (Reg.SEQ_CNT_CFG_REFUSED d) 1 s t ∧
          onlyRegs [Reg.SEQ_CNT_CFG_REFUSED d] (discarded who c.2 s) t) ∧
    ∀ c x, adminAt c 0x21 x s = true → bits (adminParam x.desc 0) 3 0 = d →
      let v := adminParam x.desc 1
      ∃ t, exec (.seqCfgSet c) s = .next t ∧
        (s.isOpen d = false ∧ seqCfgValid v = true ∧ s.storeFitsCfg d v = true →
          adminEnds c 0 x s t ∧ t.seqCfg d = v &&& 0x00001FFF007FFFFF) ∧
        (s.isOpen d = true ∨ seqCfgValid v = false ∨ s.storeFitsCfg d v = false →
          adminEnds c 0x83 x s t ∧ t.seqCfg d = s.seqCfg d)

/-- R115, R116: an OPEN whose checks pass makes the domain OPENING at its instant and raises its open count; Dial takes
it OPEN at that instant; CLOSE makes an open domain CLOSING from its instant and an OPENING one CLOSED; a CLOSING domain
past its end with nothing held or waiting is CLOSED; FORCE_CLOSE discards and counts what is held and waiting. R116,
R316: an OPEN is refused by the first check that fails, in the order of R116's table; its code stands in SEQ_OPEN_RESULT
and no domain changes. A feeder of a stacked domain skips the check of the rings. A CLOSE outside OPENING and OPEN and a
FORCE_CLOSE in CLOSED read REFUSED_STATE there. -/
def Obligations.DomainsOpenCloseOrRefuse : Prop :=
  (∀ (d : Nat) (s : State), d < 16 → running 1 s = true →
    (∀ who, accepted who s = true →
      (s.time.pending = none → s.openResult d = 1 →
        ∃ t, exec (.open who d) s = .next t ∧ (t.dom d).phase = .opening ∧
          (t.dom d).openAt = s.instantOf (Reg.SEQ_OPEN_AT d) ∧ t.reg (Reg.SEQ_OPEN_RESULT d) = 1 ∧
          t.reg (Reg.AUD_OPEN_COUNT d) = s.reg (Reg.AUD_OPEN_COUNT d) + 1 ∧ t.reg (Reg.SEQ_HALT_INFO d) = 0 ∧
          ∀ e, e ≠ d → t.dom e = s.dom e) ∧
      (s.time.pending.isSome → s.openWait.contains d = false →
        ∃ t, exec (.open who d) s = .next t ∧ t.openWait = s.openWait ++ [d] ∧ t.doms = s.doms) ∧
      ((s.dom d).phase = .opened →
        ∃ t, exec (.close who d) s = .next t ∧ (t.dom d).phase = .closing ∧
          (t.dom d).closeAt = s.instantOf (Reg.SEQ_CLOSE_AT d) ∧ t.reg (Reg.SEQ_OPEN_RESULT d) = 1 ∧
          onlyRegs [Reg.SEQ_OPEN_RESULT d] { discarded who (Reg.SEQ_DOMAIN_CTL d) s with doms := t.doms } t) ∧
      ((s.dom d).phase = .opening →
        ∃ t, exec (.close who d) s = .next t ∧ (t.dom d).phase = .closed ∧ t.reg (Reg.SEQ_OPEN_RESULT d) = 1) ∧
      ((s.dom d).phase ≠ .closed →
        ∃ t, exec (.forceClose who d) s = .next t ∧ (t.dom d).phase = .closed ∧ (t.dom d).held = [] ∧
          (t.dom d).backlog = 0 ∧ t.reg (Reg.SEQ_OPEN_RESULT d) = 1 ∧
          counts (Reg.SEQ_CNT_CLOSE_DISCARD d) ((s.dom d).held.length + (s.dom d).merging + (s.dom d).backlog) s t)) ∧
    ((s.dom d).phase = .opening → (s.dom d).openAt ≤ s.dial →
      ∃ t, exec (.domainOpens d) s = .next t ∧ (t.dom d).phase = .opened ∧ (t.dom d).frontier = s.dial ∧
        t = { s with doms := t.doms }) ∧
    ((s.dom d).phase = .closing → (s.dom d).held = [] → (s.dom d).backlog = 0 →
      (s.dom d).closeAt.toNat + max (s.musterNs d) (s.musterMin d) * nsUnits ≤ s.dial.toNat →
      ∃ t, exec (.domainCloses d) s = .next t ∧ (t.dom d).phase = .closed ∧ ∀ e, e ≠ d → t.dom e = s.dom e)) ∧
  ∀ (who : Party) (d : Nat) (s : State), d < 16 → accepted who s = true → running 1 s = true →
    let unlocked := decide (s.time.disc ≠ .locked) && decide (s.time.disc ≠ .holdover) && !bit (s.voted Reg.TIME_CFG) 3
    let total := ((List.range 16).map fun e => if decide (e = d) || s.isOpen e then s.feedRate e else 0).sum
    let rings := s.isFeeder d || (s.ringIs (s.seqRing d false) 1 && s.ringIs (s.seqRing d true) 2)
    let crowded := (List.range 8).any fun l => decide (96000000000 < s.linkLoad d l)
    let code := if s.isOpen d then 2 else if unlocked then 3 else if s.dialStopped then 4
      else if s.musterShort d && !bit (s.seqCfg d) 19 then 5
      else if 250000000 < s.feedRate d ∨ 2000000000 < total then 6
      else if s.feed d = [] ∧ (s.stacked d = false ∨ s.feeders d = []) then 7
      else if rings = false then 8
      else if s.stacked d && (!s.stackLock || crowded) then 9
      else if !s.storeFitsCfg d (s.seqCfg d) then 10 else 1
    let refused := fun (t : State) => onlyRegs [Reg.SEQ_OPEN_RESULT d] (discarded who (Reg.SEQ_DOMAIN_CTL d) s) t
    (s.time.pending = none → code ≠ 1 →
      ∃ t, exec (.open who d) s = .next t ∧ t.reg (Reg.SEQ_OPEN_RESULT d) = word code ∧ refused t) ∧
    ((s.dom d).phase ≠ .opening → (s.dom d).phase ≠ .opened →
      ∃ t, exec (.close who d) s = .next t ∧ t.reg (Reg.SEQ_OPEN_RESULT d) = 2 ∧ refused t) ∧
    ((s.dom d).phase = .closed →
      ∃ t, exec (.forceClose who d) s = .next t ∧ t.reg (Reg.SEQ_OPEN_RESULT d) = 2 ∧ refused t)

/-- R98, R99, R101, R405: a message in time for an open domain that it feeds joins its hold store under its stamp; a
release moves the frontier to Dial, which counts, and gives the one held message that is due the next number; and a
waiting message goes into the next entry of its ring. -/
def Obligations.MessagesHeldNumberedDelivered : Prop :=
  ∀ s : State, running 1 s = true →
    (∀ pipe m rest, pipe < 8 → (s.pipe pipe).fifo = m :: rest → (s.dom m.domain).phase = .opened →
      s.inFeed m.domain (m.port % 256) = true → (s.dom m.domain).openAt ≤ m.stamp →
      s.frontierAt m.domain (s.dom m.domain).frontier m.stamp = false →
      ∃ t, exec (.holdStoreArrival pipe) s = .next t ∧ (t.pipe pipe).fifo = rest ∧
        (∃ h : Held, (t.dom m.domain).held = (s.dom m.domain).held ++ [h] ∧ h.msg = m ∧ h.keyStamp = m.stamp ∧
          h.late = false)) ∧
    (∀ d, d < 16 → s.dialStopped = false → (s.dom d).phase = .opened ∨ (s.dom d).phase = .closing →
      ((∀ h ∈ (s.dom d).held, s.frontierAt d s.dial h.keyStamp = false) →
        ∃ t, exec (.musterRelease d) s = .next t ∧ (t.dom d).frontier = s.dial ∧ (t.dom d).held = (s.dom d).held ∧
          t = { s with doms := t.doms }) ∧
      (∀ h, (s.dom d).held = [h] → s.frontierAt d s.dial h.keyStamp = true → s.isFeeder d = false →
        (s.dom d).fenced = 0 → (s.dom d).copyA = (s.dom d).copyB → (s.dom d).copyB = (s.dom d).copyC →
        (s.dom d).copyA ≠ 0 → (s.dom d).treeA = [] → (s.dom d).treeB = [] → (s.dom d).treeC = [] →
        ∃ t, exec (.musterRelease d) s = .next t ∧ t.reg (Reg.SEQ_LAST_NUMBER d) = (s.dom d).copyA ∧
          t.reg (Reg.SEQ_NEXT d) = (s.dom d).copyA + 1 ∧ (t.dom d).held = [])) ∧
    ∀ d rej n rest, d < 16 → (if rej then (s.dom d).backR else (s.dom d).backM) = n :: rest →
      s.entryReady d rej = true →
      ∃ t, exec (.backlogDelivery d rej) s = .next t ∧ (if rej then (t.dom d).backR else (t.dom d).backM) = rest ∧
        (t.ring (s.seqRing d rej)).hamper = (s.ring (s.seqRing d rej)).hamper.tail

/-- R405: an order-class message that reaches the hold store is judged by the first of the four tests that applies,
which drops it and counts it in that test's counter alone, and a slot outside the feed is recorded in the logbook; one
that passes all four enters the hold store, unless it is late and LATE_POLICY drops it (R105). -/
def Obligations.ArrivalJudgedByFirstTest : Prop :=
  ∀ (pipe : Nat) (m : Msg) (rest : List Msg) (s : State), pipe < 8 → running 1 s = true →
    (s.pipe pipe).fifo = m :: rest →
    let d := m.domain
    let x := s.dom d
    let fed := s.inFeed d (m.port % 256)
    let outside := decide (m.stamp < x.openAt ∨ (x.phase = .closing ∧ x.closeAt ≤ m.stamp))
    let drops := decide (x.phase = .halted) || decide (x.phase = .closed) || !fed || outside
    let key := if x.phase = .halted then Reg.SEQ_CNT_HALT_DROP d else if x.phase = .closed then Reg.SEQ_CNT_OUTSIDE d
      else if fed = false then Reg.SEQ_CNT_NOT_FED d else Reg.SEQ_CNT_OUTSIDE d
    ∃ t, exec (.holdStoreArrival pipe) s = .next t ∧ (t.pipe pipe).fifo = rest ∧
      (drops = true → (t.dom d).held = x.held ∧ counts key 1 s t ∧
        (∀ k, k ≠ key → k ≠ Reg.LOG_CNT_QUEUE_DROP → t.reg k = s.reg k) ∧
        (x.phase ≠ .halted → x.phase ≠ .closed → fed = false → s.log.queue.length < 1024 →
          t.log.queue = s.log.queue ++ [⟨0x300, 4, [d, m.port % 256], s.dial⟩])) ∧
      (drops = false → s.lateDrops d = false ∨ s.frontierAt d x.frontier m.stamp = false →
        ∃ h : Held, (t.dom d).held = x.held ++ [h] ∧ h.msg = m)

/-- R113, R114, R288: a standby keeps the record of its primary for the comparison, and where it holds the message of
that number already, a record that differs from it is a mismatch at once (DEDUCED, log entry 19); a takeover whose
checks pass makes it a plain domain, is counted, and leaves nothing kept; one of a domain that is no OPEN standby is
refused and changes nothing. -/
def Obligations.StandbyMirrorsAndTakesOver : Prop :=
  ∀ (d : Nat) (s : State), d < 16 → running 1 s = true →
    (∀ r : MirrorRec, r.stackPort < 2048 → s.role d = 2 →
      let known := (s.dom d).kept.find? fun n => n.seq == r.seq
      ∃ t, exec (.mirrorRecord d r) s = .next t ∧ (t.dom d).mirrorSeq = some r.seq ∧
        (known = none → (t.dom d).mirrors = (s.dom d).mirrors ++ [r]) ∧
        (∀ n, known = some n → (∀ q ∈ (s.dom d).mirrors, q.seq ≠ r.seq) →
          r.stamp ≠ n.msg.stamp ∨ r.stackPort ≠ n.msg.port ∨ r.bytes ≠ n.msg.bytes → (t.dom d).mismatch = true)) ∧
    ∀ (who : Party) (v : Word), accepted who s = true → bits v 3 0 = d → bit v 4 = true →
      let n := s.reg Reg.SEQ_TAKEOVER_AT
      (s.takeoverResult d n = 1 →
        ∃ t, exec (.takeover who v) s = .next t ∧ t.reg Reg.SEQ_TAKEOVER_RESULT = 1 ∧ t.role d = 0 ∧
          counts Reg.SEQ_CNT_TAKEOVERS 1 s t ∧ (t.dom d).kept = []) ∧
      (s.role d ≠ 2 ∨ (s.dom d).phase ≠ .opened →
        ∃ t, exec (.takeover who v) s = .next t ∧ t.reg Reg.SEQ_TAKEOVER_RESULT = 2 ∧
          onlyRegs [Reg.SEQ_TAKEOVER_RESULT] (discarded who Reg.SEQ_TAKEOVER s) t)

/-- R93 to R95: messages leave the merge in the order of their key stamps and, at one stamp, of their tie ranks; the
order keeps every message. With TIE_ROTATE = 1 the tie rank is (slot − s) mod 256, with s the whole second of the true
stamp, and in a stacked domain (stack port number − s) mod 2,048. -/
def Obligations.MergeOrderedByKey : Prop :=
  ∀ (d : Nat) (hs : List Held) (s : State),
    let le := fun a b => keyLe (s.heldKey d a) (s.heldKey d b)
    (sortKey le hs).Perm hs ∧
      ((sortKey le hs).Pairwise fun a b =>
        (s.heldKey d a).1 < (s.heldKey d b).1 ∨
          ((s.heldKey d a).1 = (s.heldKey d b).1 ∧ (s.heldKey d a).2.1 ≤ (s.heldKey d b).2.1)) ∧
    ∀ h : Held, s.tieRotate d = true →
      let m : Int := if s.stacked d then 2048 else 256
      ((s.heldKey d h).2.1 : Int) = ((h.msg.port : Int) - (h.msg.stamp.ns / 1000000000 : Nat)) % m

/-! ## Release and the scheduler (R121 to R135) -/

/-- R45, R122, R124, R129: while no step is pending, the descriptor at a release ring's head is taken: it is refused
with the code of the first failing check, counted, or it reserves its room and its frame is read, which fails at once
for a descriptor that HOST_LOST has abandoned. R121, R122, R123, R129: when a posting's frame has been read it is
refused with FETCH, GROUP, LATE or EARLY, in this order, or accepted under the next release number at this instant; a
step may be pending (DESIGN CHOICE, log entry 92), and DIAL_FAULT may have risen during the read (DEDUCED, log entry
45). -/
def Obligations.PostingsTakenAndAccepted : Prop :=
  (∀ (c : Nat) (x : Taken) (s : State), c < 65536 → running 3 s = true → (s.ring c).type = 3 →
    (s.ring c).head = some x → s.time.pending = none →
    let p := postingOf c x
    (s.postCheck p = 0 → x.abandoned = false →
      ∃ t, exec (.releasePost c) s = .next t ∧ t.postings = s.postings ++ [p] ∧ t.relUsed = s.relUsed + p.room ∧
        ∀ k, k ≠ Reg.REL_BUF_USED → t.reg k = s.reg k) ∧
    (s.postCheck p = 0 → x.abandoned = true →
      ∃ t, exec (.releasePost c) s = .next t ∧ counts (Reg.REL_CNT_REFUSED 9) 1 s t ∧
        regsBut [Reg.REL_BUF_USED, Reg.REL_CNT_REFUSED 9] s t) ∧
    (s.postCheck p ≠ 0 →
      ∃ t, exec (.releasePost c) s = .next t ∧
        t.postings = s.postings ++ [{ p with status := some (s.postCheck p) }] ∧
        counts (Reg.REL_CNT_REFUSED (s.postCheck p)) 1 s t ∧ regsBut [Reg.REL_CNT_REFUSED (s.postCheck p)] s t)) ∧
  ∀ (c : Nat) (p : Posting) (frame : Option (List Byte)) (s : State), c < 65536 → running 3 s = true →
    s.reading c = some p → arrives (s.ring c).owner s = true →
    let s' := if p.single then s else s.meetEntry (entryKey 4 0 p.group) 0
    let code :=
      if frame = none then 9
      else if s'.targets p = none then 7
      else if p.tRel.toNat < s'.dial.toNat + s'.minLead * nsUnits then 3
      else if s'.dial.toNat + nsPerSecond * nsUnits < p.tRel.toNat then 4 else 0
    (code ≠ 0 →
      ∃ t, exec (.releaseAcceptance c frame) s = .next t ∧ t.relNext = s.relNext ∧
        counts (Reg.REL_CNT_REFUSED code) 1 s t ∧
        ∃ q ∈ t.postings, q.ring = c ∧ q.cursor = p.cursor ∧ q.rel = 0 ∧ q.status = some code) ∧
    (code = 0 →
      ∃ t, exec (.releaseAcceptance c frame) s = .next t ∧ t.relNext = s.relNext + 1 ∧
        counts Reg.REL_CNT_ACCEPTED 1 s t ∧
        ∃ q ∈ t.postings, q.ring = c ∧ q.cursor = p.cursor ∧ q.rel = s.relNext ∧ q.acceptNs = s'.dialNs)

/-- R125 to R129: the guard of an armed copy comes into force and preempts at the first permitted point (DESIGN CHOICE,
log entry 80); while Dial counts its launcher commits it on time, or drops it when its port is not UP or cannot protect
it; its last bit makes it sent; at T_rel its RELEASE record is produced; and a decided posting's completion is written.
A commit and a last bit come about at their commands, and the guard holds from its Dial on (DEDUCED, log entry 86). -/
def Obligations.CopiesGuardedLaunchedCompleted : Prop :=
  ∀ (n rel : Nat) (p : Posting) (c : Copy) (s : State), n < 256 → 0 < rel → running 3 s = true → s.isIdle n = false →
    (s.armedCopy n rel = some (p, c) →
      (copyAt p c ≤ fine s.dial + 25 * s.guardNow n →
        ∃ t, exec (.guardBegin n rel) s = .next t ∧ t.guarded n = true ∧ t.postings = s.postings ∧
          ∀ f, (s.egr n).wire = some f → (s.egr n).preempt = true → s.wireSent n = false →
            max (s.wireSentBytes n) (64 * (1 + (s.egr n).addFrag) - 4) + 64 ≤ (s.egr n).wireBytes →
            (t.egr n).wire = none ∧ ((t.egr n).resume.map (·.1)) = some f ∧ counts (Reg.REL_CNT_PREEMPT n) 1 s t) ∧
      (s.dialStopped = false → copyAt p c ≤ fine s.dial + s.copyCal p c →
        (s.isUp n = true → s.notSecure n p.frame = false →
          ∃ t b q, exec (.launcherCommit n rel) s = .next t ∧ t.out.head? = some (.copy n rel b) ∧
            t.posting rel = some q ∧ q.copyOn n = some { c with st := .committed } ∧
            (copyAt p c ≤ fine s.dial + 25 * s.guardNow n → t.guarded n = true)) ∧
        (s.isUp n = false →
          ∃ t, exec (.launcherCommit n rel) s = .next t ∧ counts (Reg.REL_CNT_COPY_DOWN n) 1 s t ∧ t.out = s.out) ∧
        (s.isUp n = true → s.notSecure n p.frame = true →
          ∃ t, exec (.launcherCommit n rel) s = .next t ∧ counts (Reg.REL_CNT_COPY_SECURE n) 1 s t ∧
            t.out = s.out))) ∧
    (s.posting rel = some p →
      (p.copyOn n = some c → c.st = .committed → s.copyLast p c ≤ fine s.dial →
        ∃ t, exec (.copyEnd n rel) s = .next t ∧ counts (Reg.REL_CNT_COPY_SENT n) 1 s t ∧
          counts (Reg.PORT_CNT_TX_FRAMES n) 1 s t ∧
          ∃ q, t.posting rel = some q ∧ q.copyOn n = some { c with st := .sent }) ∧
      (p.audited = false → (∀ x ∈ p.copies, x.st ≠ .armed) → p.tRel ≤ s.dial → s.aud.full = false →
        s.aud.lost = 0 → s.aud.epoch = none → s.aud.pwrFail = false → s.auditNoSlot = false →
        ∃ t, exec (.releaseInstant rel) s = .next t ∧ t.reg Reg.AUD_NEXT_INDEX = s.reg Reg.AUD_NEXT_INDEX + 1 ∧
          ∃ r : AuditRec, r.kind = .release ∧ r.stamp = p.tRel ∧
            256 * r.domain + r.slot = (p.copies.filter Copy.launched).length ∧
            t.aud.epoch = some ⟨s.dial, [r.bytes s.auditIndex]⟩)) ∧
    ∀ (k : Nat) (x : Taken), k < 65536 →
      s.postings.find? (fun q => decide (q.ring = k) && !q.written) = some p → p.status.isSome →
      (s.ring k).taken.find? (fun y => y.cursor == p.cursor) = some x → x.abandoned = false → x.held = false →
      ∃ t, exec (.releaseCompletion k) s = .next t ∧ oneDone k s t ∧
        ∀ q ∈ t.postings, q.ring = k → q.cursor = p.cursor → q.rel = p.rel → q.written = true

/-- R126, R131, R132: on a free wire Q7 goes first and Q6 before the rest; with no guard in force and the port shaper
permitting, the frame picked starts on the wire, at any Dial (DESIGN CHOICE, log entry 44), or is stomped there when it
is longer than MAX_FRAME; a guard in force lets none start. A wire is free once the time of what went out is over,
whatever Dial does (DESIGN CHOICE, log entry 97). R132, R251: a FRAME_TX entry's frame joins the queue of the slot it
names when the length, the slot and its owner's share permit and the queue and the forwarding buffer have room; an entry
with another length, slot or owner, or whose frame cannot be read, completes at once and queues nothing. R134, R135:
every 100 ns each bucket gains its tokens up to its depth; a port shaper whose RATE, BURST or EN changes starts anew,
full or empty, and is counted; a queue shaper is stored and waits for the next refill. A half staged for either register
is discarded (R365). -/
def Obligations.FramesQueuedScheduledShaped : Prop :=
  (∀ (n : Nat) (s : State), n < 256 → running 3 s = true → s.isUp n = true → (s.egr n).wireEnd ≤ s.clock →
    (s.egr n).wire = none → s.maskStop = false →
    (s.maySend n 7 = true → (s.pick n).1 = some 7) ∧
    (s.maySend n 7 = false → s.maySend n 6 = true → (s.pick n).1 = some 6) ∧
    (s.guarded n = true →
      ∃ t, exec (.txSchedule n) s = .next t ∧ t.out = s.out ∧ (t.egr n).wire = none ∧
        (t.egr n).queues = (s.egr n).queues) ∧
    (s.guarded n = false → (s.egr n).resume = none →
      shaperOn (s.reg (Reg.REL_PORT_SHAPER n)) = false ∨ 0 ≤ (s.egr n).tokens →
      ∀ q f rest, (s.pick n).1 = some q → s.queue n q = f :: rest →
        (f.size ≤ s.maxFrame n →
          ∃ t b, exec (.txSchedule n) s = .next t ∧ t.queue n q = rest ∧ (t.egr n).wire = some f ∧
            t.out.head? = some (.frame n b)) ∧
        (s.maxFrame n < f.size →
          ∃ t, exec (.txSchedule n) s = .next t ∧ t.queue n q = rest ∧ (t.egr n).wire = some f ∧
            (t.egr n).stomped = true ∧ t.out = .stomped n :: s.out ∧ counts (Reg.PORT_CNT_TX_STOMPED n) 1 s t))) ∧
  (∀ (c : Nat) (x : Taken) (f : List Byte) (s : State), c < 65536 → s.clocked = true → atHead c x s = true →
    (s.ring c).type = 9 → arrives (s.ring c).owner s = true →
    let len := leField x.desc 8 2 % 16384
    let n := leField x.desc 10 1
    let q := leField x.desc 11 1 % 8
    (60 ≤ len → len ≤ 9212 → s.isIdle n = false → s.ownsSlot (s.ring c).owner n = true → s.isUp n = true →
      let g : QFrame := ⟨f.take len, q, some (c, x.cursor, (leField x.desc 11 1).testBit 3), none, none⟩
      ((s.queue n q).map QFrame.size).sum + g.size ≤ bits (s.reg (Reg.REL_Q_CFG n q)) 55 32 →
      bufferFits (g :: s.waitingFrames) = true →
      ∃ t, exec (.frameTxPost c (some f)) s = .next t ∧ t.queue n q = s.queue n q ++ [g] ∧
        t.regs = s.regs ∧ t.out = s.out) ∧
    (len < 60 ∨ 9212 < len ∨ s.isIdle n = true ∨ (x.granted = false ∧ s.ownsSlot (s.ring c).owner n = false) →
      ∃ t, exec (.frameTxPost c (some f)) s = .next t ∧ oneDone c s t ∧ t.egress = s.egress) ∧
    ∃ t, exec (.frameTxPost c none) s = .next t ∧ oneDone c s t ∧ t.egress = s.egress) ∧
  ∀ (who : Party) (n q : Nat) (v : Word) (s : State), n < 256 → q < 8 →
    (running 3 s = true →
      ∃ t, exec .shaperRefill s = .next t ∧ t = { s with egress := t.egress } ∧
        (t.egr n).qShaper = (List.range 8).map (fun i => s.reg (Reg.REL_Q_SHAPER n i)) ∧
        let p := s.reg (Reg.REL_PORT_SHAPER n)
        (t.egr n).tokens = if shaperOn p then min (shaperDepth p) ((s.egr n).tokens + shaperGain p)
          else (s.egr n).tokens) ∧
    (accepted who s = true → running 3 s = true → s.isIdle n = false →
      (let k := Reg.REL_PORT_SHAPER n
       let new := (s.reg k &&& ~~~(writableBits k)) ||| (v &&& writableBits k)
       ∃ t, exec (.relPortShaperWrite who n v) s = .next t ∧ t.reg k = new ∧
         (bits (s.reg k) 55 0 = bits new 55 0 ∧ shaperOn (s.reg k) = shaperOn new → onlyRegs [k] (discarded who k s) t) ∧
         (¬(bits (s.reg k) 55 0 = bits new 55 0 ∧ shaperOn (s.reg k) = shaperOn new) →
           (t.egr n).tokens = (if bit new 56 then shaperDepth new else 0) ∧
             counts (Reg.REL_CNT_SHAPER_RESET n) 1 s t)) ∧
      (let k := Reg.REL_Q_SHAPER n q
       ∃ t, exec (.relQShaperWrite who n q v) s = .next t ∧ onlyRegs [k] (discarded who k s) t ∧
         t.reg k = (s.reg k &&& ~~~(writableBits k)) ||| (v &&& writableBits k)))

/-! ## Receiving frames (R61 to R89) -/

/-- R61, R63, R69: a frame that fails its FCS, a runt, one longer than MAX_FRAME, and on a port that is no
infrastructure port a PAUSE or PFC frame, are dropped with their stamp and counted, in this order; a slot that is not UP
receives none. The FCS is that of IEEE 802.3 (PRESUMED, log entry 31), PAUSE and PFC frames are recognised before MACsec
(DEDUCED, log entry 49) and count in no PORT_CNT_RX_FRAMES (DESIGN CHOICE, log entry 93). R70 to R74, R84, R85: a frame
that the parser finds too deep or malformed, or that matches no class map entry, goes to the exception path with its
reason while its slot has a token and its pipeline's share room; one whose entry says DROP is counted; and at any time
the cores' consuming the oldest frame of a share frees its room (DEDUCED, log entry 55). R64, R66, R67: each codeword of
a FEC mode on a slot that is UP is counted; one with symbols corrected counts them; one beyond the FEC's capacity counts
as uncorrectable, with the frames it touches as dropped and the stamps of those of them that have one as discarded. -/
def Obligations.FramesFilteredAndClassified : Prop :=
  (∀ (r : RxFrame) (s : State), r.lane < 256 → running 2 s = true →
    let n := s.portOfLane r.lane
    let f := r.bytes.take (r.bytes.length - 4)
    let len := r.bytes.length - (if s.macsecOn n then secOverhead f else 0)
    let pause := decide (etherType f = 0x8808) && decide (beField f 14 2 = 1 ∨ beField f 14 2 = 0x0101) && !s.isInfra n
    let key :=
      if r.bytes.drop f.length ≠ fcsBytes f then Reg.PORT_CNT_RX_FCS_ERR n
      else if r.bytes.length < 64 then Reg.PORT_CNT_RX_RUNT n
      else if s.maxFrame n < len then Reg.PORT_CNT_RX_OVERSIZE n else Reg.PORT_CNT_PAUSE_IGNORED n
    (s.isUp n = false → exec (.frameReceived r) s = .next s) ∧
    (s.isUp n = true →
      r.bytes.drop f.length ≠ fcsBytes f ∨ r.bytes.length < 64 ∨ s.maxFrame n < len ∨ pause = true →
      ∃ t, exec (.frameReceived r) s = .next t ∧ counts key 1 s t ∧ counts (Reg.PORT_CNT_STAMP_DISCARD n) 1 s t ∧
        onlyRegs [key, Reg.PORT_CNT_STAMP_DISCARD n] s t)) ∧
  ((∀ (pipe : Nat) (s : State), pipe < 8 → s.clocked = true →
    ∃ t, exec (.exceptionFrameConsumed pipe) s = .next t ∧
      (t.pipe pipe).excFrames = (s.pipe pipe).excFrames.tail ∧ t = { s with pipes := t.pipes } ∧
      ∀ k, k ≠ pipe → t.pipe k = s.pipe k) ∧
  ∀ (r : RxFrame) (s : State), receivable r s = true →
    let n := s.portOfLane r.lane
    let f := r.bytes.take (r.bytes.length - 4)
    let stamp := s.stamp (laneMode (s.portMode n)) n r
    let s1 := s.rxCount n f
    let reason :=
      match parseFrame f with
      | .depth => 3
      | .malformed => 4
      | .ok p => if !p.isPtp && (s1.classLookup n p).1 = none then 2 else 0
    (reason ≠ 0 → (s1.excToken n stamp).1 = true → s.excUsed (n / 32) + 96 + f.length ≤ excShare →
      ∃ t, exec (.frameReceived r) s = .next t ∧ counts (Reg.PIPE_CNT_EXC_SENT n) 1 s t ∧
        counts (Reg.PIPE_CNT_EXC_REASON (n / 32) reason) 1 s t ∧
        (∃ b size, t.out.head? = some (.exception (n / 32) b) ∧ size = b.length ∧
          (t.pipe (n / 32)).excFrames = (s.pipe (n / 32)).excFrames ++ [size])) ∧
    ∀ p cls, parseFrame f = .ok p → p.isPtp = false → (s1.classLookup n p).1 = some cls →
      5 ≤ imgField ((s1.classLookup n p).2.entry (entryKey 3 0 cls)).img 51 1 % 8 →
      ∃ t, exec (.frameReceived r) s = .next t ∧ counts (Reg.PIPE_CNT_CLASS_DROP n) 1 s t ∧ t.out = s.out) ∧
  ∀ (lane symbols : Nat) (touched : TouchedFrames) (s : State), lane < 256 → running 2 s = true →
    let n := s.portOfLane lane
    let cap := fecCapacity (fecOf (s.portMode n))
    s.isUp n = true → fecOf (s.portMode n) ≠ 0 → s.hiSerNow n = false → (s.port n).hiSer = false →
    (symbols ≤ cap → ((s.port n).window.filter id).length < 16 →
      ∃ t, exec (.codewordDecoded lane symbols touched [] []) s = .next t ∧
        counts (Reg.PORT_CNT_FEC_CW n) 1 s t ∧ counts (Reg.PORT_CNT_FEC_SYM_CORR n) symbols s t ∧ t.out = s.out ∧
        (t.port n).receiving = touched.partway ∧
        (t.port n).window = (false :: (s.port n).window).take 8192) ∧
    (cap < symbols → ((s.port n).window.filter id).length < 16 →
      ∃ t, exec (.codewordDecoded lane symbols touched [] []) s = .next t ∧
        counts (Reg.PORT_CNT_FEC_CW n) 1 s t ∧ counts (Reg.PORT_CNT_FEC_CW_UNCORR n) 1 s t ∧
        counts (Reg.PORT_CNT_FEC_FRAME_DROP n) touched.dropped s t ∧
        counts (Reg.PORT_CNT_STAMP_DISCARD n) (min touched.stamped touched.dropped) s t ∧
        (t.port n).window = (true :: (s.port n).window).take 8192)

/-- R75, R79, R81, R82, R93: an order-class message that its template recognises spends a token of its slot at its stamp
or is dropped and counted; admitted, it is judged by the risk checks, takes the slot's next arrival index, and joins its
pipeline's FIFO with its stamp, its bytes and the code of its first failing check. -/
def Obligations.OrderMessagesAdmitted : Prop :=
  ∀ (n d : Nat) (stamp : Dial) (f : List Byte) (v : RiskInput) (s : State), s.dialStopped = false →
    let t := s.orderMessage n d stamp f v
    let spent := ((s.policer n).upTo stamp).bucket.spend stamp
    counts (Reg.PIPE_CNT_ORDER n) 1 s t ∧
    (spent.1 = false →
      counts (Reg.PIPE_CNT_ADMIT_DROP n) 1 s t ∧ (t.pipe (n / 32)).fifo = (s.pipe (n / 32)).fifo ∧
        t.arrivals = s.arrivals) ∧
    (spent.1 = true →
      let fails := riskFails n v (s.riskEntry 0 (n / 32) stamp v.session) (s.riskEntry 1 (n / 32) stamp v.instrument)
        (s.passedIn (n / 32) (v.session.getD 0) (stamp.ns / 1000000))
      ∃ m : Msg, (t.pipe (n / 32)).fifo = (s.pipe (n / 32)).fifo ++ [m] ∧ m.domain = d ∧ m.stamp = stamp ∧
        m.bytes = f ∧ m.reason = BitVec.ofNat 8 (riskVerdict fails).1 ∧
        m.arrival = Store.get (fun _ => 0) s.arrivals n ∧
        Store.get (fun _ => 0) t.arrivals n = m.arrival + 1)

/-- R11, R76, R79, R335: ADMIT_SET stores a slot's rate and burst unless the rate is too high or the hold store would
not fit, which it refuses with CONFIG_LIMIT, or the slot is idle, whose write is ignored and counted; word 0 of a
template commits its staged words while no domain is open, and is refused and counted otherwise. A word never staged
commits as 0 (DESIGN CHOICE, log entry 57). A half staged for word 0 is discarded (R365). -/
def Obligations.AdmissionAndTemplatesConfigured : Prop :=
  (∀ (c : Nat) (x : Taken) (s : State), adminAt c 0x20 x s = true →
    let n := bits (adminParam x.desc 0) 7 0
    let rate := bits (adminParam x.desc 1) 31 0
    let fits := s.storeFits (fun i => if i = n then rate else s.admitRate i) s.seqCfg
    ∃ t, exec (.admitSet c) s = .next t ∧
      (rate ≤ 150000000 → fits = true → s.isIdle n = false →
        oneDone c s t ∧
          t.reg (Reg.PIPE_ADMIT n) = word (rate + bits (adminParam x.desc 1) 47 32 * 2 ^ 32)) ∧
      (rate ≤ 150000000 → fits = true → s.isIdle n = true →
        adminEnds c 0 x s t ∧ counts Reg.PORT_CNT_IDLE_SLOT_WRITES 1 s t ∧
          t.reg (Reg.PIPE_ADMIT n) = s.reg (Reg.PIPE_ADMIT n)) ∧
      (150000000 < rate ∨ fits = false → adminEnds c 0x83 x s t ∧ t.reg (Reg.PIPE_ADMIT n) = s.reg (Reg.PIPE_ADMIT n))) ∧
  ∀ (who : Party) (i : Nat) (v : Word) (s : State), i < 1024 → accepted who s = true →
    let k0 := Reg.PIPE_TMPL_W0 i
    (s.anyOpen = false → bits v 25 16 = i →
      ∃ t, exec (.pipeTmplW0Write who i v) s = .next t ∧
        t.reg k0 = (s.reg k0 &&& ~~~(writableBits k0)) ||| (v &&& writableBits k0) ∧
        (∀ k ∈ [Reg.PIPE_TMPL_W1 i, Reg.PIPE_TMPL_W2 i, Reg.PIPE_TMPL_W3 i],
          t.reg k = (s.reg k &&& ~~~(writableBits k)) ||| (s.stagedWord k &&& writableBits k)) ∧
        onlyRegs [k0, Reg.PIPE_TMPL_W1 i, Reg.PIPE_TMPL_W2 i, Reg.PIPE_TMPL_W3 i] (discarded who k0 s) t) ∧
    (s.anyOpen = true ∨ bits v 25 16 ≠ i →
      ∃ t, exec (.pipeTmplW0Write who i v) s = .next t ∧ counts Reg.PIPE_CNT_TMPL_REFUSED 1 s t ∧
        onlyRegs [Reg.PIPE_CNT_TMPL_REFUSED] (discarded who k0 s) t)

/-! ## Lookup tables (R83, R140 to R157) -/

/-- R150, R154: an operation that the table does not allow is refused with TABLE_OP by any table command (DEDUCED, log
entry 46), and an index or a target outside the table or the owner's share with INDEX; no table changes. R143, R150 to
R152, R406: LOCK takes an entry while its pipelines have side counters; WRITE replaces a locked entry whole, or is
refused by its first failing check, BAD_PREFIX last of all (DEDUCED, log entry 46); UNLOCK merges the side counts; READ
gives the image to the owner, before the effective instant of a WRITE the old one (DEDUCED, log entry 46). -/
def Obligations.TableEntriesReadAndWritten : Prop :=
  (∀ (c : Nat) (x : Taken) (b : Option (List Byte)) (s : State), c < 65536 → s.clocked = true → atHead c x s = true →
    (s.ring c).type = 4 → s.updHeld c = false → arrives (s.ring c).owner s = true →
    (opAllowed (updTable x.desc) (updOp x.desc) = false →
      ∀ i ∈ [Instr.tableRead c b, .tableLock c, .tableWrite c b, .tableUnlock c, .tableInsert c b, .tableDelete c b],
        ∃ t, exec i s = .next t ∧ tableEnds c 1 x s t ∧ counts (Reg.TBL_CNT_UPD_REFUSED 1) 1 s t ∧
          t.tables = s.tables ∧ t.lpm = s.lpm) ∧
    (opAllowed (updTable x.desc) (updOp x.desc) = true →
      indexOk (updTable x.desc) (updTarget x.desc) (updIndex x.desc) = false ∨
        s.updShared (s.ring c).owner (updTable x.desc) (updTarget x.desc) (updIndex x.desc) = false →
      ∀ i, [Instr.tableRead c b, .tableLock c, .tableWrite c b, .tableUnlock c, .tableInsert c b,
          .tableDelete c b][updOp x.desc]? = some i →
        ∃ t, exec i s = .next t ∧ tableEnds c 2 x s t ∧ t.tables = s.tables ∧ t.lpm = s.lpm)) ∧
  ∀ (c : Nat) (x : Taken) (s : State),
    let k := updKey x.desc
    let tab := updTable x.desc
    (tableAt c 0 x s = true → tab < 6 → arrives (s.ring c).owner s = true →
      ∃ t, exec (.tableRead c none) s = .next t ∧ tableEnds c 0 x s t ∧ t.tables = s.tables ∧
        (issues (s.ring c).owner s = true →
          .dmaWrite (s.ring c).owner (leField x.desc 0 8) (((s.entry k).asOf s.dial).readImage tab) false ∈
            t.out)) ∧
    (tableAt c 1 x s = true → (s.entry k).lock = false →
      ∃ t, exec (.tableLock c) s = .next t ∧
        ((∀ p ∈ sidePools k, s.sideUsed p < 256) → tableEnds c 0 x s t ∧ (t.entry k).lock = true ∧
          (t.entry k).img = (s.entry k).img ∧ ∀ j, j ≠ k → t.entry j = s.entry j) ∧
        ((∃ p ∈ sidePools k, 256 ≤ s.sideUsed p) → tableEnds c 4 x s t ∧ t.tables = s.tables)) ∧
    (∀ b, tableAt c 2 x s = true → arrives (s.ring c).owner s = true → (s.entry k).old = none →
      let st := s.writeCheck (s.ring c).owner (keyTable k) k (imageOf b)
      ∃ t, exec (.tableWrite c (some b)) s = .next t ∧ tableEnds c st x s t ∧
        (st = 0 → (t.entry k).img = storedImage (keyTable k) (imageOf b) ∧ (t.entry k).lock = true ∧
          ∀ j, j ≠ k → t.entry j = s.entry j) ∧
        (st ≠ 0 → t.tables = s.tables)) ∧
    (∀ b, tableAt c 2 x s = true → arrives (s.ring c).owner s = true → (s.entry k).old.isSome →
      ∃ t, exec (.tableWrite c (some b)) s = .next t ∧ t = { s with heldUpd := s.heldUpd ++ [⟨c, k, false, some b⟩] }) ∧
    (tableAt c 3 x s = true → (s.entry k).lock = true → (s.entry k).old = none →
      ∃ t, exec (.tableUnlock c) s = .next t ∧ tableEnds c 0 x s t ∧ (t.entry k).lock = false ∧
        (t.entry k).counts = addCounts (s.entry k).counts (s.entry k).side ∧ (t.entry k).img = (s.entry k).img ∧
        ∀ j, j ≠ k → t.entry j = s.entry j)

/-- R148, R149, R153: INSERT adds a prefix that is not installed while its table has room for it and its trie blocks,
and changes the next hop of an installed one; DELETE removes an installed one, and completes with NO_PREFIX for another.
R83, R156, R157: old contents whose margin has passed everywhere are released; a pass of the sweeper visits every MAC
entry of its pipeline but those hit in its cycle, and one that was still running at the next boundary is counted as an
overrun; the scrubber reports the bad copy of an entry that it meets once. A pass makes its visits in the command that
ends it, and an overrun is a pass that starts late (DEDUCED, log entry 46). -/
def Obligations.PrefixesAndAgeing : Prop :=
  (∀ (c : Nat) (x : Taken) (b : List Byte) (s : State),
    let v6 := decide (updTable x.desc = 7)
    let len := (imagePrefix v6 b).1
    let addr := (imagePrefix v6 b).2
    let pair := updTarget x.desc
    let here := fun (p : Prefix) => p.names pair v6 len addr
    let new : Prefix := ⟨pair, v6, addr / 2 ^ (lpmWidth v6 - len), len, leField b 20 2⟩
    prefixOk v6 len addr = true → arrives (s.ring c).owner s = true →
    (tableAt c 4 x s = true →
      ∃ t, exec (.tableInsert c (some b)) s = .next t ∧
        (s.lpm.any here = true → tableEnds c 0 x s t ∧
          t.lpm = s.lpm.map fun p => if here p then { p with nexthop := leField b 20 2 } else p) ∧
        (s.lpm.any here = false → maxPrefixes v6 ≤ (s.prefixes pair v6).length →
          tableEnds c 7 x s t ∧ t.lpm = s.lpm) ∧
        (s.lpm.any here = false → (s.prefixes pair v6).length < maxPrefixes v6 →
          16384 < lpmBlocks (new :: s.prefixes pair v6) → tableEnds c 8 x s t ∧ t.lpm = s.lpm) ∧
        (s.lpm.any here = false → (s.prefixes pair v6).length < maxPrefixes v6 →
          lpmBlocks (new :: s.prefixes pair v6) ≤ 16384 → tableEnds c 0 x s t ∧ t.lpm = s.lpm ++ [new])) ∧
    (tableAt c 5 x s = true →
      ∃ t, exec (.tableDelete c (some b)) s = .next t ∧
        (s.lpm.any here = true → tableEnds c 0 x s t ∧ t.lpm = s.lpm.filter fun p => !here p) ∧
        (s.lpm.any here = false → tableEnds c 9 x s t ∧ t.lpm = s.lpm))) ∧
  ∀ (table inst index pipe : Nat) (s : State), s.clocked = true → pipe < 8 → inst < 8 → index < 0x100000 →
    let k := entryKey table (tableInst table inst) index
    (∀ o, (s.entry k).old = some o → s.oldDone k o = true → (∀ h ∈ s.heldUpd, h.key ≠ k) →
      ∃ t, exec (.oldContentsRelease table inst index) s = .next t ∧ t.entry k = { s.entry k with old := none } ∧
        ∀ j, j ≠ k → t.entry j = s.entry j) ∧
    (let visited := (s.tables.map fun (j, e) =>
        (j, if keyTable j = 2 ∧ keyInst j = pipe ∧ (s.pipe pipe).hitNow.contains (s.clock, j) = false then e.visit
          else e)).filter (fun x => x.2 != Entry.empty);
      (s.sweeping pipe = 1 →
        ∃ t, exec (.sweepPass pipe) s = .next t ∧ t.tables = visited ∧ t.sweeping pipe = 0) ∧
      (2 ≤ s.sweeping pipe →
        ∃ t, exec (.sweepOverrun pipe) s = .next t ∧ t.tables = visited ∧ t.sweeping pipe = s.sweeping pipe - 1 ∧
          counts Reg.TBL_CNT_SWEEP_OVERRUN 1 s t)) ∧
    (let i := entryCopy k inst;
      table < 6 → (s.entry k).bad i = true → (s.entry k).reported.getLsbD i = false →
      ∃ t, exec (.tableScrub table inst index) s = .next t ∧
        t.entry k = { s.entry k with reported := (s.entry k).reported ||| BitVec.ofNat 8 (2 ^ i) } ∧
        counts (Reg.TBL_CNT_PARITY (keyTable k)) 1 s t ∧ t.reg Reg.TBL_PARITY_DIAL = word s.dialNs)

/-! ## Power (R161, R177, R179, R341 to R356) -/

/-- R161, R177, R179, R341, R343: a power failure, by PWRFAIL_N or the droop detector, stops every port; a supply
collapse writes whole words only and loses retention SRAM; rails out of order hold the device in reset; and each PLL's
loss of lock stops what it clocks, that of the system, HBM or always-on PLL resets the device (DEDUCED, log entry 72).
R345, R346, R353, R355, R356: PF0 of H0, the Foreman and the cores may ask for Sprint, which is granted to the clusters
asked for while its conditions hold and ends at once for those no longer asked for (DEDUCED, log entry 72); another's
write is ignored and counted; Deep Rest is refused with the code of its first failing check, and entered otherwise. A
half staged for either register is discarded (R365). -/
def Obligations.PowerLossSprintAndRest : Prop :=
  (∀ s : State,
    (s.clocked = true →
      (∃ t, exec .powerFail s = .next t ∧ t.phase = .powerFailed ∧ (∀ n, n < 256 → t.isUp n = false) ∧
        ∀ n, n < 256 → s.isUp n = true → (t.egr n).wire = none) ∧
      (∃ t, exec .droopTrip s = .next t ∧ t.phase = .powerFailed ∧ (∀ n, n < 256 → t.isUp n = false) ∧
        counts Reg.PWR_CNT_DROOP 1 s t)) ∧
    (∀ written, ∃ t, exec (.supplyCollapse written) s = .next t ∧ t.phase = .off ∧ t.retention = [] ∧ t.regs = s.regs ∧
      t.ledger = ((s.aud.queue.take written).foldl (fun u x => State.ledgerWord x.1 x.2 u) s).ledger) ∧
    (∃ t, exec .seqErr s = .next t ∧ t.phase = .seqHeld ∧ t.power.seqErr = true ∧ t.ledger = s.settleLedger.ledger ∧
      t.pending = s.pending) ∧
    (s.clocked = true →
      (∀ k, k < 8 → s.power.stopped.getLsbD k = false →
        ∃ t, exec (.pllLockLoss (.cluster k)) s = .next t ∧ t.clusterFreq k = 0 ∧ t.power.stopped.getLsbD k = true ∧
          onlyRegs [Reg.PWR_CLUSTER_FREQ k] { s with power := t.power, life := t.life } t) ∧
      (s.time.disc = .locked →
        ∃ t, exec (.pllLockLoss .time) s = .next t ∧ t.time.disc = .holdover ∧ t.time.pllLocked = false) ∧
      (∃ t, exec (.pllLockLoss .cipher) s = .next t ∧ t = { s with lamp := { s.lamp with pllLost := true } }) ∧
      (∃ t, exec (.pllLockLoss .trace) s = .next t ∧ t = { s with pmu := { s.pmu with portStopped := true } }) ∧
      ∀ pll ∈ [Pll.system, .hbm, .alwaysOn],
        ∃ t, exec (.pllLockLoss pll) s = .next t ∧ (t.phase = .running ∨ t.phase = .recovery))) ∧
  ∀ (who : Party) (v : Word) (s : State), accepted who s = true →
    let req := BitVec.ofNat 8 (bits v 7 0)
    let free := req &&& ~~~s.power.sprint &&& ~~~s.power.stopped
    (who = .pf 0 ∨ who = .foreman ∨ who = .cores →
      ∃ t, exec (.pwrSprintReqWrite who v) s = .next t ∧ t.reg Reg.PWR_SPRINT_REQ = word req.toNat ∧
        t.power.sprint = (s.power.sprint &&& req) ||| (if s.sprintAllowed then free else 0)) ∧
    (who ≠ .pf 0 → who ≠ .foreman → who ≠ .cores →
      ∃ t, exec (.pwrSprintReqWrite who v) s = .next t ∧ counts Reg.GEN_CNT_IGNORED 1 s t ∧
        onlyRegs [Reg.GEN_CNT_IGNORED] (discarded who Reg.PWR_SPRINT_REQ s) t) ∧
    let code :=
      if who ≠ .pf 0 ∧ who ≠ .foreman then 6
      else if s.anyOpen then 2
      else if s.anyArmed then 3
      else if !s.journalUsed.isEmpty then 4
      else if s.gal.links.any (fun l => decide (l.phase = .up)) then 5 else 1
    (code ≠ 1 →
      ∃ t, exec (.deepRestEnter who) s = .next t ∧ t.reg Reg.PWR_REST_RESULT = word code ∧
        counts Reg.PWR_CNT_REST_REFUSED 1 s t ∧
        onlyRegs [Reg.PWR_REST_RESULT, Reg.PWR_CNT_REST_REFUSED] (discarded who Reg.PWR_REST_CTL s) t) ∧
    (code = 1 →
      ∃ t, exec (.deepRestEnter who) s = .next t ∧ t.phase = .rest ∧ t.power.restReady = true ∧ t.aud.queue = [] ∧
        (∀ n, n < 256 → t.isUp n = false) ∧ t.out.head? = some (.pin "ALERT" true))

/-- R345 to R348, R351: a sample of 110 °C trips the device; a cooler one raises the ladder to the level it asks for,
counting each level entered, level 3 with its logbook record and its vector, and ten samples below the exit condition
lower it by one; each millisecond the ladder slows the clusters while Tj or the cap asks for it (DEDUCED, log entry 72)
and sheds an engine from level 2 on; the average of power caps it above 690 W up to 670 W, refills Sprint below its
base, uses it up while a cluster sprints, and ends Sprint at 690 W. -/
def Obligations.LadderFollowsHeatAndPower : Prop :=
  ∀ s : State, s.clocked = true →
    (∀ xs : List Int, xs ≠ [] →
      let hot := (hottest xs).2
      let s1 := { s with power := { s.power with tj := hot, hotSensor := (hottest xs).1 } }
      let vector := bits (s.reg Reg.PWR_CFG) 58 48
      (110 ≤ hot →
        ∃ t, exec (.sensorSample xs) s = .next t ∧ t.phase = .tripped ∧ t.power.trip = true ∧
          t.out.head? = some (.pin "THERMTRIP_N" false)) ∧
      (hot < 110 → ∃ t, exec (.sensorSample xs) s = .next t ∧ t.power.tj = hot ∧ t.phase = s.phase ∧
        (s.power.level < s1.levelWanted → t.power.level = s1.levelWanted ∧
          (∀ l, s.power.level ≤ l → l < s1.levelWanted → counts (levelCounter (l + 1)) 1 s t) ∧
          (s1.levelWanted = 3 → s.log.queue.length < 1024 →
            t.log.queue = s.log.queue ++ [⟨0x022, 15, [(hottest xs).1, (BitVec.ofInt 32 hot).toNat], s.dial⟩]) ∧
          (s1.levelWanted = 3 → s.vectorOpen (.pf 0) vector = true → issues (.pf 0) s = true →
            ∃ a d, Out.msix (.pf 0) vector a d ∈ t.out)) ∧
        (s1.levelWanted ≤ s.power.level → s1.levelCool = true →
          t.power.level = if 9 ≤ s.power.below then s.power.level - 1 else s.power.level) ∧
        (s1.levelWanted ≤ s.power.level → s1.levelCool = false → t.power.level = s.power.level ∧ t.power.below = 0))) ∧
    (∃ t, exec .ladderStep s = .next t ∧
      (1 ≤ s.power.level → 95 ≤ s.power.tj ∨ s.power.capped = true → ∀ k, k < 8 → s.power.stopped.getLsbD k = false →
        t.clusterFreq k = if 800 < s.clusterFreq k then max 800 (s.clusterFreq k - 200) else s.clusterFreq k) ∧
      (2 ≤ s.power.level → s.lamp.shed < 12 → t.lamp.shed = s.lamp.shed + 1) ∧
      (s.power.level < 2 → 0 < s.lamp.shed → t.lamp.shed = s.lamp.shed - 1)) ∧
    ∀ w, ∃ t, exec (.powerAverage w) s = .next t ∧ t.power.average = w ∧
      (s.sprinting = false → s.power.capped = false → 6900 < w → t.power.capped = true ∧ counts Reg.PWR_CNT_CAP 1 s t ∧
        (s.power.level = 0 → 1 ≤ t.power.level ∧ counts Reg.PWR_CNT_SHED_CORES 1 s t)) ∧
      (s.sprinting = false → s.power.capped = true → w ≤ 6700 → t.power.capped = false) ∧
      (s.sprinting = false → w < 10 * min 690 (bits (s.reg Reg.PWR_CFG) 25 16) →
        t.sprintLeft = min 20000 (s.sprintLeft + 1)) ∧
      (s.sprinting = true → t.sprintLeft = s.sprintLeft - 1) ∧
      (s.sprinting = true → 6900 ≤ w → counts Reg.PWR_CNT_SPRINT_CAPPED 1 s t ∧
        (6900 < w + 10 * bits (s.reg Reg.PWR_CFG) 15 8 → t.power.sprint = 0)) ∧
      (s.sprinting = true → s.sprintLeft ≤ 1 → t.power.sprint = 0)

/-! ## The lamp room (R185 to R213) -/

/-- R187, R190: a key command that names a slot outside its issuer's share is refused with BAD_SLOT, counted, and
changes no slot. R185, R186, R188, R189: a key loaded from a wrapped blob, generated, agreed or derived comes into its
EMPTY slot ACTIVE, under its type (an XTS key that is generated with two halves that differ, by one further draw at
most: DEDUCED, log entry 90), and the command completes DONE and is counted; a blob that fails its integrity check, or
whose plaintext is no key, is refused with that check's code and changes no key, its data being judged last (DEDUCED,
log entry 8). -/
def Obligations.KeysMadeByOwners : Prop :=
  (∀ (c : Nat) (x : Taken) (b : Option (List Byte)) (s : State), running 5 s = true →
    s.ownsKey (s.ring c).owner (keyField x 13 0) = false → arrives (s.ring c).owner s = true →
    ∀ i op, (op, i) ∈ [(0x40, Instr.keyLoad c b), (0x41, .keyGenerate c), (0x42, .keyEcdhGen c), (0x43, .keyAgree c b b),
        (0x44, .keyDeriveMka c b), (0x45, .keyExport c), (0x46, .keySeal c b b), (0x47, .keyDestroy c),
        (0x48, .keyQuery c)] →
      adminAt c op x s = true →
      ∃ t, exec i s = .next t ∧ adminEnds c 1 x s t ∧ counts Reg.LAMP_CNT_KEYCMD_REFUSED 1 s t ∧ t.lamp = s.lamp) ∧
  ∀ (c : Nat) (x : Taken) (s : State), running 5 s = true →
    let o := (s.ring c).owner
    let i := keyField x 13 0
    let j := keyField x 29 16
    let k := keyField x 45 32
    let ends := fun t => adminEnds c 0 x s t ∧ counts Reg.LAMP_CNT_KEYCMD 1 s t
    s.ownsKey o i = true → arrives o s = true →
    (∀ b, adminAt c 0x40 x s = true → s.ownsKey o j = true → (s.keySlotAt i).state = .empty →
      (s.keySlotAt j).type = 4 → (s.keySlotAt j).state ≠ .closed → 16 ≤ keyField x 47 32 → keyField x 47 32 % 8 = 0 →
      let m := Modes.kwpUnwrap (s.keySlotAt j).key (slice b 0 (keyField x 47 32))
      ∃ t, exec (.keyLoad c (some b)) s = .next t ∧
        (m = none → adminEnds c 4 x s t ∧ t.lamp = s.lamp) ∧
        (m.isSome → m.bind slotOfBlob = none → adminEnds c 3 x s t ∧ t.lamp = s.lamp) ∧
        ∀ w, m.bind slotOfBlob = some w →
          ends t ∧ t.keySlotAt i = w ∧ ∀ n, n ≠ i → t.keySlotAt n = s.keySlotAt n) ∧
    (adminAt c 0x41 x s = true → (s.keySlotAt i).state = .empty → keyField x 19 16 ≠ 5 →
      keyLengthOk (keyField x 19 16) (lenBytes (keyField x 25 24)) = true → s.entropyOk = true →
      let half := lenBytes (keyField x 25 24) / 2
      ∃ t, exec (.keyGenerate c) s = .next t ∧ ends t ∧ (t.keySlotAt i).type = keyField x 19 16 ∧
        (keyField x 19 16 = 2 → (t.keySlotAt i).key.take half ≠ (t.keySlotAt i).key.drop half) ∧
        (t.keySlotAt i).state = .active ∧ ∀ n, n ≠ i → t.keySlotAt n = s.keySlotAt n) ∧
    (adminAt c 0x42 x s = true → (s.keySlotAt i).state = .empty → s.entropyOk = true →
      ∃ t, exec (.keyEcdhGen c) s = .next t ∧ ends t ∧ (t.keySlotAt i).type = 5 ∧ (t.keySlotAt i).state = .active ∧
        (t.keySlotAt i).exportable = false ∧ ∀ n, n ≠ i → t.keySlotAt n = s.keySlotAt n) ∧
    (∀ q f z xy y, adminAt c 0x43 x s = true → s.ownsKey o j = true → (s.keySlotAt j).state = .empty →
      (s.keySlotAt i).type = 5 → (s.keySlotAt i).state ≠ .closed → keyField x 40 32 ≤ 256 → P384.decode q = some xy →
      P384.mul (beNat (s.keySlotAt i).key) (some xy) = some (z, y) →
      ∃ t, exec (.keyAgree c (some q) (some f)) s = .next t ∧ ends t ∧ (t.keySlotAt j).type = 4 ∧
        (t.keySlotAt j).key = Modes.oneStepKdf (beBytes 48 z) (slice f 0 (keyField x 40 32))) ∧
    (∀ b, adminAt c 0x44 x s = true → s.ownsKey o j = true → s.ownsKey o k = true → (s.keySlotAt j).state = .empty →
      (s.keySlotAt k).state = .empty → (s.keySlotAt i).type = 7 → (s.keySlotAt i).state ≠ .closed →
      1 ≤ keyField x 53 48 → keyField x 53 48 ≤ 32 → j ≠ k →
      ∃ t, exec (.keyDeriveMka c (some b)) s = .next t ∧ ends t ∧ (t.keySlotAt j).type = 8 ∧ (t.keySlotAt k).type = 9 ∧
        (t.keySlotAt j).state = .active ∧ (t.keySlotAt k).state = .active)

/-- R188, R190 to R192: an EXPORTABLE key leaves only wrapped; a sealed key is persistent, its record, mark and blob at
their place in the ledger (DEDUCED, log entry 90); a key in use is not destroyed, and one in no use becomes EMPTY, after
the last started job that holds it; a query changes no key. -/
def Obligations.KeysExportedSealedDestroyed : Prop :=
  ∀ (c : Nat) (x : Taken) (s : State), running 5 s = true →
    let o := (s.ring c).owner
    let i := keyField x 13 0
    let j := keyField x 29 16
    let k := s.keySlotAt i
    s.ownsKey o i = true → arrives o s = true →
    (adminAt c 0x45 x s = true → s.ownsKey o j = true → k.type ≠ 0 → wrapsType (s.keySlotAt j) k.type = true →
      k.state ≠ .closed → (s.keySlotAt j).state ≠ .closed →
      ∃ t, exec (.keyExport c) s = .next t ∧ t.lamp = s.lamp ∧
        (k.exportable = true → adminEnds c 0 x s t ∧
          (issues o s = true →
            .dmaWrite o (adminParam x.desc 1).toNat (Modes.kwpWrap (s.keySlotAt j).key k.blob) false ∈ t.out)) ∧
        (k.exportable = false → adminEnds c 6 x s t)) ∧
    (adminAt c 0x46 x s = true → k.state = .active → k.type ≠ 3 → k.persistent = true ∨ s.persistentSlots < 4096 →
      adminParam x.desc 1 = 0 → adminParam x.desc 2 = 0 →
      let place := if k.persistent then k.place else s.freePlace
      let mark := if k.persistent then s.ledgerRead (markAddr place) else k.counter
      ∃ t, exec (.keySeal c none none) s = .next t ∧
        adminEnds c 0 x (s.writeBlobs i place mark k.blob [s.measurement]) t ∧ (t.keySlotAt i).persistent = true ∧
        (t.keySlotAt i).place = place ∧ (t.keySlotAt i).seals = [s.measurement] ∧ (t.keySlotAt i).key = k.key) ∧
    (adminAt c 0x47 x s = true →
      ∃ t, exec (.keyDestroy c) s = .next t ∧
        (s.keyInUse i = true → adminEnds c 7 x s t ∧ t.lamp = s.lamp) ∧
        (s.keyInUse i = false → s.keyHolders i = 0 → adminEnds c 0 x (s.emptyKey i) t ∧ t.keySlotAt i = KeySlot.none ∧
          ∀ n, n ≠ i → t.keySlotAt n = s.keySlotAt n) ∧
        (s.keyInUse i = false → 0 < s.keyHolders i → (t.keySlotAt i).dying = some (k.dying.getD [] ++ [(c, x.cursor)]) ∧
          (t.keySlotAt i).key = k.key ∧ t.out = s.out)) ∧
    (adminAt c 0x48 x s = true →
      ∃ t, exec (.keyQuery c) s = .next t ∧ adminEnds c 0 x s t ∧ t.lamp = s.lamp)

/-- R194 to R196: firmware, and PF0 of H0 where the policy allows it, may write MACsec registers; the SA in use, a PN of
a VALID SA, an SA that names a slot without a MACSEC key, and every write of another party are refused and counted, the
SC registers like the SA registers and an SA by the slot that the write names, whatever VALID is (DEDUCED, log entry
47); a write of ENCODING_AN by one of them is stored. A half staged for the register is discarded (R365). -/
def Obligations.MacsecRegistersWritten : Prop :=
  ∀ (who : Party) (n off : Nat) (v : Word) (s : State), n < 256 → accepted who s = true → running 5 s = true → s.isIdle n = false →
    let k := 0x880000 + 0x800 * n + off
    let tx := decide (0x40 ≤ off ∧ off < 0x80)
    let rx := decide (0x100 ≤ off ∧ off < 0x500 ∧ 0x40 ≤ off % 0x80)
    let stored := (s.reg k &&& ~~~(writableBits k)) ||| (v &&& writableBits k)
    let slot := s.keySlotAt (bits v 15 2)
    (s.saWriter who = false ∨ (tx = true ∧ off / 16 % 4 = s.encodingAn n) ∨
        ((tx || rx) = true ∧ off % 16 = 8 ∧ bit (s.reg (k - 8)) 0 = true) ∨
        ((tx || rx) = true ∧ off % 16 ≠ 8 ∧ (slot.type ≠ 3 ∨ (bit v 16 = true ∧ slot.salt = []))) →
      ∃ t, exec (.lampSaWrite who n off v) s = .next t ∧ counts Reg.LAMP_CNT_SA_WRITE_REFUSED 1 s t ∧
        onlyRegs [Reg.LAMP_CNT_SA_WRITE_REFUSED] (discarded who k s) t) ∧
    (s.saWriter who = true → (tx || rx) = true → (tx = true → off / 16 % 4 ≠ s.encodingAn n) → off % 16 ≠ 8 →
      slot.type = 3 → (bit v 16 = true → slot.salt ≠ []) →
      ∃ t, exec (.lampSaWrite who n off v) s = .next t ∧ t.reg k = stored ∧ onlyRegs [k] (discarded who k s) t) ∧
    (s.saWriter who = true →
      let sc := Reg.LAMP_TX_SC n
      ∃ t, exec (.encodingAnWrite who n v) s = .next t ∧
        t.reg sc = ((s.reg sc &&& ~~~(writableBits sc)) ||| (v &&& writableBits sc)) ∧
        ∀ m, m ≠ sc → m ≠ Reg.LOG_CNT_QUEUE_DROP → t.reg m = (discarded who sc s).reg m) ∧
    (s.saWriter who = false →
      ∃ t, exec (.encodingAnWrite who n v) s = .next t ∧ counts Reg.LAMP_CNT_SA_WRITE_REFUSED 1 s t ∧
        onlyRegs [Reg.LAMP_CNT_SA_WRITE_REFUSED] (discarded who (Reg.LAMP_TX_SC n) s) t)

/-- R208 to R213: a sample that fires a test takes its source out of service, the Canary to DEGRADED and, with both
gone, to GRACE with its budget; a passed retest brings the source back; a spent budget leads to SPENT, at GRACE_SPENT
(DESIGN CHOICE, log entry 91); the DRBG reseeds only while a source is healthy; and a mask generator reseeds by one
generate call of free bytes (DESIGN CHOICE, log entry 3), in GRACE out of the budget, and in every state but SPENT. -/
def Obligations.CanaryFollowsSources : Prop :=
  ∀ (x : Nat) (s : State), x < 2 → running 5 s = true →
    (∀ v, (s.source x).failed = false → ((s.source x).test v).2 = true →
      ∃ t, exec (.noiseSample x v) s = .next t ∧ (t.source x).failed = true ∧
        counts (Reg.LAMP_CNT_SRC_FAIL x) 1 s t ∧
        (s.lamp.canary ≤ 1 → (s.source (1 - x)).failed = false → t.lamp.canary = 1) ∧
        (s.lamp.canary ≤ 1 → (s.source (1 - x)).failed = true →
          t.lamp.canary = 2 ∧ t.reg Reg.LAMP_GRACE_LEFT = 0x100000)) ∧
    (∀ v, (s.source x).failed = false → ((s.source x).test v).2 = false →
      ∃ t, exec (.noiseSample x v) s = .next t ∧ t.source x = ((s.source x).test v).1 ∧ t.regs = s.regs) ∧
    (∀ vs, (s.source x).failed = true → vs.length = 1024 → samplesPass vs = true →
      ∃ t, exec (.sourceRetest x vs) s = .next t ∧ (t.source x).failed = false ∧
        t.lamp.canary = (if (s.source (1 - x)).failed then 1 else 0) ∧
        counts (Reg.LAMP_CNT_SRC_RESTORE x) 1 s t) ∧
    (s.lamp.canary = 2 → s.reg Reg.LAMP_GRACE_LEFT = 0 →
      ∃ t, exec .graceSpent s = .next t ∧ t = { s with lamp := { s.lamp with canary := 3 } }) ∧
    (s.lamp.canary ≤ 1 →
      ∃ t, exec .drbgReseed s = .next t ∧ t.lamp.calls = 0 ∧ counts Reg.LAMP_CNT_RESEED 1 s t ∧
        onlyRegs [Reg.LAMP_CNT_RESEED] { s with lamp := t.lamp } t) ∧
    (2 ≤ s.lamp.canary → exec .drbgReseed s = .next s) ∧
    ∀ dp, (s.lamp.canary = 3 → exec (.maskReseed dp) s = .next s) ∧
      (s.lamp.canary ≠ 3 →
        let left := s.reg Reg.LAMP_GRACE_LEFT
        ∃ t, exec (.maskReseed dp) s = .next t ∧ t.lamp.calls = s.lamp.calls + 1 ∧ t.free = s.free + 32 ∧
          t.lamp.canary = s.lamp.canary ∧ t = { s with lamp := t.lamp, free := t.free, regs := t.regs } ∧
          t.reg Reg.LAMP_GRACE_LEFT = (if s.lamp.canary = 2 ∧ left ≠ 0 then left - 1 else left) ∧
          ∀ k, k ≠ Reg.LAMP_GRACE_LEFT → t.reg k = s.reg k)

/-- R199 to R207: a job of any mode goes to an idle engine, which computes its result at its start (DEDUCED, log entry
8); a running job that another outranks is saved for it; and a job that completes frees its engine, is counted by its
status and completes its entry. -/
def Obligations.JobsRunOnEngines : Prop :=
  ∀ (c : Nat) (x : Taken) (src aux : Option (List Byte)) (s : State), c < 65536 → running 5 s = true →
    (atHead c x s = true → s.lamp.waiting = [] → arrives (s.ring c).owner s = true →
      ∀ m i a b, (m, i, a, b) ∈ [(0, Instr.cbc c src aux, src, aux), (1, .ctr c src aux, src, aux),
          (2, .cfb8 c src aux, src, aux), (3, .cfb128 c src aux, src, aux), (4, .ofb c src aux, src, aux),
          (5, .gcm c src aux, src, aux), (6, .ccm c src aux, src, aux), (7, .xts c src aux, src, aux),
          (8, .cmac c src aux, src, aux), (9, .sha384 c src, src, none), (10, .sha512 c src, src, none),
          (11, .sealVerify c src aux, src, aux), (12, .digestVerify c src aux, src, aux),
          (13, .random c, none, none)] →
        jobMode x.desc = m → (s.ring c).type = 6 ∨ ((s.ring c).type = 7 ∧ m = 13) →
        ∀ e, s.idleEngine = some e → jobStage x.desc = false ∨ s.stagesHeld < 32 →
          ∃ t j r, exec i s = .next t ∧ t.lamp.engines.getD e none = some j ∧ t.lamp.waiting = [] ∧ j.ring = c ∧
            j.cursor = x.cursor ∧ j.desc = x.desc ∧ j.src = a ∧ j.aux = b ∧ j.result = some r ∧
            (jobParamOk x.desc = false → r.status = 3) ∧
            (jobParamOk x.desc = true → 9 ≤ m → m ≤ 10 → ∀ d, a = some d → r.status = 0 ∧
              r.output = (modeFn m x.desc [] [] [] (slice d 0 (jobLength x.desc))).output) ∧
            (jobParamOk x.desc = true → m = 13 → s.entropyOk = true →
              r.status = 0 ∧ r.output.length = jobLength x.desc) ∧
            (jobParamOk x.desc = true → jobKeyed m = true → x.granted = false →
              s.ownsKey (s.ring c).owner (jobKeySlot x.desc) = false → r.status = 5)) ∧
    ∀ e, e < 16 →
      (∀ run j, s.lamp.engines.getD e none = some run → s.nextJob = some j → s.idleEngine = none →
        j.outranks run = true → run.abandoned = false → s.lamp.pllLost = false →
        ∃ t y, exec (.jobPreempt e) s = .next t ∧ t.lamp.engines.getD e none = some y ∧ y.arrival = j.arrival ∧
          counts Reg.LAMP_CNT_PREEMPT 1 s t) ∧
      (∀ y r z, s.lamp.engines.getD e none = some y → y.result = some r → r.status ≤ 10 → y.abandoned = false →
        s.lamp.pllLost = false → s.lamp.waiting = [] → (∀ k ∈ s.lamp.slots, k.2.dying = none) →
        (s.ring y.ring).taken.find? (fun u => u.cursor == y.cursor) = some z → z.abandoned = false → z.held = false →
        ∃ t, exec (.jobCompletion e true) s = .next t ∧ t.lamp.engines.getD e none = none ∧
          oneDone y.ring s t ∧ counts Reg.LAMP_CNT_JOBS 1 s t ∧
          (r.status ≠ 0 → counts (Reg.LAMP_CNT_JOB_STATUS r.status) 1 s t))

/-! ## Host links and functions (R216 to R235) -/

/-- R217, R221, R223, R230 to R232: a link that may train becomes active at a rate and width within its limits; its
loss, and PERST_N, take it down and its rings to HOST_LOST; VF Enable brings the pool when its shares fit and is refused
and counted otherwise, and its clearing takes the pool away; an FLR is counted, runs, and leaves the function at its
reset values but for the sticky fields; Bus Master Enable pauses DMA and lets what was paused out in the order of
urgency, ring and issue; a configuration write re-arms error status and stores settings. More VFs than TotalVFs are
refused and counted, and the bits that settings hold are the family's: the model's choice (log entry 94, DESIGN CHOICE).
PERST_N without clocks changes the pin alone (log entry 95, DEDUCED). -/
def Obligations.LinksAndFunctionsFollowR230 : Prop :=
  (∀ (p rate width : Nat) (flit : Bool) (s : State), p < 16 →
    (s.mayTrain p = true → rate ≤ s.linkMaxRate p → (rate = 5 → flit = true) → 1 ≤ width → width ≤ s.linkWidth p →
      let deg := decide (width < s.linkWidth p ∨ rate < s.linkMaxRate p)
      ∃ t, exec (.hostLinkUp p rate width flit) s = .next t ∧
        t.link p = { s.link p with
          dlActive := true, rate := rate, width := width, flit := flit, degraded := deg, held := (t.link p).held } ∧
        ((s.link p).held = [] → (t.link p).held = [] ∧ ∀ q, q ≠ p → t.link q = s.link q) ∧
        (deg = true → (s.link p).degraded = false → counts (Reg.HOST_CNT_DEGRADED p) 1 s t)) ∧
    ((s.link p).dlActive = true → (∀ q v, s.shrinkPending q v = false) →
      ∃ t, exec (.hostLinkDown p) s = .next t ∧ t.link p = { HostLink.down with perst := (s.link p).perst } ∧
        counts (Reg.HOST_CNT_LINK_DOWN p) 1 s t ∧
        ∀ c, (s.ring c).owner = .pf p → (s.ring c).phase = .active → (t.ring c).phase = .hostLost)) ∧
  (∀ (n : Nat) (s : State), n < 8 →
    (∃ t, exec (.perstAssert n) s = .next t ∧ (s.clocked = false → t = { s with links := t.links }) ∧
      ∀ p ∈ [2 * n, 2 * n + 1], t.perst p = true ∧ (s.clocked = true → s.perst p = false → s.pfExists p = true →
        t.link p = { HostLink.down with perst := (t.link p).perst })) ∧
    ∃ t, exec (.perstDeassert n) s = .next t ∧ t = { s with links := t.links } ∧
      (∀ p ∈ [2 * n, 2 * n + 1], t.perst p = false) ∧ t.link (2 * n) = { s.link (2 * n) with perst := false } ∧
      ∀ q, q ≠ 2 * n → t.link q = s.link q) ∧
  ∀ (f : Party) (p n : Nat) (s : State), f.wf = true → f.pfIndex = some p → s.clocked = true → n < 65536 →
    (s.link p).dlActive = true →
    (s.phase ≠ .recovery →
      ((s.fn (.pf p)).vfEnable = false → n ≤ 2048 → n + s.vfsElsewhere p ≤ 8192 → s.sharesFit p n = true →
        ∃ t, exec (.vfEnable p n) s = .next t ∧ t = { s with funs := t.funs } ∧
          t.fn (.pf p) = { s.fn (.pf p) with vfEnable := true, numVfs := n }) ∧
      ((if (s.fn (.pf p)).vfEnable then (s.fn (.pf p)).numVfs ≠ n
          else 8192 < n + s.vfsElsewhere p ∨ 2048 < n ∨ s.sharesFit p n = false) →
        ∃ t, exec (.vfEnable p n) s = .next t ∧ counts (Reg.HOST_CNT_VF_REFUSED p) 1 s t ∧
          onlyRegs [Reg.HOST_CNT_VF_REFUSED p] s t)) ∧
    (∃ t, exec (.vfDisable p) s = .next t ∧ (t.fn (.pf p)).vfEnable = false ∧ (t.fn (.pf p)).numVfs = 0 ∧
      ∀ v, t.vfExists p v = false) ∧
    (s.fnExists f = true → (s.fn f).flr = false → (∀ q v, s.shrinkPending q v = false) →
      ∃ t, exec (.flr f) s = .next t ∧ (t.fn f).flr = true ∧ counts (Reg.HOST_CNT_FLR p) 1 s t ∧
        ∀ c, (s.ring c).owner = f → (s.ring c).phase = .active → (t.ring c).phase = .hostLost) ∧
    ((s.fn f).flr = true → ∃ t, exec (.flrComplete f) s = .next t ∧ t.fn f = (s.fn f).resetKeeping) ∧
    (s.fnExists f = true →
      (∀ d3, ∃ t, exec (.busMasterDisable f d3) s = .next t ∧ t = { s with funs := t.funs } ∧
        t.fn f = (if d3 then { s.fn f with d3 := true } else { s.fn f with busMaster := false })) ∧
      ((s.link p).carries = true → (s.link p).frozen = false → (s.fn f).flr = false →
        ∃ t, exec (.busMasterEnable f) s = .next t ∧ (t.fn f).busMaster = true ∧ (t.fn f).d3 = false ∧
          (∀ h ∈ (s.link p).held, h.fn = f → h.out ∈ t.out) ∧
          ((∀ h ∈ (s.link p).held, h.fn = f ∧ h.entry = none) → (∀ x ∈ s.rdma.qps, x.2.replies = []) →
            (t.link p).held = [] ∧
            t.out = (((s.link p).held.insertionSort fun a b =>
              a.cls < b.cls ∨ a.cls = b.cls ∧ a.ring ≤ b.ring).map (·.out)).reverse ++ s.out)) ∧
      ∀ (v : BitVec 32) reg x, (reg, x) ∈ [(CfgReg.uncorrStatus, { s.fn f with uncorr := 0, header := none }),
          (.corrStatus, { s.fn f with corr := 0 }),
          (.device, { s.fn f with devStatus := 0, devCtl := v.setWidth 16 &&& 0x71FF }),
          (.command, { s.fn f with status := 0, command := v.setWidth 16 &&& 0x0140 }),
          (.laneError, { s.fn f with laneErr := 0 }), (.uncorrMask, { s.fn f with uncorrMask := v &&& 0x57F010 }),
          (.uncorrSeverity, { s.fn f with uncorrSev := v &&& 0x57F010 }), (.corrMask, { s.fn f with corrMask := v &&& 0xF1C1 }),
          (.device2, { s.fn f with devCtl2 := v.setWidth 16 &&& 0x101F })] →
        ∃ t, exec (.aerStatusWrite f reg v) s = .next t ∧ t = { s with funs := t.funs } ∧ t.fn f = x)

/-- R227, R228, R233, R234: a DMA read that fails or times out sets its AER bit, counts by its severity, fails, and
freezes a link with CONTAIN when it is not masked; on a frozen link completions are accepted and wait; RELEASE ends the
freeze and uses them, and is ignored and counted on a link that is not frozen. What a good completion brings comes with
the command whose read it was: the model's reading (log entry 67, DEDUCED). -/
def Obligations.DmaErrorsReportedAndFrozen : Prop :=
  ∀ (c p : Nat) (entry : Option (BitVec 32)) (s : State), c < 65536 → p < 16 → s.clocked = true →
    let f := (s.ring c).owner
    let r : HostRead := ⟨c, entry⟩
    let fails := [(Instr.dmaCompletion r (some .poisoned), BusError.poisoned),
      (.dmaCompletion r (some .completerAbort), .completerAbort),
      (.dmaCompletion r (some .unsupported), .unsupported), (.completionTimeout r, .timeout)]
    exec (.dmaCompletion r none) s = .next s ∧
    (f.pfIndex = some p → (s.link p).carries = true → (s.pfOf f).devCtl2.getLsbD 4 = false →
      (∀ i e, (i, e) ∈ fails →
        ∃ t, exec i s = .next t ∧ counts (errorCounter p (s.errorClass f e)) 1 s t ∧
          (t.fn f).uncorr = (s.fn f).uncorr ||| BitVec.ofNat 32 (2 ^ e.bit) ∧
          ((s.link p).frozen = false → counts (Reg.HOST_CNT_DMA_RD_FAIL p) 1 s t ∧
            (t.link p).frozen = (!(s.pfOf f).uncorrMask.getLsbD e.bit && bit (s.reg (Reg.HOST_PORT_CFG p)) 1)) ∧
          ((s.link p).frozen = true →
            t.link p = { s.link p with waits := (s.link p).waits ++ [.dmaCompletion r (some e)] } ∧
              t.reg (Reg.HOST_CNT_DMA_RD_FAIL p) = s.reg (Reg.HOST_CNT_DMA_RD_FAIL p))) ∧
      ((s.link p).frozen = true →
        ∀ (es : List (Option (List Byte))) (d : Option (List Byte)),
          ∀ i ∈ [Instr.descriptorFetch c es, .piRead c (some 0) es, .releaseAcceptance c d, .frameTxPost c d,
              .tableRead c d, .tableWrite c d, .tableInsert c d, .tableDelete c d, .keyLoad c d, .keyAgree c d d,
              .keyDeriveMka c d, .keySeal c d d, .cbc c d d, .ctr c d d, .cfb8 c d d, .cfb128 c d d, .ofb c d d,
              .gcm c d d, .ccm c d d, .xts c d d, .cmac c d d, .sha384 c d, .sha512 c d, .sealVerify c d d,
              .digestVerify c d d, .vfShareSet c d, .nsCreate c d, .qpModify c d],
            ∃ t, exec i s = .next t ∧ t = { s with links := t.links } ∧
              t.link p = { s.link p with waits := (s.link p).waits ++ [i] } ∧ ∀ q, q ≠ p → t.link q = s.link q)) ∧
    ∀ who : Party, who.wf = true → s.reaches who = true → s.pfExists p = true → who.vfNumber = 0 →
      ((s.link p).frozen = true → (s.link p).dlActive = true →
        (∀ i ∈ (s.link p).waits, ∃ k x, i = .dmaCompletion k x ∧ k.ring < 65536 ∧ (s.ring k.ring).owner.pfIndex = some p) →
        ∃ t, exec (.hostFreezeRelease who p) s = .next t ∧ (t.link p).frozen = false ∧ (t.link p).waits = [] ∧
          counts (Reg.HOST_CNT_DMA_RD_FAIL p) (s.link p).waits.length s t ∧
          ∀ h ∈ (s.link p).held, h.fn.pfIndex = some p → (s.link p).carries = true → (s.fn h.fn).flr = false →
            (s.fn h.fn).busMaster = true → (s.fn h.fn).d3 = false → h.out ∈ t.out) ∧
      ((s.link p).frozen = false →
        ∃ t, exec (.hostFreezeRelease who p) s = .next t ∧ counts (Reg.HOST_CNT_RELEASE_IGNORED p) 1 s t ∧
          onlyRegs [Reg.HOST_CNT_RELEASE_IGNORED p] (discarded who (Reg.HOST_FREEZE p) s) t)

/-! ## Descriptor rings (R237 to R259) -/

/-- R244, R245, R258, R259: a ring's configuration is written while it is DISABLED, and a valid one is enabled;
disabling drains it, or frees it when nothing is taken or the host was lost; a write that is not the party's, or that
its state or the value forbids, is refused and counted. A half that the writer staged for the register is discarded
first (R365). -/
def Obligations.RingsConfiguredAndEnabled : Prop :=
  ∀ (who o : Party) (c reg : Nat) (v : Word) (s : State), c < 65536 → granted who s = true →
    s.windowOwner who c = some o →
    let r := s.ring c
    let ctl := discardedAt who Reg.RING_CTL 0x520 s
    let cfg := fun k : Nat => discardedAt who (0xA00000 + k) (0x400 + k) s
    let others := fun (s t : State) => t = { s with rings := t.rings } ∧ ∀ d, d ≠ c → t.ring d = s.ring d
    (r.phase = .disabled → r.valid = true → s.ownsRing o c = true →
      ∃ t, exec (.ringEnable who c) s = .next t ∧ others ctl t ∧
        t.ring c = { r with owner := o, enable := true, phase := .active, cause := 0, fetching := false, again := false }) ∧
    (r.phase ≠ .disabled ∨ r.valid = false ∨ s.ownsRing o c = false → ∀ p, who.pfIndex = some p →
      ∃ t, exec (.ringEnable who c) s = .next t ∧ counts (Reg.RING_CNT_CFG_REFUSED p) 1 s t ∧
        onlyRegs [Reg.RING_CNT_CFG_REFUSED p] ctl t) ∧
    (r.phase = .active ∨ r.phase = .error → ∃ t, exec (.ringDisable who c) s = .next t ∧ others ctl t ∧
      (t.ring c).enable = false ∧
      (t.ring c).phase = (if r.doneCur = r.devCur then .disabled else .draining) ∧ (t.ring c).hamper = []) ∧
    (r.phase = .hostLost → ∃ t, exec (.ringDisable who c) s = .next t ∧ (t.ring c).phase = .disabled ∧
      (t.ring c).enable = false ∧ (∀ d, d ≠ c → t.ring d = s.ring d) ∧ (r.deviceFilled = false → others ctl t)) ∧
    (r.phase = .disabled →
      (∃ t, exec (.ringConfigWrite who c 0x100 v) s = .next t ∧ others (cfg 0x100) t ∧
        t.ring c = { r with owner := o, base := v &&& 0xFFFFFFFFFFFFF000, devCur := 0, doneCur := 0 }) ∧
      (ringCfgValid o v = true → ∃ t, exec (.ringConfigWrite who c 0x108 v) s = .next t ∧ others (cfg 0x108) t ∧
        t.ring c = { r with owner := o, cfg := v &&& 0x00000000FFFF01FF, devCur := 0, doneCur := 0 }) ∧
      (∃ t, exec (.ringConfigWrite who c 0x110 v) s = .next t ∧ others (cfg 0x110) t ∧
        t.ring c = { r with owner := o, piAddr := v &&& 0xFFFFFFFFFFFFFFF8 })) ∧
    (∃ t, exec (.ringConfigWrite who c 0x118 v) s = .next t ∧ others (cfg 0x118) t ∧
      t.ring c = { r with irq := v &&& 0x0000FFFFFFFF87FF }) ∧
    ((reg = 0x100 ∨ reg = 0x108 ∨ reg = 0x110) ∧ r.phase ≠ .disabled ∨ reg = 0x108 ∧ ringCfgValid o v = false →
      ∀ p, who.pfIndex = some p → ∃ t, exec (.ringConfigWrite who c reg v) s = .next t ∧
        counts (Reg.RING_CNT_CFG_REFUSED p) 1 s t ∧ onlyRegs [Reg.RING_CNT_CFG_REFUSED p] (cfg reg) t)

/-- R238, R240 to R243, R248, R252, R257: an owner's doorbell and the periodic scan start a fetch, with one read of each
entry wanted or one of the producer index; a scan takes, or keeps for a delivery ring, the owned copies up to the first
unowned one; a producer index takes the owned entries up to it, and one out of range or a failed read puts the ring in
ERROR; an ADMIN command that is none, or that its issuer may not give, completes at once; the interrupt's hold-off sends
its message; a snapshot changes no ring but its own. A scan reads as many entries as the hamper and the ring have room
for, and the hold-off counts TIME cycles, not Dial: the model's readings (log entries 61, DEDUCED, and 97, DESIGN
CHOICE). -/
def Obligations.RingsFetched : Prop :=
  ∀ (c : Nat) (s : State), c < 65536 → s.clocked = true →
    let r := s.ring c
    (∀ who p, granted who s = true → who.pfIndex = some p →
      (r.phase = .active → r.owner = who → r.isNvme = false → r.fetching = false → s.scanWanted c = true →
        (r.fast = true → r.scanned ≠ []) →
        ∃ t, exec (.ringDoorbell who c) s = .next t ∧ (t.ring c).fetching = true ∧
          counts (Reg.RING_CNT_DOORBELLS p) 1 s t ∧
          (issues who s = true → t.out = (if r.fast then (r.scanned.map fun e => Out.dmaRead who c (r.entryAddr e) 64).reverse
            else [.dmaRead who c r.piAddr.toNat 4]) ++ s.out)) ∧
      (r.phase ≠ .active ∨ r.owner ≠ who →
        ∃ t, exec (.ringDoorbell who c) s = .next t ∧ counts (Reg.RING_CNT_DOORBELL_IGNORED p) 1 s t ∧
          t = { s with regs := t.regs })) ∧
    (r.phase = .active → r.fast = true → s.ringServed r = true →
      (r.scanNs ≠ 0 → r.fetching = false → s.scanWanted c = true → r.scanned ≠ [] →
        ∃ t, exec (.periodicScan c) s = .next t ∧ (t.ring c).fetching = true ∧ t.regs = s.regs) ∧
      (r.fetching = true → r.again = false → s.readsIssued c = true →
        ∀ es : List (Option (List Byte)), es.length ≤ r.scanned.length →
        ∃ t, exec (.descriptorFetch c es) s = .next t ∧
          (r.deviceFilled = false → (t.ring c).taken.map (·.desc) = r.taken.map (·.desc) ++ ownedPrefix es ∧
            (t.ring c).devCur = r.devCur + BitVec.ofNat 32 (ownedPrefix es).length) ∧
          (es.any (·.isNone) = false → (t.ring c).fetching = false ∧ (t.ring c).phase = .active ∧
            (t.ring c).hamper = r.hamper ++ (if r.deviceFilled then ownedPrefix es else [])) ∧
          (es.any (·.isNone) = true → (t.ring c).phase = .error ∧ (t.ring c).cause = 2 ∧ (t.ring c).hamper = []))) ∧
    (r.phase = .active → r.fast = false → r.isNvme = false → r.fetching = true → s.ringServed r = true →
      s.readsIssued c = true →
      (∃ t, exec (.piRead c none []) s = .next t ∧ (t.ring c).phase = .error ∧ (t.ring c).cause = 2) ∧
      ∀ (pi : BitVec 32) (es : List (Option (List Byte))),
        (r.size < (pi - r.doneCur).toNat →
          ∃ t, exec (.piRead c (some pi) es) s = .next t ∧ (t.ring c).phase = .error ∧ (t.ring c).cause = 1 ∧
            (t.ring c).taken = r.taken) ∧
        ((pi - r.doneCur).toNat ≤ r.size → r.type ≠ 6 → r.type ≠ 7 →
          let own := ownedPrefix (es.take ((pi - r.doneCur).toNat - (r.devCur - r.doneCur).toNat))
          let served := fun d => adminPermitted r.owner (adminOpcode d) && adminOpcodes.contains (adminOpcode d)
          (r.type = 5 → ∀ d ∈ own, served d = true) →
          ∃ t, exec (.piRead c (some pi) es) s = .next t ∧
            (t.ring c).taken.map (·.desc) = r.taken.map (·.desc) ++ own ∧
            (t.ring c).devCur = r.devCur + BitVec.ofNat 32 own.length ∧
            (r.type = 5 → t.reg Reg.RING_TALLY_NEXT = s.reg Reg.RING_TALLY_NEXT + word own.length)) ∧
        ((pi - r.doneCur).toNat = 1 → r.devCur = r.doneCur → r.taken = [] → r.type = 5 →
          ∀ d, es = [some d] → ownBit d = true →
            adminPermitted r.owner (adminOpcode d) = false ∨ adminOpcodes.contains (adminOpcode d) = false →
            ∃ t, exec (.piRead c (some pi) es) s = .next t ∧ oneDone c s t ∧ (t.ring c).devCur = r.devCur + 1 ∧
              (issues r.owner s = true → (t.ring c).taken = []))) ∧
    (∀ d, r.backsAt = some d → bit r.irq 15 = true →
      d.toNat + bits r.irq 31 16 * 100 * nsUnits ≤ s.clock.toNat →
      ∃ t, exec (.irqHoldoff c) s = .next t ∧ (t.ring c).backs = 0 ∧ (t.ring c).backsAt = none ∧
        (issues r.owner s = true → s.vectorOpen r.owner (bits r.irq 10 0) = true →
          ∃ a m, t.out = .msix r.owner (bits r.irq 10 0) a m :: s.out)) ∧
    ∀ x, adminAt c 0x3E x s = true →
      ∃ t, exec (.ringSnapshot c) s = .next t ∧ adminEnds c 0 x s t ∧ t.regs = s.regs ∧ ∀ d, d ≠ c → t.ring d = s.ring d

/-! ## Virtual NVMe (R260 to R270) -/

/-- R260, R261, R267: CC.EN starts a controller on two ring contexts of its share, which reports ready once no replay of
the journal is in flight; clearing CC.EN stops it; a doorbell moves a submission queue's tail, with a fetch, or a
completion queue's head; on a function without a controller each is ignored and counted. A controller's two contexts are
the lowest free ones of its share, and clearing CC.EN keeps CC's other bits: the model's readings (log entry 63,
PRESUMED). -/
def Obligations.ControllersStartAndStop : Prop :=
  ∀ (f : Party) (s : State), granted f s = true →
    (∀ r1 r2, s.hasCtrl f = true → (s.ctrl f).enabled = false → s.freeRing f = some r1 →
      (s.claimRing f r1 10 ((s.ctrl f).prop nvmeAsq).toNat).freeRing f = some r2 →
      ∃ t, exec (.ccEnSet f) s = .next t ∧ (t.ctrl f).enabled = true ∧ (t.ctrl f).ready = !s.replaying ∧
        (t.ctrl f).sqs.map (·.ring) = [r1] ∧ (t.ctrl f).cqs.map (·.ring) = [r2]) ∧
    (s.hasCtrl f = true → (s.ctrl f).enabled = true →
      ∃ t, exec (.ccEnClear f) s = .next t ∧ (t.ctrl f).enabled = false ∧ (t.ctrl f).ready = false ∧
        (t.ctrl f).sqs = [] ∧ (t.ctrl f).cqs = []) ∧
    (∀ q x v, s.hasCtrl f = true → (s.ctrl f).ready = true → (s.ctrl f).sq q = some x → bits v 15 0 < x.size →
      ∃ t, exec (.nvmeDoorbell f q false v) s = .next t ∧
        ((t.ctrl f).sq q).map (·.tail) = some (bits v 15 0) ∧ (t.ctrl f).cqs = (s.ctrl f).cqs ∧
        (issues f s = true → t.out = ((x.newEntries (bits v 15 0)).map fun e =>
          Out.dmaRead f x.ring (x.base + 64 * e.1) (64 * e.2)).reverse ++ s.out)) ∧
    (∀ q x v, s.hasCtrl f = true → (s.ctrl f).ready = true → (s.ctrl f).cq q = some x → bits v 15 0 < x.size →
      ∃ t, exec (.nvmeDoorbell f q true v) s = .next t ∧
        ((t.ctrl f).cq q).map (·.head) = some (bits v 15 0) ∧ (t.ctrl f).sqs = (s.ctrl f).sqs) ∧
    (s.hasCtrl f = false → ∀ i ∈ [Instr.ccEnSet f, .ccEnClear f, .nvmeDoorbell f 0 false 0],
      ∃ t, exec i s = .next t ∧ counts Reg.GEN_CNT_IGNORED 1 s t ∧ onlyRegs [Reg.GEN_CNT_IGNORED] s t)

/-- R261, R269: each admin command that can be fetched completes with its effect: Identify and Get Log Page place their
data by the command's PRPs; features are read and set, an entry into PS1 or PS2 pending until it has finished; queues
are created on a free context of the share and deleted; an Abort that finds no command says so; an event request is
held. What R260 to R272 leave to the NVMe Base Specification, its formats and status codes, is taken from it (log entry
63, PRESUMED). -/
def Obligations.AdminCommandsAnswered : Prop :=
  ∀ (cmd : NvmeCmd) (s : State), fetchable cmd false s = true →
    let f := cmd.fn
    let c := s.ctrl f
    let low := bits cmd.cdw10 7 0
    let qid := bits cmd.cdw10 15 0
    let size := bits cmd.cdw10 31 16 + 1
    let ps := bits cmd.cdw11 4 0
    let pairs := s.nvmePairs f - 1
    let bytes := 4 * (bits cmd.cdw10 31 16 + bits cmd.cdw11 15 0 * 2 ^ 16 + 1)
    let placed := fun (total : Nat) (b : List Byte) (t : State) =>
      ∀ x ∈ prpChunks (prpPages c.page cmd total) 0 b, Out.dmaWrite f x.1 x.2 false ∈ t.out
    (low = 0 → 1 ≤ cmd.nsid → cmd.nsid ≤ 1024 →
      ∃ t, exec (.identify cmd) s = .next t ∧ answers cmd 0 0 t ∧
        placed 4096 (((s.nsOf f cmd.nsid).map fun x => identifyNs x.2).getD (zeros 4096)) t) ∧
    (low = 1 → ∃ t b, exec (.identify cmd) s = .next t ∧ answers cmd 0 0 t ∧ placed 4096 b t ∧
      slice b 0 4 = [0x4A, 0x1E, 0x4A, 0x1E]) ∧
    (low = 2 →
      ∃ t b, exec (.identify cmd) s = .next t ∧ answers cmd 0 0 t ∧ placed 4096 b t ∧
        ((s.nsAttached f).length = 0 → b = zeros 4096)) ∧
    (∃ t, exec (.getFeatures cmd) s = .next t ∧ t.regs = s.regs ∧
      (low = 2 → answers cmd c.ps 0 t) ∧ (low = 7 → answers cmd (pairs + pairs * 2 ^ 16) 0 t) ∧
      (low ≠ 2 → low ≠ 7 → nvmeFeatures.contains low = true →
        answers cmd (Store.get (fun _ => 0) c.features low).toNat 0 t) ∧
      (low ≠ 2 → nvmeFeatures.contains low = false → answers cmd 0 nvmeInvalidField t)) ∧
    (∃ t, exec (.setFeatures cmd) s = .next t ∧
      (low = 2 → ps = 0 → answers cmd 0 0 t ∧ (t.ctrl f).ps = 0) ∧
      (low = 2 → ps = 1 ∨ ps = 2 → (t.ctrl f).psTarget = some (ps, cmd) ∧ t.out = s.out) ∧
      (low = 2 → 2 < ps → answers cmd 0 nvmeInvalidField t) ∧
      (low ≠ 2 → low ≠ 7 → nvmeFeatures.contains low = true →
        answers cmd 0 0 t ∧ Store.get (fun _ => 0) (t.ctrl f).features low = word cmd.cdw11.toNat)) ∧
    (∀ r, s.freeRing f = some r → 1 ≤ qid → qid ≤ 64 → 2 ≤ size → size ≤ 65535 → bit cmd.cdw11 0 = true →
      cmd.prp % 4096 = 0 → c.cq qid = none → c.cqs.length ≤ s.nvmePairs f → bits cmd.cdw11 31 16 < s.vectors f →
      ∃ t, exec (.createIoCq cmd) s = .next t ∧ answers cmd 0 0 t ∧
        ((t.ctrl f).cq qid).any (fun q => decide (q.size = size ∧ q.ring = r ∧ q.base = cmd.prp)) = true) ∧
    (∀ r, s.freeRing f = some r → 1 ≤ qid → qid ≤ 64 → 2 ≤ size → size ≤ 65535 → bit cmd.cdw11 0 = true →
      cmd.prp % 4096 = 0 → c.sq qid = none → c.sqs.length ≤ s.nvmePairs f → bits cmd.cdw11 31 16 ≠ 0 →
      (c.cq (bits cmd.cdw11 31 16)).isSome →
      ∃ t, exec (.createIoSq cmd) s = .next t ∧ answers cmd 0 0 t ∧
        ((t.ctrl f).sq qid).any (fun q => decide (q.size = size ∧ q.ring = r ∧ q.base = cmd.prp)) = true) ∧
    (qid ≠ 0 → (c.sq qid).isSome →
      ∃ t, exec (.deleteIoSq cmd) s = .next t ∧ (t.ctrl f).sq qid = none ∧ (s.pieces = [] → answers cmd 0 0 t)) ∧
    (qid ≠ 0 → (c.cq qid).isSome → (∀ q ∈ c.sqs, q.link ≠ qid) →
      ∃ t, exec (.deleteIoCq cmd) s = .next t ∧ (t.ctrl f).cq qid = none ∧ answers cmd 0 0 t) ∧
    (low = 1 →
      ∃ t, exec (.getLogPage cmd) s = .next t ∧ answers cmd 0 0 t ∧
        placed bytes ((slice (c.errors.flatMap errorEntry) 0 (64 * (Config.nvmeLimit 1 % 256 + 1))).take bytes) t) ∧
    (low = 2 → ∃ t b, exec (.getLogPage cmd) s = .next t ∧ answers cmd 0 0 t ∧ placed bytes b t) ∧
    (c.aers = [] → c.delayed = [] → s.pieces = [] → ∃ t, exec (.abort cmd) s = .next t ∧ answers cmd 1 0 t) ∧
    (c.aers = [] → ∃ t, exec (.asynchronousEventRequest cmd) s = .next t ∧ (t.ctrl f).aers = [cmd] ∧ t.out = s.out)

/-- R263 to R266, R268, R271: on an idle engine a Read or a Write that fits its namespace is issued to its backing, a
Write and a Write Zeroes after their data stands COMMITTED in the journal; Flush completes at once; a command beyond the
namespace or without one fails; a part that succeeds completes its command, a failed or timed out one is retried once.
The journal's headers lie as log entry 64 places them (DESIGN CHOICE), and a command takes the lowest free slots; the
status codes are the NVMe Base Specification's (log entry 63, PRESUMED); a retry is counted as it is issued (log entry
62, DEDUCED). -/
def Obligations.TransfersJournaledAndRetried : Prop :=
  (∀ (cmd : NvmeCmd) (i : Nat) (n : Namespace) (s : State), fetchable cmd true s = true → s.pieces = [] →
    let lo := cmd.cdw10.toNat + cmd.cdw11.toNat * 2 ^ 32
    let len := bits cmd.cdw12 15 0 + 1
    (s.nsOf cmd.fn cmd.nsid = none → ∀ c ∈ [Instr.nvmeRead cmd, .nvmeWrite cmd (some []), .flush cmd, .writeZeroes cmd,
        .datasetManagement cmd (some [])],
      ∃ t, exec c s = .next t ∧ answers cmd 0 nvmeInvalidNs t ∧ counts Reg.NVME_CNT_COMMANDS 1 s t ∧ t.pieces = []) ∧
    (s.nsOf cmd.fn cmd.nsid = some (i, n) →
      (∃ t, exec (.flush cmd) s = .next t ∧ answers cmd 0 0 t ∧ counts Reg.NVME_CNT_COMMANDS 1 s t ∧ t.pieces = []) ∧
      (∀ rs, bit cmd.cdw11 2 = false → (∀ r ∈ rs, r.1 + r.2 ≤ n.size) →
        ∃ t, exec (.datasetManagement cmd (some rs)) s = .next t ∧ answers cmd 0 0 t) ∧
      (n.size < lo + len → ∀ c ∈ [Instr.nvmeRead cmd, .nvmeWrite cmd (some []), .writeZeroes cmd],
        ∃ t, exec c s = .next t ∧ answers cmd 0 nvmeOutOfRange t ∧ t.pieces = [] ∧ t.ledger = s.ledger) ∧
      (lo + len ≤ n.size → len * n.lbaBytes ≤ 65536 → n.extents.length = 1 → (∀ e ∈ n.extents, s.reachable e = true) →
        (∀ j y, s.space j = some y → y.detach = none) →
        (∃ t p, exec (.nvmeRead cmd) s = .next t ∧ t.pieces = [p] ∧ p.cmd = cmd ∧ p.kind = .read ∧ p.phase = .issued ∧
          p.parts.map (·.st) = [.flying] ∧ t.ledger = s.ledger) ∧
        (∀ data, ∃ t p, exec (.nvmeWrite cmd (some data)) s = .next t ∧ t.pieces = [p] ∧ p.kind = .write ∧ p.phase = .issued ∧
          p.slot = some 0 ∧ p.parts.map (·.st) = [.flying] ∧ t.ledgerRead (journalHeader 0 + 16) = 1 ∧
          t.ledgerRead (journalHeader 0 + 24) = 0) ∧
        ∃ t p, exec (.writeZeroes cmd) s = .next t ∧ t.pieces = [p] ∧ p.kind = .zeroes ∧ p.phase = .issued ∧
          p.slot = some 0 ∧ t.ledgerRead (journalHeader 0 + 16) = 1))) ∧
  ∀ (p : Piece) (x : Part) (s : State), s.clocked = true → s.pieces = [p] → p.parts = [x] →
    let put := fun y : Part => [{ p with parts := [y] }]
    (p.phase = .issued → p.kind = .read → p.replay = false → x.st = .flying →
      (∀ d, ∃ t, exec (.partComplete p.id 0 (.ok d)) s = .next t ∧ t.pieces = [] ∧
        (p.orphan = false → counts Reg.NVME_CNT_COMMANDS 1 s t ∧
          counts Reg.NVME_CNT_READ_BYTES (x.blocks * s.nsBytes p.ns) s t)) ∧
      (x.retried = false → ∀ c ∈ [Instr.partComplete p.id 0 .error, .partComplete p.id 0 .unreachable,
          .partTimeout p.id 0],
        ∃ t, exec c s = .next t ∧ t.pieces = put { x with st := .due } ∧
          (x.extent.remote = false → counts (Reg.NVME_RP_CNT_ERR x.extent.target) 1 s t)) ∧
      (x.retried = true → ∃ t, exec (.partTimeout p.id 0) s = .next t ∧ t.pieces = [])) ∧
    (p.phase = .issued → p.kind ≠ .deallocate → x.st = .due → s.reachable x.extent = true →
      ∃ t, exec (.partRetry p.id 0) s = .next t ∧ t.pieces = put { x with st := .flying, retried := true } ∧
        counts Reg.NVME_CNT_EXTENT_FAIL 1 s t) ∧
    (p.phase = .journal → p.kind = .write → p.slot = none → p.before = none → s.reachable x.extent = true →
      ∃ t, exec .journalSlotTaken s = .next t ∧ t.ledgerRead (journalHeader 0 + 16) = 1 ∧
        t.pieces = [{ p with slot := some 0, phase := .issued, parts := [{ x with st := .flying, retried := false }] }]) ∧
    (p.phase = .kept → p.replay = true → p.kind = .write → s.reachable x.extent = true →
      ∃ t, exec (.nsReadyRetry p.id true) s = .next t ∧ t.pieces = [] ∧ counts Reg.NVME_CNT_REPLAYED 1 s t)

/-- R262, R269, R270: NS_CREATE completes with its effect or the code of its first failing check, NS_DELETE and
NS_ATTACH with theirs or a refusal while attached or without a controller or share, and NS_DETACH with its effect on an
idle engine; a power state entry that finishes sets its controller's state; a drive that goes is absent and counted, and
one that returns is there with its namespace. A controller's power state is what its drives are set by (log entry 65,
DEDUCED), and an extent's backing is what a drive or Config reports (log entry 62, DEDUCED). -/
def Obligations.NamespacesAndDrivesManaged : Prop :=
  (∀ (c : Nat) (x : Taken) (s : State),
    let p0 := adminParam x.desc 0
    let i := bits p0 13 0
    let n := bits p0 24 20
    let f : Party := if bits p0 27 16 = 0 then .pf (bits p0 31 28) else .vf (bits p0 31 28) (bits p0 27 16)
    let nsid := bits p0 41 32 + 1
    (∀ b, adminAt c 0x50 x s = true → arrives (s.ring c).owner s = true →
      let es := (List.range n).map fun k => extentOf (slice b (32 * k) 32)
      let others := s.spaceList.flatMap (·.2.extents) ++ [0, 1].filterMap s.drainExtent
      let code :=
        if (s.space i).isSome then 1
        else if n = 0 ∨ 16 < n ∨ es.all (s.backed (bit p0 16)) = false ∨
          (List.range n).any (fun k => decide (1 < leField b (32 * k) 1)) = true then 2
        else if es.any (fun e => others.any e.meets) then 3 else 0
      ∃ t, exec (.nsCreate c (some b)) s = .next t ∧ adminEnds c code x s t ∧
        (code = 0 → t.space i = some ⟨bit p0 16, es, none, none⟩ ∧ ∀ j, j ≠ i → t.space j = s.space j) ∧
        (code ≠ 0 → t.spaces = s.spaces)) ∧
    (adminAt c 0x51 x s = true →
      ∃ t, exec (.nsDelete c) s = .next t ∧
        ((s.space i).any (fun y => y.attached.isSome) = true → adminEnds c 4 x s t ∧ t.spaces = s.spaces) ∧
        ((s.space i).any (fun y => y.attached.isSome) = false → adminEnds c 0 x s t ∧ t.space i = none)) ∧
    (∀ y, adminAt c 0x52 x s = true → s.space i = some y → y.attached = none → s.nsOf f nsid = none →
      ∃ t, exec (.nsAttach c) s = .next t ∧
        (s.hasCtrl f = true → (s.nsAttached f).length < bits (s.usable f 2) 26 16 →
          adminEnds c 0 x s t ∧ t.space i = some { y with attached := some (f, nsid) }) ∧
        (s.hasCtrl f = false ∨ bits (s.usable f 2) 26 16 ≤ (s.nsAttached f).length →
          adminEnds c 5 x s t ∧ t.spaces = s.spaces)) ∧
    (∀ y, adminAt c 0x53 x s = true → s.space i = some y → y.attached.isSome → y.detach = none →
      s.pieces = [] → (∀ g k, y.attached = some (g, k) → (s.ctrl g).delayed = []) →
      ∃ t, exec (.nsDetach c) s = .next t ∧ adminEnds c 0 x s t ∧
        t.space i = some { y with attached := none, detach := none })) ∧
  ∀ s : State, s.clocked = true →
    (∀ f ps cmd, f.wf = true → (s.ctrl f).psTarget = some (ps, cmd) → (s.ctrl f).delayed = [] →
      ∃ t, exec (.psEntryDone f) s = .next t ∧ (t.ctrl f).ps = ps ∧ (t.ctrl f).psTarget = none) ∧
    ∀ n nsid lbas fmt, n < 16 →
      ((s.drive n).active = true →
        ∃ t, exec (.driveRemoved n) s = .next t ∧ t.drive n = Drive.absent ∧ counts (Reg.NVME_RP_CNT_REMOVED n) 1 s t ∧
          ∀ m, m ≠ n → t.drive m = s.drive m) ∧
      (bit (s.reg (Reg.NVME_RP_CFG n)) 0 = false → exec (.driveReturned n nsid lbas fmt) s = .next s) ∧
      (bit (s.reg (Reg.NVME_RP_CFG n)) 0 = true →
        ∃ t, exec (.driveReturned n nsid lbas fmt) s = .next t ∧ (t.drive n).ready = true ∧
          (nsid, lbas, fmt) ∈ (t.drive n).spaces ∧ ∀ m, m ≠ n → t.drive m = s.drive m)

/-! ## Remote memory access (R274 to R287) -/

/-- R242, R274 to R278: a queue pair is created in RESET, moves by the transitions of R276 alone, is shown by a query
and destroyed in RESET and ERR; a memory region is registered with its bounds and rights and deregistered once nothing
names it; a doorbell that is not its owner's, of a QP in RESET, or of the send queue of a DEVICE_POSTED QP is ignored
and counted, and any other reads the producer index, which brings the owned entries of its range, or ERR with none. A
queue whose index is out of range or cannot be read takes its QP to ERR, as a ring goes to ERROR, and the checks of a
create and a modify stand in the order of R275's statuses: the model's readings (log entry 60, DEDUCED). -/
def Obligations.QueuePairsAndRegions : Prop :=
  ∀ (c : Nat) (x : Taken) (s : State),
    let o := (s.ring c).owner
    let n := bits (adminParam x.desc 0) 23 0
    let q := s.qp n
    let k1 := bits (adminParam x.desc 0) 5 0
    let k2 := bits (adminParam x.desc 0) 13 8
    let sq := (adminParam x.desc 1).toNat
    let pi := fun lo : Nat => sq / 2 ^ 32 * 2 ^ 32 + lo
    let piOk := fun lo : Nat => decide (pi lo / 4096 = sq / 4096 ∧ lo % 8 = 0)
    (adminAt c 0x60 x s = true → (bit (adminParam x.desc 0) 16 = true → o = .cores) →
      4 ≤ k1 ∧ k1 ≤ 15 ∧ 4 ≤ k2 ∧ k2 ≤ 15 ∧ sq % 4096 = 0 ∧ (adminParam x.desc 2).toNat % 4096 = 0 →
      piOk (bits (adminParam x.desc 3) 31 0) = true → piOk (bits (adminParam x.desc 3) 63 32) = true →
      (s.qpsOf o).length < s.qpShare o → (s.rdma.qps.filter fun e => e.2.live).length < 262142 →
      ∃ t m, exec (.qpCreate c) s = .next t ∧ adminEnds c 0 x s t ∧ (t.qp m).live = true ∧ (t.qp m).owner = o ∧
        (t.qp m).phase = .reset ∧ (t.qp m).log2sq = k1 ∧ (t.qp m).log2rq = k2 ∧ ∀ i, i ≠ m → t.qp i = s.qp i) ∧
    (s.ownQp o n = true →
      (∀ b goal, adminAt c 0x61 x s = true → arrives o s = true → q.wqes = [] → q.recvs = [] → q.fetched = [] →
          qpMove q.phase (leField b 0 1) = some goal →
        (goal = .rtr → attrOk b = true ∧ s.slotOn (leField b 5 1) = true ∧ s.isInfra (leField b 5 1) = true ∧
          s.isIdle (leField b 5 1) = false ∧ s.ownsSlot o (leField b 5 1) = true) →
        ∃ t, exec (.qpModify c (some b)) s = .next t ∧ (t.qp n).phase = goal) ∧
      (∀ b, adminAt c 0x61 x s = true → arrives o s = true → qpMove q.phase (leField b 0 1) = none →
        ∃ t, exec (.qpModify c (some b)) s = .next t ∧ adminEnds c (if 4 < leField b 0 1 then 4 else 2) x s t ∧
          t.rdma = s.rdma) ∧
      (adminAt c 0x62 x s = true → ∃ t, exec (.qpQuery c) s = .next t ∧ adminEnds c 0 x s t ∧ t.rdma = s.rdma ∧
        (issues o s = true → .dmaWrite o (adminParam x.desc 1).toNat
          (BitVec.ofNat 8 q.phase.code :: slice q.attr 1 63) false ∈ t.out)) ∧
      (adminAt c 0x63 x s = true →
        ∃ t, exec (.qpDestroy c) s = .next t ∧
          (q.phase = .reset ∨ q.phase = .err → t.qp n = Qp.none) ∧
          (q.phase ≠ .reset → q.phase ≠ .err → adminEnds c 2 x s t ∧ t.rdma = s.rdma))) ∧
    (adminAt c 0x64 x s = true → (s.rdma.mrs.filter fun e => e.2.live).length < 1048576 →
      ∃ t i, exec (.mrReg c) s = .next t ∧ adminEnds c 0 x s t ∧ (t.mr i).live = true ∧ (t.mr i).owner = o ∧
        (t.mr i).start = (adminParam x.desc 1).toNat ∧ (t.mr i).len = (adminParam x.desc 2).toNat ∧
        (t.mr i).rights = bits (adminParam x.desc 0) 26 24 ∧ ∀ j, j ≠ i → t.mr j = s.mr j) ∧
    (adminAt c 0x65 x s = true →
      let key := bits (adminParam x.desc 0) 31 0
      (s.mr (key / 256)).live = true → (s.mr (key / 256)).gen.toNat = key % 256 → (s.mr (key / 256)).owner = o →
      (s.mr (key / 256)).dying = none →
      (∀ e ∈ s.rdma.qps, (e.2.device = true ∨ ∀ w ∈ e.2.wqes, leField w.entry 8 4 ≠ key) ∧
        ∀ r ∈ e.2.recvs ++ e.2.fetched, leField r 8 4 ≠ key) →
      ∃ t, exec (.mrDereg c) s = .next t ∧ (t.mr (key / 256)).live = false) ∧
    (∀ who m rq, granted who s = true → m < 2 ^ 24 →
      let y := s.qp m
      let reads := fun st : State => if rq then (st.qp m).rqReads else (st.qp m).sqReads
      if y.live = false ∨ y.owner ≠ who ∨ y.phase = .reset ∨ (rq = false ∧ y.device = true) then
        ∃ t, exec (.rdmaDoorbell who m rq) s = .next t ∧ counts Reg.RDMA_CNT_DOORBELL_IGNORED 1 s t ∧
          onlyRegs [Reg.RDMA_CNT_DOORBELL_IGNORED] s t
      else
        ∃ t, exec (.rdmaDoorbell who m rq) s = .next t ∧ reads t = reads s + 1 ∧ (issues who s = true →
          .dmaRead who (wqRing m rq) (if rq then y.rqPi else y.sqPi).toNat 4 ∈ t.out)) ∧
    ∀ m rq (es : List (Option (List Byte))), s.clocked = true → m < 2 ^ 18 → (s.qp m).live = true →
      (s.qp m).phase ≠ .reset → s.wqReads m rq ≠ 0 → arrives (s.qp m).owner s = true →
      let y := s.qp m
      let k := if rq then y.log2rq else y.log2sq
      let done := if rq then y.rqDone else y.sqDone
      let dev := if rq then y.rqDev else y.sqDev + BitVec.ofNat 32 y.fetched.length
      (∃ t, exec (.piRead (wqRing m rq) none es) s = .next t ∧ (t.qp m).phase = .err) ∧
      (∀ pi, 2 ^ k < (pi - done).toNat →
        ∃ t, exec (.piRead (wqRing m rq) (some pi) es) s = .next t ∧ (t.qp m).phase = .err) ∧
      ∀ pi, (pi - done).toNat ≤ 2 ^ k → y.phase ≠ .err → (∀ e ∈ es, e ≠ none) →
        let own := (((es.take ((pi - done).toNat - (dev - done).toNat)).filterMap id).takeWhile ownBit)
        ∃ t, exec (.piRead (wqRing m rq) (some pi) es) s = .next t ∧ (t.qp m).phase = y.phase ∧
          if rq then (t.qp m).recvs = y.recvs ++ own.take (2 ^ k - y.recvs.length) ∧ (t.qp m).fetched = y.fetched
          else (t.qp m).fetched = y.fetched ++ own ∧ (t.qp m).recvs = y.recvs

/-- R273, R278 to R281, R285, R286: in RTS the next send entry fetched, of any opcode that its region covers, is taken,
numbered from the next PSN, and its packets join the egress queue of the QP's slot and priority; a timer that expires on
the oldest unacknowledged packet counts a go-back, which sends every packet from that one on again, or ends the entry
RETRY_EXCEEDED when its retries are spent; an RNR NAK delays the resending, or ends the entry RNR_EXCEEDED; the end of
the delay sends the packets again; and a waiting entry whose condition has come is triggered and counted. How go-backs
and RNR NAKs count up to their limits is the model's reading (log entry 52, DEDUCED), the packets' headers are the
InfiniBand transport's (log entry 50, PRESUMED), FENCE_LAST goes to a responder that Config calls a Moafa (log entry 60,
DEDUCED), and the delay of an RNR NAK counts TIME cycles (log entry 97, DESIGN CHOICE). -/
def Obligations.SendEntriesRunAndRetry : Prop :=
  ∀ (n : Nat) (entry data : List Byte) (rest : List (List Byte)) (s : State), s.clocked = true → (∀ e ∈ s.rdma.mrs, e.2.dying = none) →
    let q := s.qp n
    let fence := fun w : Wqe => decide (w.opcode = 2 ∨ w.opcode = 3) && (leField w.entry 33 1).testBit 0 && Config.peerIsMoafa q.dgid
    let packets := fun (w : Wqe) (k : Nat) => (packetsOf q w k).map fun x =>
      (⟨s.rdmaFrame q n x.1 (x.2.1 % 2 ^ 24) x.2.2.1 (fence w) x.2.2.2.1 x.2.2.2.2, q.pcp, none, none, none⟩ : QFrame)
    let queued := fun (fs : List QFrame) (u t : State) => t.egress = (fs.foldl (fun u f => u.enqueue q.slot f) u).egress
    let again := fun w : Wqe =>
      let k := psnDist w.psn q.ackPsn
      if 2 ^ 23 ≤ k then packets w 0 else if w.npkts ≤ k then [] else packets w k
    let fails := fun (w : Wqe) (status : Nat) (t : State) => (t.qp n).phase = .err ∧ (t.qp n).wqes = [] ∧
      counts (Reg.RDMA_CNT_WR_STATUS status) 1 s t ∧ (q.device = false → issues q.owner s = true →
        .dmaWrite q.owner (q.sqBase.toNat + 64 * (w.cursor.toNat % 2 ^ q.log2sq) + 48) [BitVec.ofNat 8 status] false ∈ t.out)
    q.live = true → q.phase = .rts →
    (∀ op i d, (op, i, d) ∈ [(0, Instr.send n q.sqDev (some data), data), (1, .sendImm n q.sqDev (some data), data),
        (2, .rdmaWrite n q.sqDev (some data), data), (3, .writeImm n q.sqDev (some data), data),
        (4, .rdmaRead n q.sqDev, [])] →
      q.device = false → q.wqes = [] → q.fetched = entry :: rest → q.rnrUntil = none → 1 ≤ q.initDepth →
      (op = 4 ∨ arrives q.owner s = true) → leField entry 32 1 % 8 = op → (leField entry 33 1).testBit 1 = false →
      let w : Wqe := ⟨q.sqDev, entry, op, 0, 0, d, false, 0, false, 0, 0⟩
      let k := max 1 (divUp (leField entry 12 4) q.mtu)
      let w' := { w with psn := q.sendPsn, npkts := k, sent := true, sentAt := s.dial }
      s.localFail q w = 0 → q.outstanding + k ≤ 2 ^ 23 →
      ∃ t, exec i s = .next t ∧ (t.qp n).sqDev = q.sqDev + 1 ∧ (t.qp n).fetched = rest ∧
        (t.qp n).sendPsn = (q.sendPsn + k) % 2 ^ 24 ∧ (t.qp n).wqes = [w'] ∧ queued (packets w' 0) s t) ∧
    (∀ w, q.wqes = [w] → w.ended = false →
      (w.sent = true → q.at 2 % 32 ≠ 0 → q.rnrUntil = none → q.outstanding ≠ 0 →
        w.sentAt.toNat + 4096 * 2 ^ (q.at 2 % 32) * nsUnits ≤ s.dial.toNat →
        (q.retries < q.at 3 % 8 →
          ∃ t, exec (.ackTimeout n) s = .next t ∧ counts Reg.RDMA_CNT_RETRANSMIT 1 s t ∧
            (t.qp n).retries = q.retries + 1 ∧ (t.qp n).phase = .rts ∧
            queued (again w) (s.count Reg.RDMA_CNT_RETRANSMIT) t) ∧
        (q.at 3 % 8 ≤ q.retries → (∀ e ∈ s.rdma.qps, e.1 = n ∨ e.2.wqes = []) →
          ∃ t, exec (.ackTimeout n) s = .next t ∧ fails w 5 t)) ∧
      (w.sent = false → w.wait = 2 → s.waitMet w = true → s.localFail q w = 0 → q.rnrUntil = none →
        ∃ t, exec (.triggeredStart n) s = .next t ∧ counts Reg.RDMA_CNT_TRIGGERED 1 s t ∧
          (t.qp n).wqes.all (fun y => y.wait == 0) = true) ∧
      (w.sent = true → ∀ d, q.rnrUntil = some d → d ≤ s.clock →
        ∃ t, exec (.rnrDelayExpiry n) s = .next t ∧ (t.qp n).rnrUntil = none ∧ (t.qp n).phase = .rts ∧
          queued (again w) s t) ∧
      (w.sent = true → w.opcode ≠ 4 → q.outstanding ≠ 0 → ∀ syndrome, syndrome / 32 % 4 = 1 →
        let t := s.ackReceived n q.ackPsn syndrome
        let limit := q.at 3 / 16 % 8
        (limit = 7 ∨ q.rnrs + 1 < max 1 limit → (t.qp n).wqes = [w] ∧ (t.qp n).phase = .rts ∧ t.egress = s.egress ∧
          (t.qp n).rnrUntil = some (s.clock.plusNs (rnrTimer (syndrome % 32)))) ∧
        (limit ≠ 7 → max 1 limit ≤ q.rnrs + 1 → (∀ e ∈ s.rdma.qps, e.1 = n ∨ e.2.wqes = []) → fails w 6 t)))

/-! ## Functions and virtual functions (R291 to R308) -/

/-- R295 to R298: VF_SHARE_SET is refused by the first condition that fails, in the manual's order, with no share
changed; one that takes nothing away, or is for a VF that does not exist, is written at once, and any other waits for
the VF with VF_GRACE; its message is placed in a free mailbox; the grace ends it unasked; and once every departing ring
context is DISABLED the new share stands; a message that found the mailbox held all that time follows once it is free. A
PF writes a share word itself only while the VF does not exist. When a message follows and what a reset or a second
reduction does to it are the model's readings (log entry 66, DEDUCED). -/
def Obligations.SharesSetShrunkAndWritten : Prop :=
  ∀ (p v : Nat) (s : State), p < 16 → running 4 s = true →
    (∀ c x b, adminAt c 0x30 x s = true → (s.ring c).owner = .pf p → arrives (.pf p) s = true →
      bits (adminParam x.desc 0) 11 0 = v →
      let new := (List.range 10).map fun w => shareMask w (word (leField b (8 * w) 8))
      let old := s.shareWords p v
      let others := s.otherShares p v
      let status := if (s.vfState p v).shrink.isSome then 4 else if v = 0 ∨ 2048 < v ∨ shareExceeds new others then 2
        else if shareOverlaps new others then 1 else if s.shareInUse old new then 3 else 0
      ∃ t, exec (.vfShareSet c (some b)) s = .next t ∧
        (status ≠ 0 → adminEnds c status x s t ∧ t.vfs = s.vfs ∧ t.shareWords p v = old) ∧
        (status = 0 → shareLoses old new = 0 ∨ s.vfExists p v = false →
          adminEnds c 0 x s t ∧ t.vfs = s.vfs ∧ t.shareWords p v = new) ∧
        (status = 0 → shareLoses old new ≠ 0 → s.vfExists p v = true → t.shareWords p v = old ∧
          (t.vfState p v).shrink =
            some ⟨c, x.cursor, x.tally, new, s.dialNs + s.vfGrace, false, false, false, false⟩)) ∧
    (∀ x, 1 ≤ v → v ≤ 2048 → (s.vfState p v).shrink = some x →
      ((s.vfState p v).inFull = false → (s.vfState p v).owed = [] → x.placed = false →
        ∃ t, exec (.shrink p v) s = .next t ∧ (t.vfState p v).inFull = true ∧ (t.vfState p v).inShrink = true ∧
          t.reg (Reg.VF_MBOX_IN p v 0) = word (0xF0 + shareLoses (s.shareWords p v) x.new * 2 ^ 8) ∧
          t.reg (Reg.VF_MBOX_IN p v 1) = x.tally ∧ t.reg (Reg.VF_MBOX_IN p v 2) = word x.expires ∧
          (t.vfState p v).lateShrink = x.expired ∧ counts (Reg.VF_CNT_MBOX_RECEIVED p v) 1 s t) ∧
      (x.acked = false → x.expired = false → x.enforced = false → x.expires ≤ s.dialNs →
        ∃ t, exec (.graceExpired p v) s = .next t ∧
          (t.vfState p v).shrink = some { x with expired := true, enforced := true } ∧
          (t.vfState p v).lateShrink = ((s.vfState p v).lateShrink || x.placed) ∧
          counts Reg.VFM_CNT_GRACE_EXPIRED 1 s t) ∧
      (x.enforced = true → (s.fn (.vf p v)).flr = false →
        (∀ r ∈ rangeLost (shareRange (s.shareWords p v) 0) (shareRange x.new 0), (s.ring r).phase = .disabled) →
        ∃ t, exec (.shrinkComplete p v) s = .next t ∧ (t.vfState p v).shrink = none ∧
          (t.vfState p v).owed =
            (s.vfState p v).owed ++ (if x.placed then [] else [shrinkWords (s.shareWords p v) x]) ∧
          counts Reg.VFM_CNT_SHRINKS 1 s t ∧
          t.shareWords p v = (List.range 10).map fun w => shareMask w (x.new.getD w 0))) ∧
    (∀ ws rest, 1 ≤ v → v ≤ 2048 → (s.vfState p v).owed = ws :: rest → (s.vfState p v).inFull = false →
      ∃ t, exec (.shrink p v) s = .next t ∧ (t.vfState p v).inFull = true ∧ (t.vfState p v).lateShrink = true ∧
        (t.vfState p v).owed = rest ∧ ∀ w, w < 8 → t.reg (Reg.VF_MBOX_IN p v w) = ws.getD w 0) ∧
    ∀ (w : Nat) (x : Word), w < 10 → granted (.pf p) s = true → s.vfSelected p = v →
      let u := discarded (.pf p) (Reg.VFM_RES w) s
      (v = 0 ∨ 2048 < v ∨ s.vfExists p v = true →
        ∃ t, exec (.vfmResWrite p w x) s = .next t ∧ counts Reg.VFM_CNT_CFG_REFUSED 1 s t ∧
          onlyRegs [Reg.VFM_CNT_CFG_REFUSED] u t) ∧
      (1 ≤ v → v ≤ 2048 → s.vfExists p v = false →
        ∃ t, exec (.vfmResWrite p w x) s = .next t ∧ t.voted (shareKey p v w) = shareMask w x ∧
          t = { u with regs := t.regs, copyB := t.copyB, copyC := t.copyC } ∧
          ∀ k, k ≠ shareKey p v w → t.voted k = u.voted k)

/-- R299 to R302, R305: a VF's doorbell takes its message into the Tally journal and leaves the buffer busy until the PF
acknowledges it, a PF's message fills the VF's buffer until its ACK, a write out of turn is ignored and counted; the ACK
of a SHRINK message ends its wait, a late one only counts; and an offer of host ABI majors is answered. A half that the
writer staged for the register is discarded first (R365). The Moafa's own messages count as received, and a share that
leaves at an ACK leaves at once: the model's readings (log entry 66, DEDUCED; VF_CNT_MBOX_SENT and VF_CNT_MBOX_RECEIVED,
log entry 74). -/
def Obligations.MailboxesAndAbiAnswered : Prop :=
  ∀ (p v : Nat) (s : State), p < 16 → 1 ≤ v → v ≤ 2048 → running 4 s = true →
    let f := s.vfState p v
    let mine := discardedAt (.vf p v) 0 0x100 s
    let own := discarded (.pf p) Reg.VFM_MBOX_CTL s
    let ignored := fun (u : State) c => ∃ t, exec c s = .next t ∧ counts Reg.VFM_CNT_MBOX_IGNORED 1 s t ∧
      onlyRegs [Reg.VFM_CNT_MBOX_IGNORED] u t
    (granted (.vf p v) s = true →
      (f.outBusy = true ∨ 0xF0 ≤ bits (s.reg (Reg.VF_MBOX_OUT p v 0)) 7 0 → ignored mine (.vfMboxDoorbell p v)) ∧
      (f.outBusy = false → bits (s.reg (Reg.VF_MBOX_OUT p v 0)) 7 0 < 0xF0 →
        ∃ t, exec (.vfMboxDoorbell p v) s = .next t ∧ (t.vfState p v).outBusy = true ∧
          (t.vfState p v).outTally = s.reg Reg.RING_TALLY_NEXT ∧
          t.reg Reg.RING_TALLY_NEXT = s.reg Reg.RING_TALLY_NEXT + 1 ∧ counts (Reg.VF_CNT_MBOX_SENT p v) 1 s t ∧
          bits (t.ledgerRead (tallyAddr (s.reg Reg.RING_TALLY_NEXT).toNat + 24)) 51 48 = 2) ∧
      (f.inFull = false → ignored mine (.vfMboxAck p v)) ∧
      (f.inFull = true → f.inShrink = false →
        ∃ t, exec (.vfMboxAck p v) s = .next t ∧ (t.vfState p v).inFull = false ∧
          counts Reg.VFM_CNT_MBOX_TO_VF 1 s t ∧ onlyRegs [Reg.VFM_CNT_MBOX_TO_VF] { mine with vfs := t.vfs } t) ∧
      (f.inFull = true → f.inShrink = true → f.lateShrink = true →
        ∃ t, exec (.vfMboxAck p v) s = .next t ∧ (t.vfState p v).inFull = false ∧
          counts Reg.VFM_CNT_MBOX_TO_VF 1 s t ∧ counts Reg.VFM_CNT_LATE_ACK 1 s t ∧
          (t.vfState p v).shrink = f.shrink) ∧
      (∀ x, f.inFull = true → f.inShrink = true → f.lateShrink = false → f.shrink = some x → x.acked = false →
        x.expired = false →
        ∃ t, exec (.vfMboxAck p v) s = .next t ∧
          (t.vfState p v).shrink = some { x with acked := true, enforced := true }) ∧
      ∀ o, ∃ t, exec (.genAbiOfferWrite (.vf p v) o) s = .next t ∧
        t.reg (Reg.VF_GEN_ABI_OFFER p v) = o &&& 0xFFFFFF ∧
        t.reg (Reg.VF_GEN_ABI p v) = (if bit o 0 then 0x100010100 else 0x100000000) ∧
        onlyRegs [Reg.VF_GEN_ABI_OFFER p v, Reg.VF_GEN_ABI p v] (discardedAt (.vf p v) 0x8 0x8 s) t) ∧
    (granted (.pf p) s = true → s.vfSelected p = v →
      (f.inFull = true ∨ f.shrink.isSome ∨ s.vfExists p v = false → ignored own (.vfmMboxDoorbell p)) ∧
      (f.inFull = false → f.shrink = none → s.vfExists p v = true →
        ∃ t, exec (.vfmMboxDoorbell p) s = .next t ∧ (t.vfState p v).inFull = true ∧
          (t.vfState p v).inShrink = false ∧ counts (Reg.VF_CNT_MBOX_RECEIVED p v) 1 s t ∧
          ∀ k, k ≠ Reg.VF_CNT_MBOX_RECEIVED p v → t.reg k = own.reg k) ∧
      (f.outBusy = false → ignored own (.vfmMboxAck p)) ∧
      (f.outBusy = true →
        ∃ t, exec (.vfmMboxAck p) s = .next t ∧ (t.vfState p v).outBusy = false ∧
          counts Reg.VFM_CNT_MBOX_TO_PF 1 s t ∧
          t.ledger = (s.ledgerWord (tallyAddr f.outTally.toNat + 8) (tallyWord1 0 0 0xFFFF)).ledger) ∧
      ∀ o, ∃ t, exec (.genAbiOfferWrite (.pf p) o) s = .next t ∧
        t.reg (Reg.GEN_ABI_OFFER p) = o &&& 0xFFFFFF ∧
        t.reg (Reg.GEN_ABI p) = (if bit o 0 then 0x100010100 else 0x100000000) ∧
        onlyRegs [Reg.GEN_ABI_OFFER p, Reg.GEN_ABI p] (discardedAt (.pf p) 0x8 0x8 s) t)

/-! ## Gallery stacking (R309 to R322) -/

/-- R309, R310, R312 to R314, R317, R319 to R322: a hello's first failing check is shown and counted, and a link whose
hello passes is UP at version 1.0; a refused link trains again, a lost one is counted. A sample sets GAL_LINK_DELAY and
GAL_DIAL_OFFSET; eight offsets within 0.5 ns give Dial lock, four beyond it or 100 µs without a sample end it. A device
without an UP link for 100 µs is lost, counted once, and a lost authority shown and its member's Dial held; GO makes the
successor the authority, or is refused in order. Held messages past the stream frontier go to the mergers, a merger
holds the messages of its feeders, and a relay passes on what is for another device. What a sample carries, what a relay
adds to it and how lock is judged are the model's readings (log entry 68, DEDUCED); a second replay is a free value (log
entry 96, DESIGN CHOICE); a member's state is GAL's alone (log entry 92, DESIGN CHOICE), and the 100 µs count TIME
cycles (log entry 97, DESIGN CHOICE). -/
def Obligations.StackLinksDialAndStreams : Prop :=
  ∀ s : State, s.clocked = true →
    (∀ n, n < 8 → let l := s.galLink n
      (∀ h : Hello, l.phase = .training →
        let code := if (h.versions.any fun v => v.1 == 1) = false then 1 else if h.tag ≠ s.stackTag then 2
          else if s.isMember h.devId = false then 3 else if h.devId = s.gal.devId then 4
          else if h.strapErr || s.gal.strapErr then 5 else 0
        ∃ t, exec (.hello n h) s = .next t ∧
          (code ≠ 0 → t.galLink n = { l with phase := .hello, peer := h.devId, refuse := code } ∧
            counts (Reg.GAL_CNT_TRAIN_FAIL n) 1 s t ∧ onlyRegs [Reg.GAL_CNT_TRAIN_FAIL n] { s with gal := t.gal } t) ∧
          (code = 0 → (t.galLink n).phase = .up ∧ (t.galLink n).peer = h.devId ∧ (t.galLink n).major = 1 ∧
            (t.galLink n).minor = 0)) ∧
      (l.phase = .hello → l.refuse ≠ 0 →
        ∃ t, exec (.galTrainRetry n) s = .next t ∧ t.galLink n = { l with phase := .training } ∧
          t = { s with gal := t.gal }) ∧
      (l.phase = .up →
        (∃ t, exec (.galLinkLoss n) s = .next t ∧ (t.galLink n).phase = .training ∧
          counts (Reg.GAL_CNT_LINK_DOWN n) 1 s t) ∧
        (s.galCarries n = true → ∃ t, exec (.dialSampleSend n) s = .next t ∧ t = { s with out := t.out } ∧
          t.out = .galSample n s.dial s.gal.authority s.reportsLock s.reach (s.ownHop n) :: s.out) ∧
        (s.galCarries n = false → exec (.dialSampleSend n) s = .next s)) ∧
      ∀ x : DialSample, s.galCarries n = true → s.stackEn = true → running 0 s = true →
        let offset := ((x.t2 - x.t1).toInt - (x.t4 - x.t3).toInt) / 2 - signed 16 (bits (s.reg (Reg.GAL_LINK_ASYM n)) 15 0) +
          (x.hop.map (·.offset)).getD 0
        ∃ t, exec (.dialSample n x) s = .next t ∧
          t.reg (Reg.GAL_LINK_DELAY n) =
            word (BitVec.ofInt 32 (((x.t2 - x.t1).toInt + (x.t4 - x.t3).toInt) / 2 + (x.hop.map (·.delay)).getD 0)).toNat ∧
          t.gal.locks.getLsbD l.peer = (x.locked && decide (l.peer < 8)) ∧
          ((s.heard l.peer x).ofAuthority n x = true → s.gal.joined = true →
            t.reg Reg.GAL_DIAL_OFFSET = word (BitVec.ofInt 32 offset).toNat ∧ t.gal.masterLost = false ∧
            (offset.natAbs ≤ 128 → t.gal.dialLock = (s.gal.dialLock || decide (8 ≤ s.gal.good + 1))) ∧
            (128 < offset.natAbs → t.gal.dialLock = (s.gal.dialLock && decide (s.gal.bad + 1 < 4))))) ∧
    (running 0 s = true → s.stackMember = true → s.sampleOverdue = true →
      ∃ t, exec .sampleTimeout s = .next t ∧ t.gal.dialLock = false ∧
        (s.time.disc ≠ .fault → t.time.disc = .holdover) ∧
        (s.gal.dialLock = true → counts Reg.GAL_CNT_DIAL_LOCK_LOSS 1 s t)) ∧
    (∀ dev, dev < 8 → s.stackEn = true → s.isMember dev = true → dev ≠ s.gal.devId →
      s.cutLong dev = true → s.gal.lost.getLsbD dev = false →
      ∃ t, exec (.peerLost dev) s = .next t ∧ t.gal.lost.getLsbD dev = true ∧ counts Reg.GAL_CNT_PEER_LOST 1 s t ∧
        t.gal.masterLost = (s.gal.masterLost || decide (dev = s.gal.authority)) ∧
        (dev = s.gal.authority → s.stopped 0 = false → t.gal.dialLock = false ∧
          (s.time.disc ≠ .fault → t.time.disc = .holdover))) ∧
    (∀ who, accepted who s = true →
      ∃ t, exec (.galSucceed who) s = .next t ∧
        t.reg Reg.GAL_SUCCEED_RESULT =
          (if s.stackEn = false ∨ s.gal.devId ≠ s.successor then 2 else if s.sampleOverdue = false ∨ s.sampleComes = true then 3 else 1) ∧
        (t.reg Reg.GAL_SUCCEED_RESULT = 1 → t.gal.authority = s.gal.devId ∧ t.gal.masterLost = false ∧
          counts Reg.GAL_CNT_SUCCEED 1 s t) ∧
        (t.reg Reg.GAL_SUCCEED_RESULT ≠ 1 → onlyRegs [Reg.GAL_SUCCEED_RESULT] (discarded who Reg.GAL_SUCCEED s) t)) ∧
    (running 1 s = true → ∀ d h, d < 16 → s.stacked d = true → s.isOpen d = true → (s.dom d).held = [h] → (s.dom d).unsent = [] →
      h.streamed = false → s.ownPort h.msg.port = true → h.msg.stamp.toNat + s.premerge d * 256 ≤ s.dial.toNat →
      ∃ t, exec (.streamSend d) s = .next t ∧ (t.dom d).held = [{ h with streamed := true }] ∧
        ∀ dev ∈ s.mergers d, (s.carrier dev).isSome → ∃ again, .galStream dev (streamOf h.msg dev again) ∈ t.out) ∧
    ∀ m : StreamMsg, m.wf = true → running 1 s = true → (s.galLink m.link).phase = .up →
      (∀ l, m.dest ≠ s.gal.devId → s.carries m.dest = some l → s.relays (s.galLink m.link).peer m.dest = true →
        ∃ t again, exec (.streamMessage m) s = .next t ∧ counts (Reg.GAL_CNT_STREAM_MSGS l) 1 s t ∧
          t.out = .galStream m.dest { m with link := 0, replay2 := m.replay2 || again } :: s.out) ∧
      (m.dest = s.gal.devId → s.stacked m.domain = true →
      (s.dom m.domain).phase = .opened → (s.feeders m.domain).contains (m.stackPort / 256) = true →
      (s.dom m.domain).openAt ≤ m.stamp → s.frontierAt m.domain (s.dom m.domain).frontier m.stamp = false →
      ∃ t, exec (.streamMessage m) s = .next t ∧
        (∃ h : Held, (t.dom m.domain).held = (s.dom m.domain).held ++ [h] ∧ h.keyStamp = m.stamp ∧ h.late = false ∧
          h.msg.port = m.stackPort ∧ h.msg.bytes = m.bytes ∧ h.msg.long = m.long ∧ h.msg.replay2 = m.replay2) ∧
        (m.replay2 = true → counts (Reg.GAL_CNT_REPLAY2 m.link) 1 s t))

/-! ## Starts, recovery and the roll-back fuse (R325 to R342, R352, R354) -/

/-- R327, R332, R336, R342, R351, R352, R354: a supply ramp, RESET_N, the watchdog and a recheck after a trip start the
device from flash with causes 1, 2, 4 and 3, counted; the first image that passes every check runs, and with none
recovery begins. A device above 100 °C stays tripped. WAKE_N ends Deep Rest with cause 5, from the retained image or by
a full start, which it is with no retained image or with one whose digest is not the retained one; each of these is
ignored in the states that do not take it. What a start finds and keeps, and that a start between commands tests the
image at once, are the model's readings (log entries 69 and 71, DEDUCED). -/
def Obligations.StartsBootTheFirstGoodBank : Prop :=
  ∀ (inp : StartInputs) (s : State), s.boot.fuse = none → s.boot.busy = none →
    (∃ t, exec (.powerOn inp) s = .next t ∧
      (coolEnough inp.sensors = true → started 1 inp s t ∧ counts Reg.BOOT_CNT_COLD 1 s t) ∧
      (coolEnough inp.sensors = false → t.phase = .tripped)) ∧
    (∃ t, exec (.resetNAssert inp) s = .next t ∧
      (s.clocked = true → started 2 inp s t ∧ counts Reg.BOOT_CNT_COLD 1 s t) ∧
      (s.phase = .rest ∨ s.phase = .off ∨ s.phase = .seqHeld → t = s) ∧
      (s.phase = .tripped → coolEnough inp.sensors = true →
        started (if s.power.trip then 3 else 1) inp s t ∧ t.power.trip = false) ∧
      (s.phase = .tripped → coolEnough inp.sensors = false → t = s)) ∧
    (∃ t, exec (.watchdog inp) s = .next t ∧
      (s.clocked = true → started 4 inp s t ∧ counts Reg.PWR_CNT_WATCHDOG 1 s t ∧ counts Reg.BOOT_CNT_COLD 1 s t) ∧
      (s.clocked = false → t = s)) ∧
    (∀ readings, ∃ t, exec (.thermtripRecheck readings inp) s = .next t ∧
      (s.phase = .tripped → coolEnough readings = true → started (if s.power.trip then 3 else 1) inp s t) ∧
      (s.phase ≠ .tripped ∨ coolEnough readings = false → t = s)) ∧
    ∃ t, exec (.wake inp) s = .next t ∧ (s.phase ≠ .rest → t = s) ∧
      (s.phase = .rest →
        (started 5 inp s t ∧ counts Reg.BOOT_CNT_WAKE_FULL 1 s t) ∨
        (bits (t.reg Reg.PWR_RESET_CAUSE) 3 0 = 5 ∧ counts Reg.BOOT_CNT_WAKE_FAST 1 s t ∧ t.phase = .running ∧
          s.boot.retained.isSome ∧ t.boot.running = s.boot.retained ∧ t.boot.fastWake = true)) ∧
      (s.phase = .rest → s.boot.retained = none ∨ s.boot.digest ≠ s.boot.retained.map Image.digest → started 5 inp s t ∧ counts Reg.BOOT_CNT_WAKE_FULL 1 s t)

/-- R332: a recovery action is refused BUSY while one runs and REFUSED_STATE where it is not permitted, and begins
otherwise; its end shows DONE, or FAILED with the reason; a PROGRAM whose read-back agrees leaves the upload in its
bank. The upload window stores what PF0 of H0 writes in the staging area, where the retained image lies until then, and
invalidates that image and its digest. What an upload's checks cover is the model's reading (log entry 70, DESIGN
CHOICE). R331: FUSE_RAISE is refused by its first failing check; otherwise it waits for a confirmation through SIDEBAND,
written from the acceptance of its entry on and within 10 s of it, that names the count and the low half of the tally;
without one it ends NO_CONFIRM with the fuse as it was, and a programmed bit reads blown, so that COUNT rises. That a
confirmation may come before the entry's turn, and that one raise waits for the other, are the model's readings (log
entry 71, DEDUCED). -/
def Obligations.RecoveryAndFuseRaiseRun : Prop :=
  (∀ s : State, running 6 s = true →
    (s.reaches (.pf 0) = true → (s.link 0).frozen = false →
      ∀ a i, (a, i) ∈ [(1, Instr.check), (2, .boot), (3, .programA), (4, .programB)] →
        let u := discarded (.pf 0) Reg.BOOT_REC_CTL s
        let allowed := decide (a = 1) || decide (s.phase = .recovery) || (decide (3 ≤ a) && s.ready &&
          bit (s.voted Reg.BOOT_POLICY) 5 && decide (s.boot.bootedFrom ≠ a - 3))
        ∃ t, exec i s = .next t ∧
          t.reg Reg.BOOT_REC_RESULT = (if s.boot.busy.isSome then 4 else if allowed then 0 else 3) ∧
          (s.boot.busy = none → allowed = true →
            ∃ r, t.boot = { s.boot with busy := some (a, decide (r = 0), r) }) ∧
          (s.boot.busy.isSome ∨ allowed = false → t.boot = s.boot) ∧
          onlyRegs [Reg.BOOT_REC_RESULT, Reg.LOG_CNT_QUEUE_DROP] { u with boot := t.boot, log := t.log } t ∧
          (a ≠ 2 → t.log = s.log ∧ t.reg Reg.LOG_CNT_QUEUE_DROP = s.reg Reg.LOG_CNT_QUEUE_DROP)) ∧
    (∀ a r ok, s.boot.busy = some (a, false, r) →
      ∃ t, exec (.recActionComplete ok) s = .next t ∧ t.boot = { s.boot with busy := none } ∧
        t.reg Reg.BOOT_REC_RESULT = word (2 + 16 * r) ∧ onlyRegs [Reg.BOOT_REC_RESULT] { s with boot := t.boot } t) ∧
    (∀ r ok, s.boot.busy = some (1, true, r) →
      ∃ t, exec (.recActionComplete ok) s = .next t ∧ t.boot = { s.boot with busy := none } ∧
        t.reg Reg.BOOT_REC_RESULT = 1 ∧ onlyRegs [Reg.BOOT_REC_RESULT] { s with boot := t.boot } t) ∧
    (∀ a r, a = 3 ∨ a = 4 → s.boot.busy = some (a, true, r) → s.phase = .running →
      (∃ t, exec (.recActionComplete true) s = .next t ∧ t.reg Reg.BOOT_REC_RESULT = 1 ∧
        t.boot.flashNewer = true ∧ t.boot.retained = none ∧ t.boot.digest = none ∧
        t.boot.bankA = (if a = 3 then s.upload else s.boot.bankA) ∧
        t.boot.bankB = (if a = 4 then s.upload else s.boot.bankB)) ∧
      ∃ t, exec (.recActionComplete false) s = .next t ∧ t.reg Reg.BOOT_REC_RESULT = 2 + 16 * 8) ∧
    ∀ (off : Nat) (v : Word),
      let unit := bits (s.reg Reg.BOOT_REC_OFFSET) 24 18
      let at_ := fun (who : Party) => s.unstage (slotLatch who 16) (offsetName (0x1040000 + off))
      (s.reaches (.pf 0) = true → (s.link 0).frozen = false → off < 0x40000 → unit ≤ 99 →
        ∃ t, exec (.bootRecWinWrite (.pf 0) off v) s = .next t ∧
          t.boot = { s.boot with retained := none, digest := none } ∧
          memRead t.retention (0x40000 * unit + off / 8 * 8) 8 = leBytes 8 v.toNat ∧
          t = { at_ (.pf 0) with boot := t.boot, retention := t.retention } ∧
          ∀ a, a < 0x40000 * unit + off / 8 * 8 ∨ 0x40000 * unit + off / 8 * 8 + 8 ≤ a →
            memRead t.retention a 1 = memRead s.staging a 1) ∧
      ∀ who, accepted who s = true → who ≠ .pf 0 →
        ∃ t, exec (.bootRecWinWrite who off v) s = .next t ∧ counts Reg.BOOT_CNT_REFUSED 1 (at_ who) t ∧
          onlyRegs [Reg.BOOT_CNT_REFUSED] (at_ who) t) ∧
  ∀ s : State, running 6 s = true →
    (∀ c x, adminAt c 0x70 x s = true → s.boot.fuse = none →
      let n := bits (adminParam x.desc 0) 8 0
      let status := if s.fuseCount = 256 then 3 else if n ≠ s.fuseCount + 1 then 1
        else if bits (s.reg Reg.BOOT_IMAGE) 15 0 < n then 2 else 0
      ∃ t, exec (.fuseRaise c) s = .next t ∧ t.regs = s.regs ∧
        (status ≠ 0 → adminEnds c status x s t ∧ t.boot = s.boot) ∧
        (status = 0 →
          let f : FuseCmd := ⟨c, x.cursor, x.tally, n, x.acceptNs + 10 * nsPerSecond, false⟩
          let seen := s.boot.confirms.any fun y => decide (x.acceptNs ≤ y.1) && f.confirmedBy y.1 y.2
          t.boot = { s.boot with fuse := some { f with confirmed := seen }, confirms := [] })) ∧
    (∀ who v, accepted who s = true → who ≠ .sideband →
      let u := discarded who Reg.BOOT_FUSE_CONFIRM s
      ∃ t, exec (.bootFuseConfirmWrite who v) s = .next t ∧ counts Reg.BOOT_CNT_REFUSED 1 u t ∧
        onlyRegs [Reg.BOOT_CNT_REFUSED] u t) ∧
    ∀ f, s.boot.fuse = some f →
      (∀ v : Word, f.confirmed = false →
        let ok := decide (bits v 8 0 = f.count ∧ bits v 31 16 = f.tally.toNat % 65536 ∧ s.dialNs < f.due)
        ∃ t, exec (.bootFuseConfirmWrite .sideband v) s = .next t ∧ t.boot.fuse = some { f with confirmed := ok } ∧
          onlyRegs [Reg.BOOT_FUSE_CONFIRM]
            { discarded .sideband Reg.BOOT_FUSE_CONFIRM s with boot := t.boot } t) ∧
      ∀ x, (s.ring f.ring).taken.find? (fun t => t.cursor == f.cursor) = some x → x.abandoned = false → x.held = false →
        (f.confirmed = false → f.due ≤ s.dialNs →
          ∃ t, exec .noConfirm s = .next t ∧ t.boot = { s.boot with fuse := none } ∧ adminEnds f.ring 4 x s t ∧
            t.regs = s.regs) ∧
        (f.confirmed = true → ∀ blown,
          ∃ t, exec (.fuseProgramDone blown) s = .next t ∧ t.boot.fuse = none ∧
            adminEnds f.ring (if blown then 0 else 5) x s t ∧
            (blown = true →
              t.boot.fuseA ||| t.boot.fuseB =
                (s.boot.fuseA ||| s.boot.fuseB) ||| BitVec.ofNat 256 (2 ^ (f.count - 1)) ∧
              (f.count = s.fuseCount + 1 → f.count ≤ 256 → f.count ≤ t.fuseCount) ∧
              counts Reg.BOOT_CNT_FUSE_RAISE 1 s t) ∧
            (blown = false → t.boot = { s.boot with fuse := none } ∧ t.regs = s.regs))

/-! ## Register writes (R7, R8, R219, R231, R233, R306, R358 to R366) -/

/-- R7, R8, R365: at its canonical address a 64-bit write sets the writable bits of its register, all three copies of an
RV one, and one to a read-only register is ignored and counted, or refused on a ring context that the party may not act
on and, for a party other than PF0 of H0, in BOOT; a low half is staged, taking the place of another's, and the high
half commits both. That halves of registers which act on their own are not staged, and which block a register's writes
belong to, are the model's readings (log entries 75 and 78, DEDUCED). R231, R233: before the datapath is ready a PF's
write outside GEN, HOST and BOOT is ignored and counted, and while its link is frozen every write but one to HOST_FREEZE
is; nothing else changes. -/
def Obligations.RegisterWritesCommitted : Prop :=
  (∀ (who : Party) (a : Nat) (r : RegRow) (idx : List Nat) (k : Nat) (s : State), accepted who s = true →
    target who a = some (.reg r idx k) → aliased who a = false → r.slot ≠ 9 → s.clocked = true →
    (∀ b, slotBlock r.slot = some b → running b s = true) →
    let l := s.latch (latchKey who a)
    let held := decide (l.1 = regName who a)
    let stored := fun (v : Word) (t : State) =>
      (r.access ≠ .rv → t.reg k = (s.reg k &&& ~~~(writableBits k)) ||| (v &&& writableBits k)) ∧
      (r.access = .rv → t.reg k = (s.voted k &&& ~~~r.mask) ||| (v &&& r.mask) ∧ t.regB k = t.reg k ∧
        t.regC k = t.reg k)
    let only := fun (t : State) =>
      t = { s with regs := t.regs, copyB := t.copyB, copyC := t.copyC, latches := t.latches } ∧
        ∀ j, j ≠ k → j ≠ Reg.GEN_CNT_SPLIT_DISCARD → t.reg j = s.reg j
    (r.write = .plain → k ≠ Reg.TIME_PPS_OUT → k ≠ Reg.PMU_DUMP_CFG → k ≠ Reg.GEN_CNT_SPLIT_DISCARD →
      (∀ v, a % 8 = 0 →
        ∃ t, exec (.registerWrite who a 8 ⟨v, false⟩) s = .next t ∧ stored v t ∧ only t ∧
          counts Reg.GEN_CNT_SPLIT_DISCARD (if held then 1 else 0) s t ∧
          (held = true → t.latch (latchKey who a) = latchEmpty)) ∧
      ∀ hi : BitVec 32, l.1 = regName who a →
        ∀ c ∈ Instr.highHalfWrite who a hi :: (if a % 8 = 4 then [.registerWrite who a 4 ⟨word hi.toNat, false⟩] else []),
          ∃ t, exec c s = .next t ∧ stored (hi ++ l.2) t ∧ only t ∧ t.latch (latchKey who a) = latchEmpty) ∧
    (r.write = .none → ∀ v, a % 8 = 0 → held = false →
      let foreign := decide (r.slot = 10 ∧ 0x128 ≤ r.base ∧ r.base ≤ 0x140) &&
        (s.windowOwner who (bits (s.reg (Reg.RING_SEL who.copy)) 15 0)).isNone
      ∃ t, exec (.registerWrite who a 8 ⟨v, false⟩) s = .next t ∧
        (foreign = false →
          let n := if r.slot = 16 ∧ who ≠ .pf 0 then Reg.BOOT_CNT_REFUSED else Reg.GEN_CNT_IGNORED
          counts n 1 s t ∧ onlyRegs [n] s t) ∧
        (foreign = true → ∀ p, who.pfIndex = some p →
          counts (Reg.RING_CNT_CFG_REFUSED p) 1 s t ∧ onlyRegs [Reg.RING_CNT_CFG_REFUSED p] s t)) ∧
    (r.write ≠ .ringDoorbell → ∀ lo : BitVec 32,
      ∀ c ∈ Instr.lowHalfWrite who a lo :: (if a % 8 = 0 then [.registerWrite who a 4 ⟨word lo.toNat, false⟩] else []),
        ∃ t, exec c s = .next t ∧ t.latch (latchKey who a) = (regName who a, lo) ∧
          counts Reg.GEN_CNT_SPLIT_DISCARD (if l.1 ≠ 0 ∧ held = false then 1 else 0) s t ∧
          onlyRegs [Reg.GEN_CNT_SPLIT_DISCARD] { s with latches := t.latches } t)) ∧
  ∀ (p a : Nat) (v : Word) (t : Target) (s : State), p < 16 → s.reaches (.pf p) = true → a % 8 = 0 →
    target (.pf p) a = some t → aliased (.pf p) a = false →
    (s.ready = false → earlySlot (.pf p) a = false →
      ∃ u, exec (.registerWrite (.pf p) a 8 ⟨v, false⟩) s = .next u ∧ counts Reg.GEN_CNT_IGNORED 1 s u ∧
        onlyRegs [Reg.GEN_CNT_IGNORED] s u) ∧
    (s.ready = true → (s.link p).frozen = true → isFreeze (.pf p) a = false →
      ∃ u, exec (.registerWrite (.pf p) a 8 ⟨v, false⟩) s = .next u ∧ counts (Reg.HOST_CNT_FROZEN_WRITE p) 1 s u ∧
        onlyRegs [Reg.HOST_CNT_FROZEN_WRITE p] s u)

/-! ## Headcounts, dumps, the logbook and the trace (R374 to R388) -/

/-- R374 to R378: GO accepts a headcount for a bank that is neither PENDING nor FILLING, and is refused BUSY and counted
otherwise; at the capture instant every counter is copied into the bank, and re-armed where that is asked; a bank with
every entry written is VALID; at its boundary a periodic dump is written, its NUMBER last, or, while the last one is not
fully written or the link is down, skipped and counted. When a dump counts as written, and which boundaries a write to
PMU_DUMP_CFG passes, are the model's choices (log entry 73, DESIGN CHOICE). R381 to R388: the oldest queued event
becomes the next logbook record while its number's bucket holds a token, and is suppressed and counted otherwise;
LOG_HOURS rises outside Deep Rest and saturates; a traced core outside idle emits DIAL_SYNC every SYNC_US, one that
enters idle emits POWER_GAP, and one that leaves it DIAL_SYNC. A bucket's arithmetic (log entry 74, DEDUCED) and which
clock SYNC_US runs by (log entry 76, DESIGN CHOICE) are the model's. -/
def Obligations.ObservationRecordsTaken : Prop :=
  (∀ s : State, s.clocked = true →
    (∀ (who : Party) (v : Word), accepted who s = true → bit v 0 = true →
      let u := discarded who Reg.PMU_HC_CTL s
      let x := s.bank (bits v 1 1)
      let busy := decide (x.phase = .pending) || decide (x.phase = .filling)
      ∃ t, exec (.headcount who v) s = .next t ∧
        (busy = true → t.reg Reg.PMU_HC_RESULT = 2 ∧ counts Reg.PMU_CNT_HC_REFUSED 1 s t ∧
          onlyRegs [Reg.PMU_HC_RESULT, Reg.PMU_CNT_HC_REFUSED] u t) ∧
        (busy = false → t.reg Reg.PMU_HC_RESULT = 1 ∧ onlyRegs [Reg.PMU_HC_RESULT] { u with pmu := t.pmu } t ∧
          t.bank (bits v 1 1) = { x with
            phase := .pending, rearm := bit v 2
            at_ := max ((s.reg Reg.PMU_HC_AT).toNat * nsUnits) (s.dial.plusNs 100).toNat })) ∧
    (∀ b, b < 2 → let x := s.bank b
      (x.phase = .pending → x.at_ ≤ s.dial.toNat →
        ∃ t, exec (.capture b) s = .next t ∧
          t.bank b = { x with phase := .filling, number := s.pmu.number + 1, values := s.capturedAt x.at_, stale := false } ∧
          t.pmu.number = s.pmu.number + 1 ∧
          (Store.wf resetOf s.regs = true → ∀ k, isCounter k = true →
            t.reg k = if x.rearm then s.reg k &&& 0x0000FFFFFFFFFFFF else s.reg k)) ∧
      (x.phase = .filling →
        ∃ t, exec (.bankFilled b) s = .next t ∧ t.bank b = { x with phase := .valid } ∧
          counts Reg.PMU_CNT_HEADCOUNTS 1 s t ∧ onlyRegs [Reg.PMU_CNT_HEADCOUNTS] { s with pmu := t.pmu } t)) ∧
    (bit (s.reg Reg.PMU_DUMP_CFG) 63 = true →
      (s.pmu.dumpAt.any fun m => decide (s.dialNs / s.dumpPeriod * s.dumpPeriod ≤ m)) = false →
      let p := bits (s.reg Reg.PMU_DUMP_CFG) 51 48
      let size := divUp (64 + 8 * counterList.length) 4096 * 4096
      ∃ t, exec .periodicDump s = .next t ∧
        (s.dumpBusy = true ∨ (s.link p).dlActive = false → counts Reg.PMU_CNT_DUMP_SKIP 1 s t ∧ t.pmu.skipped = s.pmu.skipped + 1 ∧
          t.out = s.out) ∧
        (issues (.pf p) s = true → s.dumpBusy = false → counts Reg.PMU_CNT_DUMPS 1 s t ∧
          t.reg Reg.PMU_DUMP_SEQ = word (s.pmu.dumps + 1) ∧ t.pmu.skipped = 0 ∧
          t.out.head? = some (.dmaWrite (.pf p)
            ((s.reg Reg.PMU_DUMP_BASE).toNat + s.pmu.dumps % s.dumpCount * size + 56) (leBytes 8 (s.pmu.dumps + 1)) false)))) ∧
  ∀ s : State,
    (∀ e rest, s.clocked = true → s.log.queue = e :: rest →
      let tokens := 1024 * logBurstOf (s.reg Reg.LOG_RATE) - (s.logLack e.number e.dial.ns).1
      let n := (s.reg Reg.LOG_TOTAL).toNat
      ∃ t, exec .logRecordWrite s = .next t ∧ t.log.queue = rest ∧
        (logUnlimited e.number || decide (1024 ≤ tokens) = true →
          t.reg Reg.LOG_TOTAL = s.reg Reg.LOG_TOTAL + 1 ∧ counts Reg.LOG_CNT_RECORDS 1 s t ∧
          memRead t.ledger (0x3A000000 + 32 * (if n < 4096 then n else 4096 + (n - 4096) % 65536)) 32 = s.logBytes e ∧
          ∀ k, k ≠ Reg.LOG_TOTAL → k ≠ Reg.LOG_CNT_RECORDS → t.reg k = s.reg k) ∧
        (logUnlimited e.number || decide (1024 ≤ tokens) = false →
          counts Reg.LOG_CNT_SUPPRESSED 1 s t ∧ onlyRegs [Reg.LOG_CNT_SUPPRESSED] { s with log := t.log } t)) ∧
    (∃ t, exec .hoursTick s = .next t ∧ (s.phase = .rest ∨ s.phase = .off → t = s) ∧
      (s.phase ≠ .rest → s.phase ≠ .off →
        t.reg Reg.LOG_HOURS = word (min 0xFFFFFFFF ((s.reg Reg.LOG_HOURS).toNat + 1)) ∧ onlyRegs [Reg.LOG_HOURS] s t)) ∧
    ∀ core, core < 64 → s.clocked = true →
      let sync := traceBytes core 1 (leBytes 9 s.dial.toNat)
      (s.traced core = true → s.pmu.idle.getLsbD core = false → s.unstated core = 0 → s.traceFull 12 = false →
        (s.syncDue core = true →
          ∃ t, exec (.dialSync core) s = .next t ∧ t.out = (s.traceOut sync).out ∧
            (s.traceSink ≠ 2 → t.out = .trace sync :: s.out) ∧ counts Reg.TRC_CNT_FRAMES 1 s t) ∧
        ∀ gated,
          let gap := traceBytes core 2 (leBytes 9 s.dial.toNat ++ [BitVec.ofNat 8 (b2n gated)])
          ∃ t, exec (.powerGap core gated 0) s = .next t ∧ t.out = (s.traceOut gap).out ∧
            (s.traceSink ≠ 2 → t.out = .trace gap :: s.out) ∧
            counts Reg.TRC_CNT_GAPS 1 s t ∧ t.pmu.idle.getLsbD core = true) ∧
      (s.syncDue core = false → ∃ t, exec (.dialSync core) s = .next t ∧ t = s) ∧
      (s.pmu.idle.getLsbD core = true → s.life.stopped.contains core = false →
        ∃ t, exec (.idleExit core) s = .next t ∧ t.pmu.idle.getLsbD core = false ∧
          (∀ i, i ≠ core → t.pmu.idle.getLsbD i = s.pmu.idle.getLsbD i) ∧
          (s.traced core = true → s.traceSink ≠ 2 → .trace sync ∈ t.out) ∧
          (s.traced core = true → s.unstated core = 0 → s.traceFull 12 = false →
            ∀ o ∈ (s.traceOut sync).out, o ∈ t.out))

/-! ## Voted registers, scrubbed memories and the service life (R30, R367, R368, R400 to R402) -/

/-- R367, R368: the scrubber leaves three equal copies as they are, rewrites a single disagreeing copy from the other
two and counts it, and for three copies that differ sets VOTE_FAULT of the owning block, once for each register; when
SEQ stops so, the halt of each domain that is open and not halted counts. That a stopped block halts its domains, and
with which cause, is the model's choice (log entry 20, DESIGN CHOICE). R30, R367: a voted register reads what two of its
copies agree on, whichever two. R110: the vote of three unfenced copies on the next output, the message at the front of
the merge tree and its number, is the output that two of them put out, and names the third as outvoted; with three
different outputs there is none. -/
def Obligations.VotersReadAndScrubCopies : Prop :=
  (∀ (k i inst : Nat) (s : State), s.clocked = true → voteIndex k = some (i, inst) →
    let a := s.reg k
    let b := s.regB k
    let c := s.regC k
    ∃ t, exec (.voteScrub k) s = .next t ∧
      (a = b → b = c → t = s) ∧
      (∀ v, ¬(a = b ∧ b = c) → (a = v ∧ b = v) ∨ (a = v ∧ c = v) ∨ (b = v ∧ c = v) →
        t.reg k = v ∧ t.regB k = v ∧ t.regC k = v ∧ counts (Reg.GEN_CNT_VOTE_CORR i) 1 s t ∧
        t = { s with regs := t.regs, copyB := t.copyB, copyC := t.copyC } ∧
        ∀ j, j ≠ k → j ≠ Reg.GEN_CNT_VOTE_CORR i → t.reg j = s.reg j ∧ t.regB j = s.regB j ∧ t.regC j = s.regC j) ∧
      (a ≠ b → b ≠ c → a ≠ c →
        (s.log.splits.contains k = true → t = s) ∧
        (s.log.splits.contains k = false →
          t.stopped i = true ∧ t.log.splits.contains k = true ∧ t.copyB = s.copyB ∧ t.copyC = s.copyC ∧
          (∀ d, d < 16 → counts (Reg.SEQ_CNT_HALTS d) (b2n (decide (i = 1 ∧ s.stopped 1 = false ∧
            (s.dom d).phase ≠ .closed ∧ (s.dom d).phase ≠ .halted))) s t) ∧
          ∀ j, j ≠ Reg.GEN_STATUS → j ≠ Reg.LOG_CNT_QUEUE_DROP → (∀ d, d < 16 → j ≠ Reg.SEQ_CNT_HALTS d) →
            t.reg j = s.reg j))) ∧
  (∀ (k : Nat) (v : Word) (s : State),
    (s.reg k = v ∧ s.regB k = v) ∨ (s.reg k = v ∧ s.regC k = v) ∨ (s.regB k = v ∧ s.regC k = v) → s.voted k = v) ∧
  ∀ (x : DomState) (n m k : Option Held × Word), x.fenced = 0 → n ≠ m →
    let a := (x.treeA.head?, x.copyA)
    let b := (x.treeB.head?, x.copyB)
    let c := (x.treeC.head?, x.copyC)
    (a = n → b = n → c = n → x.vote = some (n, none)) ∧
    (a = n → b = n → c = m → x.vote = some (n, some 2)) ∧
    (a = n → b = m → c = n → x.vote = some (n, some 1)) ∧
    (a = m → b = n → c = n → x.vote = some (n, some 0)) ∧
    (k ≠ n → k ≠ m → a = n → b = m → c = k → x.vote = none)

/-- R30, R227, R401: a corrected word is counted, in AUD for the ledger, and an SRAM row's third within 24 operating
hours takes a spare row of its memory while one is left; an uncorrectable ledger word is counted and its record torn.
What an uncorrectable row of another memory held is discarded: in the packet buffer a waiting frame, or an order-class
message before its sequencing, an ingress error; in retention SRAM the retained image; in the L2 or the L3 the core that
needs it is retired; a read of the HBM returns poisoned data. A fault in the buffers of a host link is reported by that
link's PF. Which memory holds what, and which core a fault retires, are the model's reading (log entry 77, DEDUCED). -/
def Obligations.MemoriesScrubbed : Prop :=
  ∀ s : State, s.clocked = true →
    (∀ m place, m ≠ .hostLink ∨ place.row < 16 → ∃ t, exec (.memoryScrub m place .clean) s = .next t ∧ t = s) ∧
    (∀ place, ∃ t, exec (.memoryScrub .ledger place .corrected) s = .next t ∧ counts Reg.AUD_CNT_ECC_CORR 1 s t ∧
      onlyRegs [Reg.AUD_CNT_ECC_CORR] { s with life := { s.life with eccCorr := s.life.eccCorr + 1 } } t) ∧
    (∀ place, ∃ t, exec (.memoryScrub .ledger place .uncorrectable) s = .next t ∧
      counts Reg.AUD_CNT_ECC_UNCORR 1 s t ∧ t.aud.torn.contains (place.row / 8 * 8) = true ∧ t.ledger = s.ledger) ∧
    (∀ m ∈ sramArrays, ∀ row, ∀ h₁ h₂ : Nat,
      Store.get (fun _ => []) s.life.rowHits (ScrubRow.key m row) = [h₁, h₂] →
      let now := (s.reg Reg.LOG_HOURS).toNat
      now < h₁ + 24 * 1024 → now < h₂ + 24 * 1024 →
      ∀ item, ∃ t, exec (.memoryScrub m ⟨row, item⟩ .corrected) s = .next t ∧
        t.life.rows = s.life.rows ++ (if s.life.rowsOf m < Config.spareRows m then [(m, row)] else []) ∧
        t.life.eccCorr = s.life.eccCorr + 1 ∧ t = { s with life := t.life }) ∧
    (∀ row k i, i < (s.pipe k).fifo.length →
      ∃ t, exec (.memoryScrub .packetBuffer ⟨row, .arriving k i⟩ .uncorrectable) s = .next t ∧
        (t.pipe k).fifo = (s.pipe k).fifo.eraseIdx i ∧ t.life.ingressErr = s.life.ingressErr + 1 ∧
        t.life.eccUncorr = s.life.eccUncorr + 1 ∧ t.regs = s.regs) ∧
    (∀ row d i, i < (s.dom d).held.length →
      ∃ t, exec (.memoryScrub .packetBuffer ⟨row, .held d i⟩ .uncorrectable) s = .next t ∧
        (t.dom d).held = (s.dom d).held.eraseIdx i ∧ t.life.ingressErr = s.life.ingressErr + 1 ∧
        t.life.eccUncorr = s.life.eccUncorr + 1) ∧
    (∀ row n q i, i < (s.queue n q).length →
      ∃ t, exec (.memoryScrub .packetBuffer ⟨row, .queued n q i⟩ .uncorrectable) s = .next t ∧
        t.queue n q = (s.queue n q).eraseIdx i ∧ t.life.eccUncorr = s.life.eccUncorr + 1) ∧
    (∀ row, ∃ t, exec (.memoryScrub .retention ⟨row, .retained⟩ .uncorrectable) s = .next t ∧
      t.boot = { s.boot with retained := none, digest := none } ∧
      t = { s with boot := t.boot, retention := s.staging, life := { s.life with eccUncorr := s.life.eccUncorr + 1 } }) ∧
    (∀ m ∈ [ScrubTarget.l2, .l3], ∀ row c, c < 64 → s.life.stopped.contains c = false →
      ∃ t, exec (.memoryScrub m ⟨row, .core c⟩ .uncorrectable) s = .next t ∧
        t = { s with life := { s.life with eccUncorr := s.life.eccUncorr + 1, stopped := s.life.stopped ++ [c]
                                           coreFaults := s.life.coreFaults + 1 } }) ∧
    (∀ row who, ∃ t, exec (.memoryScrub .hbm ⟨row, .read who⟩ .uncorrectable) s = .next t ∧
      .poisonedRead who row ∈ t.out ∧ t.life = { s.life with eccUncorr := s.life.eccUncorr + 1 } ∧
      (who.pfIndex = none → t = { s with life := t.life, out := .poisonedRead who row :: s.out })) ∧
    (∀ m, m ≠ .ledger → m ≠ .hostLink → ∀ row item, liesIn item m = false ∨ item = .other →
      ∃ t, exec (.memoryScrub m ⟨row, item⟩ .uncorrectable) s = .next t ∧
        t = { s with life := { s.life with eccUncorr := s.life.eccUncorr + 1 } }) ∧
    ∀ row item, row < 16 →
      (∃ t, exec (.memoryScrub .hostLink ⟨row, item⟩ .corrected) s = .next t ∧ (t.fn (.pf row)).corr.getLsbD 14 = true ∧
        t.life = { s.life with eccCorr := s.life.eccCorr + 1 }) ∧
      ∃ t, exec (.memoryScrub .hostLink ⟨row, item⟩ .uncorrectable) s = .next t ∧
        (t.fn (.pf row)).uncorr.getLsbD 22 = true ∧ t.life = { s.life with eccUncorr := s.life.eccUncorr + 1 }

/-- R400 to R402: the averages of each operating hour, lane margins and ageing margins enter the service life, which
LIFE_QUERY sends. That an update names the means of the hour that ends, and that one which names others is of no hour of
this device, is the model's reading (log entry 77, DEDUCED). -/
def Obligations.ServiceLifeKept : Prop :=
  ∀ s : State, s.clocked = true →
    (∀ c x, adminAt c 0x71 x s = true →
      ∃ t, exec (.lifeQuery c) s = .next t ∧ adminEnds c 0 x s t ∧ t.life = s.life ∧
        (issues (s.ring c).owner s = true →
          .dmaWrite (s.ring c).owner (adminParam x.desc 1).toNat s.lifeBlock false ∈ t.out)) ∧
    (∀ tj util, ∃ t, exec (.lifeAverageUpdate tj util) s = .next t ∧
      (tj = averageTj s.life.hourTj s.life.hourN → util = averageUtil s.life.hourBytes s.life.hourRoom →
        t = { s with life := { s.life with
          tjSum := s.life.tjSum + s.life.hourTj, samples := s.life.samples + s.life.hourN
          lineBytes := s.life.lineBytes + s.life.hourBytes, lineRoom := s.life.lineRoom + s.life.hourRoom
          hourTj := 0, hourN := 0, hourBytes := 0, hourRoom := 0 } }) ∧
      (tj ≠ averageTj s.life.hourTj s.life.hourN ∨ util ≠ averageUtil s.life.hourBytes s.life.hourRoom → t = s)) ∧
    (∀ lane low, lane < 512 → ∃ t, exec (.laneMarginCheck lane low) s = .next t ∧
      t = { s with life := { s.life with lowLanes := t.life.lowLanes } } ∧ t.life.lowLanes.contains lane = low ∧
      ∀ i, i ≠ lane → t.life.lowLanes.contains i = s.life.lowLanes.contains i) ∧
    ∀ margins, ∃ t, exec (.ageingCheck margins) s = .next t ∧ t = { s with life := { s.life with margin := t.life.margin } } ∧
      (∀ m ∈ margins, t.life.margin ≤ m) ∧ t.life.margin ≤ 100 ∧ (t.life.margin = 100 ∨ t.life.margin ∈ margins)

/-! ## The block as a whole -/

/-- The queue is served first in, first out: a step runs exec of the command in front on the state with the queue's
rest; on an empty queue the block idles (the model's choice, log entry 1). -/
def Obligations.StepRunsFrontCommand : Prop :=
  (∀ (c : Instr) (rest : List Instr) (s : State), s.pending = c :: rest → step s = exec c { s with pending := rest }) ∧
    ∀ s : State, s.pending = [] → step s = .next s

/-- R10: every command answers a next state in every state, none stops; a command that names an instance the device does
not have changes nothing (the model's choice, log entry 2). -/
def Obligations.UnknownInstancesChangeNothing : Prop :=
  ∀ (i : Instr) (s : State), (∃ t, exec i s = .next t) ∧ (i.wf = false → exec i s = .next s)

/-- R372: counting an event adds 1 to VALUE, which wraps from 0xFFFF_FFFF_FFFF to 0; OVF reads 1 from the first wrap on.
R360, R361, R363: the worked example of where PF BAR0 addresses land, and which landings count in GEN_CNT_ALIAS. -/
def Obligations.CountersWrapAndAddressesLand : Prop :=
  (∀ (k : Nat) (s : State),
    bits ((s.count k).reg k) 47 0 = (bits (s.reg k) 47 0 + 1) % 2 ^ 48 ∧
    bit ((s.count k).reg k) 63 = (bit (s.reg k) 63 || decide (bits (s.reg k) 47 0 = 0xFFFFFFFFFFFF)) ∧
    ∀ j, j ≠ k → (s.count k).reg j = s.reg j) ∧
  let lands := fun (a : Nat) => (landing a).map fun l => (l.row.name, l.idx, l.counted)
  lands 0x0440010 = some ("SEQ_DOMAIN_STATUS", [0], true) ∧
  lands 0x0523F48 = some ("REL_CNT_GUARD_DEFER", [159], false) ∧
  lands 0x0523E20 = some ("REL_PORT_STATUS", [159], true) ∧
  lands 0x0989820 = some ("HOST_CNT_LINK_DOWN", [8], false) ∧
  lands 0x0F01238 = some ("PWR_TEMP", [39], true) ∧
  lands 0x1A00008 = some ("GEN_ABI_OFFER", [], true)

/-- R36: at State.reset Dial is 0, the discipline state FREERUN and every domain CLOSED; every register and every copy
of one holds its reset value, every ring is DISABLED, and no command waits. -/
def Obligations.ResetLeavesDeviceClosed : Prop :=
  let s := State.reset
  s.pending = [] ∧ s.dial = 0 ∧ s.time.disc = .freerun ∧ s.anyOpen = false ∧ s.anyArmed = false ∧
    (∀ k, s.reg k = resetOf k ∧ s.regB k = resetOf k ∧ s.regC k = resetOf k) ∧
    (∀ d, (s.dom d).phase = .closed) ∧ ∀ c, (s.ring c).phase = .disabled

/-- R30, R33: whatever command a step runs, it takes that one from the queue and no other, and with three equal Dial
copies before it the three are equal after it: only a fault from outside makes one differ. -/
def Obligations.StepKeepsDialCopiesEqual : Prop :=
  ∀ s t : State, step s = .next t →
    t.pending = s.pending.tail ∧
      (s.time.a = s.time.b → s.time.a = s.time.c → t.time.a = t.time.b ∧ t.time.a = t.time.c)

/-- Every step keeps the canonical form of the ledger, of retention SRAM and of the register file. -/
def Obligations.StepKeepsStoresCanonical : Prop :=
  ∀ s t : State, sound s = true → step s = .next t → sound t = true

/-- The canonical form holds at State.reset, and its three Dial copies are equal. -/
def Obligations.ResetStoresCanonical : Prop :=
  sound State.reset = true ∧ State.reset.time.a = State.reset.time.b ∧ State.reset.time.a = State.reset.time.c

end
end

