-- ==== Sys2Proof/Laws/State.lean ====
section
/-! SUPPORT. Laws/State.lean: one lemma per field per update of State, true by rfl. -/

namespace Sys2Proof.Machine

/-! ## setReg -/

@[simp] theorem State.setReg_pending (k : Nat) (v : Word) (s : State) : (s.setReg k v).pending = s.pending := rfl
@[simp] theorem State.setReg_phase (k : Nat) (v : Word) (s : State) : (s.setReg k v).phase = s.phase := rfl
@[simp] theorem State.setReg_regs (k : Nat) (v : Word) (s : State) : (s.setReg k v).regs = Store.put resetOf k v s.regs := rfl
@[simp] theorem State.setReg_copyB (k : Nat) (v : Word) (s : State) : (s.setReg k v).copyB = s.copyB := rfl
@[simp] theorem State.setReg_copyC (k : Nat) (v : Word) (s : State) : (s.setReg k v).copyC = s.copyC := rfl
@[simp] theorem State.setReg_latches (k : Nat) (v : Word) (s : State) : (s.setReg k v).latches = s.latches := rfl
@[simp] theorem State.setReg_staged (k : Nat) (v : Word) (s : State) : (s.setReg k v).staged = s.staged := rfl
@[simp] theorem State.setReg_free (k : Nat) (v : Word) (s : State) : (s.setReg k v).free = s.free := rfl
@[simp] theorem State.setReg_time (k : Nat) (v : Word) (s : State) : (s.setReg k v).time = s.time := rfl
@[simp] theorem State.setReg_ports (k : Nat) (v : Word) (s : State) : (s.setReg k v).ports = s.ports := rfl
@[simp] theorem State.setReg_policers (k : Nat) (v : Word) (s : State) : (s.setReg k v).policers = s.policers := rfl
@[simp] theorem State.setReg_excBuckets (k : Nat) (v : Word) (s : State) : (s.setReg k v).excBuckets = s.excBuckets := rfl
@[simp] theorem State.setReg_arrivals (k : Nat) (v : Word) (s : State) : (s.setReg k v).arrivals = s.arrivals := rfl
@[simp] theorem State.setReg_pipes (k : Nat) (v : Word) (s : State) : (s.setReg k v).pipes = s.pipes := rfl
@[simp] theorem State.setReg_floorOn (k : Nat) (v : Word) (s : State) : (s.setReg k v).floorOn = s.floorOn := rfl
@[simp] theorem State.setReg_openWait (k : Nat) (v : Word) (s : State) : (s.setReg k v).openWait = s.openWait := rfl
@[simp] theorem State.setReg_doms (k : Nat) (v : Word) (s : State) : (s.setReg k v).doms = s.doms := rfl
@[simp] theorem State.setReg_postings (k : Nat) (v : Word) (s : State) : (s.setReg k v).postings = s.postings := rfl
@[simp] theorem State.setReg_relNext (k : Nat) (v : Word) (s : State) : (s.setReg k v).relNext = s.relNext := rfl
@[simp] theorem State.setReg_egress (k : Nat) (v : Word) (s : State) : (s.setReg k v).egress = s.egress := rfl
@[simp] theorem State.setReg_tables (k : Nat) (v : Word) (s : State) : (s.setReg k v).tables = s.tables := rfl
@[simp] theorem State.setReg_lpm (k : Nat) (v : Word) (s : State) : (s.setReg k v).lpm = s.lpm := rfl
@[simp] theorem State.setReg_heldUpd (k : Nat) (v : Word) (s : State) : (s.setReg k v).heldUpd = s.heldUpd := rfl
@[simp] theorem State.setReg_tbl (k : Nat) (v : Word) (s : State) : (s.setReg k v).tbl = s.tbl := rfl
@[simp] theorem State.setReg_aud (k : Nat) (v : Word) (s : State) : (s.setReg k v).aud = s.aud := rfl
@[simp] theorem State.setReg_ledger (k : Nat) (v : Word) (s : State) : (s.setReg k v).ledger = s.ledger := rfl
@[simp] theorem State.setReg_retention (k : Nat) (v : Word) (s : State) : (s.setReg k v).retention = s.retention := rfl
@[simp] theorem State.setReg_lamp (k : Nat) (v : Word) (s : State) : (s.setReg k v).lamp = s.lamp := rfl
@[simp] theorem State.setReg_links (k : Nat) (v : Word) (s : State) : (s.setReg k v).links = s.links := rfl
@[simp] theorem State.setReg_funs (k : Nat) (v : Word) (s : State) : (s.setReg k v).funs = s.funs := rfl
@[simp] theorem State.setReg_rings (k : Nat) (v : Word) (s : State) : (s.setReg k v).rings = s.rings := rfl
@[simp] theorem State.setReg_ctrls (k : Nat) (v : Word) (s : State) : (s.setReg k v).ctrls = s.ctrls := rfl
@[simp] theorem State.setReg_spaces (k : Nat) (v : Word) (s : State) : (s.setReg k v).spaces = s.spaces := rfl
@[simp] theorem State.setReg_pieces (k : Nat) (v : Word) (s : State) : (s.setReg k v).pieces = s.pieces := rfl
@[simp] theorem State.setReg_pieceNext (k : Nat) (v : Word) (s : State) : (s.setReg k v).pieceNext = s.pieceNext := rfl
@[simp] theorem State.setReg_drives (k : Nat) (v : Word) (s : State) : (s.setReg k v).drives = s.drives := rfl
@[simp] theorem State.setReg_rdma (k : Nat) (v : Word) (s : State) : (s.setReg k v).rdma = s.rdma := rfl
@[simp] theorem State.setReg_vfs (k : Nat) (v : Word) (s : State) : (s.setReg k v).vfs = s.vfs := rfl
@[simp] theorem State.setReg_gal (k : Nat) (v : Word) (s : State) : (s.setReg k v).gal = s.gal := rfl
@[simp] theorem State.setReg_boot (k : Nat) (v : Word) (s : State) : (s.setReg k v).boot = s.boot := rfl
@[simp] theorem State.setReg_power (k : Nat) (v : Word) (s : State) : (s.setReg k v).power = s.power := rfl
@[simp] theorem State.setReg_log (k : Nat) (v : Word) (s : State) : (s.setReg k v).log = s.log := rfl
@[simp] theorem State.setReg_pmu (k : Nat) (v : Word) (s : State) : (s.setReg k v).pmu = s.pmu := rfl
@[simp] theorem State.setReg_life (k : Nat) (v : Word) (s : State) : (s.setReg k v).life = s.life := rfl
@[simp] theorem State.setReg_out (k : Nat) (v : Word) (s : State) : (s.setReg k v).out = s.out := rfl

/-! ## setRv -/

@[simp] theorem State.setRv_pending (k : Nat) (v : Word) (s : State) : (s.setRv k v).pending = s.pending := rfl
@[simp] theorem State.setRv_phase (k : Nat) (v : Word) (s : State) : (s.setRv k v).phase = s.phase := rfl
@[simp] theorem State.setRv_regs (k : Nat) (v : Word) (s : State) : (s.setRv k v).regs = Store.put resetOf k v s.regs := rfl
@[simp] theorem State.setRv_copyB (k : Nat) (v : Word) (s : State) : (s.setRv k v).copyB = Store.put resetOf k v s.copyB := rfl
@[simp] theorem State.setRv_copyC (k : Nat) (v : Word) (s : State) : (s.setRv k v).copyC = Store.put resetOf k v s.copyC := rfl
@[simp] theorem State.setRv_latches (k : Nat) (v : Word) (s : State) : (s.setRv k v).latches = s.latches := rfl
@[simp] theorem State.setRv_staged (k : Nat) (v : Word) (s : State) : (s.setRv k v).staged = s.staged := rfl
@[simp] theorem State.setRv_free (k : Nat) (v : Word) (s : State) : (s.setRv k v).free = s.free := rfl
@[simp] theorem State.setRv_time (k : Nat) (v : Word) (s : State) : (s.setRv k v).time = s.time := rfl
@[simp] theorem State.setRv_ports (k : Nat) (v : Word) (s : State) : (s.setRv k v).ports = s.ports := rfl
@[simp] theorem State.setRv_policers (k : Nat) (v : Word) (s : State) : (s.setRv k v).policers = s.policers := rfl
@[simp] theorem State.setRv_excBuckets (k : Nat) (v : Word) (s : State) : (s.setRv k v).excBuckets = s.excBuckets := rfl
@[simp] theorem State.setRv_arrivals (k : Nat) (v : Word) (s : State) : (s.setRv k v).arrivals = s.arrivals := rfl
@[simp] theorem State.setRv_pipes (k : Nat) (v : Word) (s : State) : (s.setRv k v).pipes = s.pipes := rfl
@[simp] theorem State.setRv_floorOn (k : Nat) (v : Word) (s : State) : (s.setRv k v).floorOn = s.floorOn := rfl
@[simp] theorem State.setRv_openWait (k : Nat) (v : Word) (s : State) : (s.setRv k v).openWait = s.openWait := rfl
@[simp] theorem State.setRv_doms (k : Nat) (v : Word) (s : State) : (s.setRv k v).doms = s.doms := rfl
@[simp] theorem State.setRv_postings (k : Nat) (v : Word) (s : State) : (s.setRv k v).postings = s.postings := rfl
@[simp] theorem State.setRv_relNext (k : Nat) (v : Word) (s : State) : (s.setRv k v).relNext = s.relNext := rfl
@[simp] theorem State.setRv_egress (k : Nat) (v : Word) (s : State) : (s.setRv k v).egress = s.egress := rfl
@[simp] theorem State.setRv_tables (k : Nat) (v : Word) (s : State) : (s.setRv k v).tables = s.tables := rfl
@[simp] theorem State.setRv_lpm (k : Nat) (v : Word) (s : State) : (s.setRv k v).lpm = s.lpm := rfl
@[simp] theorem State.setRv_heldUpd (k : Nat) (v : Word) (s : State) : (s.setRv k v).heldUpd = s.heldUpd := rfl
@[simp] theorem State.setRv_tbl (k : Nat) (v : Word) (s : State) : (s.setRv k v).tbl = s.tbl := rfl
@[simp] theorem State.setRv_aud (k : Nat) (v : Word) (s : State) : (s.setRv k v).aud = s.aud := rfl
@[simp] theorem State.setRv_ledger (k : Nat) (v : Word) (s : State) : (s.setRv k v).ledger = s.ledger := rfl
@[simp] theorem State.setRv_retention (k : Nat) (v : Word) (s : State) : (s.setRv k v).retention = s.retention := rfl
@[simp] theorem State.setRv_lamp (k : Nat) (v : Word) (s : State) : (s.setRv k v).lamp = s.lamp := rfl
@[simp] theorem State.setRv_links (k : Nat) (v : Word) (s : State) : (s.setRv k v).links = s.links := rfl
@[simp] theorem State.setRv_funs (k : Nat) (v : Word) (s : State) : (s.setRv k v).funs = s.funs := rfl
@[simp] theorem State.setRv_rings (k : Nat) (v : Word) (s : State) : (s.setRv k v).rings = s.rings := rfl
@[simp] theorem State.setRv_ctrls (k : Nat) (v : Word) (s : State) : (s.setRv k v).ctrls = s.ctrls := rfl
@[simp] theorem State.setRv_spaces (k : Nat) (v : Word) (s : State) : (s.setRv k v).spaces = s.spaces := rfl
@[simp] theorem State.setRv_pieces (k : Nat) (v : Word) (s : State) : (s.setRv k v).pieces = s.pieces := rfl
@[simp] theorem State.setRv_pieceNext (k : Nat) (v : Word) (s : State) : (s.setRv k v).pieceNext = s.pieceNext := rfl
@[simp] theorem State.setRv_drives (k : Nat) (v : Word) (s : State) : (s.setRv k v).drives = s.drives := rfl
@[simp] theorem State.setRv_rdma (k : Nat) (v : Word) (s : State) : (s.setRv k v).rdma = s.rdma := rfl
@[simp] theorem State.setRv_vfs (k : Nat) (v : Word) (s : State) : (s.setRv k v).vfs = s.vfs := rfl
@[simp] theorem State.setRv_gal (k : Nat) (v : Word) (s : State) : (s.setRv k v).gal = s.gal := rfl
@[simp] theorem State.setRv_boot (k : Nat) (v : Word) (s : State) : (s.setRv k v).boot = s.boot := rfl
@[simp] theorem State.setRv_power (k : Nat) (v : Word) (s : State) : (s.setRv k v).power = s.power := rfl
@[simp] theorem State.setRv_log (k : Nat) (v : Word) (s : State) : (s.setRv k v).log = s.log := rfl
@[simp] theorem State.setRv_pmu (k : Nat) (v : Word) (s : State) : (s.setRv k v).pmu = s.pmu := rfl
@[simp] theorem State.setRv_life (k : Nat) (v : Word) (s : State) : (s.setRv k v).life = s.life := rfl
@[simp] theorem State.setRv_out (k : Nat) (v : Word) (s : State) : (s.setRv k v).out = s.out := rfl

/-! ## modPort -/

@[simp] theorem State.modPort_pending (n : Nat) (f : PortState → PortState) (s : State) : (s.modPort n f).pending = s.pending := rfl
@[simp] theorem State.modPort_phase (n : Nat) (f : PortState → PortState) (s : State) : (s.modPort n f).phase = s.phase := rfl
@[simp] theorem State.modPort_regs (n : Nat) (f : PortState → PortState) (s : State) : (s.modPort n f).regs = s.regs := rfl
@[simp] theorem State.modPort_copyB (n : Nat) (f : PortState → PortState) (s : State) : (s.modPort n f).copyB = s.copyB := rfl
@[simp] theorem State.modPort_copyC (n : Nat) (f : PortState → PortState) (s : State) : (s.modPort n f).copyC = s.copyC := rfl
@[simp] theorem State.modPort_latches (n : Nat) (f : PortState → PortState) (s : State) : (s.modPort n f).latches = s.latches := rfl
@[simp] theorem State.modPort_staged (n : Nat) (f : PortState → PortState) (s : State) : (s.modPort n f).staged = s.staged := rfl
@[simp] theorem State.modPort_free (n : Nat) (f : PortState → PortState) (s : State) : (s.modPort n f).free = s.free := rfl
@[simp] theorem State.modPort_time (n : Nat) (f : PortState → PortState) (s : State) : (s.modPort n f).time = s.time := rfl
@[simp] theorem State.modPort_ports (n : Nat) (f : PortState → PortState) (s : State) : (s.modPort n f).ports = Store.modify (fun _ => PortState.reset) n f s.ports := rfl
@[simp] theorem State.modPort_policers (n : Nat) (f : PortState → PortState) (s : State) : (s.modPort n f).policers = s.policers := rfl
@[simp] theorem State.modPort_excBuckets (n : Nat) (f : PortState → PortState) (s : State) : (s.modPort n f).excBuckets = s.excBuckets := rfl
@[simp] theorem State.modPort_arrivals (n : Nat) (f : PortState → PortState) (s : State) : (s.modPort n f).arrivals = s.arrivals := rfl
@[simp] theorem State.modPort_pipes (n : Nat) (f : PortState → PortState) (s : State) : (s.modPort n f).pipes = s.pipes := rfl
@[simp] theorem State.modPort_floorOn (n : Nat) (f : PortState → PortState) (s : State) : (s.modPort n f).floorOn = s.floorOn := rfl
@[simp] theorem State.modPort_openWait (n : Nat) (f : PortState → PortState) (s : State) : (s.modPort n f).openWait = s.openWait := rfl
@[simp] theorem State.modPort_doms (n : Nat) (f : PortState → PortState) (s : State) : (s.modPort n f).doms = s.doms := rfl
@[simp] theorem State.modPort_postings (n : Nat) (f : PortState → PortState) (s : State) : (s.modPort n f).postings = s.postings := rfl
@[simp] theorem State.modPort_relNext (n : Nat) (f : PortState → PortState) (s : State) : (s.modPort n f).relNext = s.relNext := rfl
@[simp] theorem State.modPort_egress (n : Nat) (f : PortState → PortState) (s : State) : (s.modPort n f).egress = s.egress := rfl
@[simp] theorem State.modPort_tables (n : Nat) (f : PortState → PortState) (s : State) : (s.modPort n f).tables = s.tables := rfl
@[simp] theorem State.modPort_lpm (n : Nat) (f : PortState → PortState) (s : State) : (s.modPort n f).lpm = s.lpm := rfl
@[simp] theorem State.modPort_heldUpd (n : Nat) (f : PortState → PortState) (s : State) : (s.modPort n f).heldUpd = s.heldUpd := rfl
@[simp] theorem State.modPort_tbl (n : Nat) (f : PortState → PortState) (s : State) : (s.modPort n f).tbl = s.tbl := rfl
@[simp] theorem State.modPort_aud (n : Nat) (f : PortState → PortState) (s : State) : (s.modPort n f).aud = s.aud := rfl
@[simp] theorem State.modPort_ledger (n : Nat) (f : PortState → PortState) (s : State) : (s.modPort n f).ledger = s.ledger := rfl
@[simp] theorem State.modPort_retention (n : Nat) (f : PortState → PortState) (s : State) : (s.modPort n f).retention = s.retention := rfl
@[simp] theorem State.modPort_lamp (n : Nat) (f : PortState → PortState) (s : State) : (s.modPort n f).lamp = s.lamp := rfl
@[simp] theorem State.modPort_links (n : Nat) (f : PortState → PortState) (s : State) : (s.modPort n f).links = s.links := rfl
@[simp] theorem State.modPort_funs (n : Nat) (f : PortState → PortState) (s : State) : (s.modPort n f).funs = s.funs := rfl
@[simp] theorem State.modPort_rings (n : Nat) (f : PortState → PortState) (s : State) : (s.modPort n f).rings = s.rings := rfl
@[simp] theorem State.modPort_ctrls (n : Nat) (f : PortState → PortState) (s : State) : (s.modPort n f).ctrls = s.ctrls := rfl
@[simp] theorem State.modPort_spaces (n : Nat) (f : PortState → PortState) (s : State) : (s.modPort n f).spaces = s.spaces := rfl
@[simp] theorem State.modPort_pieces (n : Nat) (f : PortState → PortState) (s : State) : (s.modPort n f).pieces = s.pieces := rfl
@[simp] theorem State.modPort_pieceNext (n : Nat) (f : PortState → PortState) (s : State) : (s.modPort n f).pieceNext = s.pieceNext := rfl
@[simp] theorem State.modPort_drives (n : Nat) (f : PortState → PortState) (s : State) : (s.modPort n f).drives = s.drives := rfl
@[simp] theorem State.modPort_rdma (n : Nat) (f : PortState → PortState) (s : State) : (s.modPort n f).rdma = s.rdma := rfl
@[simp] theorem State.modPort_vfs (n : Nat) (f : PortState → PortState) (s : State) : (s.modPort n f).vfs = s.vfs := rfl
@[simp] theorem State.modPort_gal (n : Nat) (f : PortState → PortState) (s : State) : (s.modPort n f).gal = s.gal := rfl
@[simp] theorem State.modPort_boot (n : Nat) (f : PortState → PortState) (s : State) : (s.modPort n f).boot = s.boot := rfl
@[simp] theorem State.modPort_power (n : Nat) (f : PortState → PortState) (s : State) : (s.modPort n f).power = s.power := rfl
@[simp] theorem State.modPort_log (n : Nat) (f : PortState → PortState) (s : State) : (s.modPort n f).log = s.log := rfl
@[simp] theorem State.modPort_pmu (n : Nat) (f : PortState → PortState) (s : State) : (s.modPort n f).pmu = s.pmu := rfl
@[simp] theorem State.modPort_life (n : Nat) (f : PortState → PortState) (s : State) : (s.modPort n f).life = s.life := rfl
@[simp] theorem State.modPort_out (n : Nat) (f : PortState → PortState) (s : State) : (s.modPort n f).out = s.out := rfl

/-! ## modPolicer -/

@[simp] theorem State.modPolicer_pending (n : Nat) (f : Policer → Policer) (s : State) : (s.modPolicer n f).pending = s.pending := rfl
@[simp] theorem State.modPolicer_phase (n : Nat) (f : Policer → Policer) (s : State) : (s.modPolicer n f).phase = s.phase := rfl
@[simp] theorem State.modPolicer_regs (n : Nat) (f : Policer → Policer) (s : State) : (s.modPolicer n f).regs = s.regs := rfl
@[simp] theorem State.modPolicer_copyB (n : Nat) (f : Policer → Policer) (s : State) : (s.modPolicer n f).copyB = s.copyB := rfl
@[simp] theorem State.modPolicer_copyC (n : Nat) (f : Policer → Policer) (s : State) : (s.modPolicer n f).copyC = s.copyC := rfl
@[simp] theorem State.modPolicer_latches (n : Nat) (f : Policer → Policer) (s : State) : (s.modPolicer n f).latches = s.latches := rfl
@[simp] theorem State.modPolicer_staged (n : Nat) (f : Policer → Policer) (s : State) : (s.modPolicer n f).staged = s.staged := rfl
@[simp] theorem State.modPolicer_free (n : Nat) (f : Policer → Policer) (s : State) : (s.modPolicer n f).free = s.free := rfl
@[simp] theorem State.modPolicer_time (n : Nat) (f : Policer → Policer) (s : State) : (s.modPolicer n f).time = s.time := rfl
@[simp] theorem State.modPolicer_ports (n : Nat) (f : Policer → Policer) (s : State) : (s.modPolicer n f).ports = s.ports := rfl
@[simp] theorem State.modPolicer_policers (n : Nat) (f : Policer → Policer) (s : State) : (s.modPolicer n f).policers = Store.modify (fun _ => Policer.reset) n f s.policers := rfl
@[simp] theorem State.modPolicer_excBuckets (n : Nat) (f : Policer → Policer) (s : State) : (s.modPolicer n f).excBuckets = s.excBuckets := rfl
@[simp] theorem State.modPolicer_arrivals (n : Nat) (f : Policer → Policer) (s : State) : (s.modPolicer n f).arrivals = s.arrivals := rfl
@[simp] theorem State.modPolicer_pipes (n : Nat) (f : Policer → Policer) (s : State) : (s.modPolicer n f).pipes = s.pipes := rfl
@[simp] theorem State.modPolicer_floorOn (n : Nat) (f : Policer → Policer) (s : State) : (s.modPolicer n f).floorOn = s.floorOn := rfl
@[simp] theorem State.modPolicer_openWait (n : Nat) (f : Policer → Policer) (s : State) : (s.modPolicer n f).openWait = s.openWait := rfl
@[simp] theorem State.modPolicer_doms (n : Nat) (f : Policer → Policer) (s : State) : (s.modPolicer n f).doms = s.doms := rfl
@[simp] theorem State.modPolicer_postings (n : Nat) (f : Policer → Policer) (s : State) : (s.modPolicer n f).postings = s.postings := rfl
@[simp] theorem State.modPolicer_relNext (n : Nat) (f : Policer → Policer) (s : State) : (s.modPolicer n f).relNext = s.relNext := rfl
@[simp] theorem State.modPolicer_egress (n : Nat) (f : Policer → Policer) (s : State) : (s.modPolicer n f).egress = s.egress := rfl
@[simp] theorem State.modPolicer_tables (n : Nat) (f : Policer → Policer) (s : State) : (s.modPolicer n f).tables = s.tables := rfl
@[simp] theorem State.modPolicer_lpm (n : Nat) (f : Policer → Policer) (s : State) : (s.modPolicer n f).lpm = s.lpm := rfl
@[simp] theorem State.modPolicer_heldUpd (n : Nat) (f : Policer → Policer) (s : State) : (s.modPolicer n f).heldUpd = s.heldUpd := rfl
@[simp] theorem State.modPolicer_tbl (n : Nat) (f : Policer → Policer) (s : State) : (s.modPolicer n f).tbl = s.tbl := rfl
@[simp] theorem State.modPolicer_aud (n : Nat) (f : Policer → Policer) (s : State) : (s.modPolicer n f).aud = s.aud := rfl
@[simp] theorem State.modPolicer_ledger (n : Nat) (f : Policer → Policer) (s : State) : (s.modPolicer n f).ledger = s.ledger := rfl
@[simp] theorem State.modPolicer_retention (n : Nat) (f : Policer → Policer) (s : State) : (s.modPolicer n f).retention = s.retention := rfl
@[simp] theorem State.modPolicer_lamp (n : Nat) (f : Policer → Policer) (s : State) : (s.modPolicer n f).lamp = s.lamp := rfl
@[simp] theorem State.modPolicer_links (n : Nat) (f : Policer → Policer) (s : State) : (s.modPolicer n f).links = s.links := rfl
@[simp] theorem State.modPolicer_funs (n : Nat) (f : Policer → Policer) (s : State) : (s.modPolicer n f).funs = s.funs := rfl
@[simp] theorem State.modPolicer_rings (n : Nat) (f : Policer → Policer) (s : State) : (s.modPolicer n f).rings = s.rings := rfl
@[simp] theorem State.modPolicer_ctrls (n : Nat) (f : Policer → Policer) (s : State) : (s.modPolicer n f).ctrls = s.ctrls := rfl
@[simp] theorem State.modPolicer_spaces (n : Nat) (f : Policer → Policer) (s : State) : (s.modPolicer n f).spaces = s.spaces := rfl
@[simp] theorem State.modPolicer_pieces (n : Nat) (f : Policer → Policer) (s : State) : (s.modPolicer n f).pieces = s.pieces := rfl
@[simp] theorem State.modPolicer_pieceNext (n : Nat) (f : Policer → Policer) (s : State) : (s.modPolicer n f).pieceNext = s.pieceNext := rfl
@[simp] theorem State.modPolicer_drives (n : Nat) (f : Policer → Policer) (s : State) : (s.modPolicer n f).drives = s.drives := rfl
@[simp] theorem State.modPolicer_rdma (n : Nat) (f : Policer → Policer) (s : State) : (s.modPolicer n f).rdma = s.rdma := rfl
@[simp] theorem State.modPolicer_vfs (n : Nat) (f : Policer → Policer) (s : State) : (s.modPolicer n f).vfs = s.vfs := rfl
@[simp] theorem State.modPolicer_gal (n : Nat) (f : Policer → Policer) (s : State) : (s.modPolicer n f).gal = s.gal := rfl
@[simp] theorem State.modPolicer_boot (n : Nat) (f : Policer → Policer) (s : State) : (s.modPolicer n f).boot = s.boot := rfl
@[simp] theorem State.modPolicer_power (n : Nat) (f : Policer → Policer) (s : State) : (s.modPolicer n f).power = s.power := rfl
@[simp] theorem State.modPolicer_log (n : Nat) (f : Policer → Policer) (s : State) : (s.modPolicer n f).log = s.log := rfl
@[simp] theorem State.modPolicer_pmu (n : Nat) (f : Policer → Policer) (s : State) : (s.modPolicer n f).pmu = s.pmu := rfl
@[simp] theorem State.modPolicer_life (n : Nat) (f : Policer → Policer) (s : State) : (s.modPolicer n f).life = s.life := rfl
@[simp] theorem State.modPolicer_out (n : Nat) (f : Policer → Policer) (s : State) : (s.modPolicer n f).out = s.out := rfl

/-! ## modPipe -/

@[simp] theorem State.modPipe_pending (k : Nat) (f : PipeState → PipeState) (s : State) : (s.modPipe k f).pending = s.pending := rfl
@[simp] theorem State.modPipe_phase (k : Nat) (f : PipeState → PipeState) (s : State) : (s.modPipe k f).phase = s.phase := rfl
@[simp] theorem State.modPipe_regs (k : Nat) (f : PipeState → PipeState) (s : State) : (s.modPipe k f).regs = s.regs := rfl
@[simp] theorem State.modPipe_copyB (k : Nat) (f : PipeState → PipeState) (s : State) : (s.modPipe k f).copyB = s.copyB := rfl
@[simp] theorem State.modPipe_copyC (k : Nat) (f : PipeState → PipeState) (s : State) : (s.modPipe k f).copyC = s.copyC := rfl
@[simp] theorem State.modPipe_latches (k : Nat) (f : PipeState → PipeState) (s : State) : (s.modPipe k f).latches = s.latches := rfl
@[simp] theorem State.modPipe_staged (k : Nat) (f : PipeState → PipeState) (s : State) : (s.modPipe k f).staged = s.staged := rfl
@[simp] theorem State.modPipe_free (k : Nat) (f : PipeState → PipeState) (s : State) : (s.modPipe k f).free = s.free := rfl
@[simp] theorem State.modPipe_time (k : Nat) (f : PipeState → PipeState) (s : State) : (s.modPipe k f).time = s.time := rfl
@[simp] theorem State.modPipe_ports (k : Nat) (f : PipeState → PipeState) (s : State) : (s.modPipe k f).ports = s.ports := rfl
@[simp] theorem State.modPipe_policers (k : Nat) (f : PipeState → PipeState) (s : State) : (s.modPipe k f).policers = s.policers := rfl
@[simp] theorem State.modPipe_excBuckets (k : Nat) (f : PipeState → PipeState) (s : State) : (s.modPipe k f).excBuckets = s.excBuckets := rfl
@[simp] theorem State.modPipe_arrivals (k : Nat) (f : PipeState → PipeState) (s : State) : (s.modPipe k f).arrivals = s.arrivals := rfl
@[simp] theorem State.modPipe_pipes (k : Nat) (f : PipeState → PipeState) (s : State) : (s.modPipe k f).pipes = Store.modify (fun _ => PipeState.reset) k f s.pipes := rfl
@[simp] theorem State.modPipe_floorOn (k : Nat) (f : PipeState → PipeState) (s : State) : (s.modPipe k f).floorOn = s.floorOn := rfl
@[simp] theorem State.modPipe_openWait (k : Nat) (f : PipeState → PipeState) (s : State) : (s.modPipe k f).openWait = s.openWait := rfl
@[simp] theorem State.modPipe_doms (k : Nat) (f : PipeState → PipeState) (s : State) : (s.modPipe k f).doms = s.doms := rfl
@[simp] theorem State.modPipe_postings (k : Nat) (f : PipeState → PipeState) (s : State) : (s.modPipe k f).postings = s.postings := rfl
@[simp] theorem State.modPipe_relNext (k : Nat) (f : PipeState → PipeState) (s : State) : (s.modPipe k f).relNext = s.relNext := rfl
@[simp] theorem State.modPipe_egress (k : Nat) (f : PipeState → PipeState) (s : State) : (s.modPipe k f).egress = s.egress := rfl
@[simp] theorem State.modPipe_tables (k : Nat) (f : PipeState → PipeState) (s : State) : (s.modPipe k f).tables = s.tables := rfl
@[simp] theorem State.modPipe_lpm (k : Nat) (f : PipeState → PipeState) (s : State) : (s.modPipe k f).lpm = s.lpm := rfl
@[simp] theorem State.modPipe_heldUpd (k : Nat) (f : PipeState → PipeState) (s : State) : (s.modPipe k f).heldUpd = s.heldUpd := rfl
@[simp] theorem State.modPipe_tbl (k : Nat) (f : PipeState → PipeState) (s : State) : (s.modPipe k f).tbl = s.tbl := rfl
@[simp] theorem State.modPipe_aud (k : Nat) (f : PipeState → PipeState) (s : State) : (s.modPipe k f).aud = s.aud := rfl
@[simp] theorem State.modPipe_ledger (k : Nat) (f : PipeState → PipeState) (s : State) : (s.modPipe k f).ledger = s.ledger := rfl
@[simp] theorem State.modPipe_retention (k : Nat) (f : PipeState → PipeState) (s : State) : (s.modPipe k f).retention = s.retention := rfl
@[simp] theorem State.modPipe_lamp (k : Nat) (f : PipeState → PipeState) (s : State) : (s.modPipe k f).lamp = s.lamp := rfl
@[simp] theorem State.modPipe_links (k : Nat) (f : PipeState → PipeState) (s : State) : (s.modPipe k f).links = s.links := rfl
@[simp] theorem State.modPipe_funs (k : Nat) (f : PipeState → PipeState) (s : State) : (s.modPipe k f).funs = s.funs := rfl
@[simp] theorem State.modPipe_rings (k : Nat) (f : PipeState → PipeState) (s : State) : (s.modPipe k f).rings = s.rings := rfl
@[simp] theorem State.modPipe_ctrls (k : Nat) (f : PipeState → PipeState) (s : State) : (s.modPipe k f).ctrls = s.ctrls := rfl
@[simp] theorem State.modPipe_spaces (k : Nat) (f : PipeState → PipeState) (s : State) : (s.modPipe k f).spaces = s.spaces := rfl
@[simp] theorem State.modPipe_pieces (k : Nat) (f : PipeState → PipeState) (s : State) : (s.modPipe k f).pieces = s.pieces := rfl
@[simp] theorem State.modPipe_pieceNext (k : Nat) (f : PipeState → PipeState) (s : State) : (s.modPipe k f).pieceNext = s.pieceNext := rfl
@[simp] theorem State.modPipe_drives (k : Nat) (f : PipeState → PipeState) (s : State) : (s.modPipe k f).drives = s.drives := rfl
@[simp] theorem State.modPipe_rdma (k : Nat) (f : PipeState → PipeState) (s : State) : (s.modPipe k f).rdma = s.rdma := rfl
@[simp] theorem State.modPipe_vfs (k : Nat) (f : PipeState → PipeState) (s : State) : (s.modPipe k f).vfs = s.vfs := rfl
@[simp] theorem State.modPipe_gal (k : Nat) (f : PipeState → PipeState) (s : State) : (s.modPipe k f).gal = s.gal := rfl
@[simp] theorem State.modPipe_boot (k : Nat) (f : PipeState → PipeState) (s : State) : (s.modPipe k f).boot = s.boot := rfl
@[simp] theorem State.modPipe_power (k : Nat) (f : PipeState → PipeState) (s : State) : (s.modPipe k f).power = s.power := rfl
@[simp] theorem State.modPipe_log (k : Nat) (f : PipeState → PipeState) (s : State) : (s.modPipe k f).log = s.log := rfl
@[simp] theorem State.modPipe_pmu (k : Nat) (f : PipeState → PipeState) (s : State) : (s.modPipe k f).pmu = s.pmu := rfl
@[simp] theorem State.modPipe_life (k : Nat) (f : PipeState → PipeState) (s : State) : (s.modPipe k f).life = s.life := rfl
@[simp] theorem State.modPipe_out (k : Nat) (f : PipeState → PipeState) (s : State) : (s.modPipe k f).out = s.out := rfl

/-! ## modDom -/

@[simp] theorem State.modDom_pending (d : Nat) (f : DomState → DomState) (s : State) : (s.modDom d f).pending = s.pending := rfl
@[simp] theorem State.modDom_phase (d : Nat) (f : DomState → DomState) (s : State) : (s.modDom d f).phase = s.phase := rfl
@[simp] theorem State.modDom_regs (d : Nat) (f : DomState → DomState) (s : State) : (s.modDom d f).regs = s.regs := rfl
@[simp] theorem State.modDom_copyB (d : Nat) (f : DomState → DomState) (s : State) : (s.modDom d f).copyB = s.copyB := rfl
@[simp] theorem State.modDom_copyC (d : Nat) (f : DomState → DomState) (s : State) : (s.modDom d f).copyC = s.copyC := rfl
@[simp] theorem State.modDom_latches (d : Nat) (f : DomState → DomState) (s : State) : (s.modDom d f).latches = s.latches := rfl
@[simp] theorem State.modDom_staged (d : Nat) (f : DomState → DomState) (s : State) : (s.modDom d f).staged = s.staged := rfl
@[simp] theorem State.modDom_free (d : Nat) (f : DomState → DomState) (s : State) : (s.modDom d f).free = s.free := rfl
@[simp] theorem State.modDom_time (d : Nat) (f : DomState → DomState) (s : State) : (s.modDom d f).time = s.time := rfl
@[simp] theorem State.modDom_ports (d : Nat) (f : DomState → DomState) (s : State) : (s.modDom d f).ports = s.ports := rfl
@[simp] theorem State.modDom_policers (d : Nat) (f : DomState → DomState) (s : State) : (s.modDom d f).policers = s.policers := rfl
@[simp] theorem State.modDom_excBuckets (d : Nat) (f : DomState → DomState) (s : State) : (s.modDom d f).excBuckets = s.excBuckets := rfl
@[simp] theorem State.modDom_arrivals (d : Nat) (f : DomState → DomState) (s : State) : (s.modDom d f).arrivals = s.arrivals := rfl
@[simp] theorem State.modDom_pipes (d : Nat) (f : DomState → DomState) (s : State) : (s.modDom d f).pipes = s.pipes := rfl
@[simp] theorem State.modDom_floorOn (d : Nat) (f : DomState → DomState) (s : State) : (s.modDom d f).floorOn = s.floorOn := rfl
@[simp] theorem State.modDom_openWait (d : Nat) (f : DomState → DomState) (s : State) : (s.modDom d f).openWait = s.openWait := rfl
@[simp] theorem State.modDom_doms (d : Nat) (f : DomState → DomState) (s : State) : (s.modDom d f).doms = Store.modify (fun _ => DomState.reset) d f s.doms := rfl
@[simp] theorem State.modDom_postings (d : Nat) (f : DomState → DomState) (s : State) : (s.modDom d f).postings = s.postings := rfl
@[simp] theorem State.modDom_relNext (d : Nat) (f : DomState → DomState) (s : State) : (s.modDom d f).relNext = s.relNext := rfl
@[simp] theorem State.modDom_egress (d : Nat) (f : DomState → DomState) (s : State) : (s.modDom d f).egress = s.egress := rfl
@[simp] theorem State.modDom_tables (d : Nat) (f : DomState → DomState) (s : State) : (s.modDom d f).tables = s.tables := rfl
@[simp] theorem State.modDom_lpm (d : Nat) (f : DomState → DomState) (s : State) : (s.modDom d f).lpm = s.lpm := rfl
@[simp] theorem State.modDom_heldUpd (d : Nat) (f : DomState → DomState) (s : State) : (s.modDom d f).heldUpd = s.heldUpd := rfl
@[simp] theorem State.modDom_tbl (d : Nat) (f : DomState → DomState) (s : State) : (s.modDom d f).tbl = s.tbl := rfl
@[simp] theorem State.modDom_aud (d : Nat) (f : DomState → DomState) (s : State) : (s.modDom d f).aud = s.aud := rfl
@[simp] theorem State.modDom_ledger (d : Nat) (f : DomState → DomState) (s : State) : (s.modDom d f).ledger = s.ledger := rfl
@[simp] theorem State.modDom_retention (d : Nat) (f : DomState → DomState) (s : State) : (s.modDom d f).retention = s.retention := rfl
@[simp] theorem State.modDom_lamp (d : Nat) (f : DomState → DomState) (s : State) : (s.modDom d f).lamp = s.lamp := rfl
@[simp] theorem State.modDom_links (d : Nat) (f : DomState → DomState) (s : State) : (s.modDom d f).links = s.links := rfl
@[simp] theorem State.modDom_funs (d : Nat) (f : DomState → DomState) (s : State) : (s.modDom d f).funs = s.funs := rfl
@[simp] theorem State.modDom_rings (d : Nat) (f : DomState → DomState) (s : State) : (s.modDom d f).rings = s.rings := rfl
@[simp] theorem State.modDom_ctrls (d : Nat) (f : DomState → DomState) (s : State) : (s.modDom d f).ctrls = s.ctrls := rfl
@[simp] theorem State.modDom_spaces (d : Nat) (f : DomState → DomState) (s : State) : (s.modDom d f).spaces = s.spaces := rfl
@[simp] theorem State.modDom_pieces (d : Nat) (f : DomState → DomState) (s : State) : (s.modDom d f).pieces = s.pieces := rfl
@[simp] theorem State.modDom_pieceNext (d : Nat) (f : DomState → DomState) (s : State) : (s.modDom d f).pieceNext = s.pieceNext := rfl
@[simp] theorem State.modDom_drives (d : Nat) (f : DomState → DomState) (s : State) : (s.modDom d f).drives = s.drives := rfl
@[simp] theorem State.modDom_rdma (d : Nat) (f : DomState → DomState) (s : State) : (s.modDom d f).rdma = s.rdma := rfl
@[simp] theorem State.modDom_vfs (d : Nat) (f : DomState → DomState) (s : State) : (s.modDom d f).vfs = s.vfs := rfl
@[simp] theorem State.modDom_gal (d : Nat) (f : DomState → DomState) (s : State) : (s.modDom d f).gal = s.gal := rfl
@[simp] theorem State.modDom_boot (d : Nat) (f : DomState → DomState) (s : State) : (s.modDom d f).boot = s.boot := rfl
@[simp] theorem State.modDom_power (d : Nat) (f : DomState → DomState) (s : State) : (s.modDom d f).power = s.power := rfl
@[simp] theorem State.modDom_log (d : Nat) (f : DomState → DomState) (s : State) : (s.modDom d f).log = s.log := rfl
@[simp] theorem State.modDom_pmu (d : Nat) (f : DomState → DomState) (s : State) : (s.modDom d f).pmu = s.pmu := rfl
@[simp] theorem State.modDom_life (d : Nat) (f : DomState → DomState) (s : State) : (s.modDom d f).life = s.life := rfl
@[simp] theorem State.modDom_out (d : Nat) (f : DomState → DomState) (s : State) : (s.modDom d f).out = s.out := rfl

/-! ## modEgr -/

@[simp] theorem State.modEgr_pending (n : Nat) (f : EgressState → EgressState) (s : State) : (s.modEgr n f).pending = s.pending := rfl
@[simp] theorem State.modEgr_phase (n : Nat) (f : EgressState → EgressState) (s : State) : (s.modEgr n f).phase = s.phase := rfl
@[simp] theorem State.modEgr_regs (n : Nat) (f : EgressState → EgressState) (s : State) : (s.modEgr n f).regs = s.regs := rfl
@[simp] theorem State.modEgr_copyB (n : Nat) (f : EgressState → EgressState) (s : State) : (s.modEgr n f).copyB = s.copyB := rfl
@[simp] theorem State.modEgr_copyC (n : Nat) (f : EgressState → EgressState) (s : State) : (s.modEgr n f).copyC = s.copyC := rfl
@[simp] theorem State.modEgr_latches (n : Nat) (f : EgressState → EgressState) (s : State) : (s.modEgr n f).latches = s.latches := rfl
@[simp] theorem State.modEgr_staged (n : Nat) (f : EgressState → EgressState) (s : State) : (s.modEgr n f).staged = s.staged := rfl
@[simp] theorem State.modEgr_free (n : Nat) (f : EgressState → EgressState) (s : State) : (s.modEgr n f).free = s.free := rfl
@[simp] theorem State.modEgr_time (n : Nat) (f : EgressState → EgressState) (s : State) : (s.modEgr n f).time = s.time := rfl
@[simp] theorem State.modEgr_ports (n : Nat) (f : EgressState → EgressState) (s : State) : (s.modEgr n f).ports = s.ports := rfl
@[simp] theorem State.modEgr_policers (n : Nat) (f : EgressState → EgressState) (s : State) : (s.modEgr n f).policers = s.policers := rfl
@[simp] theorem State.modEgr_excBuckets (n : Nat) (f : EgressState → EgressState) (s : State) : (s.modEgr n f).excBuckets = s.excBuckets := rfl
@[simp] theorem State.modEgr_arrivals (n : Nat) (f : EgressState → EgressState) (s : State) : (s.modEgr n f).arrivals = s.arrivals := rfl
@[simp] theorem State.modEgr_pipes (n : Nat) (f : EgressState → EgressState) (s : State) : (s.modEgr n f).pipes = s.pipes := rfl
@[simp] theorem State.modEgr_floorOn (n : Nat) (f : EgressState → EgressState) (s : State) : (s.modEgr n f).floorOn = s.floorOn := rfl
@[simp] theorem State.modEgr_openWait (n : Nat) (f : EgressState → EgressState) (s : State) : (s.modEgr n f).openWait = s.openWait := rfl
@[simp] theorem State.modEgr_doms (n : Nat) (f : EgressState → EgressState) (s : State) : (s.modEgr n f).doms = s.doms := rfl
@[simp] theorem State.modEgr_postings (n : Nat) (f : EgressState → EgressState) (s : State) : (s.modEgr n f).postings = s.postings := rfl
@[simp] theorem State.modEgr_relNext (n : Nat) (f : EgressState → EgressState) (s : State) : (s.modEgr n f).relNext = s.relNext := rfl
@[simp] theorem State.modEgr_egress (n : Nat) (f : EgressState → EgressState) (s : State) : (s.modEgr n f).egress = Store.modify (fun _ => EgressState.reset) n f s.egress := rfl
@[simp] theorem State.modEgr_tables (n : Nat) (f : EgressState → EgressState) (s : State) : (s.modEgr n f).tables = s.tables := rfl
@[simp] theorem State.modEgr_lpm (n : Nat) (f : EgressState → EgressState) (s : State) : (s.modEgr n f).lpm = s.lpm := rfl
@[simp] theorem State.modEgr_heldUpd (n : Nat) (f : EgressState → EgressState) (s : State) : (s.modEgr n f).heldUpd = s.heldUpd := rfl
@[simp] theorem State.modEgr_tbl (n : Nat) (f : EgressState → EgressState) (s : State) : (s.modEgr n f).tbl = s.tbl := rfl
@[simp] theorem State.modEgr_aud (n : Nat) (f : EgressState → EgressState) (s : State) : (s.modEgr n f).aud = s.aud := rfl
@[simp] theorem State.modEgr_ledger (n : Nat) (f : EgressState → EgressState) (s : State) : (s.modEgr n f).ledger = s.ledger := rfl
@[simp] theorem State.modEgr_retention (n : Nat) (f : EgressState → EgressState) (s : State) : (s.modEgr n f).retention = s.retention := rfl
@[simp] theorem State.modEgr_lamp (n : Nat) (f : EgressState → EgressState) (s : State) : (s.modEgr n f).lamp = s.lamp := rfl
@[simp] theorem State.modEgr_links (n : Nat) (f : EgressState → EgressState) (s : State) : (s.modEgr n f).links = s.links := rfl
@[simp] theorem State.modEgr_funs (n : Nat) (f : EgressState → EgressState) (s : State) : (s.modEgr n f).funs = s.funs := rfl
@[simp] theorem State.modEgr_rings (n : Nat) (f : EgressState → EgressState) (s : State) : (s.modEgr n f).rings = s.rings := rfl
@[simp] theorem State.modEgr_ctrls (n : Nat) (f : EgressState → EgressState) (s : State) : (s.modEgr n f).ctrls = s.ctrls := rfl
@[simp] theorem State.modEgr_spaces (n : Nat) (f : EgressState → EgressState) (s : State) : (s.modEgr n f).spaces = s.spaces := rfl
@[simp] theorem State.modEgr_pieces (n : Nat) (f : EgressState → EgressState) (s : State) : (s.modEgr n f).pieces = s.pieces := rfl
@[simp] theorem State.modEgr_pieceNext (n : Nat) (f : EgressState → EgressState) (s : State) : (s.modEgr n f).pieceNext = s.pieceNext := rfl
@[simp] theorem State.modEgr_drives (n : Nat) (f : EgressState → EgressState) (s : State) : (s.modEgr n f).drives = s.drives := rfl
@[simp] theorem State.modEgr_rdma (n : Nat) (f : EgressState → EgressState) (s : State) : (s.modEgr n f).rdma = s.rdma := rfl
@[simp] theorem State.modEgr_vfs (n : Nat) (f : EgressState → EgressState) (s : State) : (s.modEgr n f).vfs = s.vfs := rfl
@[simp] theorem State.modEgr_gal (n : Nat) (f : EgressState → EgressState) (s : State) : (s.modEgr n f).gal = s.gal := rfl
@[simp] theorem State.modEgr_boot (n : Nat) (f : EgressState → EgressState) (s : State) : (s.modEgr n f).boot = s.boot := rfl
@[simp] theorem State.modEgr_power (n : Nat) (f : EgressState → EgressState) (s : State) : (s.modEgr n f).power = s.power := rfl
@[simp] theorem State.modEgr_log (n : Nat) (f : EgressState → EgressState) (s : State) : (s.modEgr n f).log = s.log := rfl
@[simp] theorem State.modEgr_pmu (n : Nat) (f : EgressState → EgressState) (s : State) : (s.modEgr n f).pmu = s.pmu := rfl
@[simp] theorem State.modEgr_life (n : Nat) (f : EgressState → EgressState) (s : State) : (s.modEgr n f).life = s.life := rfl
@[simp] theorem State.modEgr_out (n : Nat) (f : EgressState → EgressState) (s : State) : (s.modEgr n f).out = s.out := rfl

/-! ## modLink -/

@[simp] theorem State.modLink_pending (p : Nat) (f : HostLink → HostLink) (s : State) : (s.modLink p f).pending = s.pending := rfl
@[simp] theorem State.modLink_phase (p : Nat) (f : HostLink → HostLink) (s : State) : (s.modLink p f).phase = s.phase := rfl
@[simp] theorem State.modLink_regs (p : Nat) (f : HostLink → HostLink) (s : State) : (s.modLink p f).regs = s.regs := rfl
@[simp] theorem State.modLink_copyB (p : Nat) (f : HostLink → HostLink) (s : State) : (s.modLink p f).copyB = s.copyB := rfl
@[simp] theorem State.modLink_copyC (p : Nat) (f : HostLink → HostLink) (s : State) : (s.modLink p f).copyC = s.copyC := rfl
@[simp] theorem State.modLink_latches (p : Nat) (f : HostLink → HostLink) (s : State) : (s.modLink p f).latches = s.latches := rfl
@[simp] theorem State.modLink_staged (p : Nat) (f : HostLink → HostLink) (s : State) : (s.modLink p f).staged = s.staged := rfl
@[simp] theorem State.modLink_free (p : Nat) (f : HostLink → HostLink) (s : State) : (s.modLink p f).free = s.free := rfl
@[simp] theorem State.modLink_time (p : Nat) (f : HostLink → HostLink) (s : State) : (s.modLink p f).time = s.time := rfl
@[simp] theorem State.modLink_ports (p : Nat) (f : HostLink → HostLink) (s : State) : (s.modLink p f).ports = s.ports := rfl
@[simp] theorem State.modLink_policers (p : Nat) (f : HostLink → HostLink) (s : State) : (s.modLink p f).policers = s.policers := rfl
@[simp] theorem State.modLink_excBuckets (p : Nat) (f : HostLink → HostLink) (s : State) : (s.modLink p f).excBuckets = s.excBuckets := rfl
@[simp] theorem State.modLink_arrivals (p : Nat) (f : HostLink → HostLink) (s : State) : (s.modLink p f).arrivals = s.arrivals := rfl
@[simp] theorem State.modLink_pipes (p : Nat) (f : HostLink → HostLink) (s : State) : (s.modLink p f).pipes = s.pipes := rfl
@[simp] theorem State.modLink_floorOn (p : Nat) (f : HostLink → HostLink) (s : State) : (s.modLink p f).floorOn = s.floorOn := rfl
@[simp] theorem State.modLink_openWait (p : Nat) (f : HostLink → HostLink) (s : State) : (s.modLink p f).openWait = s.openWait := rfl
@[simp] theorem State.modLink_doms (p : Nat) (f : HostLink → HostLink) (s : State) : (s.modLink p f).doms = s.doms := rfl
@[simp] theorem State.modLink_postings (p : Nat) (f : HostLink → HostLink) (s : State) : (s.modLink p f).postings = s.postings := rfl
@[simp] theorem State.modLink_relNext (p : Nat) (f : HostLink → HostLink) (s : State) : (s.modLink p f).relNext = s.relNext := rfl
@[simp] theorem State.modLink_egress (p : Nat) (f : HostLink → HostLink) (s : State) : (s.modLink p f).egress = s.egress := rfl
@[simp] theorem State.modLink_tables (p : Nat) (f : HostLink → HostLink) (s : State) : (s.modLink p f).tables = s.tables := rfl
@[simp] theorem State.modLink_lpm (p : Nat) (f : HostLink → HostLink) (s : State) : (s.modLink p f).lpm = s.lpm := rfl
@[simp] theorem State.modLink_heldUpd (p : Nat) (f : HostLink → HostLink) (s : State) : (s.modLink p f).heldUpd = s.heldUpd := rfl
@[simp] theorem State.modLink_tbl (p : Nat) (f : HostLink → HostLink) (s : State) : (s.modLink p f).tbl = s.tbl := rfl
@[simp] theorem State.modLink_aud (p : Nat) (f : HostLink → HostLink) (s : State) : (s.modLink p f).aud = s.aud := rfl
@[simp] theorem State.modLink_ledger (p : Nat) (f : HostLink → HostLink) (s : State) : (s.modLink p f).ledger = s.ledger := rfl
@[simp] theorem State.modLink_retention (p : Nat) (f : HostLink → HostLink) (s : State) : (s.modLink p f).retention = s.retention := rfl
@[simp] theorem State.modLink_lamp (p : Nat) (f : HostLink → HostLink) (s : State) : (s.modLink p f).lamp = s.lamp := rfl
@[simp] theorem State.modLink_links (p : Nat) (f : HostLink → HostLink) (s : State) : (s.modLink p f).links = Store.modify (fun _ => HostLink.down) p f s.links := rfl
@[simp] theorem State.modLink_funs (p : Nat) (f : HostLink → HostLink) (s : State) : (s.modLink p f).funs = s.funs := rfl
@[simp] theorem State.modLink_rings (p : Nat) (f : HostLink → HostLink) (s : State) : (s.modLink p f).rings = s.rings := rfl
@[simp] theorem State.modLink_ctrls (p : Nat) (f : HostLink → HostLink) (s : State) : (s.modLink p f).ctrls = s.ctrls := rfl
@[simp] theorem State.modLink_spaces (p : Nat) (f : HostLink → HostLink) (s : State) : (s.modLink p f).spaces = s.spaces := rfl
@[simp] theorem State.modLink_pieces (p : Nat) (f : HostLink → HostLink) (s : State) : (s.modLink p f).pieces = s.pieces := rfl
@[simp] theorem State.modLink_pieceNext (p : Nat) (f : HostLink → HostLink) (s : State) : (s.modLink p f).pieceNext = s.pieceNext := rfl
@[simp] theorem State.modLink_drives (p : Nat) (f : HostLink → HostLink) (s : State) : (s.modLink p f).drives = s.drives := rfl
@[simp] theorem State.modLink_rdma (p : Nat) (f : HostLink → HostLink) (s : State) : (s.modLink p f).rdma = s.rdma := rfl
@[simp] theorem State.modLink_vfs (p : Nat) (f : HostLink → HostLink) (s : State) : (s.modLink p f).vfs = s.vfs := rfl
@[simp] theorem State.modLink_gal (p : Nat) (f : HostLink → HostLink) (s : State) : (s.modLink p f).gal = s.gal := rfl
@[simp] theorem State.modLink_boot (p : Nat) (f : HostLink → HostLink) (s : State) : (s.modLink p f).boot = s.boot := rfl
@[simp] theorem State.modLink_power (p : Nat) (f : HostLink → HostLink) (s : State) : (s.modLink p f).power = s.power := rfl
@[simp] theorem State.modLink_log (p : Nat) (f : HostLink → HostLink) (s : State) : (s.modLink p f).log = s.log := rfl
@[simp] theorem State.modLink_pmu (p : Nat) (f : HostLink → HostLink) (s : State) : (s.modLink p f).pmu = s.pmu := rfl
@[simp] theorem State.modLink_life (p : Nat) (f : HostLink → HostLink) (s : State) : (s.modLink p f).life = s.life := rfl
@[simp] theorem State.modLink_out (p : Nat) (f : HostLink → HostLink) (s : State) : (s.modLink p f).out = s.out := rfl

/-! ## modRing -/

@[simp] theorem State.modRing_pending (c : Nat) (f : Ring → Ring) (s : State) : (s.modRing c f).pending = s.pending := rfl
@[simp] theorem State.modRing_phase (c : Nat) (f : Ring → Ring) (s : State) : (s.modRing c f).phase = s.phase := rfl
@[simp] theorem State.modRing_regs (c : Nat) (f : Ring → Ring) (s : State) : (s.modRing c f).regs = s.regs := rfl
@[simp] theorem State.modRing_copyB (c : Nat) (f : Ring → Ring) (s : State) : (s.modRing c f).copyB = s.copyB := rfl
@[simp] theorem State.modRing_copyC (c : Nat) (f : Ring → Ring) (s : State) : (s.modRing c f).copyC = s.copyC := rfl
@[simp] theorem State.modRing_latches (c : Nat) (f : Ring → Ring) (s : State) : (s.modRing c f).latches = s.latches := rfl
@[simp] theorem State.modRing_staged (c : Nat) (f : Ring → Ring) (s : State) : (s.modRing c f).staged = s.staged := rfl
@[simp] theorem State.modRing_free (c : Nat) (f : Ring → Ring) (s : State) : (s.modRing c f).free = s.free := rfl
@[simp] theorem State.modRing_time (c : Nat) (f : Ring → Ring) (s : State) : (s.modRing c f).time = s.time := rfl
@[simp] theorem State.modRing_ports (c : Nat) (f : Ring → Ring) (s : State) : (s.modRing c f).ports = s.ports := rfl
@[simp] theorem State.modRing_policers (c : Nat) (f : Ring → Ring) (s : State) : (s.modRing c f).policers = s.policers := rfl
@[simp] theorem State.modRing_excBuckets (c : Nat) (f : Ring → Ring) (s : State) : (s.modRing c f).excBuckets = s.excBuckets := rfl
@[simp] theorem State.modRing_arrivals (c : Nat) (f : Ring → Ring) (s : State) : (s.modRing c f).arrivals = s.arrivals := rfl
@[simp] theorem State.modRing_pipes (c : Nat) (f : Ring → Ring) (s : State) : (s.modRing c f).pipes = s.pipes := rfl
@[simp] theorem State.modRing_floorOn (c : Nat) (f : Ring → Ring) (s : State) : (s.modRing c f).floorOn = s.floorOn := rfl
@[simp] theorem State.modRing_openWait (c : Nat) (f : Ring → Ring) (s : State) : (s.modRing c f).openWait = s.openWait := rfl
@[simp] theorem State.modRing_doms (c : Nat) (f : Ring → Ring) (s : State) : (s.modRing c f).doms = s.doms := rfl
@[simp] theorem State.modRing_postings (c : Nat) (f : Ring → Ring) (s : State) : (s.modRing c f).postings = s.postings := rfl
@[simp] theorem State.modRing_relNext (c : Nat) (f : Ring → Ring) (s : State) : (s.modRing c f).relNext = s.relNext := rfl
@[simp] theorem State.modRing_egress (c : Nat) (f : Ring → Ring) (s : State) : (s.modRing c f).egress = s.egress := rfl
@[simp] theorem State.modRing_tables (c : Nat) (f : Ring → Ring) (s : State) : (s.modRing c f).tables = s.tables := rfl
@[simp] theorem State.modRing_lpm (c : Nat) (f : Ring → Ring) (s : State) : (s.modRing c f).lpm = s.lpm := rfl
@[simp] theorem State.modRing_heldUpd (c : Nat) (f : Ring → Ring) (s : State) : (s.modRing c f).heldUpd = s.heldUpd := rfl
@[simp] theorem State.modRing_tbl (c : Nat) (f : Ring → Ring) (s : State) : (s.modRing c f).tbl = s.tbl := rfl
@[simp] theorem State.modRing_aud (c : Nat) (f : Ring → Ring) (s : State) : (s.modRing c f).aud = s.aud := rfl
@[simp] theorem State.modRing_ledger (c : Nat) (f : Ring → Ring) (s : State) : (s.modRing c f).ledger = s.ledger := rfl
@[simp] theorem State.modRing_retention (c : Nat) (f : Ring → Ring) (s : State) : (s.modRing c f).retention = s.retention := rfl
@[simp] theorem State.modRing_lamp (c : Nat) (f : Ring → Ring) (s : State) : (s.modRing c f).lamp = s.lamp := rfl
@[simp] theorem State.modRing_links (c : Nat) (f : Ring → Ring) (s : State) : (s.modRing c f).links = s.links := rfl
@[simp] theorem State.modRing_funs (c : Nat) (f : Ring → Ring) (s : State) : (s.modRing c f).funs = s.funs := rfl
@[simp] theorem State.modRing_rings (c : Nat) (f : Ring → Ring) (s : State) : (s.modRing c f).rings = Store.modify (fun _ => Ring.reset) c f s.rings := rfl
@[simp] theorem State.modRing_ctrls (c : Nat) (f : Ring → Ring) (s : State) : (s.modRing c f).ctrls = s.ctrls := rfl
@[simp] theorem State.modRing_spaces (c : Nat) (f : Ring → Ring) (s : State) : (s.modRing c f).spaces = s.spaces := rfl
@[simp] theorem State.modRing_pieces (c : Nat) (f : Ring → Ring) (s : State) : (s.modRing c f).pieces = s.pieces := rfl
@[simp] theorem State.modRing_pieceNext (c : Nat) (f : Ring → Ring) (s : State) : (s.modRing c f).pieceNext = s.pieceNext := rfl
@[simp] theorem State.modRing_drives (c : Nat) (f : Ring → Ring) (s : State) : (s.modRing c f).drives = s.drives := rfl
@[simp] theorem State.modRing_rdma (c : Nat) (f : Ring → Ring) (s : State) : (s.modRing c f).rdma = s.rdma := rfl
@[simp] theorem State.modRing_vfs (c : Nat) (f : Ring → Ring) (s : State) : (s.modRing c f).vfs = s.vfs := rfl
@[simp] theorem State.modRing_gal (c : Nat) (f : Ring → Ring) (s : State) : (s.modRing c f).gal = s.gal := rfl
@[simp] theorem State.modRing_boot (c : Nat) (f : Ring → Ring) (s : State) : (s.modRing c f).boot = s.boot := rfl
@[simp] theorem State.modRing_power (c : Nat) (f : Ring → Ring) (s : State) : (s.modRing c f).power = s.power := rfl
@[simp] theorem State.modRing_log (c : Nat) (f : Ring → Ring) (s : State) : (s.modRing c f).log = s.log := rfl
@[simp] theorem State.modRing_pmu (c : Nat) (f : Ring → Ring) (s : State) : (s.modRing c f).pmu = s.pmu := rfl
@[simp] theorem State.modRing_life (c : Nat) (f : Ring → Ring) (s : State) : (s.modRing c f).life = s.life := rfl
@[simp] theorem State.modRing_out (c : Nat) (f : Ring → Ring) (s : State) : (s.modRing c f).out = s.out := rfl

/-! ## modKeySlot -/

@[simp] theorem State.modKeySlot_pending (i : Nat) (f : KeySlot → KeySlot) (s : State) : (s.modKeySlot i f).pending = s.pending := rfl
@[simp] theorem State.modKeySlot_phase (i : Nat) (f : KeySlot → KeySlot) (s : State) : (s.modKeySlot i f).phase = s.phase := rfl
@[simp] theorem State.modKeySlot_regs (i : Nat) (f : KeySlot → KeySlot) (s : State) : (s.modKeySlot i f).regs = s.regs := rfl
@[simp] theorem State.modKeySlot_copyB (i : Nat) (f : KeySlot → KeySlot) (s : State) : (s.modKeySlot i f).copyB = s.copyB := rfl
@[simp] theorem State.modKeySlot_copyC (i : Nat) (f : KeySlot → KeySlot) (s : State) : (s.modKeySlot i f).copyC = s.copyC := rfl
@[simp] theorem State.modKeySlot_latches (i : Nat) (f : KeySlot → KeySlot) (s : State) : (s.modKeySlot i f).latches = s.latches := rfl
@[simp] theorem State.modKeySlot_staged (i : Nat) (f : KeySlot → KeySlot) (s : State) : (s.modKeySlot i f).staged = s.staged := rfl
@[simp] theorem State.modKeySlot_free (i : Nat) (f : KeySlot → KeySlot) (s : State) : (s.modKeySlot i f).free = s.free := rfl
@[simp] theorem State.modKeySlot_time (i : Nat) (f : KeySlot → KeySlot) (s : State) : (s.modKeySlot i f).time = s.time := rfl
@[simp] theorem State.modKeySlot_ports (i : Nat) (f : KeySlot → KeySlot) (s : State) : (s.modKeySlot i f).ports = s.ports := rfl
@[simp] theorem State.modKeySlot_policers (i : Nat) (f : KeySlot → KeySlot) (s : State) : (s.modKeySlot i f).policers = s.policers := rfl
@[simp] theorem State.modKeySlot_excBuckets (i : Nat) (f : KeySlot → KeySlot) (s : State) : (s.modKeySlot i f).excBuckets = s.excBuckets := rfl
@[simp] theorem State.modKeySlot_arrivals (i : Nat) (f : KeySlot → KeySlot) (s : State) : (s.modKeySlot i f).arrivals = s.arrivals := rfl
@[simp] theorem State.modKeySlot_pipes (i : Nat) (f : KeySlot → KeySlot) (s : State) : (s.modKeySlot i f).pipes = s.pipes := rfl
@[simp] theorem State.modKeySlot_floorOn (i : Nat) (f : KeySlot → KeySlot) (s : State) : (s.modKeySlot i f).floorOn = s.floorOn := rfl
@[simp] theorem State.modKeySlot_openWait (i : Nat) (f : KeySlot → KeySlot) (s : State) : (s.modKeySlot i f).openWait = s.openWait := rfl
@[simp] theorem State.modKeySlot_doms (i : Nat) (f : KeySlot → KeySlot) (s : State) : (s.modKeySlot i f).doms = s.doms := rfl
@[simp] theorem State.modKeySlot_postings (i : Nat) (f : KeySlot → KeySlot) (s : State) : (s.modKeySlot i f).postings = s.postings := rfl
@[simp] theorem State.modKeySlot_relNext (i : Nat) (f : KeySlot → KeySlot) (s : State) : (s.modKeySlot i f).relNext = s.relNext := rfl
@[simp] theorem State.modKeySlot_egress (i : Nat) (f : KeySlot → KeySlot) (s : State) : (s.modKeySlot i f).egress = s.egress := rfl
@[simp] theorem State.modKeySlot_tables (i : Nat) (f : KeySlot → KeySlot) (s : State) : (s.modKeySlot i f).tables = s.tables := rfl
@[simp] theorem State.modKeySlot_lpm (i : Nat) (f : KeySlot → KeySlot) (s : State) : (s.modKeySlot i f).lpm = s.lpm := rfl
@[simp] theorem State.modKeySlot_heldUpd (i : Nat) (f : KeySlot → KeySlot) (s : State) : (s.modKeySlot i f).heldUpd = s.heldUpd := rfl
@[simp] theorem State.modKeySlot_tbl (i : Nat) (f : KeySlot → KeySlot) (s : State) : (s.modKeySlot i f).tbl = s.tbl := rfl
@[simp] theorem State.modKeySlot_aud (i : Nat) (f : KeySlot → KeySlot) (s : State) : (s.modKeySlot i f).aud = s.aud := rfl
@[simp] theorem State.modKeySlot_ledger (i : Nat) (f : KeySlot → KeySlot) (s : State) : (s.modKeySlot i f).ledger = s.ledger := rfl
@[simp] theorem State.modKeySlot_retention (i : Nat) (f : KeySlot → KeySlot) (s : State) : (s.modKeySlot i f).retention = s.retention := rfl
@[simp] theorem State.modKeySlot_lamp (i : Nat) (f : KeySlot → KeySlot) (s : State) : (s.modKeySlot i f).lamp = { s.lamp with slots := Store.modify (fun _ => KeySlot.none) i f s.lamp.slots } := rfl
@[simp] theorem State.modKeySlot_links (i : Nat) (f : KeySlot → KeySlot) (s : State) : (s.modKeySlot i f).links = s.links := rfl
@[simp] theorem State.modKeySlot_funs (i : Nat) (f : KeySlot → KeySlot) (s : State) : (s.modKeySlot i f).funs = s.funs := rfl
@[simp] theorem State.modKeySlot_rings (i : Nat) (f : KeySlot → KeySlot) (s : State) : (s.modKeySlot i f).rings = s.rings := rfl
@[simp] theorem State.modKeySlot_ctrls (i : Nat) (f : KeySlot → KeySlot) (s : State) : (s.modKeySlot i f).ctrls = s.ctrls := rfl
@[simp] theorem State.modKeySlot_spaces (i : Nat) (f : KeySlot → KeySlot) (s : State) : (s.modKeySlot i f).spaces = s.spaces := rfl
@[simp] theorem State.modKeySlot_pieces (i : Nat) (f : KeySlot → KeySlot) (s : State) : (s.modKeySlot i f).pieces = s.pieces := rfl
@[simp] theorem State.modKeySlot_pieceNext (i : Nat) (f : KeySlot → KeySlot) (s : State) : (s.modKeySlot i f).pieceNext = s.pieceNext := rfl
@[simp] theorem State.modKeySlot_drives (i : Nat) (f : KeySlot → KeySlot) (s : State) : (s.modKeySlot i f).drives = s.drives := rfl
@[simp] theorem State.modKeySlot_rdma (i : Nat) (f : KeySlot → KeySlot) (s : State) : (s.modKeySlot i f).rdma = s.rdma := rfl
@[simp] theorem State.modKeySlot_vfs (i : Nat) (f : KeySlot → KeySlot) (s : State) : (s.modKeySlot i f).vfs = s.vfs := rfl
@[simp] theorem State.modKeySlot_gal (i : Nat) (f : KeySlot → KeySlot) (s : State) : (s.modKeySlot i f).gal = s.gal := rfl
@[simp] theorem State.modKeySlot_boot (i : Nat) (f : KeySlot → KeySlot) (s : State) : (s.modKeySlot i f).boot = s.boot := rfl
@[simp] theorem State.modKeySlot_power (i : Nat) (f : KeySlot → KeySlot) (s : State) : (s.modKeySlot i f).power = s.power := rfl
@[simp] theorem State.modKeySlot_log (i : Nat) (f : KeySlot → KeySlot) (s : State) : (s.modKeySlot i f).log = s.log := rfl
@[simp] theorem State.modKeySlot_pmu (i : Nat) (f : KeySlot → KeySlot) (s : State) : (s.modKeySlot i f).pmu = s.pmu := rfl
@[simp] theorem State.modKeySlot_life (i : Nat) (f : KeySlot → KeySlot) (s : State) : (s.modKeySlot i f).life = s.life := rfl
@[simp] theorem State.modKeySlot_out (i : Nat) (f : KeySlot → KeySlot) (s : State) : (s.modKeySlot i f).out = s.out := rfl

/-! ## modVf -/

@[simp] theorem State.modVf_pending (p v : Nat) (f : VfState → VfState) (s : State) : (s.modVf p v f).pending = s.pending := rfl
@[simp] theorem State.modVf_phase (p v : Nat) (f : VfState → VfState) (s : State) : (s.modVf p v f).phase = s.phase := rfl
@[simp] theorem State.modVf_regs (p v : Nat) (f : VfState → VfState) (s : State) : (s.modVf p v f).regs = s.regs := rfl
@[simp] theorem State.modVf_copyB (p v : Nat) (f : VfState → VfState) (s : State) : (s.modVf p v f).copyB = s.copyB := rfl
@[simp] theorem State.modVf_copyC (p v : Nat) (f : VfState → VfState) (s : State) : (s.modVf p v f).copyC = s.copyC := rfl
@[simp] theorem State.modVf_latches (p v : Nat) (f : VfState → VfState) (s : State) : (s.modVf p v f).latches = s.latches := rfl
@[simp] theorem State.modVf_staged (p v : Nat) (f : VfState → VfState) (s : State) : (s.modVf p v f).staged = s.staged := rfl
@[simp] theorem State.modVf_free (p v : Nat) (f : VfState → VfState) (s : State) : (s.modVf p v f).free = s.free := rfl
@[simp] theorem State.modVf_time (p v : Nat) (f : VfState → VfState) (s : State) : (s.modVf p v f).time = s.time := rfl
@[simp] theorem State.modVf_ports (p v : Nat) (f : VfState → VfState) (s : State) : (s.modVf p v f).ports = s.ports := rfl
@[simp] theorem State.modVf_policers (p v : Nat) (f : VfState → VfState) (s : State) : (s.modVf p v f).policers = s.policers := rfl
@[simp] theorem State.modVf_excBuckets (p v : Nat) (f : VfState → VfState) (s : State) : (s.modVf p v f).excBuckets = s.excBuckets := rfl
@[simp] theorem State.modVf_arrivals (p v : Nat) (f : VfState → VfState) (s : State) : (s.modVf p v f).arrivals = s.arrivals := rfl
@[simp] theorem State.modVf_pipes (p v : Nat) (f : VfState → VfState) (s : State) : (s.modVf p v f).pipes = s.pipes := rfl
@[simp] theorem State.modVf_floorOn (p v : Nat) (f : VfState → VfState) (s : State) : (s.modVf p v f).floorOn = s.floorOn := rfl
@[simp] theorem State.modVf_openWait (p v : Nat) (f : VfState → VfState) (s : State) : (s.modVf p v f).openWait = s.openWait := rfl
@[simp] theorem State.modVf_doms (p v : Nat) (f : VfState → VfState) (s : State) : (s.modVf p v f).doms = s.doms := rfl
@[simp] theorem State.modVf_postings (p v : Nat) (f : VfState → VfState) (s : State) : (s.modVf p v f).postings = s.postings := rfl
@[simp] theorem State.modVf_relNext (p v : Nat) (f : VfState → VfState) (s : State) : (s.modVf p v f).relNext = s.relNext := rfl
@[simp] theorem State.modVf_egress (p v : Nat) (f : VfState → VfState) (s : State) : (s.modVf p v f).egress = s.egress := rfl
@[simp] theorem State.modVf_tables (p v : Nat) (f : VfState → VfState) (s : State) : (s.modVf p v f).tables = s.tables := rfl
@[simp] theorem State.modVf_lpm (p v : Nat) (f : VfState → VfState) (s : State) : (s.modVf p v f).lpm = s.lpm := rfl
@[simp] theorem State.modVf_heldUpd (p v : Nat) (f : VfState → VfState) (s : State) : (s.modVf p v f).heldUpd = s.heldUpd := rfl
@[simp] theorem State.modVf_tbl (p v : Nat) (f : VfState → VfState) (s : State) : (s.modVf p v f).tbl = s.tbl := rfl
@[simp] theorem State.modVf_aud (p v : Nat) (f : VfState → VfState) (s : State) : (s.modVf p v f).aud = s.aud := rfl
@[simp] theorem State.modVf_ledger (p v : Nat) (f : VfState → VfState) (s : State) : (s.modVf p v f).ledger = s.ledger := rfl
@[simp] theorem State.modVf_retention (p v : Nat) (f : VfState → VfState) (s : State) : (s.modVf p v f).retention = s.retention := rfl
@[simp] theorem State.modVf_lamp (p v : Nat) (f : VfState → VfState) (s : State) : (s.modVf p v f).lamp = s.lamp := rfl
@[simp] theorem State.modVf_links (p v : Nat) (f : VfState → VfState) (s : State) : (s.modVf p v f).links = s.links := rfl
@[simp] theorem State.modVf_funs (p v : Nat) (f : VfState → VfState) (s : State) : (s.modVf p v f).funs = s.funs := rfl
@[simp] theorem State.modVf_rings (p v : Nat) (f : VfState → VfState) (s : State) : (s.modVf p v f).rings = s.rings := rfl
@[simp] theorem State.modVf_ctrls (p v : Nat) (f : VfState → VfState) (s : State) : (s.modVf p v f).ctrls = s.ctrls := rfl
@[simp] theorem State.modVf_spaces (p v : Nat) (f : VfState → VfState) (s : State) : (s.modVf p v f).spaces = s.spaces := rfl
@[simp] theorem State.modVf_pieces (p v : Nat) (f : VfState → VfState) (s : State) : (s.modVf p v f).pieces = s.pieces := rfl
@[simp] theorem State.modVf_pieceNext (p v : Nat) (f : VfState → VfState) (s : State) : (s.modVf p v f).pieceNext = s.pieceNext := rfl
@[simp] theorem State.modVf_drives (p v : Nat) (f : VfState → VfState) (s : State) : (s.modVf p v f).drives = s.drives := rfl
@[simp] theorem State.modVf_rdma (p v : Nat) (f : VfState → VfState) (s : State) : (s.modVf p v f).rdma = s.rdma := rfl
@[simp] theorem State.modVf_vfs (p v : Nat) (f : VfState → VfState) (s : State) : (s.modVf p v f).vfs = Store.modify (fun _ => VfState.reset) (4096 * p + v) f s.vfs := rfl
@[simp] theorem State.modVf_gal (p v : Nat) (f : VfState → VfState) (s : State) : (s.modVf p v f).gal = s.gal := rfl
@[simp] theorem State.modVf_boot (p v : Nat) (f : VfState → VfState) (s : State) : (s.modVf p v f).boot = s.boot := rfl
@[simp] theorem State.modVf_power (p v : Nat) (f : VfState → VfState) (s : State) : (s.modVf p v f).power = s.power := rfl
@[simp] theorem State.modVf_log (p v : Nat) (f : VfState → VfState) (s : State) : (s.modVf p v f).log = s.log := rfl
@[simp] theorem State.modVf_pmu (p v : Nat) (f : VfState → VfState) (s : State) : (s.modVf p v f).pmu = s.pmu := rfl
@[simp] theorem State.modVf_life (p v : Nat) (f : VfState → VfState) (s : State) : (s.modVf p v f).life = s.life := rfl
@[simp] theorem State.modVf_out (p v : Nat) (f : VfState → VfState) (s : State) : (s.modVf p v f).out = s.out := rfl

/-! ## modQp -/

@[simp] theorem State.modQp_pending (n : Nat) (f : Qp → Qp) (s : State) : (s.modQp n f).pending = s.pending := rfl
@[simp] theorem State.modQp_phase (n : Nat) (f : Qp → Qp) (s : State) : (s.modQp n f).phase = s.phase := rfl
@[simp] theorem State.modQp_regs (n : Nat) (f : Qp → Qp) (s : State) : (s.modQp n f).regs = s.regs := rfl
@[simp] theorem State.modQp_copyB (n : Nat) (f : Qp → Qp) (s : State) : (s.modQp n f).copyB = s.copyB := rfl
@[simp] theorem State.modQp_copyC (n : Nat) (f : Qp → Qp) (s : State) : (s.modQp n f).copyC = s.copyC := rfl
@[simp] theorem State.modQp_latches (n : Nat) (f : Qp → Qp) (s : State) : (s.modQp n f).latches = s.latches := rfl
@[simp] theorem State.modQp_staged (n : Nat) (f : Qp → Qp) (s : State) : (s.modQp n f).staged = s.staged := rfl
@[simp] theorem State.modQp_free (n : Nat) (f : Qp → Qp) (s : State) : (s.modQp n f).free = s.free := rfl
@[simp] theorem State.modQp_time (n : Nat) (f : Qp → Qp) (s : State) : (s.modQp n f).time = s.time := rfl
@[simp] theorem State.modQp_ports (n : Nat) (f : Qp → Qp) (s : State) : (s.modQp n f).ports = s.ports := rfl
@[simp] theorem State.modQp_policers (n : Nat) (f : Qp → Qp) (s : State) : (s.modQp n f).policers = s.policers := rfl
@[simp] theorem State.modQp_excBuckets (n : Nat) (f : Qp → Qp) (s : State) : (s.modQp n f).excBuckets = s.excBuckets := rfl
@[simp] theorem State.modQp_arrivals (n : Nat) (f : Qp → Qp) (s : State) : (s.modQp n f).arrivals = s.arrivals := rfl
@[simp] theorem State.modQp_pipes (n : Nat) (f : Qp → Qp) (s : State) : (s.modQp n f).pipes = s.pipes := rfl
@[simp] theorem State.modQp_floorOn (n : Nat) (f : Qp → Qp) (s : State) : (s.modQp n f).floorOn = s.floorOn := rfl
@[simp] theorem State.modQp_openWait (n : Nat) (f : Qp → Qp) (s : State) : (s.modQp n f).openWait = s.openWait := rfl
@[simp] theorem State.modQp_doms (n : Nat) (f : Qp → Qp) (s : State) : (s.modQp n f).doms = s.doms := rfl
@[simp] theorem State.modQp_postings (n : Nat) (f : Qp → Qp) (s : State) : (s.modQp n f).postings = s.postings := rfl
@[simp] theorem State.modQp_relNext (n : Nat) (f : Qp → Qp) (s : State) : (s.modQp n f).relNext = s.relNext := rfl
@[simp] theorem State.modQp_egress (n : Nat) (f : Qp → Qp) (s : State) : (s.modQp n f).egress = s.egress := rfl
@[simp] theorem State.modQp_tables (n : Nat) (f : Qp → Qp) (s : State) : (s.modQp n f).tables = s.tables := rfl
@[simp] theorem State.modQp_lpm (n : Nat) (f : Qp → Qp) (s : State) : (s.modQp n f).lpm = s.lpm := rfl
@[simp] theorem State.modQp_heldUpd (n : Nat) (f : Qp → Qp) (s : State) : (s.modQp n f).heldUpd = s.heldUpd := rfl
@[simp] theorem State.modQp_tbl (n : Nat) (f : Qp → Qp) (s : State) : (s.modQp n f).tbl = s.tbl := rfl
@[simp] theorem State.modQp_aud (n : Nat) (f : Qp → Qp) (s : State) : (s.modQp n f).aud = s.aud := rfl
@[simp] theorem State.modQp_ledger (n : Nat) (f : Qp → Qp) (s : State) : (s.modQp n f).ledger = s.ledger := rfl
@[simp] theorem State.modQp_retention (n : Nat) (f : Qp → Qp) (s : State) : (s.modQp n f).retention = s.retention := rfl
@[simp] theorem State.modQp_lamp (n : Nat) (f : Qp → Qp) (s : State) : (s.modQp n f).lamp = s.lamp := rfl
@[simp] theorem State.modQp_links (n : Nat) (f : Qp → Qp) (s : State) : (s.modQp n f).links = s.links := rfl
@[simp] theorem State.modQp_funs (n : Nat) (f : Qp → Qp) (s : State) : (s.modQp n f).funs = s.funs := rfl
@[simp] theorem State.modQp_rings (n : Nat) (f : Qp → Qp) (s : State) : (s.modQp n f).rings = s.rings := rfl
@[simp] theorem State.modQp_ctrls (n : Nat) (f : Qp → Qp) (s : State) : (s.modQp n f).ctrls = s.ctrls := rfl
@[simp] theorem State.modQp_spaces (n : Nat) (f : Qp → Qp) (s : State) : (s.modQp n f).spaces = s.spaces := rfl
@[simp] theorem State.modQp_pieces (n : Nat) (f : Qp → Qp) (s : State) : (s.modQp n f).pieces = s.pieces := rfl
@[simp] theorem State.modQp_pieceNext (n : Nat) (f : Qp → Qp) (s : State) : (s.modQp n f).pieceNext = s.pieceNext := rfl
@[simp] theorem State.modQp_drives (n : Nat) (f : Qp → Qp) (s : State) : (s.modQp n f).drives = s.drives := rfl
@[simp] theorem State.modQp_rdma (n : Nat) (f : Qp → Qp) (s : State) : (s.modQp n f).rdma = { s.rdma with qps := Store.modify (fun _ => Qp.none) n f s.rdma.qps } := rfl
@[simp] theorem State.modQp_vfs (n : Nat) (f : Qp → Qp) (s : State) : (s.modQp n f).vfs = s.vfs := rfl
@[simp] theorem State.modQp_gal (n : Nat) (f : Qp → Qp) (s : State) : (s.modQp n f).gal = s.gal := rfl
@[simp] theorem State.modQp_boot (n : Nat) (f : Qp → Qp) (s : State) : (s.modQp n f).boot = s.boot := rfl
@[simp] theorem State.modQp_power (n : Nat) (f : Qp → Qp) (s : State) : (s.modQp n f).power = s.power := rfl
@[simp] theorem State.modQp_log (n : Nat) (f : Qp → Qp) (s : State) : (s.modQp n f).log = s.log := rfl
@[simp] theorem State.modQp_pmu (n : Nat) (f : Qp → Qp) (s : State) : (s.modQp n f).pmu = s.pmu := rfl
@[simp] theorem State.modQp_life (n : Nat) (f : Qp → Qp) (s : State) : (s.modQp n f).life = s.life := rfl
@[simp] theorem State.modQp_out (n : Nat) (f : Qp → Qp) (s : State) : (s.modQp n f).out = s.out := rfl

/-! ## modMr -/

@[simp] theorem State.modMr_pending (n : Nat) (f : Mr → Mr) (s : State) : (s.modMr n f).pending = s.pending := rfl
@[simp] theorem State.modMr_phase (n : Nat) (f : Mr → Mr) (s : State) : (s.modMr n f).phase = s.phase := rfl
@[simp] theorem State.modMr_regs (n : Nat) (f : Mr → Mr) (s : State) : (s.modMr n f).regs = s.regs := rfl
@[simp] theorem State.modMr_copyB (n : Nat) (f : Mr → Mr) (s : State) : (s.modMr n f).copyB = s.copyB := rfl
@[simp] theorem State.modMr_copyC (n : Nat) (f : Mr → Mr) (s : State) : (s.modMr n f).copyC = s.copyC := rfl
@[simp] theorem State.modMr_latches (n : Nat) (f : Mr → Mr) (s : State) : (s.modMr n f).latches = s.latches := rfl
@[simp] theorem State.modMr_staged (n : Nat) (f : Mr → Mr) (s : State) : (s.modMr n f).staged = s.staged := rfl
@[simp] theorem State.modMr_free (n : Nat) (f : Mr → Mr) (s : State) : (s.modMr n f).free = s.free := rfl
@[simp] theorem State.modMr_time (n : Nat) (f : Mr → Mr) (s : State) : (s.modMr n f).time = s.time := rfl
@[simp] theorem State.modMr_ports (n : Nat) (f : Mr → Mr) (s : State) : (s.modMr n f).ports = s.ports := rfl
@[simp] theorem State.modMr_policers (n : Nat) (f : Mr → Mr) (s : State) : (s.modMr n f).policers = s.policers := rfl
@[simp] theorem State.modMr_excBuckets (n : Nat) (f : Mr → Mr) (s : State) : (s.modMr n f).excBuckets = s.excBuckets := rfl
@[simp] theorem State.modMr_arrivals (n : Nat) (f : Mr → Mr) (s : State) : (s.modMr n f).arrivals = s.arrivals := rfl
@[simp] theorem State.modMr_pipes (n : Nat) (f : Mr → Mr) (s : State) : (s.modMr n f).pipes = s.pipes := rfl
@[simp] theorem State.modMr_floorOn (n : Nat) (f : Mr → Mr) (s : State) : (s.modMr n f).floorOn = s.floorOn := rfl
@[simp] theorem State.modMr_openWait (n : Nat) (f : Mr → Mr) (s : State) : (s.modMr n f).openWait = s.openWait := rfl
@[simp] theorem State.modMr_doms (n : Nat) (f : Mr → Mr) (s : State) : (s.modMr n f).doms = s.doms := rfl
@[simp] theorem State.modMr_postings (n : Nat) (f : Mr → Mr) (s : State) : (s.modMr n f).postings = s.postings := rfl
@[simp] theorem State.modMr_relNext (n : Nat) (f : Mr → Mr) (s : State) : (s.modMr n f).relNext = s.relNext := rfl
@[simp] theorem State.modMr_egress (n : Nat) (f : Mr → Mr) (s : State) : (s.modMr n f).egress = s.egress := rfl
@[simp] theorem State.modMr_tables (n : Nat) (f : Mr → Mr) (s : State) : (s.modMr n f).tables = s.tables := rfl
@[simp] theorem State.modMr_lpm (n : Nat) (f : Mr → Mr) (s : State) : (s.modMr n f).lpm = s.lpm := rfl
@[simp] theorem State.modMr_heldUpd (n : Nat) (f : Mr → Mr) (s : State) : (s.modMr n f).heldUpd = s.heldUpd := rfl
@[simp] theorem State.modMr_tbl (n : Nat) (f : Mr → Mr) (s : State) : (s.modMr n f).tbl = s.tbl := rfl
@[simp] theorem State.modMr_aud (n : Nat) (f : Mr → Mr) (s : State) : (s.modMr n f).aud = s.aud := rfl
@[simp] theorem State.modMr_ledger (n : Nat) (f : Mr → Mr) (s : State) : (s.modMr n f).ledger = s.ledger := rfl
@[simp] theorem State.modMr_retention (n : Nat) (f : Mr → Mr) (s : State) : (s.modMr n f).retention = s.retention := rfl
@[simp] theorem State.modMr_lamp (n : Nat) (f : Mr → Mr) (s : State) : (s.modMr n f).lamp = s.lamp := rfl
@[simp] theorem State.modMr_links (n : Nat) (f : Mr → Mr) (s : State) : (s.modMr n f).links = s.links := rfl
@[simp] theorem State.modMr_funs (n : Nat) (f : Mr → Mr) (s : State) : (s.modMr n f).funs = s.funs := rfl
@[simp] theorem State.modMr_rings (n : Nat) (f : Mr → Mr) (s : State) : (s.modMr n f).rings = s.rings := rfl
@[simp] theorem State.modMr_ctrls (n : Nat) (f : Mr → Mr) (s : State) : (s.modMr n f).ctrls = s.ctrls := rfl
@[simp] theorem State.modMr_spaces (n : Nat) (f : Mr → Mr) (s : State) : (s.modMr n f).spaces = s.spaces := rfl
@[simp] theorem State.modMr_pieces (n : Nat) (f : Mr → Mr) (s : State) : (s.modMr n f).pieces = s.pieces := rfl
@[simp] theorem State.modMr_pieceNext (n : Nat) (f : Mr → Mr) (s : State) : (s.modMr n f).pieceNext = s.pieceNext := rfl
@[simp] theorem State.modMr_drives (n : Nat) (f : Mr → Mr) (s : State) : (s.modMr n f).drives = s.drives := rfl
@[simp] theorem State.modMr_rdma (n : Nat) (f : Mr → Mr) (s : State) : (s.modMr n f).rdma = { s.rdma with mrs := Store.modify (fun _ => Mr.none) n f s.rdma.mrs } := rfl
@[simp] theorem State.modMr_vfs (n : Nat) (f : Mr → Mr) (s : State) : (s.modMr n f).vfs = s.vfs := rfl
@[simp] theorem State.modMr_gal (n : Nat) (f : Mr → Mr) (s : State) : (s.modMr n f).gal = s.gal := rfl
@[simp] theorem State.modMr_boot (n : Nat) (f : Mr → Mr) (s : State) : (s.modMr n f).boot = s.boot := rfl
@[simp] theorem State.modMr_power (n : Nat) (f : Mr → Mr) (s : State) : (s.modMr n f).power = s.power := rfl
@[simp] theorem State.modMr_log (n : Nat) (f : Mr → Mr) (s : State) : (s.modMr n f).log = s.log := rfl
@[simp] theorem State.modMr_pmu (n : Nat) (f : Mr → Mr) (s : State) : (s.modMr n f).pmu = s.pmu := rfl
@[simp] theorem State.modMr_life (n : Nat) (f : Mr → Mr) (s : State) : (s.modMr n f).life = s.life := rfl
@[simp] theorem State.modMr_out (n : Nat) (f : Mr → Mr) (s : State) : (s.modMr n f).out = s.out := rfl

/-! ## modDrive -/

@[simp] theorem State.modDrive_pending (n : Nat) (f : Drive → Drive) (s : State) : (s.modDrive n f).pending = s.pending := rfl
@[simp] theorem State.modDrive_phase (n : Nat) (f : Drive → Drive) (s : State) : (s.modDrive n f).phase = s.phase := rfl
@[simp] theorem State.modDrive_regs (n : Nat) (f : Drive → Drive) (s : State) : (s.modDrive n f).regs = s.regs := rfl
@[simp] theorem State.modDrive_copyB (n : Nat) (f : Drive → Drive) (s : State) : (s.modDrive n f).copyB = s.copyB := rfl
@[simp] theorem State.modDrive_copyC (n : Nat) (f : Drive → Drive) (s : State) : (s.modDrive n f).copyC = s.copyC := rfl
@[simp] theorem State.modDrive_latches (n : Nat) (f : Drive → Drive) (s : State) : (s.modDrive n f).latches = s.latches := rfl
@[simp] theorem State.modDrive_staged (n : Nat) (f : Drive → Drive) (s : State) : (s.modDrive n f).staged = s.staged := rfl
@[simp] theorem State.modDrive_free (n : Nat) (f : Drive → Drive) (s : State) : (s.modDrive n f).free = s.free := rfl
@[simp] theorem State.modDrive_time (n : Nat) (f : Drive → Drive) (s : State) : (s.modDrive n f).time = s.time := rfl
@[simp] theorem State.modDrive_ports (n : Nat) (f : Drive → Drive) (s : State) : (s.modDrive n f).ports = s.ports := rfl
@[simp] theorem State.modDrive_policers (n : Nat) (f : Drive → Drive) (s : State) : (s.modDrive n f).policers = s.policers := rfl
@[simp] theorem State.modDrive_excBuckets (n : Nat) (f : Drive → Drive) (s : State) : (s.modDrive n f).excBuckets = s.excBuckets := rfl
@[simp] theorem State.modDrive_arrivals (n : Nat) (f : Drive → Drive) (s : State) : (s.modDrive n f).arrivals = s.arrivals := rfl
@[simp] theorem State.modDrive_pipes (n : Nat) (f : Drive → Drive) (s : State) : (s.modDrive n f).pipes = s.pipes := rfl
@[simp] theorem State.modDrive_floorOn (n : Nat) (f : Drive → Drive) (s : State) : (s.modDrive n f).floorOn = s.floorOn := rfl
@[simp] theorem State.modDrive_openWait (n : Nat) (f : Drive → Drive) (s : State) : (s.modDrive n f).openWait = s.openWait := rfl
@[simp] theorem State.modDrive_doms (n : Nat) (f : Drive → Drive) (s : State) : (s.modDrive n f).doms = s.doms := rfl
@[simp] theorem State.modDrive_postings (n : Nat) (f : Drive → Drive) (s : State) : (s.modDrive n f).postings = s.postings := rfl
@[simp] theorem State.modDrive_relNext (n : Nat) (f : Drive → Drive) (s : State) : (s.modDrive n f).relNext = s.relNext := rfl
@[simp] theorem State.modDrive_egress (n : Nat) (f : Drive → Drive) (s : State) : (s.modDrive n f).egress = s.egress := rfl
@[simp] theorem State.modDrive_tables (n : Nat) (f : Drive → Drive) (s : State) : (s.modDrive n f).tables = s.tables := rfl
@[simp] theorem State.modDrive_lpm (n : Nat) (f : Drive → Drive) (s : State) : (s.modDrive n f).lpm = s.lpm := rfl
@[simp] theorem State.modDrive_heldUpd (n : Nat) (f : Drive → Drive) (s : State) : (s.modDrive n f).heldUpd = s.heldUpd := rfl
@[simp] theorem State.modDrive_tbl (n : Nat) (f : Drive → Drive) (s : State) : (s.modDrive n f).tbl = s.tbl := rfl
@[simp] theorem State.modDrive_aud (n : Nat) (f : Drive → Drive) (s : State) : (s.modDrive n f).aud = s.aud := rfl
@[simp] theorem State.modDrive_ledger (n : Nat) (f : Drive → Drive) (s : State) : (s.modDrive n f).ledger = s.ledger := rfl
@[simp] theorem State.modDrive_retention (n : Nat) (f : Drive → Drive) (s : State) : (s.modDrive n f).retention = s.retention := rfl
@[simp] theorem State.modDrive_lamp (n : Nat) (f : Drive → Drive) (s : State) : (s.modDrive n f).lamp = s.lamp := rfl
@[simp] theorem State.modDrive_links (n : Nat) (f : Drive → Drive) (s : State) : (s.modDrive n f).links = s.links := rfl
@[simp] theorem State.modDrive_funs (n : Nat) (f : Drive → Drive) (s : State) : (s.modDrive n f).funs = s.funs := rfl
@[simp] theorem State.modDrive_rings (n : Nat) (f : Drive → Drive) (s : State) : (s.modDrive n f).rings = s.rings := rfl
@[simp] theorem State.modDrive_ctrls (n : Nat) (f : Drive → Drive) (s : State) : (s.modDrive n f).ctrls = s.ctrls := rfl
@[simp] theorem State.modDrive_spaces (n : Nat) (f : Drive → Drive) (s : State) : (s.modDrive n f).spaces = s.spaces := rfl
@[simp] theorem State.modDrive_pieces (n : Nat) (f : Drive → Drive) (s : State) : (s.modDrive n f).pieces = s.pieces := rfl
@[simp] theorem State.modDrive_pieceNext (n : Nat) (f : Drive → Drive) (s : State) : (s.modDrive n f).pieceNext = s.pieceNext := rfl
@[simp] theorem State.modDrive_drives (n : Nat) (f : Drive → Drive) (s : State) : (s.modDrive n f).drives = Store.modify (fun _ => Drive.absent) n f s.drives := rfl
@[simp] theorem State.modDrive_rdma (n : Nat) (f : Drive → Drive) (s : State) : (s.modDrive n f).rdma = s.rdma := rfl
@[simp] theorem State.modDrive_vfs (n : Nat) (f : Drive → Drive) (s : State) : (s.modDrive n f).vfs = s.vfs := rfl
@[simp] theorem State.modDrive_gal (n : Nat) (f : Drive → Drive) (s : State) : (s.modDrive n f).gal = s.gal := rfl
@[simp] theorem State.modDrive_boot (n : Nat) (f : Drive → Drive) (s : State) : (s.modDrive n f).boot = s.boot := rfl
@[simp] theorem State.modDrive_power (n : Nat) (f : Drive → Drive) (s : State) : (s.modDrive n f).power = s.power := rfl
@[simp] theorem State.modDrive_log (n : Nat) (f : Drive → Drive) (s : State) : (s.modDrive n f).log = s.log := rfl
@[simp] theorem State.modDrive_pmu (n : Nat) (f : Drive → Drive) (s : State) : (s.modDrive n f).pmu = s.pmu := rfl
@[simp] theorem State.modDrive_life (n : Nat) (f : Drive → Drive) (s : State) : (s.modDrive n f).life = s.life := rfl
@[simp] theorem State.modDrive_out (n : Nat) (f : Drive → Drive) (s : State) : (s.modDrive n f).out = s.out := rfl

/-! ## setSpace -/

@[simp] theorem State.setSpace_pending (n : Nat) (x : Option Namespace) (s : State) : (s.setSpace n x).pending = s.pending := rfl
@[simp] theorem State.setSpace_phase (n : Nat) (x : Option Namespace) (s : State) : (s.setSpace n x).phase = s.phase := rfl
@[simp] theorem State.setSpace_regs (n : Nat) (x : Option Namespace) (s : State) : (s.setSpace n x).regs = s.regs := rfl
@[simp] theorem State.setSpace_copyB (n : Nat) (x : Option Namespace) (s : State) : (s.setSpace n x).copyB = s.copyB := rfl
@[simp] theorem State.setSpace_copyC (n : Nat) (x : Option Namespace) (s : State) : (s.setSpace n x).copyC = s.copyC := rfl
@[simp] theorem State.setSpace_latches (n : Nat) (x : Option Namespace) (s : State) : (s.setSpace n x).latches = s.latches := rfl
@[simp] theorem State.setSpace_staged (n : Nat) (x : Option Namespace) (s : State) : (s.setSpace n x).staged = s.staged := rfl
@[simp] theorem State.setSpace_free (n : Nat) (x : Option Namespace) (s : State) : (s.setSpace n x).free = s.free := rfl
@[simp] theorem State.setSpace_time (n : Nat) (x : Option Namespace) (s : State) : (s.setSpace n x).time = s.time := rfl
@[simp] theorem State.setSpace_ports (n : Nat) (x : Option Namespace) (s : State) : (s.setSpace n x).ports = s.ports := rfl
@[simp] theorem State.setSpace_policers (n : Nat) (x : Option Namespace) (s : State) : (s.setSpace n x).policers = s.policers := rfl
@[simp] theorem State.setSpace_excBuckets (n : Nat) (x : Option Namespace) (s : State) : (s.setSpace n x).excBuckets = s.excBuckets := rfl
@[simp] theorem State.setSpace_arrivals (n : Nat) (x : Option Namespace) (s : State) : (s.setSpace n x).arrivals = s.arrivals := rfl
@[simp] theorem State.setSpace_pipes (n : Nat) (x : Option Namespace) (s : State) : (s.setSpace n x).pipes = s.pipes := rfl
@[simp] theorem State.setSpace_floorOn (n : Nat) (x : Option Namespace) (s : State) : (s.setSpace n x).floorOn = s.floorOn := rfl
@[simp] theorem State.setSpace_openWait (n : Nat) (x : Option Namespace) (s : State) : (s.setSpace n x).openWait = s.openWait := rfl
@[simp] theorem State.setSpace_doms (n : Nat) (x : Option Namespace) (s : State) : (s.setSpace n x).doms = s.doms := rfl
@[simp] theorem State.setSpace_postings (n : Nat) (x : Option Namespace) (s : State) : (s.setSpace n x).postings = s.postings := rfl
@[simp] theorem State.setSpace_relNext (n : Nat) (x : Option Namespace) (s : State) : (s.setSpace n x).relNext = s.relNext := rfl
@[simp] theorem State.setSpace_egress (n : Nat) (x : Option Namespace) (s : State) : (s.setSpace n x).egress = s.egress := rfl
@[simp] theorem State.setSpace_tables (n : Nat) (x : Option Namespace) (s : State) : (s.setSpace n x).tables = s.tables := rfl
@[simp] theorem State.setSpace_lpm (n : Nat) (x : Option Namespace) (s : State) : (s.setSpace n x).lpm = s.lpm := rfl
@[simp] theorem State.setSpace_heldUpd (n : Nat) (x : Option Namespace) (s : State) : (s.setSpace n x).heldUpd = s.heldUpd := rfl
@[simp] theorem State.setSpace_tbl (n : Nat) (x : Option Namespace) (s : State) : (s.setSpace n x).tbl = s.tbl := rfl
@[simp] theorem State.setSpace_aud (n : Nat) (x : Option Namespace) (s : State) : (s.setSpace n x).aud = s.aud := rfl
@[simp] theorem State.setSpace_ledger (n : Nat) (x : Option Namespace) (s : State) : (s.setSpace n x).ledger = s.ledger := rfl
@[simp] theorem State.setSpace_retention (n : Nat) (x : Option Namespace) (s : State) : (s.setSpace n x).retention = s.retention := rfl
@[simp] theorem State.setSpace_lamp (n : Nat) (x : Option Namespace) (s : State) : (s.setSpace n x).lamp = s.lamp := rfl
@[simp] theorem State.setSpace_links (n : Nat) (x : Option Namespace) (s : State) : (s.setSpace n x).links = s.links := rfl
@[simp] theorem State.setSpace_funs (n : Nat) (x : Option Namespace) (s : State) : (s.setSpace n x).funs = s.funs := rfl
@[simp] theorem State.setSpace_rings (n : Nat) (x : Option Namespace) (s : State) : (s.setSpace n x).rings = s.rings := rfl
@[simp] theorem State.setSpace_ctrls (n : Nat) (x : Option Namespace) (s : State) : (s.setSpace n x).ctrls = s.ctrls := rfl
@[simp] theorem State.setSpace_spaces (n : Nat) (x : Option Namespace) (s : State) : (s.setSpace n x).spaces = Store.put (fun _ => none) n x s.spaces := rfl
@[simp] theorem State.setSpace_pieces (n : Nat) (x : Option Namespace) (s : State) : (s.setSpace n x).pieces = s.pieces := rfl
@[simp] theorem State.setSpace_pieceNext (n : Nat) (x : Option Namespace) (s : State) : (s.setSpace n x).pieceNext = s.pieceNext := rfl
@[simp] theorem State.setSpace_drives (n : Nat) (x : Option Namespace) (s : State) : (s.setSpace n x).drives = s.drives := rfl
@[simp] theorem State.setSpace_rdma (n : Nat) (x : Option Namespace) (s : State) : (s.setSpace n x).rdma = s.rdma := rfl
@[simp] theorem State.setSpace_vfs (n : Nat) (x : Option Namespace) (s : State) : (s.setSpace n x).vfs = s.vfs := rfl
@[simp] theorem State.setSpace_gal (n : Nat) (x : Option Namespace) (s : State) : (s.setSpace n x).gal = s.gal := rfl
@[simp] theorem State.setSpace_boot (n : Nat) (x : Option Namespace) (s : State) : (s.setSpace n x).boot = s.boot := rfl
@[simp] theorem State.setSpace_power (n : Nat) (x : Option Namespace) (s : State) : (s.setSpace n x).power = s.power := rfl
@[simp] theorem State.setSpace_log (n : Nat) (x : Option Namespace) (s : State) : (s.setSpace n x).log = s.log := rfl
@[simp] theorem State.setSpace_pmu (n : Nat) (x : Option Namespace) (s : State) : (s.setSpace n x).pmu = s.pmu := rfl
@[simp] theorem State.setSpace_life (n : Nat) (x : Option Namespace) (s : State) : (s.setSpace n x).life = s.life := rfl
@[simp] theorem State.setSpace_out (n : Nat) (x : Option Namespace) (s : State) : (s.setSpace n x).out = s.out := rfl

/-! ## modFn -/

@[simp] theorem State.modFn_pending (w : Party) (f : Function → Function) (s : State) : (s.modFn w f).pending = s.pending := rfl
@[simp] theorem State.modFn_phase (w : Party) (f : Function → Function) (s : State) : (s.modFn w f).phase = s.phase := rfl
@[simp] theorem State.modFn_regs (w : Party) (f : Function → Function) (s : State) : (s.modFn w f).regs = s.regs := rfl
@[simp] theorem State.modFn_copyB (w : Party) (f : Function → Function) (s : State) : (s.modFn w f).copyB = s.copyB := rfl
@[simp] theorem State.modFn_copyC (w : Party) (f : Function → Function) (s : State) : (s.modFn w f).copyC = s.copyC := rfl
@[simp] theorem State.modFn_latches (w : Party) (f : Function → Function) (s : State) : (s.modFn w f).latches = s.latches := rfl
@[simp] theorem State.modFn_staged (w : Party) (f : Function → Function) (s : State) : (s.modFn w f).staged = s.staged := rfl
@[simp] theorem State.modFn_free (w : Party) (f : Function → Function) (s : State) : (s.modFn w f).free = s.free := rfl
@[simp] theorem State.modFn_time (w : Party) (f : Function → Function) (s : State) : (s.modFn w f).time = s.time := rfl
@[simp] theorem State.modFn_ports (w : Party) (f : Function → Function) (s : State) : (s.modFn w f).ports = s.ports := rfl
@[simp] theorem State.modFn_policers (w : Party) (f : Function → Function) (s : State) : (s.modFn w f).policers = s.policers := rfl
@[simp] theorem State.modFn_excBuckets (w : Party) (f : Function → Function) (s : State) : (s.modFn w f).excBuckets = s.excBuckets := rfl
@[simp] theorem State.modFn_arrivals (w : Party) (f : Function → Function) (s : State) : (s.modFn w f).arrivals = s.arrivals := rfl
@[simp] theorem State.modFn_pipes (w : Party) (f : Function → Function) (s : State) : (s.modFn w f).pipes = s.pipes := rfl
@[simp] theorem State.modFn_floorOn (w : Party) (f : Function → Function) (s : State) : (s.modFn w f).floorOn = s.floorOn := rfl
@[simp] theorem State.modFn_openWait (w : Party) (f : Function → Function) (s : State) : (s.modFn w f).openWait = s.openWait := rfl
@[simp] theorem State.modFn_doms (w : Party) (f : Function → Function) (s : State) : (s.modFn w f).doms = s.doms := rfl
@[simp] theorem State.modFn_postings (w : Party) (f : Function → Function) (s : State) : (s.modFn w f).postings = s.postings := rfl
@[simp] theorem State.modFn_relNext (w : Party) (f : Function → Function) (s : State) : (s.modFn w f).relNext = s.relNext := rfl
@[simp] theorem State.modFn_egress (w : Party) (f : Function → Function) (s : State) : (s.modFn w f).egress = s.egress := rfl
@[simp] theorem State.modFn_tables (w : Party) (f : Function → Function) (s : State) : (s.modFn w f).tables = s.tables := rfl
@[simp] theorem State.modFn_lpm (w : Party) (f : Function → Function) (s : State) : (s.modFn w f).lpm = s.lpm := rfl
@[simp] theorem State.modFn_heldUpd (w : Party) (f : Function → Function) (s : State) : (s.modFn w f).heldUpd = s.heldUpd := rfl
@[simp] theorem State.modFn_tbl (w : Party) (f : Function → Function) (s : State) : (s.modFn w f).tbl = s.tbl := rfl
@[simp] theorem State.modFn_aud (w : Party) (f : Function → Function) (s : State) : (s.modFn w f).aud = s.aud := rfl
@[simp] theorem State.modFn_ledger (w : Party) (f : Function → Function) (s : State) : (s.modFn w f).ledger = s.ledger := rfl
@[simp] theorem State.modFn_retention (w : Party) (f : Function → Function) (s : State) : (s.modFn w f).retention = s.retention := rfl
@[simp] theorem State.modFn_lamp (w : Party) (f : Function → Function) (s : State) : (s.modFn w f).lamp = s.lamp := rfl
@[simp] theorem State.modFn_links (w : Party) (f : Function → Function) (s : State) : (s.modFn w f).links = s.links := rfl
@[simp] theorem State.modFn_funs (w : Party) (f : Function → Function) (s : State) : (s.modFn w f).funs = Store.modify (fun _ => Function.reset) w.key f s.funs := rfl
@[simp] theorem State.modFn_rings (w : Party) (f : Function → Function) (s : State) : (s.modFn w f).rings = s.rings := rfl
@[simp] theorem State.modFn_ctrls (w : Party) (f : Function → Function) (s : State) : (s.modFn w f).ctrls = s.ctrls := rfl
@[simp] theorem State.modFn_spaces (w : Party) (f : Function → Function) (s : State) : (s.modFn w f).spaces = s.spaces := rfl
@[simp] theorem State.modFn_pieces (w : Party) (f : Function → Function) (s : State) : (s.modFn w f).pieces = s.pieces := rfl
@[simp] theorem State.modFn_pieceNext (w : Party) (f : Function → Function) (s : State) : (s.modFn w f).pieceNext = s.pieceNext := rfl
@[simp] theorem State.modFn_drives (w : Party) (f : Function → Function) (s : State) : (s.modFn w f).drives = s.drives := rfl
@[simp] theorem State.modFn_rdma (w : Party) (f : Function → Function) (s : State) : (s.modFn w f).rdma = s.rdma := rfl
@[simp] theorem State.modFn_vfs (w : Party) (f : Function → Function) (s : State) : (s.modFn w f).vfs = s.vfs := rfl
@[simp] theorem State.modFn_gal (w : Party) (f : Function → Function) (s : State) : (s.modFn w f).gal = s.gal := rfl
@[simp] theorem State.modFn_boot (w : Party) (f : Function → Function) (s : State) : (s.modFn w f).boot = s.boot := rfl
@[simp] theorem State.modFn_power (w : Party) (f : Function → Function) (s : State) : (s.modFn w f).power = s.power := rfl
@[simp] theorem State.modFn_log (w : Party) (f : Function → Function) (s : State) : (s.modFn w f).log = s.log := rfl
@[simp] theorem State.modFn_pmu (w : Party) (f : Function → Function) (s : State) : (s.modFn w f).pmu = s.pmu := rfl
@[simp] theorem State.modFn_life (w : Party) (f : Function → Function) (s : State) : (s.modFn w f).life = s.life := rfl
@[simp] theorem State.modFn_out (w : Party) (f : Function → Function) (s : State) : (s.modFn w f).out = s.out := rfl

/-! ## modCtrl -/

@[simp] theorem State.modCtrl_pending (w : Party) (f : Ctrl → Ctrl) (s : State) : (s.modCtrl w f).pending = s.pending := rfl
@[simp] theorem State.modCtrl_phase (w : Party) (f : Ctrl → Ctrl) (s : State) : (s.modCtrl w f).phase = s.phase := rfl
@[simp] theorem State.modCtrl_regs (w : Party) (f : Ctrl → Ctrl) (s : State) : (s.modCtrl w f).regs = s.regs := rfl
@[simp] theorem State.modCtrl_copyB (w : Party) (f : Ctrl → Ctrl) (s : State) : (s.modCtrl w f).copyB = s.copyB := rfl
@[simp] theorem State.modCtrl_copyC (w : Party) (f : Ctrl → Ctrl) (s : State) : (s.modCtrl w f).copyC = s.copyC := rfl
@[simp] theorem State.modCtrl_latches (w : Party) (f : Ctrl → Ctrl) (s : State) : (s.modCtrl w f).latches = s.latches := rfl
@[simp] theorem State.modCtrl_staged (w : Party) (f : Ctrl → Ctrl) (s : State) : (s.modCtrl w f).staged = s.staged := rfl
@[simp] theorem State.modCtrl_free (w : Party) (f : Ctrl → Ctrl) (s : State) : (s.modCtrl w f).free = s.free := rfl
@[simp] theorem State.modCtrl_time (w : Party) (f : Ctrl → Ctrl) (s : State) : (s.modCtrl w f).time = s.time := rfl
@[simp] theorem State.modCtrl_ports (w : Party) (f : Ctrl → Ctrl) (s : State) : (s.modCtrl w f).ports = s.ports := rfl
@[simp] theorem State.modCtrl_policers (w : Party) (f : Ctrl → Ctrl) (s : State) : (s.modCtrl w f).policers = s.policers := rfl
@[simp] theorem State.modCtrl_excBuckets (w : Party) (f : Ctrl → Ctrl) (s : State) : (s.modCtrl w f).excBuckets = s.excBuckets := rfl
@[simp] theorem State.modCtrl_arrivals (w : Party) (f : Ctrl → Ctrl) (s : State) : (s.modCtrl w f).arrivals = s.arrivals := rfl
@[simp] theorem State.modCtrl_pipes (w : Party) (f : Ctrl → Ctrl) (s : State) : (s.modCtrl w f).pipes = s.pipes := rfl
@[simp] theorem State.modCtrl_floorOn (w : Party) (f : Ctrl → Ctrl) (s : State) : (s.modCtrl w f).floorOn = s.floorOn := rfl
@[simp] theorem State.modCtrl_openWait (w : Party) (f : Ctrl → Ctrl) (s : State) : (s.modCtrl w f).openWait = s.openWait := rfl
@[simp] theorem State.modCtrl_doms (w : Party) (f : Ctrl → Ctrl) (s : State) : (s.modCtrl w f).doms = s.doms := rfl
@[simp] theorem State.modCtrl_postings (w : Party) (f : Ctrl → Ctrl) (s : State) : (s.modCtrl w f).postings = s.postings := rfl
@[simp] theorem State.modCtrl_relNext (w : Party) (f : Ctrl → Ctrl) (s : State) : (s.modCtrl w f).relNext = s.relNext := rfl
@[simp] theorem State.modCtrl_egress (w : Party) (f : Ctrl → Ctrl) (s : State) : (s.modCtrl w f).egress = s.egress := rfl
@[simp] theorem State.modCtrl_tables (w : Party) (f : Ctrl → Ctrl) (s : State) : (s.modCtrl w f).tables = s.tables := rfl
@[simp] theorem State.modCtrl_lpm (w : Party) (f : Ctrl → Ctrl) (s : State) : (s.modCtrl w f).lpm = s.lpm := rfl
@[simp] theorem State.modCtrl_heldUpd (w : Party) (f : Ctrl → Ctrl) (s : State) : (s.modCtrl w f).heldUpd = s.heldUpd := rfl
@[simp] theorem State.modCtrl_tbl (w : Party) (f : Ctrl → Ctrl) (s : State) : (s.modCtrl w f).tbl = s.tbl := rfl
@[simp] theorem State.modCtrl_aud (w : Party) (f : Ctrl → Ctrl) (s : State) : (s.modCtrl w f).aud = s.aud := rfl
@[simp] theorem State.modCtrl_ledger (w : Party) (f : Ctrl → Ctrl) (s : State) : (s.modCtrl w f).ledger = s.ledger := rfl
@[simp] theorem State.modCtrl_retention (w : Party) (f : Ctrl → Ctrl) (s : State) : (s.modCtrl w f).retention = s.retention := rfl
@[simp] theorem State.modCtrl_lamp (w : Party) (f : Ctrl → Ctrl) (s : State) : (s.modCtrl w f).lamp = s.lamp := rfl
@[simp] theorem State.modCtrl_links (w : Party) (f : Ctrl → Ctrl) (s : State) : (s.modCtrl w f).links = s.links := rfl
@[simp] theorem State.modCtrl_funs (w : Party) (f : Ctrl → Ctrl) (s : State) : (s.modCtrl w f).funs = s.funs := rfl
@[simp] theorem State.modCtrl_rings (w : Party) (f : Ctrl → Ctrl) (s : State) : (s.modCtrl w f).rings = s.rings := rfl
@[simp] theorem State.modCtrl_ctrls (w : Party) (f : Ctrl → Ctrl) (s : State) : (s.modCtrl w f).ctrls = Store.modify (fun _ => Ctrl.reset) w.key f s.ctrls := rfl
@[simp] theorem State.modCtrl_spaces (w : Party) (f : Ctrl → Ctrl) (s : State) : (s.modCtrl w f).spaces = s.spaces := rfl
@[simp] theorem State.modCtrl_pieces (w : Party) (f : Ctrl → Ctrl) (s : State) : (s.modCtrl w f).pieces = s.pieces := rfl
@[simp] theorem State.modCtrl_pieceNext (w : Party) (f : Ctrl → Ctrl) (s : State) : (s.modCtrl w f).pieceNext = s.pieceNext := rfl
@[simp] theorem State.modCtrl_drives (w : Party) (f : Ctrl → Ctrl) (s : State) : (s.modCtrl w f).drives = s.drives := rfl
@[simp] theorem State.modCtrl_rdma (w : Party) (f : Ctrl → Ctrl) (s : State) : (s.modCtrl w f).rdma = s.rdma := rfl
@[simp] theorem State.modCtrl_vfs (w : Party) (f : Ctrl → Ctrl) (s : State) : (s.modCtrl w f).vfs = s.vfs := rfl
@[simp] theorem State.modCtrl_gal (w : Party) (f : Ctrl → Ctrl) (s : State) : (s.modCtrl w f).gal = s.gal := rfl
@[simp] theorem State.modCtrl_boot (w : Party) (f : Ctrl → Ctrl) (s : State) : (s.modCtrl w f).boot = s.boot := rfl
@[simp] theorem State.modCtrl_power (w : Party) (f : Ctrl → Ctrl) (s : State) : (s.modCtrl w f).power = s.power := rfl
@[simp] theorem State.modCtrl_log (w : Party) (f : Ctrl → Ctrl) (s : State) : (s.modCtrl w f).log = s.log := rfl
@[simp] theorem State.modCtrl_pmu (w : Party) (f : Ctrl → Ctrl) (s : State) : (s.modCtrl w f).pmu = s.pmu := rfl
@[simp] theorem State.modCtrl_life (w : Party) (f : Ctrl → Ctrl) (s : State) : (s.modCtrl w f).life = s.life := rfl
@[simp] theorem State.modCtrl_out (w : Party) (f : Ctrl → Ctrl) (s : State) : (s.modCtrl w f).out = s.out := rfl

/-! ## emit -/

@[simp] theorem State.emit_pending (o : Out) (s : State) : (s.emit o).pending = s.pending := rfl
@[simp] theorem State.emit_phase (o : Out) (s : State) : (s.emit o).phase = s.phase := rfl
@[simp] theorem State.emit_regs (o : Out) (s : State) : (s.emit o).regs = s.regs := rfl
@[simp] theorem State.emit_copyB (o : Out) (s : State) : (s.emit o).copyB = s.copyB := rfl
@[simp] theorem State.emit_copyC (o : Out) (s : State) : (s.emit o).copyC = s.copyC := rfl
@[simp] theorem State.emit_latches (o : Out) (s : State) : (s.emit o).latches = s.latches := rfl
@[simp] theorem State.emit_staged (o : Out) (s : State) : (s.emit o).staged = s.staged := rfl
@[simp] theorem State.emit_free (o : Out) (s : State) : (s.emit o).free = s.free := rfl
@[simp] theorem State.emit_time (o : Out) (s : State) : (s.emit o).time = s.time := rfl
@[simp] theorem State.emit_ports (o : Out) (s : State) : (s.emit o).ports = s.ports := rfl
@[simp] theorem State.emit_policers (o : Out) (s : State) : (s.emit o).policers = s.policers := rfl
@[simp] theorem State.emit_excBuckets (o : Out) (s : State) : (s.emit o).excBuckets = s.excBuckets := rfl
@[simp] theorem State.emit_arrivals (o : Out) (s : State) : (s.emit o).arrivals = s.arrivals := rfl
@[simp] theorem State.emit_pipes (o : Out) (s : State) : (s.emit o).pipes = s.pipes := rfl
@[simp] theorem State.emit_floorOn (o : Out) (s : State) : (s.emit o).floorOn = s.floorOn := rfl
@[simp] theorem State.emit_openWait (o : Out) (s : State) : (s.emit o).openWait = s.openWait := rfl
@[simp] theorem State.emit_doms (o : Out) (s : State) : (s.emit o).doms = s.doms := rfl
@[simp] theorem State.emit_postings (o : Out) (s : State) : (s.emit o).postings = s.postings := rfl
@[simp] theorem State.emit_relNext (o : Out) (s : State) : (s.emit o).relNext = s.relNext := rfl
@[simp] theorem State.emit_egress (o : Out) (s : State) : (s.emit o).egress = s.egress := rfl
@[simp] theorem State.emit_tables (o : Out) (s : State) : (s.emit o).tables = s.tables := rfl
@[simp] theorem State.emit_lpm (o : Out) (s : State) : (s.emit o).lpm = s.lpm := rfl
@[simp] theorem State.emit_heldUpd (o : Out) (s : State) : (s.emit o).heldUpd = s.heldUpd := rfl
@[simp] theorem State.emit_tbl (o : Out) (s : State) : (s.emit o).tbl = s.tbl := rfl
@[simp] theorem State.emit_aud (o : Out) (s : State) : (s.emit o).aud = s.aud := rfl
@[simp] theorem State.emit_ledger (o : Out) (s : State) : (s.emit o).ledger = s.ledger := rfl
@[simp] theorem State.emit_retention (o : Out) (s : State) : (s.emit o).retention = s.retention := rfl
@[simp] theorem State.emit_lamp (o : Out) (s : State) : (s.emit o).lamp = s.lamp := rfl
@[simp] theorem State.emit_links (o : Out) (s : State) : (s.emit o).links = s.links := rfl
@[simp] theorem State.emit_funs (o : Out) (s : State) : (s.emit o).funs = s.funs := rfl
@[simp] theorem State.emit_rings (o : Out) (s : State) : (s.emit o).rings = s.rings := rfl
@[simp] theorem State.emit_ctrls (o : Out) (s : State) : (s.emit o).ctrls = s.ctrls := rfl
@[simp] theorem State.emit_spaces (o : Out) (s : State) : (s.emit o).spaces = s.spaces := rfl
@[simp] theorem State.emit_pieces (o : Out) (s : State) : (s.emit o).pieces = s.pieces := rfl
@[simp] theorem State.emit_pieceNext (o : Out) (s : State) : (s.emit o).pieceNext = s.pieceNext := rfl
@[simp] theorem State.emit_drives (o : Out) (s : State) : (s.emit o).drives = s.drives := rfl
@[simp] theorem State.emit_rdma (o : Out) (s : State) : (s.emit o).rdma = s.rdma := rfl
@[simp] theorem State.emit_vfs (o : Out) (s : State) : (s.emit o).vfs = s.vfs := rfl
@[simp] theorem State.emit_gal (o : Out) (s : State) : (s.emit o).gal = s.gal := rfl
@[simp] theorem State.emit_boot (o : Out) (s : State) : (s.emit o).boot = s.boot := rfl
@[simp] theorem State.emit_power (o : Out) (s : State) : (s.emit o).power = s.power := rfl
@[simp] theorem State.emit_log (o : Out) (s : State) : (s.emit o).log = s.log := rfl
@[simp] theorem State.emit_pmu (o : Out) (s : State) : (s.emit o).pmu = s.pmu := rfl
@[simp] theorem State.emit_life (o : Out) (s : State) : (s.emit o).life = s.life := rfl
@[simp] theorem State.emit_out (o : Out) (s : State) : (s.emit o).out = o :: s.out := rfl

end Sys2Proof.Machine
end

