-- ==== Sys2Proof/Laws/Store.lean ====
section
/-! SUPPORT. Laws/Store.lean: what reading a store gives after a write, and that writes and filters keep the canonical
form. -/

namespace Sys2Proof.Machine

variable {α : Type} [DecidableEq α] (dflt : Nat → α)

omit [DecidableEq α] in
@[simp] theorem Store.get_nil (k : Nat) : Store.get dflt ([] : Store α) k = dflt k := rfl

omit [DecidableEq α] in
theorem Store.get_erase_self (k : Nat) (m : Store α) : Store.get dflt (Store.erase k m) k = dflt k := by
  induction m with
  | nil => rfl
  | cons e m ih =>
    by_cases h : e.1 = k
    · simpa [Store.erase, h] using ih
    · simpa [Store.erase, Store.get, h] using ih

omit [DecidableEq α] in
theorem Store.get_erase_ne {j k : Nat} (h : j ≠ k) (m : Store α) :
    Store.get dflt (Store.erase k m) j = Store.get dflt m j := by
  induction m with
  | nil => rfl
  | cons e m ih =>
    have ih' : Store.get dflt (m.filter fun e => e.1 != k) j = Store.get dflt m j := ih
    by_cases he : e.1 = k
    · simp [Store.erase, Store.get, he, Ne.symm h, ih']
    · simp [Store.erase, Store.get, he, ih']

omit [DecidableEq α] in
theorem Store.get_ins_self (k : Nat) (v : α) (m : Store α) (h : ∀ e ∈ m, e.1 ≠ k) :
    Store.get dflt (Store.ins k v m) k = v := by
  induction m with
  | nil => simp [Store.ins, Store.get]
  | cons e m ih =>
    have he : e.1 ≠ k := h e (by simp)
    simp only [Store.ins]
    split
    · simp [Store.get]
    · simpa [Store.get, he] using ih fun x hx => h x (by simp [hx])

omit [DecidableEq α] in
theorem Store.get_ins_ne {j k : Nat} (hj : j ≠ k) (v : α) (m : Store α) :
    Store.get dflt (Store.ins k v m) j = Store.get dflt m j := by
  induction m with
  | nil => simp [Store.ins, Store.get, Ne.symm hj]
  | cons e m ih =>
    simp only [Store.ins]
    split
    · simp [Store.get, Ne.symm hj]
    · simp [Store.get, ih]

/-- A write is read back. -/
@[simp] theorem Store.get_put_self (k : Nat) (v : α) (m : Store α) : Store.get dflt (Store.put dflt k v m) k = v := by
  unfold Store.put
  split
  · rename_i h
    rw [Store.get_erase_self, h]
  · exact Store.get_ins_self dflt k v _ fun e he => by simpa using (List.mem_filter.1 he).2

/-- A write leaves every other key as it was. -/
theorem Store.get_put_ne {j k : Nat} (h : j ≠ k) (v : α) (m : Store α) :
    Store.get dflt (Store.put dflt k v m) j = Store.get dflt m j := by
  unfold Store.put
  split
  · exact Store.get_erase_ne dflt h m
  · rw [Store.get_ins_ne dflt h, Store.get_erase_ne dflt h]

theorem Store.get_put (j k : Nat) (v : α) (m : Store α) :
    Store.get dflt (Store.put dflt k v m) j = if j = k then v else Store.get dflt m j := by
  split
  · subst_vars
    exact Store.get_put_self dflt _ v m
  · rename_i h
    exact Store.get_put_ne dflt h v m

theorem Store.wf_cons {e : Nat × α} {m : Store α} :
    Store.wf dflt (e :: m) = true ↔ e.2 ≠ dflt e.1 ∧ (∀ x ∈ m, e.1 < x.1) ∧ Store.wf dflt m = true := by
  obtain ⟨k, v⟩ := e
  simp [Store.wf, and_assoc]

/-- Leaving entries out keeps the canonical form. -/
theorem Store.wf_filter (p : Nat × α → Bool) {m : Store α} (h : Store.wf dflt m = true) :
    Store.wf dflt (m.filter p) = true := by
  induction m with
  | nil => rfl
  | cons e m ih =>
    rw [Store.wf_cons] at h
    simp only [List.filter_cons]
    split
    · exact (Store.wf_cons dflt).2 ⟨h.1, fun x hx => h.2.1 x (List.mem_filter.1 hx).1, ih h.2.2⟩
    · exact ih h.2.2

omit [DecidableEq α] in
theorem Store.mem_ins {x : Nat × α} {k : Nat} {v : α} {m : Store α} :
    x ∈ Store.ins k v m ↔ x = (k, v) ∨ x ∈ m := by
  induction m with
  | nil => simp [Store.ins]
  | cons e m ih =>
    simp only [Store.ins]
    split
    · simp
    · simp only [List.mem_cons, ih]
      tauto

theorem Store.wf_ins {k : Nat} {v : α} {m : Store α} (hv : v ≠ dflt k) (hk : ∀ e ∈ m, e.1 ≠ k)
    (h : Store.wf dflt m = true) : Store.wf dflt (Store.ins k v m) = true := by
  induction m with
  | nil => simp [Store.ins, Store.wf, hv]
  | cons e m ih =>
    have hm := (Store.wf_cons dflt).1 h
    simp only [Store.ins]
    split
    · rename_i hlt
      refine (Store.wf_cons dflt).2 ⟨hv, fun x hx => ?_, h⟩
      rcases List.mem_cons.1 hx with rfl | hx
      · exact hlt
      · exact lt_trans hlt (hm.2.1 x hx)
    · rename_i hlt
      refine (Store.wf_cons dflt).2 ⟨hm.1, fun x hx => ?_, ih (fun x hx => hk x (by simp [hx])) hm.2.2⟩
      rcases Store.mem_ins.1 hx with rfl | hx
      · have hne := hk e (by simp)
        simp only at hlt ⊢
        omega
      · exact hm.2.1 x hx

/-- A write keeps the canonical form. -/
theorem Store.wf_put (k : Nat) (v : α) {m : Store α} (h : Store.wf dflt m = true) :
    Store.wf dflt (Store.put dflt k v m) = true := by
  unfold Store.put
  split
  · exact Store.wf_filter dflt _ h
  · rename_i hv
    exact Store.wf_ins dflt hv (fun e he => by simpa using (List.mem_filter.1 he).2) (Store.wf_filter dflt _ h)

end Sys2Proof.Machine
end

