-- ==== Sys2Proof/Laws/Memory.lean ====
section
/-! SUPPORT. Laws/Memory.lean: reading and writing the ledger and retention SRAM byte by byte, and the canonical form that
every operation on them keeps. -/

namespace Sys2Proof.Machine

/-! ## The canonical form -/

theorem memWf_nil : memWf [] = true := rfl

/-- Writing one byte keeps the canonical form. -/
theorem memPut_wf (a : Nat) (b : Byte) {m : List Host.Cell} (h : memWf m = true) : memWf (memPut a b m) = true :=
  Store.wf_put memDefault a b h

theorem memCells_ge (a : Nat) (bs : List Byte) : ∀ e ∈ memCells a bs, a ≤ e.1 ∧ e.1 < a + bs.length := by
  induction bs generalizing a with
  | nil => simp [memCells]
  | cons b bs ih =>
    intro e he
    simp only [memCells] at he
    simp only [List.length_cons]
    split at he
    · have := ih (a + 1) e he
      omega
    · rcases List.mem_cons.1 he with rfl | he
      · simp
      · have := ih (a + 1) e he
        omega

theorem memCells_wf (a : Nat) (bs : List Byte) : memWf (memCells a bs) = true := by
  induction bs generalizing a with
  | nil => rfl
  | cons b bs ih =>
    simp only [memCells]
    split
    · exact ih (a + 1)
    · rename_i hb
      exact (Store.wf_cons memDefault).2 ⟨hb, fun e he => by have := memCells_ge (a + 1) bs e he; omega, ih (a + 1)⟩

theorem memWf_append {m n : List Host.Cell} (hm : memWf m = true) (hn : memWf n = true)
    (h : ∀ x ∈ m, ∀ y ∈ n, x.1 < y.1) : memWf (m ++ n) = true := by
  induction m with
  | nil => exact hn
  | cons e m ih =>
    have he := (Store.wf_cons memDefault).1 hm
    refine (Store.wf_cons memDefault).2 ⟨he.1, fun x hx => ?_, ih he.2.2 fun x hx => h x (by simp [hx])⟩
    rcases List.mem_append.1 hx with hx | hx
    · exact he.2.1 x hx
    · exact h e (by simp) x hx

/-- Writing bytes keeps the canonical form. -/
theorem memWrite_wf (a : Nat) (bs : List Byte) {m : List Host.Cell} (h : memWf m = true) :
    memWf (memWrite a bs m) = true := by
  have hl : memWf (m.filter fun e => decide (e.1 < a)) = true := Store.wf_filter memDefault _ h
  have hr : memWf (m.filter fun e => decide (a + bs.length ≤ e.1)) = true := Store.wf_filter memDefault _ h
  have hc := memCells_ge a bs
  unfold memWrite
  refine memWf_append (memWf_append hl (memCells_wf a bs) fun x hx y hy => ?_) hr fun x hx y hy => ?_
  · have hx := of_decide_eq_true (List.mem_filter.1 hx).2
    have := hc y hy
    omega
  · have hy := of_decide_eq_true (List.mem_filter.1 hy).2
    rcases List.mem_append.1 hx with hx | hx
    · have hx := of_decide_eq_true (List.mem_filter.1 hx).2
      omega
    · have := hc x hx
      omega

/-! ## Reading a byte after a write -/

theorem memGet_append (m n : List Host.Cell) (a : Nat) :
    memGet (m ++ n) a = if m.any (fun e => e.1 == a) then memGet m a else memGet n a := by
  induction m with
  | nil => simp [memGet]
  | cons e m ih =>
    by_cases h : e.1 = a
    · simp [memGet, Store.get, h]
    · simpa [memGet, Store.get, h] using ih

theorem memGet_filter (p : Nat → Bool) (m : List Host.Cell) (a : Nat) :
    memGet (m.filter fun e => p e.1) a = if p a then memGet m a else memDefault a := by
  induction m with
  | nil => simp [memGet]
  | cons e m ih =>
    by_cases h : e.1 = a
    · by_cases hp : p a
      · simp [memGet, Store.get, h, hp]
      · simp only [memGet, hp] at ih ⊢
        simpa [h, hp] using ih
    · by_cases hp : p e.1
      · simpa [memGet, Store.get, h, hp] using ih
      · simpa [memGet, Store.get, h, hp] using ih

theorem memAny_false {m : List Host.Cell} {a : Nat} (h : m.any (fun e => e.1 == a) = false) : ∀ e ∈ m, e.1 ≠ a := by
  intro e he hea
  have := List.any_eq_false.1 h e he
  simp [hea] at this

theorem memGet_absent {m : List Host.Cell} {a : Nat} (h : ∀ e ∈ m, e.1 ≠ a) : memGet m a = memDefault a := by
  induction m with
  | nil => rfl
  | cons e m ih =>
    have he := h e (by simp)
    have := ih fun x hx => h x (by simp [hx])
    simpa [memGet, Store.get, he] using this

theorem memGet_cells (a : Nat) (bs : List Byte) (i : Nat) :
    memGet (memCells a bs) (a + i) = (bs[i]?).getD (memDefault (a + i)) := by
  induction bs generalizing a i with
  | nil => simp [memCells, memGet]
  | cons b bs ih =>
    cases i with
    | zero =>
      simp only [memCells]
      split
      · rename_i hb
        rw [memGet_absent fun e he => by have := memCells_ge (a + 1) bs e he; omega]
        simp [hb]
      · simp [memGet, Store.get]
    | succ i =>
      have := ih (a + 1) i
      rw [show a + 1 + i = a + (i + 1) by omega] at this
      simp only [memCells]
      split
      · simpa using this
      · have hne : a ≠ a + (i + 1) := by omega
        simpa [memGet, Store.get, hne] using this

/-- A byte after a write: one of the bytes written, or what it was. -/
theorem memGet_write (a : Nat) (bs : List Byte) (m : List Host.Cell) (k : Nat) :
    memGet (memWrite a bs m) k =
      if a ≤ k ∧ k < a + bs.length then (bs[k - a]?).getD (memDefault k) else memGet m k := by
  have hc := memCells_ge a bs
  have hl := memGet_filter (fun j => decide (j < a)) m k
  have hr := memGet_filter (fun j => decide (a + bs.length ≤ j)) m k
  unfold memWrite
  rw [List.append_assoc, memGet_append, memGet_append]
  by_cases h1 : k < a
  · have h2 : ¬(a ≤ k ∧ k < a + bs.length) := by omega
    have h3 : ((memCells a bs).any fun e => e.1 == k) = false := by
      simpa using fun x y hy (hk : x = k) => by have := hc (x, y) hy; simp only at this; omega
    have h4 : ¬ a + bs.length ≤ k := by omega
    by_cases h5 : (m.filter fun e => decide (e.1 < a)).any (fun e => e.1 == k)
    · simpa [h5, h2, h1] using hl
    · have h6 : memGet m k = memDefault k := by
        have := memGet_absent (m := m.filter fun e => decide (e.1 < a)) (a := k) (memAny_false (Bool.eq_false_iff.2 h5))
        simpa [h1, this] using hl.symm
      simp [h5, h3, h2, h4, hr, h6]
  · have h5 : ((m.filter fun e => decide (e.1 < a)).any fun e => e.1 == k) = false := by
      simp only [List.any_eq_false, List.mem_filter, decide_eq_true_eq, beq_iff_eq]
      omega
    simp only [h5, Bool.false_eq_true, if_false]
    by_cases h2 : k < a + bs.length
    · have h3 : a ≤ k ∧ k < a + bs.length := by omega
      have h6 := memGet_cells a bs (k - a)
      rw [show a + (k - a) = k by omega] at h6
      have h4 : ¬ a + bs.length ≤ k := by omega
      simp only [h3, and_self, if_true, h6, hr, h4, decide_false, Bool.false_eq_true, if_false]
      split
      · rfl
      · rename_i h7
        rw [← h6, memGet_absent (memAny_false (Bool.eq_false_iff.2 h7))]
    · have h3 : ¬(a ≤ k ∧ k < a + bs.length) := by omega
      have h7 : ((memCells a bs).any fun e => e.1 == k) = false := by
        simpa using fun x y hy (hk : x = k) => by have := hc (x, y) hy; simp only at this; omega
      have h4 : a + bs.length ≤ k := by omega
      simpa [h7, h3, h4] using hr

/-! ## Reading bytes -/

theorem memTake_eq (n : Nat) : ∀ (a : Nat) (m : List Host.Cell), memWf m = true → (∀ e ∈ m, a ≤ e.1) →
    memTake a n m = (List.range n).map fun i => memGet m (a + i) := by
  induction n with
  | zero => intro a m _ _; cases m <;> simp [memTake]
  | succ n ih =>
    intro a m hm ha
    rw [List.range_succ_eq_map, List.map_cons, List.map_map]
    have hs : (fun i => memGet m (a + i)) ∘ Nat.succ = fun i => memGet m (a + 1 + i) := by
      funext i
      simp [Nat.add_comm, Nat.add_left_comm]
    rw [hs]
    match m with
    | [] =>
      rw [memTake, ih (a + 1) [] rfl (by simp)]
      simp [memGet]
    | (k, b) :: m =>
      have hk := (Store.wf_cons memDefault).1 hm
      have hak := ha (k, b) (by simp)
      simp only at hk hak
      rw [memTake]
      split
      · rename_i hka
        subst hka
        rw [ih (k + 1) m hk.2.2 fun e he => hk.2.1 e he]
        simp only [Nat.add_zero, List.cons.injEq]
        refine ⟨by simp [memGet, Store.get], List.map_congr_left fun i _ => ?_⟩
        have hne : k ≠ k + 1 + i := by omega
        simp [memGet, Store.get, hne]
      · rename_i hka
        have hgt : ∀ e ∈ (k, b) :: m, a + 1 ≤ e.1 := by
          intro e he
          rcases List.mem_cons.1 he with rfl | he
          · simp only
            omega
          · have := hk.2.1 e he
            omega
        have h0 : memGet ((k, b) :: m) (a + 0) = memDefault a :=
          memGet_absent fun e he => by have := hgt e he; omega
        rw [ih (a + 1) _ hm hgt, h0]

/-- Reading n bytes reads each of them. -/
theorem memRead_eq {m : List Host.Cell} (h : memWf m = true) (a n : Nat) :
    memRead m a n = (List.range n).map fun i => memGet m (a + i) := by
  have hf : memWf (m.filter fun e => decide (a ≤ e.1 ∧ e.1 < a + n)) = true := Store.wf_filter memDefault _ h
  rw [memRead, memTake_eq n a _ hf fun e he => by
    have := of_decide_eq_true (List.mem_filter.1 he).2
    omega]
  refine List.map_congr_left fun i hi => ?_
  have := memGet_filter (fun j => decide (a ≤ j ∧ j < a + n)) m (a + i)
  have hi := List.mem_range.1 hi
  simpa [hi] using this

/-! ## The ledger -/

/-- Every field but the ledger and the torn words is as it was after a word write. -/
theorem State.ledgerWord_frame (a : Nat) (v : Word) (s : State) :
    s.ledgerWord a v = { s with ledger := (s.ledgerWord a v).ledger,
                                aud := { s.aud with torn := (s.ledgerWord a v).aud.torn } } := by
  unfold State.ledgerWord
  split <;> rfl

@[simp] theorem State.ledgerWord_regs (a : Nat) (v : Word) (s : State) : (s.ledgerWord a v).regs = s.regs := by
  unfold State.ledgerWord
  split <;> rfl

/-- A word write keeps the ledger's canonical form. -/
theorem State.ledgerWord_wf (a : Nat) (v : Word) (s : State) (h : memWf s.ledger = true) :
    memWf (s.ledgerWord a v).ledger = true := by
  unfold State.ledgerWord
  split
  · exact memWrite_wf a _ h
  · exact h

theorem State.ledgerWords_wf (a : Nat) (ws : List Word) (s : State) (h : memWf s.ledger = true) :
    memWf (s.ledgerWords a ws).ledger = true := by
  induction ws generalizing a s with
  | nil => exact h
  | cons w ws ih => exact ih (a + 8) _ (State.ledgerWord_wf a w s h)

/-- Reset memory is in canonical form. -/
theorem State.reset_memWf : memWf State.reset.ledger = true ∧ memWf State.reset.retention = true := ⟨rfl, rfl⟩

end Sys2Proof.Machine
end

