-- ==== Sys2Proof/Laws/Ops.lean ====
section
/-! SUPPORT. Laws/Ops.lean: for each shared operation, what it can do: registers, counters, records, what leaves the
device, the logbook's queue, and the parties' access to registers. -/

namespace Sys2Proof.Machine

/-! ## Registers and counters -/

@[simp] theorem State.reg_setReg_self (k : Nat) (v : Word) (s : State) : (s.setReg k v).reg k = v := by
  simp [State.reg]

theorem State.reg_setReg_ne {j k : Nat} (h : j ≠ k) (v : Word) (s : State) : (s.setReg k v).reg j = s.reg j := by
  simp [State.reg, Store.get_put_ne resetOf h]

theorem State.reg_setReg (j k : Nat) (v : Word) (s : State) :
    (s.setReg k v).reg j = if j = k then v else s.reg j := by
  simp [State.reg, Store.get_put]

/-- Two states with the same registers read the same. -/
theorem State.reg_congr {s t : State} (h : s.regs = t.regs) (k : Nat) : s.reg k = t.reg k := by
  simp [State.reg, h]

@[simp] theorem State.reg_setRv_self (k : Nat) (v : Word) (s : State) : (s.setRv k v).reg k = v := by
  simp [State.reg]

@[simp] theorem State.regB_setRv_self (k : Nat) (v : Word) (s : State) : (s.setRv k v).regB k = v := by
  simp [State.regB]

@[simp] theorem State.regC_setRv_self (k : Nat) (v : Word) (s : State) : (s.setRv k v).regC k = v := by
  simp [State.regC]

theorem State.reg_setRv_ne {j k : Nat} (h : j ≠ k) (v : Word) (s : State) : (s.setRv k v).reg j = s.reg j := by
  simp [State.reg, Store.get_put_ne resetOf h]

theorem State.voted_congr {s t : State} (h : s.regs = t.regs) (hb : s.copyB = t.copyB) (hc : s.copyC = t.copyC)
    (k : Nat) : s.voted k = t.voted k := by
  simp [State.voted, State.reg, State.regB, State.regC, h, hb, hc]

/-- Voting three equal copies. -/
@[simp] theorem vote3_same (r v : Word) : vote3 r v v v = v := by simp [vote3]

/-- A stored RV register reads back what was stored. -/
@[simp] theorem State.voted_setRv_self (k : Nat) (v : Word) (s : State) : (s.setRv k v).voted k = v := by
  simp [State.voted]

/-- A masked write sets the writable bits of its register. -/
@[simp] theorem State.reg_storeMasked_self (k : Nat) (v : Word) (s : State) :
    (s.storeMasked k v).reg k = (s.reg k &&& ~~~(writableBits k)) ||| (v &&& writableBits k) := by
  simp [State.storeMasked]

theorem State.reg_storeMasked_ne {j k : Nat} (h : j ≠ k) (v : Word) (s : State) :
    (s.storeMasked k v).reg j = s.reg j := State.reg_setReg_ne h _ s

/-- Counting writes its counter alone. -/
theorem State.countBy_eq (k n : Nat) (s : State) :
    s.countBy k n = if n = 0 then s else s.setReg k (counterPlus n (s.reg k)) := rfl

theorem State.count_eq (k : Nat) (s : State) : s.count k = s.setReg k (counterPlus 1 (s.reg k)) := rfl

@[simp] theorem State.reg_count_self (k : Nat) (s : State) : (s.count k).reg k = counterPlus 1 (s.reg k) := by
  simp [State.count_eq]

theorem State.reg_count_ne {j k : Nat} (h : j ≠ k) (s : State) : (s.count k).reg j = s.reg j :=
  State.reg_setReg_ne h _ s

theorem State.reg_countBy_ne {j k : Nat} (h : j ≠ k) (n : Nat) (s : State) : (s.countBy k n).reg j = s.reg j := by
  rw [State.countBy_eq]
  split
  · rfl
  · exact State.reg_setReg_ne h _ s

/-- Counting changes nothing but the registers. -/
theorem State.countBy_frame (k n : Nat) (s : State) : s.countBy k n = { s with regs := (s.countBy k n).regs } := by
  rw [State.countBy_eq]
  split <;> rfl

theorem State.modReg_eq (k : Nat) (f : Word → Word) (s : State) : s.modReg k f = s.setReg k (f (s.reg k)) := rfl

/-! ## Records of instances -/

@[simp] theorem State.port_modPort_self (n : Nat) (f : PortState → PortState) (s : State) : (s.modPort n f).port n = f (s.port n) := by
  simp [State.port, Store.modify]

theorem State.port_modPort_ne {m n : Nat} (h : m ≠ n) (f : PortState → PortState) (s : State) : (s.modPort n f).port m = s.port m := by
  simp [State.port, Store.modify, Store.get_put_ne _ h]

@[simp] theorem State.policer_modPolicer_self (n : Nat) (f : Policer → Policer) (s : State) : (s.modPolicer n f).policer n = f (s.policer n) := by
  simp [State.policer, Store.modify]

theorem State.policer_modPolicer_ne {m n : Nat} (h : m ≠ n) (f : Policer → Policer) (s : State) : (s.modPolicer n f).policer m = s.policer m := by
  simp [State.policer, Store.modify, Store.get_put_ne _ h]

@[simp] theorem State.pipe_modPipe_self (n : Nat) (f : PipeState → PipeState) (s : State) : (s.modPipe n f).pipe n = f (s.pipe n) := by
  simp [State.pipe, Store.modify]

theorem State.pipe_modPipe_ne {m n : Nat} (h : m ≠ n) (f : PipeState → PipeState) (s : State) : (s.modPipe n f).pipe m = s.pipe m := by
  simp [State.pipe, Store.modify, Store.get_put_ne _ h]

@[simp] theorem State.dom_modDom_self (n : Nat) (f : DomState → DomState) (s : State) : (s.modDom n f).dom n = f (s.dom n) := by
  simp [State.dom, Store.modify]

theorem State.dom_modDom_ne {m n : Nat} (h : m ≠ n) (f : DomState → DomState) (s : State) : (s.modDom n f).dom m = s.dom m := by
  simp [State.dom, Store.modify, Store.get_put_ne _ h]

@[simp] theorem State.egr_modEgr_self (n : Nat) (f : EgressState → EgressState) (s : State) : (s.modEgr n f).egr n = f (s.egr n) := by
  simp [State.egr, Store.modify]

theorem State.egr_modEgr_ne {m n : Nat} (h : m ≠ n) (f : EgressState → EgressState) (s : State) : (s.modEgr n f).egr m = s.egr m := by
  simp [State.egr, Store.modify, Store.get_put_ne _ h]

@[simp] theorem State.link_modLink_self (n : Nat) (f : HostLink → HostLink) (s : State) : (s.modLink n f).link n = f (s.link n) := by
  simp [State.link, Store.modify]

theorem State.link_modLink_ne {m n : Nat} (h : m ≠ n) (f : HostLink → HostLink) (s : State) : (s.modLink n f).link m = s.link m := by
  simp [State.link, Store.modify, Store.get_put_ne _ h]

@[simp] theorem State.ring_modRing_self (n : Nat) (f : Ring → Ring) (s : State) : (s.modRing n f).ring n = f (s.ring n) := by
  simp [State.ring, Store.modify]

theorem State.ring_modRing_ne {m n : Nat} (h : m ≠ n) (f : Ring → Ring) (s : State) : (s.modRing n f).ring m = s.ring m := by
  simp [State.ring, Store.modify, Store.get_put_ne _ h]

@[simp] theorem State.qp_modQp_self (n : Nat) (f : Qp → Qp) (s : State) : (s.modQp n f).qp n = f (s.qp n) := by
  simp [State.qp, Store.modify]

theorem State.qp_modQp_ne {m n : Nat} (h : m ≠ n) (f : Qp → Qp) (s : State) : (s.modQp n f).qp m = s.qp m := by
  simp [State.qp, Store.modify, Store.get_put_ne _ h]

@[simp] theorem State.mr_modMr_self (n : Nat) (f : Mr → Mr) (s : State) : (s.modMr n f).mr n = f (s.mr n) := by
  simp [State.mr, Store.modify]

theorem State.mr_modMr_ne {m n : Nat} (h : m ≠ n) (f : Mr → Mr) (s : State) : (s.modMr n f).mr m = s.mr m := by
  simp [State.mr, Store.modify, Store.get_put_ne _ h]

@[simp] theorem State.drive_modDrive_self (n : Nat) (f : Drive → Drive) (s : State) : (s.modDrive n f).drive n = f (s.drive n) := by
  simp [State.drive, Store.modify]

theorem State.drive_modDrive_ne {m n : Nat} (h : m ≠ n) (f : Drive → Drive) (s : State) : (s.modDrive n f).drive m = s.drive m := by
  simp [State.drive, Store.modify, Store.get_put_ne _ h]

@[simp] theorem State.keySlotAt_modKeySlot_self (n : Nat) (f : KeySlot → KeySlot) (s : State) : (s.modKeySlot n f).keySlotAt n = f (s.keySlotAt n) := by
  simp [State.keySlotAt, Store.modify]

theorem State.keySlotAt_modKeySlot_ne {m n : Nat} (h : m ≠ n) (f : KeySlot → KeySlot) (s : State) : (s.modKeySlot n f).keySlotAt m = s.keySlotAt m := by
  simp [State.keySlotAt, Store.modify, Store.get_put_ne _ h]

@[simp] theorem State.space_setSpace_self (n : Nat) (x : Option Namespace) (s : State) : (s.setSpace n x).space n = x := by
  simp [State.space]

theorem State.space_setSpace_ne {m n : Nat} (h : m ≠ n) (x : Option Namespace) (s : State) :
    (s.setSpace n x).space m = s.space m := by
  simp [State.space, Store.get_put_ne _ h]

/-- Item n after a replacement. -/
@[simp] theorem putAt_getElem_self {α : Type} (d : α) (l : List α) (n : Nat) (v : α) : (putAt d l n v)[n]? = some v := by
  induction n generalizing l with
  | zero => cases l <;> rfl
  | succ n ih => cases l <;> simpa [putAt] using ih _

theorem putAt_getD_ne {α : Type} {d : α} {m n : Nat} (h : m ≠ n) (l : List α) (v : α) :
    (putAt d l n v).getD m d = l.getD m d := by
  induction n generalizing l m with
  | zero =>
    cases m with
    | zero => exact absurd rfl h
    | succ m => cases l <;> simp [putAt]
  | succ n ih =>
    cases m with
    | zero => cases l <;> simp [putAt]
    | succ m =>
      have hm : m ≠ n := fun e => h (by rw [e])
      cases l with
      | nil => simpa [putAt] using ih hm []
      | cons x xs => simpa [putAt] using ih hm xs

/-! ## What leaves the device -/

/-- What a function sends changes the links and the output alone. -/
theorem State.dma_frame (fn : Party) (cls ring : Nat) (entry : Option (BitVec 32)) (o : Out) (s : State) :
    s.dma fn cls ring entry o =
      { s with links := (s.dma fn cls ring entry o).links, out := (s.dma fn cls ring entry o).out } := by
  unfold State.dma
  repeat' split
  all_goals rfl

@[simp] theorem State.dma_regs (fn : Party) (cls ring : Nat) (entry : Option (BitVec 32)) (o : Out) (s : State) :
    (s.dma fn cls ring entry o).regs = s.regs := by
  rw [State.dma_frame]

/-- A function that may send issues its request at once. -/
theorem State.dma_open {fn : Party} {s : State} (h : s.dmaOpen fn = true) (cls ring : Nat)
    (entry : Option (BitVec 32)) (o : Out) : s.dma fn cls ring entry o = s.emit o := by
  simp [State.dma, h]

/-- A message of a vector changes the links, the functions and the output alone. -/
theorem State.msixFor_frame (fn : Party) (cls ring v : Nat) (s : State) :
    s.msixFor fn cls ring v =
      { s with links := (s.msixFor fn cls ring v).links, funs := (s.msixFor fn cls ring v).funs,
               out := (s.msixFor fn cls ring v).out } := by
  unfold State.msixFor State.msixSend
  split
  · rw [State.dma_frame]
    rfl
  · split <;> rfl

@[simp] theorem State.msix_regs (fn : Party) (v : Nat) (s : State) : (s.msix fn v).regs = s.regs := by
  unfold State.msix
  rw [State.msixFor_frame]

/-- An event of the logbook joins its queue, or is counted as dropped (R384). -/
theorem State.logEvent_frame (number block : Nat) (params : List Nat) (s : State) :
    s.logEvent number block params =
      { s with regs := (s.logEvent number block params).regs, log := (s.logEvent number block params).log } := by
  unfold State.logEvent
  split <;> rfl

theorem State.reg_logEvent (number block : Nat) (params : List Nat) (s : State) {k : Nat}
    (h : k ≠ Reg.LOG_CNT_QUEUE_DROP) : (s.logEvent number block params).reg k = s.reg k := by
  unfold State.logEvent
  split
  · rfl
  · exact State.reg_count_ne h s

theorem State.logEvent_queued (number block : Nat) (params : List Nat) (s : State) (h : s.log.queue.length < 1024) :
    s.logEvent number block params =
      { s with log := { s.log with queue := s.log.queue ++ [⟨number, block, params, s.dial⟩] } } := by
  simp [State.logEvent, h]

/-! ## The bus -/

/-- A party whose request reaches the registers, on a ready device over a link that is not frozen, writes. -/
theorem busWrite_granted {who : Party} {s : State} (early unfrozen : Bool) (f : State → State)
    (h : s.reaches who = true) (hp : ∀ p, who.pfIndex = some p → s.ready = true ∧ (s.link p).frozen = false) :
    busWrite who early unfrozen f s = f s := by
  unfold busWrite
  simp only [h, Bool.not_true, Bool.false_eq_true, if_false]
  split
  · rfl
  · rename_i p hpf
    simp [hp p hpf]

/-- The meaning of a command whose instances all exist. -/
@[simp] theorem within_true (t s : State) : within true t s = .next t := rfl

@[simp] theorem within_false (t s : State) : within false t s = .next s := rfl

theorem whenClocked_of {s : State} (h : s.clocked = true) (f : State → State) : whenClocked f s = f s := by
  simp [whenClocked, h]

theorem unlessStopped_of {s : State} {k : Nat} (h : s.stopped k = false) (hv : s.disputed k = [])
    (f : State → State) : unlessStopped k f s = f s := by
  simp [unlessStopped, State.voteBlock, h, hv]

/-! ## Rings -/

/-- A write-back changes the links and the output alone. -/
theorem State.writeBack_frame (c : Nat) (t : Taken) (fields : List (Nat × List Byte)) (s : State) :
    s.writeBack c t fields =
      { s with links := (s.writeBack c t fields).links, out := (s.writeBack c t fields).out } := by
  have hf : ∀ (a : Nat) (fs : List (Nat × List Byte)) (s : State),
      let u := fs.foldl (fun s (o, bs) => s.ringWrite c (a + o) bs false) s
      u = { s with links := u.links, out := u.out } := by
    intro a fs
    induction fs with
    | nil => intro s; rfl
    | cons e fs ih =>
      intro s
      simp only [List.foldl_cons]
      have h1 := ih (s.ringWrite c (a + e.1) e.2 false)
      simp only at h1
      rw [h1, State.ringWrite, State.dma_frame]
  have h := hf ((s.ring c).entryAddr t.entry) fields s
  simp only at h
  unfold State.writeBack
  dsimp only
  rw [State.dma_frame]
  rw [h]

/-- An interrupt of a ring changes the rings, the links, the functions and the output alone. -/
theorem State.ringIrq_frame (c : Nat) (s : State) :
    s.ringIrq c = { s with rings := (s.ringIrq c).rings, links := (s.ringIrq c).links,
                           funs := (s.ringIrq c).funs, out := (s.ringIrq c).out } := by
  unfold State.ringIrq
  dsimp only
  split
  · rfl
  · split
    · rw [State.msixFor_frame]
      rfl
    · rfl

theorem State.drainCheck_frame (c : Nat) (s : State) : s.drainCheck c = { s with rings := (s.drainCheck c).rings } := by
  unfold State.drainCheck
  dsimp only
  split <;> rfl

/-- An entry whose completion is written changes the rings, the links, the functions and the output alone. -/
theorem State.entryDone_frame (c : Nat) (cur : BitVec 32) (s : State) :
    s.entryDone c cur =
      { s with rings := (s.entryDone c cur).rings, links := (s.entryDone c cur).links,
               funs := (s.entryDone c cur).funs, out := (s.entryDone c cur).out } := by
  unfold State.entryDone
  dsimp only
  rw [State.drainCheck_frame, State.ringIrq_frame]
  rfl

/-- Completing an entry changes the rings, the links, the functions and the output alone. -/
theorem State.complete_frame (c : Nat) (cur : BitVec 32) (fields : List (Nat × List Byte)) (s : State) :
    s.complete c cur fields =
      { s with rings := (s.complete c cur fields).rings, links := (s.complete c cur fields).links,
               funs := (s.complete c cur fields).funs, out := (s.complete c cur fields).out } := by
  unfold State.complete
  dsimp only
  split
  · rfl
  · split
    · rfl
    · split
      · rfl
      · split
        · rw [State.entryDone_frame, State.writeBack_frame]
        · simp only [State.modRing]
          rw [State.writeBack_frame]

@[simp] theorem State.complete_regs (c : Nat) (cur : BitVec 32) (fields : List (Nat × List Byte)) (s : State) :
    (s.complete c cur fields).regs = s.regs := by
  rw [State.complete_frame]

/-- Completing an ADMIN entry writes word 1 of its tally record, and changes beyond that the rings, the links, the
functions and the output alone. -/
theorem State.adminDone_frame (c : Nat) (t : Taken) (status result : Nat) (s : State) :
    s.adminDone c t status result =
      { s with rings := (s.adminDone c t status result).rings, links := (s.adminDone c t status result).links,
               funs := (s.adminDone c t status result).funs, out := (s.adminDone c t status result).out,
               ledger := (s.ledgerWord (tallyAddr t.tally.toNat + 8) (tallyWord1 status 0 c)).ledger,
               aud := (s.ledgerWord (tallyAddr t.tally.toNat + 8) (tallyWord1 status 0 c)).aud } := by
  unfold State.adminDone State.endTally
  rw [State.complete_frame]
  conv_lhs => rw [State.ledgerWord_frame]
  conv_rhs => rw [State.ledgerWord_frame]

end Sys2Proof.Machine
end

