-- ==== Sys2Proof/Laws/PerInstr.lean ====
section
/-! SUPPORT. Laws/PerInstr.lean: the instances that a well-formed command names exist, command by command (R10). -/

namespace Sys2Proof.Laws

namespace WellFormedBounds

/-- What a command names: a ring, a party, a port slot, a domain, a pipe. -/
structure Named where
  ring   : Option Nat := none
  party  : Option Party := none
  slot   : Option Nat := none
  domain : Option Nat := none
  pipe   : Option Nat := none

/-- Each instance named exists. -/
def Named.Exists (x : Named) : Prop :=
  (∀ n ∈ x.ring, n < 65536) ∧ (∀ p ∈ x.party, p.wf = true) ∧ (∀ n ∈ x.slot, n < 256) ∧
  (∀ n ∈ x.domain, n < 16) ∧ (∀ n ∈ x.pipe, n < 8)

/-- The instances each command names. -/
def named : Instr → Named
  | .dialTick => {}
  | .slewComplete => {}
  | .timeDialNsRead xwho => { party := some xwho }
  | .timeAdjFreqWrite xwho _ => { party := some xwho }
  | .timeAdjPhaseWrite xwho _ => { party := some xwho }
  | .timeCfgWrite xwho _ => { party := some xwho }
  | .timeDiscWrite xwho _ => { party := some xwho }
  | .step xwho => { party := some xwho }
  | .absoluteLoad xwho => { party := some xwho }
  | .stepComplete => {}
  | .refLoss => {}
  | .refReturn => {}
  | .ppsEdge _ _ _ => {}
  | .ppsMissing => {}
  | .ppsOutEdge => {}
  | .utcOffsetApply => {}
  | .recalUpdate _ _ => {}
  | .tdcRecal _ _ => {}
  | .frameReceived _ => {}
  | .pfcPauseExpiry xslot _ => { slot := some xslot }
  | .pfcRefresh xslot => { slot := some xslot }
  | .pfcWatchdog xslot _ => { slot := some xslot }
  | .codewordDecoded _ _ _ _ _ => {}
  | .portModeWrite xwho xslot _ => { party := some xwho, slot := some xslot }
  | .alignmentAchieved xslot _ => { slot := some xslot }
  | .upHoldExpiry xslot => { slot := some xslot }
  | .alignmentLost xslot _ => { slot := some xslot }
  | .localFault xslot _ => { slot := some xslot }
  | .remoteFault xslot _ => { slot := some xslot }
  | .trainTimeout xslot => { slot := some xslot }
  | .admitSet xring => { ring := some xring }
  | .pipeTmplW0Write xwho _ _ => { party := some xwho }
  | .wholeDialSecond => {}
  | .holdStoreArrival xpipe => { pipe := some xpipe }
  | .musterRelease xd => { domain := some xd }
  | .backlogDelivery xd _ => { domain := some xd }
  | .seqFeedWrite xwho xd _ _ => { party := some xwho, domain := some xd }
  | .seqDomainCfgWrite xwho xd _ => { party := some xwho, domain := some xd }
  | .seqNextWrite xwho xd _ => { party := some xwho, domain := some xd }
  | .seqCfgSet xring => { ring := some xring }
  | .open xwho xd => { party := some xwho, domain := some xd }
  | .close xwho xd => { party := some xwho, domain := some xd }
  | .forceClose xwho xd => { party := some xwho, domain := some xd }
  | .domainOpens xd => { domain := some xd }
  | .domainCloses xd => { domain := some xd }
  | .takeover xwho _ => { party := some xwho }
  | .mirrorRecord xd _ => { domain := some xd }
  | .releasePost xring => { ring := some xring }
  | .releaseAcceptance xring _ => { ring := some xring }
  | .guardBegin xslot _ => { slot := some xslot }
  | .launcherCommit xslot _ => { slot := some xslot }
  | .copyEnd xslot _ => { slot := some xslot }
  | .releaseCompletion xring => { ring := some xring }
  | .txSchedule xslot => { slot := some xslot }
  | .shaperRefill => {}
  | .relPortShaperWrite xwho xslot _ => { party := some xwho, slot := some xslot }
  | .relQShaperWrite xwho xslot _ _ => { party := some xwho, slot := some xslot }
  | .portHoldExpiry xslot => { slot := some xslot }
  | .frameTxPost xring _ => { ring := some xring }
  | .tableRead xring _ => { ring := some xring }
  | .tableLock xring => { ring := some xring }
  | .tableWrite xring _ => { ring := some xring }
  | .tableUnlock xring => { ring := some xring }
  | .tableInsert xring _ => { ring := some xring }
  | .tableDelete xring _ => { ring := some xring }
  | .oldContentsRelease _ _ _ => {}
  | .sweepPass xpipe => { pipe := some xpipe }
  | .sweepOverrun xpipe => { pipe := some xpipe }
  | .tableScrub _ _ _ => {}
  | .epochTimeout => {}
  | .sealNow xwho => { party := some xwho }
  | .newChain xwho => { party := some xwho }
  | .drainResume xwho => { party := some xwho }
  | .drainWrite => {}
  | .drainWriteComplete _ _ => {}
  | .drainRetry _ => {}
  | .audDrainAckWrite xwho _ => { party := some xwho }
  | .audDrainTgtWrite xwho _ _ => { party := some xwho }
  | .powerFail => {}
  | .droopTrip => {}
  | .keyLoad xring _ => { ring := some xring }
  | .keyGenerate xring => { ring := some xring }
  | .keyEcdhGen xring => { ring := some xring }
  | .keyAgree xring _ _ => { ring := some xring }
  | .keyDeriveMka xring _ => { ring := some xring }
  | .keyExport xring => { ring := some xring }
  | .keySeal xring _ _ => { ring := some xring }
  | .keyDestroy xring => { ring := some xring }
  | .keyQuery xring => { ring := some xring }
  | .lampSaWrite xwho xslot _ _ => { party := some xwho, slot := some xslot }
  | .encodingAnWrite xwho xslot _ => { party := some xwho, slot := some xslot }
  | .cbc xring _ _ => { ring := some xring }
  | .ctr xring _ _ => { ring := some xring }
  | .cfb8 xring _ _ => { ring := some xring }
  | .cfb128 xring _ _ => { ring := some xring }
  | .ofb xring _ _ => { ring := some xring }
  | .gcm xring _ _ => { ring := some xring }
  | .ccm xring _ _ => { ring := some xring }
  | .xts xring _ _ => { ring := some xring }
  | .cmac xring _ _ => { ring := some xring }
  | .sha384 xring _ => { ring := some xring }
  | .sha512 xring _ => { ring := some xring }
  | .sealVerify xring _ _ => { ring := some xring }
  | .digestVerify xring _ _ => { ring := some xring }
  | .random xring => { ring := some xring }
  | .jobPreempt _ => {}
  | .noiseSample _ _ => {}
  | .sourceRetest _ _ => {}
  | .graceSpent => {}
  | .drbgReseed => {}
  | .maskReseed _ => {}
  | .perstAssert _ => {}
  | .perstDeassert _ => {}
  | .hostLinkUp _ _ _ _ => {}
  | .hostLinkDown _ => {}
  | .vfEnable _ _ => {}
  | .vfDisable _ => {}
  | .flr xwho => { party := some xwho }
  | .flrComplete xwho => { party := some xwho }
  | .busMasterDisable xwho _ => { party := some xwho }
  | .busMasterEnable xwho => { party := some xwho }
  | .aerStatusWrite xwho _ _ => { party := some xwho }
  | .dmaCompletion _ _ => {}
  | .completionTimeout _ => {}
  | .hostFreezeRelease xwho _ => { party := some xwho }
  | .ringDoorbell xwho xring => { ring := some xring, party := some xwho }
  | .periodicScan xring => { ring := some xring }
  | .descriptorFetch xring _ => { ring := some xring }
  | .piRead _ _ _ => {}
  | .ringEnable xwho xring => { ring := some xring, party := some xwho }
  | .ringDisable xwho xring => { ring := some xring, party := some xwho }
  | .ringConfigWrite xwho xring _ _ => { ring := some xring, party := some xwho }
  | .irqHoldoff xring => { ring := some xring }
  | .ringSnapshot xring => { ring := some xring }
  | .identify _ => {}
  | .getFeatures _ => {}
  | .setFeatures _ => {}
  | .createIoSq _ => {}
  | .createIoCq _ => {}
  | .deleteIoSq _ => {}
  | .deleteIoCq _ => {}
  | .getLogPage _ => {}
  | .abort _ => {}
  | .asynchronousEventRequest _ => {}
  | .nvmeRead _ => {}
  | .nvmeWrite _ _ => {}
  | .flush _ => {}
  | .writeZeroes _ => {}
  | .datasetManagement _ _ => {}
  | .ccEnClear xwho => { party := some xwho }
  | .nsCreate xring _ => { ring := some xring }
  | .nsDelete xring => { ring := some xring }
  | .nsAttach xring => { ring := some xring }
  | .nsDetach xring => { ring := some xring }
  | .journalSlotTaken => {}
  | .partComplete _ _ _ => {}
  | .partTimeout _ _ => {}
  | .partRetry _ _ => {}
  | .nsReadyRetry _ _ => {}
  | .psEntryDone xwho => { party := some xwho }
  | .driveRemoved _ => {}
  | .driveReturned _ _ _ _ => {}
  | .qpCreate xring => { ring := some xring }
  | .qpModify xring _ => { ring := some xring }
  | .qpQuery xring => { ring := some xring }
  | .qpDestroy xring => { ring := some xring }
  | .mrReg xring => { ring := some xring }
  | .mrDereg xring => { ring := some xring }
  | .rdmaDoorbell xwho _ _ => { party := some xwho }
  | .send _ _ _ => {}
  | .sendImm _ _ _ => {}
  | .rdmaWrite _ _ _ => {}
  | .writeImm _ _ _ => {}
  | .rdmaRead _ _ => {}
  | .ackTimeout _ => {}
  | .rnrDelayExpiry _ => {}
  | .triggeredStart _ => {}
  | .vfShareSet xring _ => { ring := some xring }
  | .shrink _ _ => {}
  | .graceExpired _ _ => {}
  | .shrinkComplete _ _ => {}
  | .vfMboxDoorbell _ _ => {}
  | .vfMboxAck _ _ => {}
  | .vfmMboxDoorbell _ => {}
  | .vfmMboxAck _ => {}
  | .vfmResWrite _ _ _ => {}
  | .genAbiOfferWrite xwho _ => { party := some xwho }
  | .hello _ _ => {}
  | .galTrainRetry _ => {}
  | .galLinkLoss _ => {}
  | .dialSampleSend _ => {}
  | .dialSample _ _ => {}
  | .sampleTimeout => {}
  | .peerLost _ => {}
  | .streamSend xd => { domain := some xd }
  | .streamMessage _ => {}
  | .galSucceed xwho => { party := some xwho }
  | .powerOn _ => {}
  | .resetNAssert _ => {}
  | .watchdog _ => {}
  | .wake _ => {}
  | .check => {}
  | .boot => {}
  | .programA => {}
  | .programB => {}
  | .recActionComplete _ => {}
  | .bootRecWinWrite xwho _ _ => { party := some xwho }
  | .fuseRaise xring => { ring := some xring }
  | .bootFuseConfirmWrite xwho _ => { party := some xwho }
  | .noConfirm => {}
  | .fuseProgramDone _ => {}
  | .lifeQuery xring => { ring := some xring }
  | .sensorSample _ => {}
  | .thermtripRecheck _ _ => {}
  | .ladderStep => {}
  | .powerAverage _ => {}
  | .pwrSprintReqWrite xwho _ => { party := some xwho }
  | .deepRestEnter xwho => { party := some xwho }
  | .seqErr => {}
  | .registerWrite xwho _ _ _ => { party := some xwho }
  | .lowHalfWrite xwho _ _ => { party := some xwho }
  | .highHalfWrite xwho _ _ => { party := some xwho }
  | .voteScrub _ => {}
  | .headcount xwho _ => { party := some xwho }
  | .capture _ => {}
  | .bankFilled _ => {}
  | .periodicDump => {}
  | .logRecordWrite => {}
  | .hoursTick => {}
  | .lifeAverageUpdate _ _ => {}
  | .dialSync _ => {}
  | .powerGap _ _ _ => {}
  | .idleExit _ => {}
  | .laneMarginCheck _ _ => {}
  | .ageingCheck _ => {}
  | .releaseInstant _ => {}
  | .supplyCollapse _ => {}
  | .pllLockLoss _ => {}
  | .jobCompletion _ _ => {}
  | .exceptionFrameConsumed xpipe => { pipe := some xpipe }
  | .nvmeDoorbell xwho _ _ _ => { party := some xwho }
  | .ccEnSet xwho => { party := some xwho }
  | .memoryScrub _ _ _ => {}

/-- A well-formed command names a ring context below 65,536, a party that exists, a port slot below 256, a domain below 16
and a pipe below 8, wherever it names one. -/
def Statement (i : Instr) : Prop := i.wf = true → (named i).Exists

theorem Named.exists_empty : Named.Exists {} := by simp [Named.Exists]

end WellFormedBounds

open WellFormedBounds (Statement Named)

theorem WellFormedBounds.dialTick : Statement (.dialTick) := fun _ => Named.exists_empty
theorem WellFormedBounds.slewComplete : Statement (.slewComplete) := fun _ => Named.exists_empty
theorem WellFormedBounds.timeDialNsRead (who : Party) : Statement (.timeDialNsRead who) := fun h => by
  have w : (who.wf) = true := h
  change Named.Exists { party := some who }
  simp_all [Named.Exists]
theorem WellFormedBounds.timeAdjFreqWrite (who : Party) (a1 : Word) : Statement (.timeAdjFreqWrite who a1) := fun h => by
  have w : (who.wf) = true := h
  change Named.Exists { party := some who }
  simp_all [Named.Exists]
theorem WellFormedBounds.timeAdjPhaseWrite (who : Party) (a1 : Word) : Statement (.timeAdjPhaseWrite who a1) := fun h => by
  have w : (who.wf) = true := h
  change Named.Exists { party := some who }
  simp_all [Named.Exists]
theorem WellFormedBounds.timeCfgWrite (who : Party) (a1 : Word) : Statement (.timeCfgWrite who a1) := fun h => by
  have w : (who.wf) = true := h
  change Named.Exists { party := some who }
  simp_all [Named.Exists]
theorem WellFormedBounds.timeDiscWrite (who : Party) (a1 : Word) : Statement (.timeDiscWrite who a1) := fun h => by
  have w : (who.wf) = true := h
  change Named.Exists { party := some who }
  simp_all [Named.Exists]
theorem WellFormedBounds.step (who : Party) : Statement (.step who) := fun h => by
  have w : (who.wf) = true := h
  change Named.Exists { party := some who }
  simp_all [Named.Exists]
theorem WellFormedBounds.absoluteLoad (who : Party) : Statement (.absoluteLoad who) := fun h => by
  have w : (who.wf) = true := h
  change Named.Exists { party := some who }
  simp_all [Named.Exists]
theorem WellFormedBounds.stepComplete : Statement (.stepComplete) := fun _ => Named.exists_empty
theorem WellFormedBounds.refLoss : Statement (.refLoss) := fun _ => Named.exists_empty
theorem WellFormedBounds.refReturn : Statement (.refReturn) := fun _ => Named.exists_empty
theorem WellFormedBounds.ppsEdge (a0 : Bool) (a1 : Dial) (a2 : Byte) : Statement (.ppsEdge a0 a1 a2) := fun _ => Named.exists_empty
theorem WellFormedBounds.ppsMissing : Statement (.ppsMissing) := fun _ => Named.exists_empty
theorem WellFormedBounds.ppsOutEdge : Statement (.ppsOutEdge) := fun _ => Named.exists_empty
theorem WellFormedBounds.utcOffsetApply : Statement (.utcOffsetApply) := fun _ => Named.exists_empty
theorem WellFormedBounds.recalUpdate (octet : Nat) (a1 : List Int) : Statement (.recalUpdate octet a1) := fun _ => Named.exists_empty
theorem WellFormedBounds.tdcRecal (lane : Nat) (a1 : List Byte) : Statement (.tdcRecal lane a1) := fun _ => Named.exists_empty
theorem WellFormedBounds.frameReceived (f : RxFrame) : Statement (.frameReceived f) := fun _ => Named.exists_empty
theorem WellFormedBounds.pfcPauseExpiry (slot : Nat) (prio : Nat) : Statement (.pfcPauseExpiry slot prio) := fun h => by
  have w : (decide (slot < 256) && decide (prio < 8)) = true := h
  change Named.Exists { slot := some slot }
  simp_all [Named.Exists]
theorem WellFormedBounds.pfcRefresh (slot : Nat) : Statement (.pfcRefresh slot) := fun h => by
  have w : (decide (slot < 256)) = true := h
  change Named.Exists { slot := some slot }
  simp_all [Named.Exists]
theorem WellFormedBounds.pfcWatchdog (slot : Nat) (prio : Nat) : Statement (.pfcWatchdog slot prio) := fun h => by
  have w : (decide (slot < 256) && decide (prio < 8)) = true := h
  change Named.Exists { slot := some slot }
  simp_all [Named.Exists]
theorem WellFormedBounds.codewordDecoded (lane : Nat) (a1 : Nat) (a2 : TouchedFrames) (frames : List RxFrame) (a4 : List Nat) : Statement (.codewordDecoded lane a1 a2 frames a4) := fun _ => Named.exists_empty
theorem WellFormedBounds.portModeWrite (who : Party) (slot : Nat) (a2 : Word) : Statement (.portModeWrite who slot a2) := fun h => by
  have w : (who.wf && decide (slot < 256)) = true := h
  change Named.Exists { party := some who, slot := some slot }
  simp_all [Named.Exists]
theorem WellFormedBounds.alignmentAchieved (slot : Nat) (a1 : Option (List Nat)) : Statement (.alignmentAchieved slot a1) := fun h => by
  have w : (decide (slot < 256)) = true := h
  change Named.Exists { slot := some slot }
  simp_all [Named.Exists]
theorem WellFormedBounds.upHoldExpiry (slot : Nat) : Statement (.upHoldExpiry slot) := fun h => by
  have w : (decide (slot < 256)) = true := h
  change Named.Exists { slot := some slot }
  simp_all [Named.Exists]
theorem WellFormedBounds.alignmentLost (slot : Nat) (a1 : Bool) : Statement (.alignmentLost slot a1) := fun h => by
  have w : (decide (slot < 256)) = true := h
  change Named.Exists { slot := some slot }
  simp_all [Named.Exists]
theorem WellFormedBounds.localFault (slot : Nat) (a1 : Bool) : Statement (.localFault slot a1) := fun h => by
  have w : (decide (slot < 256)) = true := h
  change Named.Exists { slot := some slot }
  simp_all [Named.Exists]
theorem WellFormedBounds.remoteFault (slot : Nat) (a1 : Bool) : Statement (.remoteFault slot a1) := fun h => by
  have w : (decide (slot < 256)) = true := h
  change Named.Exists { slot := some slot }
  simp_all [Named.Exists]
theorem WellFormedBounds.trainTimeout (slot : Nat) : Statement (.trainTimeout slot) := fun h => by
  have w : (decide (slot < 256)) = true := h
  change Named.Exists { slot := some slot }
  simp_all [Named.Exists]
theorem WellFormedBounds.admitSet (ring : Nat) : Statement (.admitSet ring) := fun h => by
  have w : (decide (ring < 65536)) = true := h
  change Named.Exists { ring := some ring }
  simp_all [Named.Exists]
theorem WellFormedBounds.pipeTmplW0Write (who : Party) (i : Nat) (a2 : Word) : Statement (.pipeTmplW0Write who i a2) := fun h => by
  have w : (who.wf && decide (i < 1024)) = true := h
  change Named.Exists { party := some who }
  simp_all [Named.Exists]
theorem WellFormedBounds.wholeDialSecond : Statement (.wholeDialSecond) := fun _ => Named.exists_empty
theorem WellFormedBounds.holdStoreArrival (pipe : Nat) : Statement (.holdStoreArrival pipe) := fun h => by
  have w : (decide (pipe < 8)) = true := h
  change Named.Exists { pipe := some pipe }
  simp_all [Named.Exists]
theorem WellFormedBounds.musterRelease (d : Nat) : Statement (.musterRelease d) := fun h => by
  have w : (decide (d < 16)) = true := h
  change Named.Exists { domain := some d }
  simp_all [Named.Exists]
theorem WellFormedBounds.backlogDelivery (d : Nat) (a1 : Bool) : Statement (.backlogDelivery d a1) := fun h => by
  have w : (decide (d < 16)) = true := h
  change Named.Exists { domain := some d }
  simp_all [Named.Exists]
theorem WellFormedBounds.seqFeedWrite (who : Party) (d : Nat) (m : Nat) (a3 : Word) : Statement (.seqFeedWrite who d m a3) := fun h => by
  have w : (who.wf && decide (d < 16) && decide (m < 4)) = true := h
  change Named.Exists { party := some who, domain := some d }
  simp_all [Named.Exists]
theorem WellFormedBounds.seqDomainCfgWrite (who : Party) (d : Nat) (a2 : Word) : Statement (.seqDomainCfgWrite who d a2) := fun h => by
  have w : (who.wf && decide (d < 16)) = true := h
  change Named.Exists { party := some who, domain := some d }
  simp_all [Named.Exists]
theorem WellFormedBounds.seqNextWrite (who : Party) (d : Nat) (a2 : Word) : Statement (.seqNextWrite who d a2) := fun h => by
  have w : (who.wf && decide (d < 16)) = true := h
  change Named.Exists { party := some who, domain := some d }
  simp_all [Named.Exists]
theorem WellFormedBounds.seqCfgSet (ring : Nat) : Statement (.seqCfgSet ring) := fun h => by
  have w : (decide (ring < 65536)) = true := h
  change Named.Exists { ring := some ring }
  simp_all [Named.Exists]
theorem WellFormedBounds.open (who : Party) (d : Nat) : Statement (.open who d) := fun h => by
  have w : (who.wf && decide (d < 16)) = true := h
  change Named.Exists { party := some who, domain := some d }
  simp_all [Named.Exists]
theorem WellFormedBounds.close (who : Party) (d : Nat) : Statement (.close who d) := fun h => by
  have w : (who.wf && decide (d < 16)) = true := h
  change Named.Exists { party := some who, domain := some d }
  simp_all [Named.Exists]
theorem WellFormedBounds.forceClose (who : Party) (d : Nat) : Statement (.forceClose who d) := fun h => by
  have w : (who.wf && decide (d < 16)) = true := h
  change Named.Exists { party := some who, domain := some d }
  simp_all [Named.Exists]
theorem WellFormedBounds.domainOpens (d : Nat) : Statement (.domainOpens d) := fun h => by
  have w : (decide (d < 16)) = true := h
  change Named.Exists { domain := some d }
  simp_all [Named.Exists]
theorem WellFormedBounds.domainCloses (d : Nat) : Statement (.domainCloses d) := fun h => by
  have w : (decide (d < 16)) = true := h
  change Named.Exists { domain := some d }
  simp_all [Named.Exists]
theorem WellFormedBounds.takeover (who : Party) (a1 : Word) : Statement (.takeover who a1) := fun h => by
  have w : (who.wf) = true := h
  change Named.Exists { party := some who }
  simp_all [Named.Exists]
theorem WellFormedBounds.mirrorRecord (d : Nat) (r : MirrorRec) : Statement (.mirrorRecord d r) := fun h => by
  have w : (decide (d < 16) && r.wf) = true := h
  change Named.Exists { domain := some d }
  simp_all [Named.Exists]
theorem WellFormedBounds.releasePost (ring : Nat) : Statement (.releasePost ring) := fun h => by
  have w : (decide (ring < 65536)) = true := h
  change Named.Exists { ring := some ring }
  simp_all [Named.Exists]
theorem WellFormedBounds.releaseAcceptance (ring : Nat) (a1 : Option (List Byte)) : Statement (.releaseAcceptance ring a1) := fun h => by
  have w : (decide (ring < 65536)) = true := h
  change Named.Exists { ring := some ring }
  simp_all [Named.Exists]
theorem WellFormedBounds.guardBegin (slot : Nat) (rel : Nat) : Statement (.guardBegin slot rel) := fun h => by
  have w : (decide (slot < 256) && decide (0 < rel)) = true := h
  change Named.Exists { slot := some slot }
  simp_all [Named.Exists]
theorem WellFormedBounds.launcherCommit (slot : Nat) (rel : Nat) : Statement (.launcherCommit slot rel) := fun h => by
  have w : (decide (slot < 256) && decide (0 < rel)) = true := h
  change Named.Exists { slot := some slot }
  simp_all [Named.Exists]
theorem WellFormedBounds.copyEnd (slot : Nat) (rel : Nat) : Statement (.copyEnd slot rel) := fun h => by
  have w : (decide (slot < 256) && decide (0 < rel)) = true := h
  change Named.Exists { slot := some slot }
  simp_all [Named.Exists]
theorem WellFormedBounds.releaseCompletion (ring : Nat) : Statement (.releaseCompletion ring) := fun h => by
  have w : (decide (ring < 65536)) = true := h
  change Named.Exists { ring := some ring }
  simp_all [Named.Exists]
theorem WellFormedBounds.txSchedule (slot : Nat) : Statement (.txSchedule slot) := fun h => by
  have w : (decide (slot < 256)) = true := h
  change Named.Exists { slot := some slot }
  simp_all [Named.Exists]
theorem WellFormedBounds.shaperRefill : Statement (.shaperRefill) := fun _ => Named.exists_empty
theorem WellFormedBounds.relPortShaperWrite (who : Party) (slot : Nat) (a2 : Word) : Statement (.relPortShaperWrite who slot a2) := fun h => by
  have w : (who.wf && decide (slot < 256)) = true := h
  change Named.Exists { party := some who, slot := some slot }
  simp_all [Named.Exists]
theorem WellFormedBounds.relQShaperWrite (who : Party) (slot : Nat) (q : Nat) (a3 : Word) : Statement (.relQShaperWrite who slot q a3) := fun h => by
  have w : (who.wf && decide (slot < 256) && decide (q < 8)) = true := h
  change Named.Exists { party := some who, slot := some slot }
  simp_all [Named.Exists]
theorem WellFormedBounds.portHoldExpiry (slot : Nat) : Statement (.portHoldExpiry slot) := fun h => by
  have w : (decide (slot < 256)) = true := h
  change Named.Exists { slot := some slot }
  simp_all [Named.Exists]
theorem WellFormedBounds.frameTxPost (ring : Nat) (a1 : Option (List Byte)) : Statement (.frameTxPost ring a1) := fun h => by
  have w : (decide (ring < 65536)) = true := h
  change Named.Exists { ring := some ring }
  simp_all [Named.Exists]
theorem WellFormedBounds.tableRead (ring : Nat) (a1 : Option (List Byte)) : Statement (.tableRead ring a1) := fun h => by
  have w : (decide (ring < 65536)) = true := h
  change Named.Exists { ring := some ring }
  simp_all [Named.Exists]
theorem WellFormedBounds.tableLock (ring : Nat) : Statement (.tableLock ring) := fun h => by
  have w : (decide (ring < 65536)) = true := h
  change Named.Exists { ring := some ring }
  simp_all [Named.Exists]
theorem WellFormedBounds.tableWrite (ring : Nat) (a1 : Option (List Byte)) : Statement (.tableWrite ring a1) := fun h => by
  have w : (decide (ring < 65536)) = true := h
  change Named.Exists { ring := some ring }
  simp_all [Named.Exists]
theorem WellFormedBounds.tableUnlock (ring : Nat) : Statement (.tableUnlock ring) := fun h => by
  have w : (decide (ring < 65536)) = true := h
  change Named.Exists { ring := some ring }
  simp_all [Named.Exists]
theorem WellFormedBounds.tableInsert (ring : Nat) (a1 : Option (List Byte)) : Statement (.tableInsert ring a1) := fun h => by
  have w : (decide (ring < 65536)) = true := h
  change Named.Exists { ring := some ring }
  simp_all [Named.Exists]
theorem WellFormedBounds.tableDelete (ring : Nat) (a1 : Option (List Byte)) : Statement (.tableDelete ring a1) := fun h => by
  have w : (decide (ring < 65536)) = true := h
  change Named.Exists { ring := some ring }
  simp_all [Named.Exists]
theorem WellFormedBounds.oldContentsRelease (a0 : Nat) (a1 : Nat) (a2 : Nat) : Statement (.oldContentsRelease a0 a1 a2) := fun _ => Named.exists_empty
theorem WellFormedBounds.sweepPass (pipe : Nat) : Statement (.sweepPass pipe) := fun h => by
  have w : (decide (pipe < 8)) = true := h
  change Named.Exists { pipe := some pipe }
  simp_all [Named.Exists]
theorem WellFormedBounds.sweepOverrun (pipe : Nat) : Statement (.sweepOverrun pipe) := fun h => by
  have w : (decide (pipe < 8)) = true := h
  change Named.Exists { pipe := some pipe }
  simp_all [Named.Exists]
theorem WellFormedBounds.tableScrub (a0 : Nat) (a1 : Nat) (a2 : Nat) : Statement (.tableScrub a0 a1 a2) := fun _ => Named.exists_empty
theorem WellFormedBounds.epochTimeout : Statement (.epochTimeout) := fun _ => Named.exists_empty
theorem WellFormedBounds.sealNow (who : Party) : Statement (.sealNow who) := fun h => by
  have w : (who.wf) = true := h
  change Named.Exists { party := some who }
  simp_all [Named.Exists]
theorem WellFormedBounds.newChain (who : Party) : Statement (.newChain who) := fun h => by
  have w : (who.wf) = true := h
  change Named.Exists { party := some who }
  simp_all [Named.Exists]
theorem WellFormedBounds.drainResume (who : Party) : Statement (.drainResume who) := fun h => by
  have w : (who.wf) = true := h
  change Named.Exists { party := some who }
  simp_all [Named.Exists]
theorem WellFormedBounds.drainWrite : Statement (.drainWrite) := fun _ => Named.exists_empty
theorem WellFormedBounds.drainWriteComplete (target : Nat) (a1 : Bool) : Statement (.drainWriteComplete target a1) := fun _ => Named.exists_empty
theorem WellFormedBounds.drainRetry (target : Nat) : Statement (.drainRetry target) := fun _ => Named.exists_empty
theorem WellFormedBounds.audDrainAckWrite (who : Party) (a1 : Word) : Statement (.audDrainAckWrite who a1) := fun h => by
  have w : (who.wf) = true := h
  change Named.Exists { party := some who }
  simp_all [Named.Exists]
theorem WellFormedBounds.audDrainTgtWrite (who : Party) (m : Nat) (a2 : Word) : Statement (.audDrainTgtWrite who m a2) := fun h => by
  have w : (who.wf && decide (m < 2)) = true := h
  change Named.Exists { party := some who }
  simp_all [Named.Exists]
theorem WellFormedBounds.powerFail : Statement (.powerFail) := fun _ => Named.exists_empty
theorem WellFormedBounds.droopTrip : Statement (.droopTrip) := fun _ => Named.exists_empty
theorem WellFormedBounds.keyLoad (ring : Nat) (a1 : Option (List Byte)) : Statement (.keyLoad ring a1) := fun h => by
  have w : (decide (ring < 65536)) = true := h
  change Named.Exists { ring := some ring }
  simp_all [Named.Exists]
theorem WellFormedBounds.keyGenerate (ring : Nat) : Statement (.keyGenerate ring) := fun h => by
  have w : (decide (ring < 65536)) = true := h
  change Named.Exists { ring := some ring }
  simp_all [Named.Exists]
theorem WellFormedBounds.keyEcdhGen (ring : Nat) : Statement (.keyEcdhGen ring) := fun h => by
  have w : (decide (ring < 65536)) = true := h
  change Named.Exists { ring := some ring }
  simp_all [Named.Exists]
theorem WellFormedBounds.keyAgree (ring : Nat) (a1 : Option (List Byte)) (a2 : Option (List Byte)) : Statement (.keyAgree ring a1 a2) := fun h => by
  have w : (decide (ring < 65536)) = true := h
  change Named.Exists { ring := some ring }
  simp_all [Named.Exists]
theorem WellFormedBounds.keyDeriveMka (ring : Nat) (a1 : Option (List Byte)) : Statement (.keyDeriveMka ring a1) := fun h => by
  have w : (decide (ring < 65536)) = true := h
  change Named.Exists { ring := some ring }
  simp_all [Named.Exists]
theorem WellFormedBounds.keyExport (ring : Nat) : Statement (.keyExport ring) := fun h => by
  have w : (decide (ring < 65536)) = true := h
  change Named.Exists { ring := some ring }
  simp_all [Named.Exists]
theorem WellFormedBounds.keySeal (ring : Nat) (a1 : Option (List Byte)) (a2 : Option (List Byte)) : Statement (.keySeal ring a1 a2) := fun h => by
  have w : (decide (ring < 65536)) = true := h
  change Named.Exists { ring := some ring }
  simp_all [Named.Exists]
theorem WellFormedBounds.keyDestroy (ring : Nat) : Statement (.keyDestroy ring) := fun h => by
  have w : (decide (ring < 65536)) = true := h
  change Named.Exists { ring := some ring }
  simp_all [Named.Exists]
theorem WellFormedBounds.keyQuery (ring : Nat) : Statement (.keyQuery ring) := fun h => by
  have w : (decide (ring < 65536)) = true := h
  change Named.Exists { ring := some ring }
  simp_all [Named.Exists]
theorem WellFormedBounds.lampSaWrite (who : Party) (slot : Nat) (a2 : Nat) (a3 : Word) : Statement (.lampSaWrite who slot a2 a3) := fun h => by
  have w : (who.wf && decide (slot < 256)) = true := h
  change Named.Exists { party := some who, slot := some slot }
  simp_all [Named.Exists]
theorem WellFormedBounds.encodingAnWrite (who : Party) (slot : Nat) (a2 : Word) : Statement (.encodingAnWrite who slot a2) := fun h => by
  have w : (who.wf && decide (slot < 256)) = true := h
  change Named.Exists { party := some who, slot := some slot }
  simp_all [Named.Exists]
theorem WellFormedBounds.cbc (ring : Nat) (a1 : Option (List Byte)) (a2 : Option (List Byte)) : Statement (.cbc ring a1 a2) := fun h => by
  have w : (decide (ring < 65536)) = true := h
  change Named.Exists { ring := some ring }
  simp_all [Named.Exists]
theorem WellFormedBounds.ctr (ring : Nat) (a1 : Option (List Byte)) (a2 : Option (List Byte)) : Statement (.ctr ring a1 a2) := fun h => by
  have w : (decide (ring < 65536)) = true := h
  change Named.Exists { ring := some ring }
  simp_all [Named.Exists]
theorem WellFormedBounds.cfb8 (ring : Nat) (a1 : Option (List Byte)) (a2 : Option (List Byte)) : Statement (.cfb8 ring a1 a2) := fun h => by
  have w : (decide (ring < 65536)) = true := h
  change Named.Exists { ring := some ring }
  simp_all [Named.Exists]
theorem WellFormedBounds.cfb128 (ring : Nat) (a1 : Option (List Byte)) (a2 : Option (List Byte)) : Statement (.cfb128 ring a1 a2) := fun h => by
  have w : (decide (ring < 65536)) = true := h
  change Named.Exists { ring := some ring }
  simp_all [Named.Exists]
theorem WellFormedBounds.ofb (ring : Nat) (a1 : Option (List Byte)) (a2 : Option (List Byte)) : Statement (.ofb ring a1 a2) := fun h => by
  have w : (decide (ring < 65536)) = true := h
  change Named.Exists { ring := some ring }
  simp_all [Named.Exists]
theorem WellFormedBounds.gcm (ring : Nat) (a1 : Option (List Byte)) (a2 : Option (List Byte)) : Statement (.gcm ring a1 a2) := fun h => by
  have w : (decide (ring < 65536)) = true := h
  change Named.Exists { ring := some ring }
  simp_all [Named.Exists]
theorem WellFormedBounds.ccm (ring : Nat) (a1 : Option (List Byte)) (a2 : Option (List Byte)) : Statement (.ccm ring a1 a2) := fun h => by
  have w : (decide (ring < 65536)) = true := h
  change Named.Exists { ring := some ring }
  simp_all [Named.Exists]
theorem WellFormedBounds.xts (ring : Nat) (a1 : Option (List Byte)) (a2 : Option (List Byte)) : Statement (.xts ring a1 a2) := fun h => by
  have w : (decide (ring < 65536)) = true := h
  change Named.Exists { ring := some ring }
  simp_all [Named.Exists]
theorem WellFormedBounds.cmac (ring : Nat) (a1 : Option (List Byte)) (a2 : Option (List Byte)) : Statement (.cmac ring a1 a2) := fun h => by
  have w : (decide (ring < 65536)) = true := h
  change Named.Exists { ring := some ring }
  simp_all [Named.Exists]
theorem WellFormedBounds.sha384 (ring : Nat) (a1 : Option (List Byte)) : Statement (.sha384 ring a1) := fun h => by
  have w : (decide (ring < 65536)) = true := h
  change Named.Exists { ring := some ring }
  simp_all [Named.Exists]
theorem WellFormedBounds.sha512 (ring : Nat) (a1 : Option (List Byte)) : Statement (.sha512 ring a1) := fun h => by
  have w : (decide (ring < 65536)) = true := h
  change Named.Exists { ring := some ring }
  simp_all [Named.Exists]
theorem WellFormedBounds.sealVerify (ring : Nat) (a1 : Option (List Byte)) (a2 : Option (List Byte)) : Statement (.sealVerify ring a1 a2) := fun h => by
  have w : (decide (ring < 65536)) = true := h
  change Named.Exists { ring := some ring }
  simp_all [Named.Exists]
theorem WellFormedBounds.digestVerify (ring : Nat) (a1 : Option (List Byte)) (a2 : Option (List Byte)) : Statement (.digestVerify ring a1 a2) := fun h => by
  have w : (decide (ring < 65536)) = true := h
  change Named.Exists { ring := some ring }
  simp_all [Named.Exists]
theorem WellFormedBounds.random (ring : Nat) : Statement (.random ring) := fun h => by
  have w : (decide (ring < 65536)) = true := h
  change Named.Exists { ring := some ring }
  simp_all [Named.Exists]
theorem WellFormedBounds.jobPreempt (engine : Nat) : Statement (.jobPreempt engine) := fun _ => Named.exists_empty
theorem WellFormedBounds.noiseSample (source : Nat) (a1 : Byte) : Statement (.noiseSample source a1) := fun _ => Named.exists_empty
theorem WellFormedBounds.sourceRetest (source : Nat) (a1 : List Byte) : Statement (.sourceRetest source a1) := fun _ => Named.exists_empty
theorem WellFormedBounds.graceSpent : Statement (.graceSpent) := fun _ => Named.exists_empty
theorem WellFormedBounds.drbgReseed : Statement (.drbgReseed) := fun _ => Named.exists_empty
theorem WellFormedBounds.maskReseed (a0 : Nat) : Statement (.maskReseed a0) := fun _ => Named.exists_empty
theorem WellFormedBounds.perstAssert (n : Nat) : Statement (.perstAssert n) := fun _ => Named.exists_empty
theorem WellFormedBounds.perstDeassert (n : Nat) : Statement (.perstDeassert n) := fun _ => Named.exists_empty
theorem WellFormedBounds.hostLinkUp (p : Nat) (a1 : Nat) (a2 : Nat) (a3 : Bool) : Statement (.hostLinkUp p a1 a2 a3) := fun _ => Named.exists_empty
theorem WellFormedBounds.hostLinkDown (p : Nat) : Statement (.hostLinkDown p) := fun _ => Named.exists_empty
theorem WellFormedBounds.vfEnable (p : Nat) (numVfs : Nat) : Statement (.vfEnable p numVfs) := fun _ => Named.exists_empty
theorem WellFormedBounds.vfDisable (p : Nat) : Statement (.vfDisable p) := fun _ => Named.exists_empty
theorem WellFormedBounds.flr (fn : Party) : Statement (.flr fn) := fun h => by
  have w : (fn.wf) = true := h
  change Named.Exists { party := some fn }
  simp_all [Named.Exists]
theorem WellFormedBounds.flrComplete (fn : Party) : Statement (.flrComplete fn) := fun h => by
  have w : (fn.wf) = true := h
  change Named.Exists { party := some fn }
  simp_all [Named.Exists]
theorem WellFormedBounds.busMasterDisable (fn : Party) (a1 : Bool) : Statement (.busMasterDisable fn a1) := fun h => by
  have w : (fn.wf) = true := h
  change Named.Exists { party := some fn }
  simp_all [Named.Exists]
theorem WellFormedBounds.busMasterEnable (fn : Party) : Statement (.busMasterEnable fn) := fun h => by
  have w : (fn.wf) = true := h
  change Named.Exists { party := some fn }
  simp_all [Named.Exists]
theorem WellFormedBounds.aerStatusWrite (fn : Party) (a1 : CfgReg) (a2 : BitVec 32) : Statement (.aerStatusWrite fn a1 a2) := fun h => by
  have w : (fn.wf) = true := h
  change Named.Exists { party := some fn }
  simp_all [Named.Exists]
theorem WellFormedBounds.dmaCompletion (read : HostRead) (a1 : Option BusError) : Statement (.dmaCompletion read a1) := fun _ => Named.exists_empty
theorem WellFormedBounds.completionTimeout (read : HostRead) : Statement (.completionTimeout read) := fun _ => Named.exists_empty
theorem WellFormedBounds.hostFreezeRelease (who : Party) (link : Nat) : Statement (.hostFreezeRelease who link) := fun h => by
  have w : (who.wf && decide (link < 16)) = true := h
  change Named.Exists { party := some who }
  simp_all [Named.Exists]
theorem WellFormedBounds.ringDoorbell (who : Party) (c : Nat) : Statement (.ringDoorbell who c) := fun h => by
  have w : (who.wf && decide (c < 65536)) = true := h
  change Named.Exists { ring := some c, party := some who }
  simp_all [Named.Exists]
theorem WellFormedBounds.periodicScan (c : Nat) : Statement (.periodicScan c) := fun h => by
  have w : (decide (c < 65536)) = true := h
  change Named.Exists { ring := some c }
  simp_all [Named.Exists]
theorem WellFormedBounds.descriptorFetch (c : Nat) (a1 : List (Option (List Byte))) : Statement (.descriptorFetch c a1) := fun h => by
  have w : (decide (c < 65536)) = true := h
  change Named.Exists { ring := some c }
  simp_all [Named.Exists]
theorem WellFormedBounds.piRead (c : Nat) (a1 : Option (BitVec 32)) (a2 : List (Option (List Byte))) : Statement (.piRead c a1 a2) := fun _ => Named.exists_empty
theorem WellFormedBounds.ringEnable (who : Party) (c : Nat) : Statement (.ringEnable who c) := fun h => by
  have w : (who.wf && decide (c < 65536)) = true := h
  change Named.Exists { ring := some c, party := some who }
  simp_all [Named.Exists]
theorem WellFormedBounds.ringDisable (who : Party) (c : Nat) : Statement (.ringDisable who c) := fun h => by
  have w : (who.wf && decide (c < 65536)) = true := h
  change Named.Exists { ring := some c, party := some who }
  simp_all [Named.Exists]
theorem WellFormedBounds.ringConfigWrite (who : Party) (c : Nat) (a2 : Nat) (a3 : Word) : Statement (.ringConfigWrite who c a2 a3) := fun h => by
  have w : (who.wf && decide (c < 65536)) = true := h
  change Named.Exists { ring := some c, party := some who }
  simp_all [Named.Exists]
theorem WellFormedBounds.irqHoldoff (c : Nat) : Statement (.irqHoldoff c) := fun h => by
  have w : (decide (c < 65536)) = true := h
  change Named.Exists { ring := some c }
  simp_all [Named.Exists]
theorem WellFormedBounds.ringSnapshot (ring : Nat) : Statement (.ringSnapshot ring) := fun h => by
  have w : (decide (ring < 65536)) = true := h
  change Named.Exists { ring := some ring }
  simp_all [Named.Exists]
theorem WellFormedBounds.identify (cmd : NvmeCmd) : Statement (.identify cmd) := fun _ => Named.exists_empty
theorem WellFormedBounds.getFeatures (cmd : NvmeCmd) : Statement (.getFeatures cmd) := fun _ => Named.exists_empty
theorem WellFormedBounds.setFeatures (cmd : NvmeCmd) : Statement (.setFeatures cmd) := fun _ => Named.exists_empty
theorem WellFormedBounds.createIoSq (cmd : NvmeCmd) : Statement (.createIoSq cmd) := fun _ => Named.exists_empty
theorem WellFormedBounds.createIoCq (cmd : NvmeCmd) : Statement (.createIoCq cmd) := fun _ => Named.exists_empty
theorem WellFormedBounds.deleteIoSq (cmd : NvmeCmd) : Statement (.deleteIoSq cmd) := fun _ => Named.exists_empty
theorem WellFormedBounds.deleteIoCq (cmd : NvmeCmd) : Statement (.deleteIoCq cmd) := fun _ => Named.exists_empty
theorem WellFormedBounds.getLogPage (cmd : NvmeCmd) : Statement (.getLogPage cmd) := fun _ => Named.exists_empty
theorem WellFormedBounds.abort (cmd : NvmeCmd) : Statement (.abort cmd) := fun _ => Named.exists_empty
theorem WellFormedBounds.asynchronousEventRequest (cmd : NvmeCmd) : Statement (.asynchronousEventRequest cmd) := fun _ => Named.exists_empty
theorem WellFormedBounds.nvmeRead (cmd : NvmeCmd) : Statement (.nvmeRead cmd) := fun _ => Named.exists_empty
theorem WellFormedBounds.nvmeWrite (cmd : NvmeCmd) (a1 : Option (List Byte)) : Statement (.nvmeWrite cmd a1) := fun _ => Named.exists_empty
theorem WellFormedBounds.flush (cmd : NvmeCmd) : Statement (.flush cmd) := fun _ => Named.exists_empty
theorem WellFormedBounds.writeZeroes (cmd : NvmeCmd) : Statement (.writeZeroes cmd) := fun _ => Named.exists_empty
theorem WellFormedBounds.datasetManagement (cmd : NvmeCmd) (a1 : Option (List (Nat × Nat))) : Statement (.datasetManagement cmd a1) := fun _ => Named.exists_empty
theorem WellFormedBounds.ccEnClear (fn : Party) : Statement (.ccEnClear fn) := fun h => by
  have w : (fn.wf) = true := h
  change Named.Exists { party := some fn }
  simp_all [Named.Exists]
theorem WellFormedBounds.nsCreate (ring : Nat) (a1 : Option (List Byte)) : Statement (.nsCreate ring a1) := fun h => by
  have w : (decide (ring < 65536)) = true := h
  change Named.Exists { ring := some ring }
  simp_all [Named.Exists]
theorem WellFormedBounds.nsDelete (ring : Nat) : Statement (.nsDelete ring) := fun h => by
  have w : (decide (ring < 65536)) = true := h
  change Named.Exists { ring := some ring }
  simp_all [Named.Exists]
theorem WellFormedBounds.nsAttach (ring : Nat) : Statement (.nsAttach ring) := fun h => by
  have w : (decide (ring < 65536)) = true := h
  change Named.Exists { ring := some ring }
  simp_all [Named.Exists]
theorem WellFormedBounds.nsDetach (ring : Nat) : Statement (.nsDetach ring) := fun h => by
  have w : (decide (ring < 65536)) = true := h
  change Named.Exists { ring := some ring }
  simp_all [Named.Exists]
theorem WellFormedBounds.journalSlotTaken : Statement (.journalSlotTaken) := fun _ => Named.exists_empty
theorem WellFormedBounds.partComplete (a0 : Nat) (a1 : Nat) (a2 : PartResult) : Statement (.partComplete a0 a1 a2) := fun _ => Named.exists_empty
theorem WellFormedBounds.partTimeout (a0 : Nat) (a1 : Nat) : Statement (.partTimeout a0 a1) := fun _ => Named.exists_empty
theorem WellFormedBounds.partRetry (a0 : Nat) (a1 : Nat) : Statement (.partRetry a0 a1) := fun _ => Named.exists_empty
theorem WellFormedBounds.nsReadyRetry (a0 : Nat) (a1 : Bool) : Statement (.nsReadyRetry a0 a1) := fun _ => Named.exists_empty
theorem WellFormedBounds.psEntryDone (fn : Party) : Statement (.psEntryDone fn) := fun h => by
  have w : (fn.wf) = true := h
  change Named.Exists { party := some fn }
  simp_all [Named.Exists]
theorem WellFormedBounds.driveRemoved (s : Nat) : Statement (.driveRemoved s) := fun _ => Named.exists_empty
theorem WellFormedBounds.driveReturned (s : Nat) (a1 : Nat) (a2 : Nat) (a3 : Bool) : Statement (.driveReturned s a1 a2 a3) := fun _ => Named.exists_empty
theorem WellFormedBounds.qpCreate (ring : Nat) : Statement (.qpCreate ring) := fun h => by
  have w : (decide (ring < 65536)) = true := h
  change Named.Exists { ring := some ring }
  simp_all [Named.Exists]
theorem WellFormedBounds.qpModify (ring : Nat) (a1 : Option (List Byte)) : Statement (.qpModify ring a1) := fun h => by
  have w : (decide (ring < 65536)) = true := h
  change Named.Exists { ring := some ring }
  simp_all [Named.Exists]
theorem WellFormedBounds.qpQuery (ring : Nat) : Statement (.qpQuery ring) := fun h => by
  have w : (decide (ring < 65536)) = true := h
  change Named.Exists { ring := some ring }
  simp_all [Named.Exists]
theorem WellFormedBounds.qpDestroy (ring : Nat) : Statement (.qpDestroy ring) := fun h => by
  have w : (decide (ring < 65536)) = true := h
  change Named.Exists { ring := some ring }
  simp_all [Named.Exists]
theorem WellFormedBounds.mrReg (ring : Nat) : Statement (.mrReg ring) := fun h => by
  have w : (decide (ring < 65536)) = true := h
  change Named.Exists { ring := some ring }
  simp_all [Named.Exists]
theorem WellFormedBounds.mrDereg (ring : Nat) : Statement (.mrDereg ring) := fun h => by
  have w : (decide (ring < 65536)) = true := h
  change Named.Exists { ring := some ring }
  simp_all [Named.Exists]
theorem WellFormedBounds.rdmaDoorbell (who : Party) (qpn : Nat) (a2 : Bool) : Statement (.rdmaDoorbell who qpn a2) := fun h => by
  have w : (who.wf && decide (qpn < 2 ^ 24)) = true := h
  change Named.Exists { party := some who }
  simp_all [Named.Exists]
theorem WellFormedBounds.send (a0 : Nat) (a1 : BitVec 32) (a2 : Option (List Byte)) : Statement (.send a0 a1 a2) := fun _ => Named.exists_empty
theorem WellFormedBounds.sendImm (a0 : Nat) (a1 : BitVec 32) (a2 : Option (List Byte)) : Statement (.sendImm a0 a1 a2) := fun _ => Named.exists_empty
theorem WellFormedBounds.rdmaWrite (a0 : Nat) (a1 : BitVec 32) (a2 : Option (List Byte)) : Statement (.rdmaWrite a0 a1 a2) := fun _ => Named.exists_empty
theorem WellFormedBounds.writeImm (a0 : Nat) (a1 : BitVec 32) (a2 : Option (List Byte)) : Statement (.writeImm a0 a1 a2) := fun _ => Named.exists_empty
theorem WellFormedBounds.rdmaRead (a0 : Nat) (a1 : BitVec 32) : Statement (.rdmaRead a0 a1) := fun _ => Named.exists_empty
theorem WellFormedBounds.ackTimeout (a0 : Nat) : Statement (.ackTimeout a0) := fun _ => Named.exists_empty
theorem WellFormedBounds.rnrDelayExpiry (a0 : Nat) : Statement (.rnrDelayExpiry a0) := fun _ => Named.exists_empty
theorem WellFormedBounds.triggeredStart (a0 : Nat) : Statement (.triggeredStart a0) := fun _ => Named.exists_empty
theorem WellFormedBounds.vfShareSet (ring : Nat) (a1 : Option (List Byte)) : Statement (.vfShareSet ring a1) := fun h => by
  have w : (decide (ring < 65536)) = true := h
  change Named.Exists { ring := some ring }
  simp_all [Named.Exists]
theorem WellFormedBounds.shrink (p : Nat) (v : Nat) : Statement (.shrink p v) := fun _ => Named.exists_empty
theorem WellFormedBounds.graceExpired (p : Nat) (v : Nat) : Statement (.graceExpired p v) := fun _ => Named.exists_empty
theorem WellFormedBounds.shrinkComplete (p : Nat) (v : Nat) : Statement (.shrinkComplete p v) := fun _ => Named.exists_empty
theorem WellFormedBounds.vfMboxDoorbell (p : Nat) (v : Nat) : Statement (.vfMboxDoorbell p v) := fun _ => Named.exists_empty
theorem WellFormedBounds.vfMboxAck (p : Nat) (v : Nat) : Statement (.vfMboxAck p v) := fun _ => Named.exists_empty
theorem WellFormedBounds.vfmMboxDoorbell (p : Nat) : Statement (.vfmMboxDoorbell p) := fun _ => Named.exists_empty
theorem WellFormedBounds.vfmMboxAck (p : Nat) : Statement (.vfmMboxAck p) := fun _ => Named.exists_empty
theorem WellFormedBounds.vfmResWrite (p : Nat) (w : Nat) (a2 : Word) : Statement (.vfmResWrite p w a2) := fun _ => Named.exists_empty
theorem WellFormedBounds.genAbiOfferWrite (who : Party) (a1 : Word) : Statement (.genAbiOfferWrite who a1) := fun h => by
  have w : (who.wf) = true := h
  change Named.Exists { party := some who }
  simp_all [Named.Exists]
theorem WellFormedBounds.hello (link : Nat) (a1 : Hello) : Statement (.hello link a1) := fun _ => Named.exists_empty
theorem WellFormedBounds.galTrainRetry (link : Nat) : Statement (.galTrainRetry link) := fun _ => Named.exists_empty
theorem WellFormedBounds.galLinkLoss (link : Nat) : Statement (.galLinkLoss link) := fun _ => Named.exists_empty
theorem WellFormedBounds.dialSampleSend (link : Nat) : Statement (.dialSampleSend link) := fun _ => Named.exists_empty
theorem WellFormedBounds.dialSample (link : Nat) (a1 : DialSample) : Statement (.dialSample link a1) := fun _ => Named.exists_empty
theorem WellFormedBounds.sampleTimeout : Statement (.sampleTimeout) := fun _ => Named.exists_empty
theorem WellFormedBounds.peerLost (dev : Nat) : Statement (.peerLost dev) := fun _ => Named.exists_empty
theorem WellFormedBounds.streamSend (d : Nat) : Statement (.streamSend d) := fun h => by
  have w : (decide (d < 16)) = true := h
  change Named.Exists { domain := some d }
  simp_all [Named.Exists]
theorem WellFormedBounds.streamMessage (m : StreamMsg) : Statement (.streamMessage m) := fun _ => Named.exists_empty
theorem WellFormedBounds.galSucceed (who : Party) : Statement (.galSucceed who) := fun h => by
  have w : (who.wf) = true := h
  change Named.Exists { party := some who }
  simp_all [Named.Exists]
theorem WellFormedBounds.powerOn (a0 : StartInputs) : Statement (.powerOn a0) := fun _ => Named.exists_empty
theorem WellFormedBounds.resetNAssert (a0 : StartInputs) : Statement (.resetNAssert a0) := fun _ => Named.exists_empty
theorem WellFormedBounds.watchdog (a0 : StartInputs) : Statement (.watchdog a0) := fun _ => Named.exists_empty
theorem WellFormedBounds.wake (a0 : StartInputs) : Statement (.wake a0) := fun _ => Named.exists_empty
theorem WellFormedBounds.check : Statement (.check) := fun _ => Named.exists_empty
theorem WellFormedBounds.boot : Statement (.boot) := fun _ => Named.exists_empty
theorem WellFormedBounds.programA : Statement (.programA) := fun _ => Named.exists_empty
theorem WellFormedBounds.programB : Statement (.programB) := fun _ => Named.exists_empty
theorem WellFormedBounds.recActionComplete (a0 : Bool) : Statement (.recActionComplete a0) := fun _ => Named.exists_empty
theorem WellFormedBounds.bootRecWinWrite (who : Party) (a1 : Nat) (a2 : Word) : Statement (.bootRecWinWrite who a1 a2) := fun h => by
  have w : (who.wf) = true := h
  change Named.Exists { party := some who }
  simp_all [Named.Exists]
theorem WellFormedBounds.fuseRaise (ring : Nat) : Statement (.fuseRaise ring) := fun h => by
  have w : (decide (ring < 65536)) = true := h
  change Named.Exists { ring := some ring }
  simp_all [Named.Exists]
theorem WellFormedBounds.bootFuseConfirmWrite (who : Party) (a1 : Word) : Statement (.bootFuseConfirmWrite who a1) := fun h => by
  have w : (who.wf) = true := h
  change Named.Exists { party := some who }
  simp_all [Named.Exists]
theorem WellFormedBounds.noConfirm : Statement (.noConfirm) := fun _ => Named.exists_empty
theorem WellFormedBounds.fuseProgramDone (a0 : Bool) : Statement (.fuseProgramDone a0) := fun _ => Named.exists_empty
theorem WellFormedBounds.lifeQuery (ring : Nat) : Statement (.lifeQuery ring) := fun h => by
  have w : (decide (ring < 65536)) = true := h
  change Named.Exists { ring := some ring }
  simp_all [Named.Exists]
theorem WellFormedBounds.sensorSample (a0 : List Int) : Statement (.sensorSample a0) := fun _ => Named.exists_empty
theorem WellFormedBounds.thermtripRecheck (a0 : List Int) (a1 : StartInputs) : Statement (.thermtripRecheck a0 a1) := fun _ => Named.exists_empty
theorem WellFormedBounds.ladderStep : Statement (.ladderStep) := fun _ => Named.exists_empty
theorem WellFormedBounds.powerAverage (a0 : Nat) : Statement (.powerAverage a0) := fun _ => Named.exists_empty
theorem WellFormedBounds.pwrSprintReqWrite (who : Party) (a1 : Word) : Statement (.pwrSprintReqWrite who a1) := fun h => by
  have w : (who.wf) = true := h
  change Named.Exists { party := some who }
  simp_all [Named.Exists]
theorem WellFormedBounds.deepRestEnter (who : Party) : Statement (.deepRestEnter who) := fun h => by
  have w : (who.wf) = true := h
  change Named.Exists { party := some who }
  simp_all [Named.Exists]
theorem WellFormedBounds.seqErr : Statement (.seqErr) := fun _ => Named.exists_empty
theorem WellFormedBounds.registerWrite (who : Party) (a1 : Nat) (a2 : Nat) (a3 : BusValue) : Statement (.registerWrite who a1 a2 a3) := fun h => by
  have w : (who.wf) = true := h
  change Named.Exists { party := some who }
  simp_all [Named.Exists]
theorem WellFormedBounds.lowHalfWrite (who : Party) (a1 : Nat) (a2 : BitVec 32) : Statement (.lowHalfWrite who a1 a2) := fun h => by
  have w : (who.wf) = true := h
  change Named.Exists { party := some who }
  simp_all [Named.Exists]
theorem WellFormedBounds.highHalfWrite (who : Party) (a1 : Nat) (a2 : BitVec 32) : Statement (.highHalfWrite who a1 a2) := fun h => by
  have w : (who.wf) = true := h
  change Named.Exists { party := some who }
  simp_all [Named.Exists]
theorem WellFormedBounds.voteScrub (a0 : Nat) : Statement (.voteScrub a0) := fun _ => Named.exists_empty
theorem WellFormedBounds.headcount (who : Party) (a1 : Word) : Statement (.headcount who a1) := fun h => by
  have w : (who.wf) = true := h
  change Named.Exists { party := some who }
  simp_all [Named.Exists]
theorem WellFormedBounds.capture (bank : Nat) : Statement (.capture bank) := fun _ => Named.exists_empty
theorem WellFormedBounds.bankFilled (bank : Nat) : Statement (.bankFilled bank) := fun _ => Named.exists_empty
theorem WellFormedBounds.periodicDump : Statement (.periodicDump) := fun _ => Named.exists_empty
theorem WellFormedBounds.logRecordWrite : Statement (.logRecordWrite) := fun _ => Named.exists_empty
theorem WellFormedBounds.hoursTick : Statement (.hoursTick) := fun _ => Named.exists_empty
theorem WellFormedBounds.lifeAverageUpdate (a0 : Int) (a1 : Nat) : Statement (.lifeAverageUpdate a0 a1) := fun _ => Named.exists_empty
theorem WellFormedBounds.dialSync (core : Nat) : Statement (.dialSync core) := fun _ => Named.exists_empty
theorem WellFormedBounds.powerGap (core : Nat) (a1 : Bool) (a2 : Nat) : Statement (.powerGap core a1 a2) := fun _ => Named.exists_empty
theorem WellFormedBounds.idleExit (core : Nat) : Statement (.idleExit core) := fun _ => Named.exists_empty
theorem WellFormedBounds.laneMarginCheck (lane : Nat) (a1 : Bool) : Statement (.laneMarginCheck lane a1) := fun _ => Named.exists_empty
theorem WellFormedBounds.ageingCheck (a0 : List Nat) : Statement (.ageingCheck a0) := fun _ => Named.exists_empty
theorem WellFormedBounds.releaseInstant (rel : Nat) : Statement (.releaseInstant rel) := fun _ => Named.exists_empty
theorem WellFormedBounds.supplyCollapse (a0 : Nat) : Statement (.supplyCollapse a0) := fun _ => Named.exists_empty
theorem WellFormedBounds.pllLockLoss (a0 : Pll) : Statement (.pllLockLoss a0) := fun _ => Named.exists_empty
theorem WellFormedBounds.jobCompletion (engine : Nat) (a1 : Bool) : Statement (.jobCompletion engine a1) := fun _ => Named.exists_empty
theorem WellFormedBounds.exceptionFrameConsumed (pipe : Nat) : Statement (.exceptionFrameConsumed pipe) := fun h => by
  have w : (decide (pipe < 8)) = true := h
  change Named.Exists { pipe := some pipe }
  simp_all [Named.Exists]
theorem WellFormedBounds.nvmeDoorbell (who : Party) (a1 : Nat) (a2 : Bool) (a3 : BitVec 32) : Statement (.nvmeDoorbell who a1 a2 a3) := fun h => by
  have w : (who.wf) = true := h
  change Named.Exists { party := some who }
  simp_all [Named.Exists]
theorem WellFormedBounds.ccEnSet (fn : Party) : Statement (.ccEnSet fn) := fun h => by
  have w : (fn.wf) = true := h
  change Named.Exists { party := some fn }
  simp_all [Named.Exists]
theorem WellFormedBounds.memoryScrub (t : ScrubTarget) (place : ScrubPlace) (a2 : EccResult) : Statement (.memoryScrub t place a2) := fun _ => Named.exists_empty

end Sys2Proof.Laws
end

