-- ==== Sys2Proof/Laws/Step.lean ====
section
/-! SUPPORT. Laws/Step.lean: what a step can do. -/

namespace Sys2Proof.Machine

/-- A step that answers next either idles on an empty queue, or runs the command at its front. -/
theorem step_cases {s t : State} (h : step s = .next t) :
    (s.pending = [] ∧ t = s) ∨
      ∃ c rest, s.pending = c :: rest ∧ exec c { s with pending := rest } = .next t := by
  unfold step at h
  split at h
  · rename_i hp
    cases h
    exact .inl ⟨hp, rfl⟩
  · rename_i c rest hp
    exact .inr ⟨c, rest, hp, h⟩

/-- The word put in front of the queue is the command it spells. -/
theorem State.withFetchWord_pending (s : State) (nbits w : Nat) (c : Instr) (h : decodeTableWord nbits w = some c) :
    (s.withFetchWord nbits w).pending = c :: s.pending := by
  simp [State.withFetchWord, h]

end Sys2Proof.Machine
end

