-- ==== Sys2Proof/Machine/ConfigSpace.lean ====
section
/-! DEFINITION. Machine/ConfigSpace.lean: what a function's configuration space reads (R218, R220 to R223, R227, R231,
R232, R355). The manual leaves the places of these fields to the Base Specification, so each goes by its name; the writes
are those of AER_STATUS_WRITE, BUS_MASTER_ENABLE, BUS_MASTER_DISABLE, VF_ENABLE, VF_DISABLE and FLR (log entry 94). -/

namespace Sys2Proof.Machine

/-- The capabilities of R220. -/
inductive Capability where
  | powerManagement | msix | pciExpress
  | aer | ari | sriov | deviceSerial | secondaryPcie | dataLinkFeature | phy16 | phy32 | phy64 | laneMargining
  deriving DecidableEq, Repr

/-- The capabilities a function carries, the base list first (R220). -/
def capabilities : Party → List Capability
  | .pf _ =>
    [.pciExpress, .powerManagement, .msix, .aer, .ari, .sriov, .deviceSerial, .secondaryPcie, .dataLinkFeature, .phy16,
     .phy32, .phy64, .laneMargining]
  | .vf _ _ => [.pciExpress, .msix, .aer, .ari]
  | _ => []

/-- The fields whose values the manual gives. -/
inductive CfgField where
  | vendorId | deviceId | classCode | revisionId | subsystemVendorId | subsystemId | interruptPin
  | bar (n : Nat) | barBytes | vfBar (n : Nat) | expansionRom
  | command | status | busMasterEnable
  | deviceControl | deviceStatus | deviceControl2 | maxPayloadSupported | maxReadRequestMax | noSnoop | idoRequest
  | timeoutRanges | timeoutDisableSupported | timeoutValue | timeoutDisable
  | flrCapable | noSoftReset | d3Hot | pmeSupport
  | tagBits | outstandingReads | ecrcGenerate | aspmSupport
  | totalVfs | initialVfs | numVfs | vfEnable | firstVfOffset | vfStride | vfDeviceId | vfBarBytes | supportedPageSizes
  | msixTableSize | msixTableOffset | msixPbaOffset
  | serialNumber | uncorrStatus | uncorrMask | uncorrSeverity | corrStatus | corrMask | laneErrorStatus
  deriving DecidableEq, Repr

/-- The subsystem ID of the Provision image in force, 0x0001 without one (R220, R333). -/
def State.subsystemId (s : State) : Nat :=
  let records := (s.boot.running.bind fun m => provision m.provision).getD []
  ((records.filterMap fun r => if r.type = 2 then Config.provisionSubsystem r.value else none).getLast?.getD 1).toNat

/-- The routing ID of a VF, counted from its PF's: First VF Offset and VF Stride are both 1 (R221). -/
def vfRoutingOffset (v : Nat) : Nat := 1 + (v - 1)

/-- The low bits of a base address register of 64-bit, non-prefetchable memory: bit 0 says memory, bits 2 and 1 that the
register goes on in the next one, bit 3 prefetchable. Its address bits show in no effect and are not held (log entry 94). -/
def memoryBar64 : Nat := 4

/-- A field of a function's configuration space. -/
def State.cfgField (s : State) (f : Party) (x : CfgField) : Nat :=
  let g := s.fn f
  let isPf := decide (f.vfNumber = 0)
  let flit := (f.pfIndex.map fun p => (s.link p).flit).getD false
  match x with
  | .vendorId => if isPf then 0x1E4A else 0xFFFF
  | .deviceId => if isPf then 0x5A60 else 0xFFFF
  | .classCode => 0x028000
  | .revisionId => 0x01
  | .subsystemVendorId => 0x1E4A
  | .subsystemId => s.subsystemId
  | .interruptPin => 0
  | .bar n => if isPf ∧ n = 0 then memoryBar64 else 0
  | .barBytes => if isPf then 32 * 2 ^ 20 else 0
  | .vfBar n => if isPf ∧ n = 0 then memoryBar64 else 0
  | .expansionRom => 0
  | .command => g.command.toNat + b2n g.busMaster * 4
  | .status => g.status.toNat
  | .busMasterEnable => b2n g.busMaster
  | .deviceControl => if isPf then g.devCtl.toNat else 0
  | .deviceStatus => g.devStatus.toNat
  | .deviceControl2 => if isPf then g.devCtl2.toNat else 0
  | .timeoutRanges => 15
  | .timeoutDisableSupported => 1
  | .timeoutValue => (s.pfOf f).devCtl2.toNat % 16
  | .timeoutDisable => b2n ((s.pfOf f).devCtl2.getLsbD 4)
  | .maxPayloadSupported => 512
  | .maxReadRequestMax => 4096
  | .noSnoop => 0
  | .idoRequest => 0
  | .flrCapable => 1
  | .noSoftReset => 1
  | .d3Hot => b2n g.d3
  | .pmeSupport => 0
  | .tagBits => if flit then 14 else 10
  | .outstandingReads => if flit then 4096 else 1024
  | .ecrcGenerate => 0
  | .aspmSupport => 0
  | .totalVfs => if isPf ∧ s.phase ≠ .recovery then 2048 else 0
  | .initialVfs => if isPf ∧ s.phase ≠ .recovery then 2048 else 0
  | .numVfs => g.numVfs
  | .vfEnable => b2n g.vfEnable
  | .firstVfOffset => if isPf then 1 else 0
  | .vfStride => if isPf then 1 else 0
  | .vfDeviceId => if isPf then 0x5A61 else 0
  | .vfBarBytes => if isPf then 64 * 2 ^ 10 else 0
  | .supportedPageSizes => if isPf then 0x1F else 0
  | .msixTableSize => if isPf then 2048 else 64
  | .msixTableOffset => if isPf then 0x980000 else 0xF000
  | .msixPbaOffset => if isPf then 0x988000 else 0xF800
  | .serialNumber => if isPf then (s.reg Reg.GEN_SERIAL).toNat else 0
  | .uncorrStatus => g.uncorr.toNat
  | .uncorrMask => (s.pfOf f).uncorrMask.toNat
  | .uncorrSeverity => (s.pfOf f).uncorrSev.toNat
  | .corrStatus => g.corr.toNat
  | .corrMask => (s.pfOf f).corrMask.toNat
  | .laneErrorStatus => if isPf then g.laneErr.toNat else 0

end Sys2Proof.Machine
end

