-- ==== Sys2Proof/Safety.lean ====
section
/-! DEFINITION. Safety.lean: what counts as a safe run of the block: no command stops it. -/

namespace Sys2Proof.Machine

/-- A step that answers a next state. -/
def Outcome.isNext : Host.Outcome State Fault Refusal → Bool
  | .next _ => true
  | .fault _ => false
  | .refused _ => false

/-- k steps from a state that neither fault nor are refused. -/
def runsFor : Nat → State → Bool
  | 0, _ => true
  | k + 1, s =>
    match step s with
    | .next t => runsFor k t
    | .fault _ => false
    | .refused _ => false

end Sys2Proof.Machine
end

