-- ==== Sys2Proof/Tests/Slice0.lean ====
section
/-! SUPPORT. Tests/Slice0.lean: worked examples of the manual, ill-formed commands that are refused, and a witness for
the premises of every statement: states and operands that meet them, with what the command answers there. -/

namespace Sys2Proof.Tests

open Sys2Proof.Machine Sys2Proof.Claims

set_option Elab.async false

/-! ## Helpers -/

/-- What a command leaves satisfies a test. -/
def after (c : Instr) (s : State) (p : State → Bool) : Bool :=
  match exec c s with
  | .next t => p t
  | .fault _ => false
  | .refused _ => false

/-- Register k has counted n events. -/
def rose (k n : Nat) (s t : State) : Bool := decide (t.reg k = if n = 0 then s.reg k else counterPlus n (s.reg k))

/-- A device that runs, everything else as at reset. -/
def dev : State := { State.reset with phase := .running }

/-- A state at a Dial, as much time after reset. -/
def atDial (d : Dial) (s : State) : State :=
  { s with time := { s.time with a := d.count, b := d.count, c := d.count, elapsed := d } }

/-- A voted register with a value in all its copies. -/
def rv (k : Nat) (v : Word) (s : State) : State := s.setRv k v

/-- The link of a PF index is up at 32 GT/s. -/
def linked (p : Nat) (s : State) : State :=
  s.modLink p fun l => { l with dlActive := true, rate := 4, width := 16 }

/-- A 64-byte descriptor with little-endian fields: offset, bytes, value. -/
def desc (fs : List (Nat × Nat × Nat)) : List Byte :=
  fs.foldl (fun d (o, n, v) => d.take o ++ leBytes n v ++ d.drop (o + n)) (zeros 64)

/-- An ADMIN entry. -/
def admin (op p0 p1 p2 p3 : Nat) : List Byte :=
  desc [(0, 2, op), (8, 8, p0), (16, 8, p1), (24, 8, p2), (32, 8, p3)]

/-- An entry just taken. -/
def entry (d : List Byte) : Taken := ⟨0, 0, d, 5, 0, false, false, false, none, false, false⟩

/-- Ring c, active, of a type and an owner, with one entry to act on. -/
def withEntry (c type : Nat) (o : Party) (d : List Byte) (s : State) : State :=
  s.modRing c fun r =>
    { r with owner := o, cfg := word (type + 4 * 16), phase := .active, taken := [entry d], devCur := 1, serial := 1 }

/-- The ADMIN ring 1 of the cores with one entry. -/
def asked (d : List Byte) (s : State) : State := withEntry 1 5 .cores d s

/-- Ring 1 has completed its entry. -/
def ended (t : State) : Bool := decide ((t.ring 1).doneCur = 1)

/-- A DMA write has left the device whose address and bytes satisfy a test. -/
def wrote (t : State) (p : Nat → List Byte → Bool) : Bool :=
  t.out.any fun o =>
    match o with
    | .dmaWrite _ a b _ => p a b
    | _ => false

/-- The status in an entry's tally record, number 5. -/
def tallied (t : State) : Nat := bits (t.ledgerRead (tallyAddr 5 + 8)) 7 0

/-! ## Dial time -/

/-- A device whose mode lets the cores write the adjustments. -/
def devCores : State := rv Reg.TIME_CFG 0x2 dev

/-- A stack member whose Dial authority is another device. -/
def devMember : State := { (dev.setReg Reg.GAL_CFG 0x301) with gal := { dev.gal with authority := 1 } }

/-- The mode's writer and a party that is not it, at the ends of the adjustment's range. -/
theorem witness_OnlyTimeWriterAdjustsDial :
    ((accepted .cores devCores && running 0 devCores && decide (devCores.timeSource = 2) && !devCores.stackMember) &&
      (decide (devCores.time.disc ≠ .holdover)) &&
      (after (.timeAdjFreqWrite .cores 0xFFFFFFFF) devCores fun t =>
        decide (t.reg Reg.TIME_ADJ_FREQ = 0xFFFFFFFF) && rose Reg.TIME_CNT_ADJ_WRITES 1 devCores t) &&
      (after (.timeAdjPhaseWrite .cores 0xFFFFFFFFFFFFFFFF) devCores fun t => decide (t.time.slew = -16777216) &&
        rose Reg.TIME_CNT_ADJ_WRITES 1 devCores t) &&
      (accepted .foreman devCores && accepted .cores devMember) &&
      (after (.timeAdjFreqWrite .foreman 1) devCores fun t => rose Reg.TIME_CNT_ADJ_IGNORED 1 devCores t &&
        decide (t.time = devCores.time)) &&
      (after (.timeAdjPhaseWrite .cores 1) (rv Reg.TIME_CFG 0x2 devMember) fun t =>
        rose Reg.TIME_CNT_ADJ_IGNORED 1 devMember t) &&
      (accepted (.pf 0) (rv Reg.TIME_CFG 0x3 (linked 0 dev)) &&
        after (.timeAdjFreqWrite (.pf 0) 5) (rv Reg.TIME_CFG 0x3 (linked 0 dev)) fun t =>
        decide (t.reg Reg.TIME_ADJ_FREQ = 5))) = true := by
  decide +kernel

/-- Each case of TIME_DISC, and a write that is not the writer's. -/
theorem witness_DisciplineFollowsAcceptedWrites :
    ((let s := { devCores with time := { devCores.time with disc := .acquire } };
    accepted .cores s && running 0 s &&
      after (.timeDiscWrite .cores 1) s fun t => decide (t.time.disc = .locked ∧ t.reg Reg.TIME_DISC = 1)) &&
      (let s := { devCores with time := { devCores.time with disc := .holdover, refPresent := true, pllLocked := true } };
    s.refIsPresent && after (.timeDiscWrite .cores 1) s fun t => decide (t.time.disc = .locked)) &&
      (let s := { devCores with time := { devCores.time with disc := .locked } };
    after (.timeDiscWrite .cores 0) s fun t => decide (t.time.disc = .holdover)) &&
      (let s := { devCores with time := { devCores.time with disc := .holdover, refPresent := true, pllLocked := true } };
    after (.timeDiscWrite .cores 2) s fun t => decide (t.time.disc = .acquire)) &&
      (after (.timeDiscWrite .foreman 1) devCores fun t => rose Reg.TIME_CNT_ADJ_IGNORED 1 devCores t &&
        decide (t.time = devCores.time))) = true := by
  decide +kernel

/-- A changed SOURCE, to 0 and to 3, and a device in FAULT. -/
theorem witness_SourceWriteMovesDiscipline :
    ((let s := { devCores with time := { devCores.time with refPresent := true } };
    accepted .cores s && decide (s.time.refPresent = true) &&
      after (.timeCfgWrite .cores 0x3) s fun t => decide (t.time.disc = .acquire ∧ t.regC Reg.TIME_CFG = 3)) &&
      (let s := { devCores with time := { devCores.time with refPresent := true, disc := .locked } };
    after (.timeCfgWrite .cores 0xFFFFFFFFFFFFFFFC) s fun t => decide (t.time.disc = .freerun ∧
      t.reg Reg.TIME_CFG = 0x0000FFFF0000FF3C)) &&
      (let s := { devCores with time := { devCores.time with refPresent := true, disc := .fault } };
    after (.timeCfgWrite .cores 0x1) s fun t => decide (t.time.disc = .fault)) &&
      (let s := { devMember with time := { devMember.time with refPresent := true, disc := .locked } };
    s.stackMember && after (.timeCfgWrite .cores 0x1) s fun t => decide (t.time.disc = .locked ∧
      t.reg Reg.TIME_CFG = 1))) = true := by
  decide +kernel

/-- A cycle held to 10 ppm, the end of a slew, and the worked stamp 0x3B_9ACA_33B0 read. -/
theorem witness_DialCountsAndReads :
    ((let s := dev.setReg Reg.TIME_ADJ_FREQ 0x7FFFFFFF;
    running 0 s && !s.time.dialFault && decide (s.time.a = s.time.b ∧ s.time.b = s.time.c) &&
      after .dialTick s fun t => decide (t.time.a = s.time.a + (2 ^ 32 + 42949)) &&
      rose Reg.TIME_CNT_FREQ_CLAMPED 1 s t) &&
      (let s := dev.setReg Reg.TIME_ADJ_FREQ 0x80000000;
    after .dialTick s fun t => decide (t.time.a = s.time.a + (2 ^ 32 - 42949)) &&
      rose Reg.TIME_CNT_FREQ_CLAMPED 1 s t) &&
      (let s := rv Reg.TIME_CFG 0x0000FFFF00000000 { dev with time := { dev.time with slew := 0xA7C5 } };
    decide (s.time.slew ≠ 0 ∧ s.slewAbsorbed = s.time.slew) &&
      after .slewComplete s fun t => decide (t.time.slew = 0 ∧ t.time.a = s.time.a + (2 ^ 32 + 0xA7C5))) &&
      (let s := atDial 0x3B9ACA33B0 dev;
    accepted .cores s && after (.timeDialNsRead .cores) s fun t => decide (t.out = [.readData .cores 0x3B9ACA33] ∧
      t.reg (Reg.perPf 16 Reg.TIME_DIAL_FRAC) = 0xB0))) = true := by
  decide +kernel

/-- A step and a load go pending and complete; a GO in each condition that refuses it. -/
theorem witness_StepsRunOrAreRefused :
    ((let s := dev.setReg Reg.TIME_STEP_LO 0xFFFFFFFFFFFFFF00 |>.setReg Reg.TIME_STEP_HI 0xFF;
    accepted .cores s && running 0 s && decide (s.time.pending = none) && !s.stackMember && !s.anyOpen &&
      !s.anyArmed && (after (.step .cores) s fun t =>
      decide (t.time.pending = some ⟨false, 0xFFFFFFFFFFFFFFFF00⟩)) &&
      after (.absoluteLoad .cores) s fun t => decide (t.time.pending = some ⟨true, 0xFFFFFFFFFFFFFFFF00⟩)) &&
      (let s := { atDial 0x200 dev with time := { (atDial 0x200 dev).time with pending := some ⟨false, 0xFFFFFFFFFFFFFFFF00⟩, slew := 9 } };
    decide (s.openWait = []) &&
      after .stepComplete s fun t => decide (t.dial = 0x100 ∧ t.time.slew = 0 ∧ t.time.pending = none) &&
      rose Reg.TIME_CNT_STEPS 1 s t) &&
      (let s := { dev with time := { dev.time with pending := some ⟨true, 0x100⟩, dialFault := true, disc := .fault } };
    after .stepComplete s fun t => decide (t.dial = 0x100 ∧ t.time.dialFault = false ∧
      bits (t.reg Reg.TIME_STEP_RESULT) 3 0 = 1)) &&
      (let s := { dev with time := { dev.time with pending := some ⟨true, 0⟩ } };
    after (.step .cores) s fun t => decide (bits (t.reg Reg.TIME_STEP_RESULT) 3 0 = 5) &&
      rose Reg.TIME_CNT_STEP_REFUSED 1 s t) &&
      (devMember.stackMember &&
        after (.absoluteLoad .cores) devMember fun t => decide (bits (t.reg Reg.TIME_STEP_RESULT) 3 0 = 4)) &&
      (let s := dev.modDom 15 fun x => { x with phase := .opened };
    s.anyOpen && after (.step .cores) s fun t => decide (bits (t.reg Reg.TIME_STEP_RESULT) 3 0 = 2)) &&
      (let s := { dev with postings := [⟨0, 0, 1, 0, 64, 0, true, 0, 0, [], [⟨0, 0, .armed⟩], false, none, false⟩] };
    s.anyArmed && after (.step .cores) s fun t => decide (bits (t.reg Reg.TIME_STEP_RESULT) 3 0 = 3))) = true := by
  decide +kernel

/-- The reference goes and comes back; an edge at the outlier's bound; the third missing second; the output pin. -/
theorem witness_ReferenceAndPpsFollowed :
    ((let s := { devCores with time := { devCores.time with refPresent := true, disc := .locked } };
    decide (s.timeSource ≠ 0) && !s.pllRef &&
      after .refLoss s fun t => decide (t.time.disc = .holdover ∧ t.time.byRefLoss = true) &&
      rose Reg.TIME_CNT_REF_LOSS 1 s t) &&
      (let s := { devCores with time := { devCores.time with disc := .holdover, byRefLoss := true } };
    !s.stackMember && after .refReturn s fun t => decide (t.time.disc = .acquire ∧ t.time.pllLocked = true)) &&
      (let s := { rv Reg.TIME_CFG 0x2 devMember with time := { devMember.time with refPresent := true, disc := .locked } };
    s.stackMember && after .refLoss s fun t => decide (t.time.disc = .locked) && rose Reg.TIME_CNT_REF_LOSS 1 s t) &&
      (let s := rv Reg.TIME_CFG 0x1 dev;
    decide (s.timeSource = 1) && (pps_error 25600 == 25600) &&
      after (.ppsEdge false 25600 0) s fun t => decide (t.reg Reg.TIME_PPS_ERR = 25600 ∧ t.time.ppsSeen = true)) &&
      (after (.ppsEdge false (256 * 1000000000 - 1) 0) dev fun t => decide (t.reg Reg.TIME_PPS_ERR = 0xFFFFFFFF) &&
        rose Reg.TIME_CNT_PPS_EDGES 1 dev t) &&
      (let s := { rv Reg.TIME_CFG 0x1 dev with time := { dev.time with ppsBad := 2, disc := .locked } };
    !s.stackMember && after .ppsMissing s fun t => decide (t.time.disc = .holdover ∧ t.time.ppsBad = 3) &&
      rose Reg.TIME_CNT_PPS_MISSING 1 s t) &&
      (let s := dev.setReg Reg.TIME_PPS_OUT 0x0101;
    decide (s.ppsOutLevel ≠ s.time.ppsOut) &&
      after .ppsOutEdge s fun t => decide (t.out = [.pin "PPS_OUT" true] ∧ t.time.ppsOut = true))) = true := by
  decide +kernel

/-- An offset due this second; corrections at their bound and their step; a table; a second begins. -/
theorem witness_UtcCalibrationAndSeconds :
    ((let s := (atDial (256 * 1000000000) dev).setReg Reg.TIME_UTC_EFFECTIVE 1 |>.setReg Reg.TIME_UTC_OFFSET 0x250024;
    running 0 s && after .utcOffsetApply s fun t => decide (t.reg Reg.TIME_UTC_OFFSET = 0x250025 ∧
      t.reg Reg.TIME_UTC_EFFECTIVE = 0)) &&
      (let s := (rv Reg.TIME_CFG 0x20 dev).setReg (Reg.TIME_LANE_TEMP 249) 0x1FF;
    s.recalEn && after (.recalUpdate 31 [-9, 600, 3]) s fun t => decide (t.reg (Reg.TIME_LANE_TEMP 248) = 0xFFFC ∧
      t.reg (Reg.TIME_LANE_TEMP 249) = 0x200 ∧ t.reg (Reg.TIME_LANE_TEMP 250) = 3)) &&
      (after (.tdcRecal 256 [1]) (rv Reg.TIME_CFG 0x20 dev) fun t => decide (t.time.tdc = [(256, [1])])) &&
      (let s := { atDial (256 * 1000000000) dev with aud := { dev.aud with pressure := true } };
    decide (s.time.second < s.dialNs / nsPerSecond) && s.aud.pressure &&
      Store.wf (fun _ => ((0 : Nat), (0 : Dial))) s.log.suppressed &&
      decide (s.log.queue.length + s.log.suppressed.length + 272 ≤ 1024))) = true := by
  decide +kernel

/-! ## The audit chain -/

/-- A device whose chain key slot 0 holds an openable chain key. -/
def devKeyed : State := dev.modKeySlot 0 fun k => { k with type := 6, state := .active, key := zeros 32 }

/-- An epoch at its 1,000 ns, a new chain, the end of a drain fault, and each refusal of a new chain. -/
theorem witness_EpochsSealAndChainsBegin :
    ((let s := atDial (256 * 1000) { dev with aud := { dev.aud with epoch := some ⟨0, [zeros 32]⟩ } };
    decide (s.aud.epoch = some ⟨0, [zeros 32]⟩) && s.epochDue ⟨0, [zeros 32]⟩ && !s.auditNoSlot &&
      after .epochTimeout s fun t => decide (t.aud.epoch = none ∧ t.reg Reg.AUD_NEXT_INDEX = 1 ∧
      t.reg Reg.AUD_EPOCH = 1) && rose Reg.AUD_CNT_SEALS 1 s t) &&
      (let s := atDial (256 * 999) { dev with aud := { dev.aud with epoch := some ⟨0, [zeros 32]⟩ } };
    after .epochTimeout s (fun t => decide (t = s)) &&
      after (.sealNow .cores) s fun t => decide (t.aud.epoch = none ∧ t.reg Reg.AUD_CTL_RESULT = 1 ∧
      t.reg Reg.AUD_EPOCH = 1)) &&
      (accepted .cores devKeyed && !devKeyed.anyOpen && !devKeyed.anyArmed && devKeyed.chainKeySlot.isSome &&
        decide (devKeyed.chainId < 0xFFFFFFFF)) &&
      (after (.newChain .cores) (devKeyed.setReg Reg.AUD_CHAIN 0xFFFFFFFE) fun t =>
        decide (t.reg Reg.AUD_CHAIN = 0xFFFFFFFF ∧ t.reg Reg.AUD_START_COUNT = 1 ∧ t.reg Reg.AUD_CTL_RESULT = 1 ∧
        t.aud.keySlot = some 0 ∧ t.reg Reg.AUD_NEXT_INDEX = 2)) &&
      (let s := { devKeyed with openWait := [3] };
    !s.openWait.contains chainWait &&
      after (.newChain .cores) s fun t => decide (t.openWait = [3, chainWait] ∧ t.reg Reg.AUD_CTL_RESULT = 0)) &&
      (after (.newChain .cores) dev fun t => decide (t.reg Reg.AUD_CTL_RESULT = 4) &&
        rose Reg.AUD_CNT_CTL_REFUSED 1 dev t) &&
      (let s := devKeyed.modDom 15 fun x => { x with phase := .halted };
    s.anyOpen && after (.newChain .cores) s fun t => decide (t.reg Reg.AUD_CTL_RESULT = 2)) &&
      (let s := { devKeyed with postings := [⟨0, 0, 1, 0, 64, 0, true, 0, 0, [], [⟨0, 0, .committed⟩], false, none, false⟩] };
    s.anyArmed && after (.newChain .cores) s fun t => decide (t.reg Reg.AUD_CTL_RESULT = 3)) &&
      (after (.drainResume .cores) { dev with aud := { dev.aud with drainFault := true } } fun t =>
        decide (t.aud.drainFault = false ∧ t.reg Reg.AUD_CTL_RESULT = 1))) = true := by
  decide +kernel

/-- A device with one full segment and both drain targets enabled. -/
def devDrain : State :=
  ((dev.setReg Reg.AUD_FILL 32768).setReg (Reg.AUD_DRAIN_TGT 0) 1).setReg (Reg.AUD_DRAIN_TGT 1) 1

/-- A segment in flight to some targets, some of them due for another attempt. -/
def inFlight (waiting : List Nat) (due : List (Nat × Nat)) (s : State) : State :=
  { s with aud := { s.aud with drain := some ⟨0, waiting, [], [], due⟩ } }

/-- A full segment is issued; its last and its first write complete; one is retried; the registers are written. -/
theorem witness_DrainRuns :
    ((decide (devDrain.drainTargets = [0, 1] ∧ segmentSlots ≤ devDrain.auditFill) && !devDrain.ackWait &&
      decide (devDrain.aud.drain = none) && !devDrain.aud.drainFault && !devDrain.aud.pwrFail) &&
      (!(inFlight [1] [] devDrain).drainUnfit 1 &&
        after (.drainWriteComplete 1 true) (inFlight [1] [] devDrain) fun t => decide (t.aud.drain = none ∧
        t.reg Reg.AUD_DRAIN_NEXT = 1 ∧ t.reg Reg.AUD_TAIL = 32768 ∧ t.auditFill = 0) &&
        rose Reg.AUD_CNT_SEGMENTS 1 devDrain t) &&
      (after (.drainWriteComplete 0 true) (inFlight [0, 1] [] devDrain) fun t =>
        decide (t.aud.drain = some ⟨0, [1], [0], [], []⟩)) &&
      (let s := atDial (256 * 1000000) (inFlight [1] [(1, 0)] devDrain);
    s.aud.drain.any fun d => d.due.any fun x => decide (x.1 = 1 ∧ x.2 + 1000000 ≤ s.clockNs)) &&
      (accepted .foreman devDrain &&
        (after (.audDrainAckWrite .foreman 7) devDrain fun t => decide (t.reg Reg.AUD_DRAIN_ACK = 7)) &&
        after (.audDrainTgtWrite .foreman 1 0) devDrain fun t => decide (t.drainTargets = [0]))) = true := by
  decide +kernel

/-! ## Ports -/

/-- A device whose slot 8 carries a mode. -/
def devMode (v : Word) : State := rv (Reg.PORT_MODE 8) v dev

/-- An 800 Gb/s mode on a slot where it may stand and on one where it may not; a slot that a bond leaves idle; an open
feed. -/
theorem witness_PortModesStoredOrRefused :
    ((accepted .cores dev && running 2 dev && !dev.isIdle 248 && modeValid (0x2D &&& 0x3FF) &&
      decide (248 % lanesOf (speedOf 0x2D) = 0) && !dev.feedsOpen 248) &&
      (after (.portModeWrite .cores 248 0xFFFFFFFFFFFFFC2D) dev fun t => decide (t.reg (Reg.PORT_MODE 248) = 0x2D ∧
        t.regB (Reg.PORT_MODE 248) = 0x2D ∧ (t.port 248).link = .training)) &&
      (after (.portModeWrite .cores 8 0x2C) ((devMode 0x2D).modPort 8 fun p => { p with link := .up }) fun t =>
        decide ((t.port 8).link = .disabled)) &&
      (!modeValid 0x1 || (after (.portModeWrite .cores 0 0x31) dev fun t =>
        rose Reg.PORT_CNT_MODE_REFUSED 1 dev t)) &&
      (!modeValid 0xF && after (.portModeWrite .cores 255 0xF) dev fun t => rose Reg.PORT_CNT_MODE_REFUSED 1 dev t) &&
      ((devMode 0x2D).isIdle 15 &&
        after (.portModeWrite .cores 15 0x1) (devMode 0x2D) fun t => rose Reg.PORT_CNT_IDLE_SLOT_WRITES 1 dev t) &&
      (let s := ((devMode 0x1).setReg (Reg.SEQ_FEED 0 0) 0x100).modDom 0 fun x => { x with phase := .opened };
    s.feedsOpen 8 && after (.portModeWrite .cores 8 0x3) s fun t =>
      rose Reg.PORT_CNT_MODE_REFUSED 1 s t)) = true := by
  decide +kernel

/-- Slot 8 alone, in a link state. -/
def devLink (v : Word) (f : PortState → PortState) : State := (devMode v).modPort 8 f

/-- Alignment of a single and of a bonded port; the hold's end; the losses; a training timeout. -/
theorem witness_LinkStatesFollowR64 :
    ((running 2 (devMode 1) && !(devMode 1).isIdle 8 &&
      (after (.alignmentAchieved 8 none) (devLink 1 fun p => { p with link := .training }) fun t =>
      decide ((t.port 8).link = .upHold ∧ (t.port 8).aligned = true))) &&
      (after (.alignmentAchieved 8 none) (devLink 0x2D fun p => { p with link := .training }) fun t =>
        decide ((t.port 8).link = .training ∧ (t.port 8).deskewFail = true)) &&
      (after (.alignmentAchieved 8 (some [0, 3])) (devLink 0x2D fun p => { p with link := .training }) fun t =>
        decide ((t.port 8).link = .upHold)) &&
      (after (.upHoldExpiry 8) (devLink 1 fun p => { p with link := .upHold, aligned := true }) fun t =>
        decide ((t.port 8).link = .up)) &&
      (after (.alignmentLost 8 true) (devLink 1 fun p => { p with link := .upHold, aligned := true }) fun t =>
        decide ((t.port 8).link = .training) && rose (Reg.PORT_CNT_ALIGN_LOSS 8) 1 dev t) &&
      (after (.alignmentLost 8 true) (devLink 1 fun p => { p with link := .up, aligned := true }) fun t =>
        decide ((t.port 8).link = .training) && rose (Reg.PORT_CNT_RX_ABORTED 8) 1 dev t &&
        rose (Reg.PORT_CNT_LINK_DOWN 8) 1 dev t) &&
      (after (.localFault 8 false) (devLink 1 fun p => { p with link := .up, aligned := true }) fun t =>
        decide ((t.port 8).link = .training ∧ (t.port 8).localFault = true)) &&
      (after (.remoteFault 8 false) (devLink 1 fun p => { p with link := .upHold, aligned := true }) fun t =>
        decide ((t.port 8).link = .upHold ∧ (t.port 8).remoteFault = true)) &&
      (after (.trainTimeout 8) (devLink 1 fun p => { p with link := .training, aligned := true }) fun t =>
        decide ((t.port 8).aligned = false) && rose (Reg.PORT_CNT_TRAIN_TIMEOUT 8) 1 dev t)) = true := by
  decide +kernel

/-- The scheduler of slot 255 in a state, at a Dial of 2 s. -/
def devEgr (f : EgressState → EgressState) : State := (atDial (512 * 1000000000) dev).modEgr 255 f

/-- A pause at the end of its quanta, a PFC refresh that is due, a watchdog of 1 ms, and a hold that has run out. -/
theorem witness_PausesAndHoldsEnd :
    ((let s := devEgr fun e => { e with pauseEnd := putAt none e.pauseEnd 7 (some (512 * 1000000000)) };
    s.clocked && decide (pauseItem (s.egr 255).pauseEnd 7 = some (512 * 1000000000)) &&
      after (.pfcPauseExpiry 255 7) s fun t => decide (pauseItem (t.egr 255).pauseEnd 7 = none)) &&
      (let s := rv (Reg.PORT_MODE 255) 0x203 (devEgr fun e => { e with xoff := true });
    s.isInfra 255 && decide (s.xonLevel 255 ≤ s.poolUsed 255 ∧
      (s.egr 255).pfcAt.toNat + s.quantaTime 255 0x7FFF ≤ s.dial.toNat) &&
      after (.pfcRefresh 255) s fun t => decide (t.out.length = 1 ∧ (t.egr 255).pfcAt = s.clock)) &&
      (let s := (devEgr fun e =>
        { e with pauseEnd := putAt none e.pauseEnd 3 (some (513 * 1000000000)), pausedAt := putAt none e.pausedAt 3 (some (512 * 999000000)), queues := putAt [] e.queues 3 [⟨zeros 60, 3, none, none, none⟩] }).setReg (Reg.RDMA_PORT_PFC 255) 0x1000000000000;
    s.paused 255 3 && decide (pauseItem (s.egr 255).pausedAt 3 = some (512 * 999000000)) &&
      after (.pfcWatchdog 255 3) s fun t => decide (t.queue 255 3 = [] ∧
      pauseItem (t.egr 255).wdUntil 3 = some (s.clock.plusNs 100000000))) &&
      (let s := devEgr fun e =>
        { e with holdFrom := some 0, queues := putAt [] e.queues 3 [⟨zeros 60, 3, none, none, none⟩] };
    s.holdOver 255 && !s.isUp 255 &&
      after (.portHoldExpiry 255) s fun t => decide ((t.egr 255).holdFrom = none ∧ t.queue 255 3 = []))) = true := by
  decide +kernel

/-! ## The sequencer -/

/-- Domain 15 in a phase, slot 255 in its feed, the discipline LOCKED. -/
def devDom (f : DomState → DomState) : State :=
  ({ dev with time := { dev.time with disc := .locked } }.setReg (Reg.SEQ_FEED 15 3) 0x8000000000000000).modDom 15 f

/-- A message of slot 255 for domain 15, at a Dial. -/
def msgAt (d : Dial) : Msg := ⟨15, 255, d, 0, 0, 0, false, false, [1, 2]⟩

/-- A register file in which slot 255 feeds domain 15 and nothing else feeds anything. -/
def soleFeed (s : State) : Bool :=
  (List.range 16).all fun d => (List.range 4).all fun m =>
    s.reg (Reg.SEQ_FEED d m) == if d = 15 ∧ m = 3 then 0x8000000000000000 else 0

theorem inFeed_of_soleFeed {s : State} (h : soleFeed s = true) (hi : s.isIdle 255 = false) {d n : Nat} (hd : d < 16)
    (hn : n < 256) : s.inFeed d n = decide (d = 15 ∧ n = 255) := by
  simp only [soleFeed, List.all_eq_true, List.mem_range, beq_iff_eq] at h
  have key : ∀ k, k < 64 → (0x8000000000000000 : Word).getLsbD k = decide (k = 63) := by decide
  rw [State.inFeed, h d hd (n / 64) (by omega)]
  split
  · rename_i e
    rw [key _ (by omega)]
    by_cases hk : n = 255
    · subst hk; simp [e.1, hi]
    · have : ¬ n % 64 = 63 := by omega
      simp [this, hk]
  · rename_i e
    have : ¬ (d = 15 ∧ n = 255) := by omega
    simp [this]

/-- The feed and the hold-store check where slot 255 alone feeds domain 15 alone. -/
theorem feed_of_soleFeed {s : State} (h : soleFeed s = true) (hi : s.isIdle 255 = false) {d : Nat} (hd : d < 16) :
    s.feed d = if d = 15 then [255] else [] := by
  have : s.feed d = (List.range 256).filter fun n => decide (d = 15 ∧ n = 255) := by
    apply List.filter_congr
    intro n hn
    exact inFeed_of_soleFeed h hi hd (List.mem_range.mp hn)
  rw [this]
  split
  · rename_i e; subst e; decide
  · rename_i e; simp [e]

theorem largestMuster_congr {cfg : Nat → Word} {p q : Nat → Bool} (h : ∀ d, d < 16 → p d = q d) :
    largestMuster cfg p = largestMuster cfg q := by
  unfold largestMuster
  apply List.foldl_ext
  intro a d hd
  rw [h d (List.mem_range.mp hd)]

theorem storeFits_of_soleFeed {s : State} (h : soleFeed s = true) (hi : s.isIdle 255 = false) (r : Nat → Nat)
    (cfg : Nat → Word) (hc : ∀ d, d < 16 → bit (cfg d) 20 = false) :
    s.storeFits r cfg =
      decide (slotTakes (r 255) (largestMuster cfg fun d =>
        decide (d = 15)) + bits (cfg 15) 44 32 * 2048 * nsPerSecond
        ≤ 33554432 * nsPerSecond) := by
  have slot : ∀ n, n ∈ List.range 256 → slotTakes (r n) (largestMuster cfg fun d => s.inFeed d n) =
      if n = 255 then slotTakes (r 255) (largestMuster cfg fun d => decide (d = 15)) else 0 := by
    intro n hn
    rw [largestMuster_congr fun d hd => inFeed_of_soleFeed h hi hd (List.mem_range.mp hn)]
    by_cases e : n = 255
    · subst e; simp
    · rw [largestMuster_congr (q := fun _ => false) (by simp [e])]
      simp [e, slotTakes, show largestMuster cfg (fun _ => false) = none from rfl]
  have peers : ((List.range 8).filter fun dev =>
      (List.range 16).any fun d => (if bit (cfg d) 20 then s.feeders d else []).contains dev) = [] := by
    rw [List.filter_eq_nil_iff]
    intro dev _
    simp only [List.any_eq_true, List.mem_range, not_exists, not_and]
    intro d hd
    simp [hc d hd]
  have wait : ∀ d, d ∈ List.range 16 →
      (if s.feed d = [] ∧ (if bit (cfg d) 20 then s.feeders d else []) = [] then 0
        else bits (cfg d) 44 32 * 2048 * nsPerSecond) =
      if d = 15 then bits (cfg 15) 44 32 * 2048 * nsPerSecond else 0 := by
    intro d hd
    rw [feed_of_soleFeed h hi (List.mem_range.mp hd)]
    by_cases e : d = 15
    · simp [e]
    · simp [e, hc d (List.mem_range.mp hd)]
  have one : ∀ (k x N : Nat), ((List.range N).map fun n => if n = k then x else 0).sum = if k < N then x else 0 := by
    intro k x N
    induction N with
    | zero => simp
    | succ N ih =>
      rw [List.range_succ, List.map_append, List.sum_append, ih]
      simp only [List.map_cons, List.map_nil, List.sum_cons, List.sum_nil]
      split_ifs <;> omega
  unfold State.storeFits
  simp only [peers]
  rw [List.map_congr_left slot, List.map_congr_left wait, one, one]
  simp

/-- Domain 15 with slot 255 as its feed and the two rings an OPEN needs. -/
def devRings (f : DomState → DomState) : State :=
  let own := fun (type : Nat) (r : Ring) =>
    { r with owner := .cores, cfg := word (type + 4 * 16), phase := .active, hamper := [zeros 64] }
  (((devDom f).setReg (Reg.SEQ_RINGS 15) 0x30002).modRing 2 (own 1)).modRing 3 (own 2)

/-- The same, with MUSTER_NS = 4,000 and slot 255 enabled. -/
def devOpen : State := rv (Reg.PORT_MODE 255) 1 (rv (Reg.SEQ_DOMAIN_CFG 15) 0x100000000FA0 (devRings id))

theorem soleFeed_devOpen : soleFeed devOpen = true := by decide +kernel
theorem idle_devOpen : devOpen.isIdle 255 = false := by decide +kernel

theorem openResult_devOpen : devOpen.openResult 15 = 1 := by
  have f : devOpen.feed 15 = [255] := feed_of_soleFeed soleFeed_devOpen idle_devOpen (by omega)
  have o : (List.range 16).map (fun e =>
    if (decide (e = 15) || devOpen.isOpen e) = true then devOpen.feedRate e else 0) =
      (List.range 16).map (fun e => if e = 15 then devOpen.feedRate 15 else 0) := by
    apply List.map_congr_left
    intro e he
    have : devOpen.isOpen e = false := rfl
    by_cases h : e = 15 <;> simp [h, this]
  have r : devOpen.feedRate 15 = 1000000 := by
    unfold State.feedRate
    rw [f]
    decide +kernel
  have m : devOpen.musterShort 15 = false := by
    unfold State.musterShort State.musterMin State.premerge
    rw [f]
    decide +kernel
  unfold State.openResult State.storeFitsCfg
  rw [storeFits_of_soleFeed soleFeed_devOpen idle_devOpen _ _ (by decide +kernel), o, r, m, f]
  decide +kernel

/-- A SEQ_CFG_SET for domain 15 at the head of an ADMIN ring. -/
def devCfgSet : State := asked (admin 0x21 15 0x1000000000C8 0 0) devOpen

/-- Domain 15 closed and open, written by registers and by SEQ_CFG_SET, at the bounds of SEQ_DOMAIN_CFG. -/
theorem witness_DomainConfigurationStored :
    ((accepted .cores dev && running 1 dev && !dev.isOpen 15 && seqCfgValid 0x0000001000000000C8 &&
      seqCfgValid 0x10000001_86A0 && !seqCfgValid 0x100000186A1 && !seqCfgValid 0xF000000C8) &&
      (after (.seqFeedWrite .cores 15 3 0x8000000000000000) dev fun t =>
        decide (t.reg (Reg.SEQ_FEED 15 3) = 0x8000000000000000)) &&
      (after (.seqDomainCfgWrite .cores 15 0x1000002000C8) dev fun t => decide (t.seqCfg 15 = 0x1000002000C8 ∧
        t.regC (Reg.SEQ_DOMAIN_CFG 15) = 0x1000002000C8)) &&
      (after (.seqNextWrite .cores 15 0xFFFFFFFFFFFFFFFF) dev fun t =>
        decide (t.reg (Reg.SEQ_NEXT 15) = 0xFFFFFFFFFFFFFFFF ∧ (t.dom 15).copyC = 0xFFFFFFFFFFFFFFFF)) &&
      (let s := devDom fun x => { x with phase := .opened };
    s.isOpen 15 && [Instr.seqFeedWrite .cores 15 3 0, .seqDomainCfgWrite .cores 15
      0x1000000000C8, .seqNextWrite .cores 15 1].all fun c => after c s fun t =>
      rose (Reg.SEQ_CNT_CFG_REFUSED 15) 1 s t && decide (t.dom 15 = s.dom 15)) &&
      (adminAt 1 0x21 (entry (admin 0x21 15 0x1000000000C8 0 0)) devCfgSet && !devCfgSet.isOpen 15 &&
        soleFeed devCfgSet && !devCfgSet.isIdle 255) &&
      (let s := asked (admin 0x21 15 0x1000000000C7 0 0) dev;
    after (.seqCfgSet 1) s fun t => ended t && decide (tallied t = 0x83 ∧ t.seqCfg 15 = s.seqCfg 15))) = true := by
  decide +kernel

theorem witness_seqCfgSet_fits : devCfgSet.storeFitsCfg 15 0x1000000000C8 = true := by
  unfold State.storeFitsCfg
  rw [storeFits_of_soleFeed (by decide +kernel) (by decide +kernel) _ _ (by decide +kernel)]
  decide +kernel

/-- An OPEN that passes, one that waits, the ways a domain closes, and each refusal. -/
theorem witness_DomainsOpenCloseOrRefuse :
    ((running 1 devOpen && accepted .cores devOpen && decide (devOpen.time.pending = none)) &&
      (let s := { dev with time := { dev.time with pending := some ⟨false, 0⟩ } };
    after (.open .cores 15) s fun t => decide (t.openWait = [15])) &&
      (after (.close .cores 15) (devDom fun x => { x with phase := .opened }) fun t =>
        decide ((t.dom 15).phase = .closing)) &&
      (after (.close .cores 15) (devDom fun x => { x with phase := .opening }) fun t =>
        decide ((t.dom 15).phase = .closed)) &&
      (let s := devDom fun x =>
        { x with phase := .halted, held := [⟨msgAt 0, 0, false, false⟩], backM := [⟨msgAt 0, 1, 0, 0⟩] };
    after (.forceClose .cores 15) s fun t => decide ((t.dom 15).phase = .closed ∧ (t.dom 15).held = [] ∧
      (t.dom 15).backlog = 0) && rose (Reg.SEQ_CNT_CLOSE_DISCARD 15) 2 s t) &&
      (after (.domainOpens 15) (devDom fun x => { x with phase := .opening }) fun t =>
        decide ((t.dom 15).phase = .opened)) &&
      (let s := (atDial (256 * 1000000) (devDom fun x => { x with phase := .closing }));
    decide ((s.dom 15).closeAt.toNat + max (s.musterNs 15) (s.musterMin 15) * nsUnits ≤ s.dial.toNat) &&
      after (.domainCloses 15) s fun t => decide ((t.dom 15).phase = .closed)) &&
      (after (.open .cores 15) (devDom fun x => { x with phase := .halted }) fun t =>
        decide (t.reg (Reg.SEQ_OPEN_RESULT 15) = 2)) &&
      (after (.open .cores 15) dev fun t => decide (t.reg (Reg.SEQ_OPEN_RESULT 15) = 3)) &&
      (after (.open .cores 15) { devDom id with time := { dev.time with disc := .locked, dialFault := true } } fun
        t => decide (t.reg (Reg.SEQ_OPEN_RESULT 15) = 4)) &&
      (let s := rv (Reg.SEQ_DOMAIN_CFG 15) 0x1000000000C8 (devDom id);
    s.musterShort 15 && !bit (s.seqCfg 15) 19 && !s.dialStopped &&
      after (.open .cores 15) s fun t => decide (t.reg (Reg.SEQ_OPEN_RESULT 15) = 5)) &&
      (after (.close .cores 15) (devDom fun x => { x with phase := .halted }) fun t =>
        decide (t.reg (Reg.SEQ_OPEN_RESULT 15) = 2)) &&
      (after (.forceClose .cores 15) dev fun t => decide (t.reg (Reg.SEQ_OPEN_RESULT 15) = 2))) = true := by
  decide +kernel

/-- A message at the opening instant is held; a release with and without a message due; a delivery. -/
theorem witness_MessagesHeldNumberedDelivered :
    ((let s := (devDom fun x => { x with phase := .opened, openAt := 512 }).modPipe 7 fun p =>
      { p with fifo := [msgAt 512] };
    running 1 s && s.inFeed 15 255 && !s.frontierAt 15 0 512 &&
      after (.holdStoreArrival 7) s fun t => decide ((t.pipe 7).fifo = [] ∧
      (t.dom 15).held = [⟨msgAt 512, 512, false, false⟩])) &&
      (let s := devDom fun x => { x with phase := .opened, held := [⟨msgAt 512, 512, false, false⟩] };
    !s.dialStopped && !s.frontierAt 15 s.dial 512 && after (.musterRelease 15) s fun t => decide (t = s)) &&
      (let s := atDial (256 * 1000000) (devDom fun x =>
        { x with phase := .opened, held := [⟨msgAt 512, 512, false, false⟩] });
    s.frontierAt 15 s.dial 512 && !s.isFeeder 15 &&
      after (.musterRelease 15) s fun t => decide (t.reg (Reg.SEQ_LAST_NUMBER 15) = 1 ∧
      t.reg (Reg.SEQ_NEXT 15) = 2 ∧ (t.dom 15).held = [] ∧ (t.dom 15).backM.length = 1)) &&
      (let s := devRings fun x => { x with phase := .opened, backM := [⟨msgAt 512, 1, 0, 9⟩] };
    s.entryReady 15 false &&
      after (.backlogDelivery 15 false) s fun t => decide ((t.dom 15).backM = [] ∧ (t.ring 2).hamper = [] ∧
      (t.ring 2).doneCur = 1)) &&
      (let s := devRings fun x => { x with phase := .halted, backR := [⟨msgAt 512, 1, 1, 9⟩] };
    s.entryReady 15 true &&
      after (.backlogDelivery 15 true) s fun t => decide ((t.dom 15).backR = [] ∧
      (t.ring 3).hamper = []))) = true := by
  decide +kernel

/-- A message at the hold store of domain 15. -/
def arriving (d : Dial) (s : State) : State := s.modPipe 0 fun p => { p with fifo := [msgAt d] }

/-- Each of the four tests of R405, its bounds, and a late message. -/
theorem witness_ArrivalJudgedByFirstTest :
    ((let s := arriving 0 (devDom fun x => { x with phase := .halted });
    running 1 s && after (.holdStoreArrival 0) s fun t => rose (Reg.SEQ_CNT_HALT_DROP 15) 1 s t &&
      decide ((t.dom 15).held = [])) &&
      (let s := arriving 0 (devDom id);
    after (.holdStoreArrival 0) s fun t => rose (Reg.SEQ_CNT_OUTSIDE 15) 1 s t) &&
      (let s := (arriving 0 (devDom fun x => { x with phase := .opened })).setReg (Reg.SEQ_FEED 15 3) 0;
    after (.holdStoreArrival 0) s fun t => rose (Reg.SEQ_CNT_NOT_FED 15) 1 s t &&
      decide (t.log.queue = [⟨0x300, 4, [15, 255], 0⟩])) &&
      (let s := arriving 511 (devDom fun x => { x with phase := .opened, openAt := 512 });
    after (.holdStoreArrival 0) s fun t => rose (Reg.SEQ_CNT_OUTSIDE 15) 1 s t) &&
      (let s := arriving 512 (devDom fun x => { x with phase := .closing, closeAt := 512 });
    after (.holdStoreArrival 0) s fun t => rose (Reg.SEQ_CNT_OUTSIDE 15) 1 s t) &&
      (let s := arriving 511 (devDom fun x => { x with phase := .closing, closeAt := 512 });
    after (.holdStoreArrival 0) s fun t => decide ((t.dom 15).held.length = 1)) &&
      (let s := arriving 512 (devDom fun x => { x with phase := .opened, frontier := 256 * 1000000 });
    s.frontierAt 15 (s.dom 15).frontier 512 && !s.lateDrops 15 &&
      after (.holdStoreArrival 0) s fun t => decide (((t.dom 15).held.map (·.late)) = [true]))) = true := by
  decide +kernel

/-- A standby with its primary's record; its takeover; a domain that is no standby; a record of a kept number. -/
theorem witness_StandbyMirrorsAndTakesOver :
    ((let s := rv (Reg.SEQ_DOMAIN_CFG 15) 0x100000400FA0 (devDom fun x => { x with phase := .opened });
    decide (s.role 15 = 2) &&
      after (.mirrorRecord 15 ⟨7, 0, 2047, 0, 0, []⟩) s fun t => decide ((t.dom 15).mirrorSeq = some 7 ∧
      (t.dom 15).mirrors.length = 1)) &&
      (let s := rv (Reg.SEQ_DOMAIN_CFG 15) 0x100000400FA0 (devDom fun x => { x with phase := .opened });
    accepted .cores s && decide (s.takeoverResult 15 (s.reg Reg.SEQ_TAKEOVER_AT) = 1) &&
      after (.takeover .cores 0x1F) s fun t => decide (t.reg Reg.SEQ_TAKEOVER_RESULT = 1 ∧ t.role 15 = 0) &&
      rose Reg.SEQ_CNT_TAKEOVERS 1 s t) &&
      (after (.takeover .cores 0x1F) (devDom fun x => { x with phase := .opened }) fun t =>
        decide (t.reg Reg.SEQ_TAKEOVER_RESULT = 2)) &&
      (let n : Numbered := ⟨⟨15, 2047, 512, 0, 0, 0, false, false, []⟩, 7, 0, 0⟩;
    let s := rv (Reg.SEQ_DOMAIN_CFG 15) 0x100000400FA0 (devDom fun x => { x with phase := .opened, kept := [n] });
    after (.mirrorRecord 15 ⟨7, 0, 2047, 0, 0, []⟩) s fun t => decide ((t.dom 15).mismatch = true ∧
      (t.dom 15).mirrorSeq = some 7))) = true := by
  decide +kernel

/-- The four-port tie: slots 0 to 3 at one stamp leave in rotated order. -/
theorem witness_MergeOrderedByKey :
    ((let s := rv (Reg.SEQ_DOMAIN_CFG 0) 0x100000040FA0 dev;
    let h := fun n => (⟨⟨0, n, 256 * 2000000000, 0, 0, 0, false, false, []⟩, 256 * 2000000000, false, false⟩ : Held);
    s.tieRotate 0 && decide ((sortKey (fun a b =>
      keyLe (s.heldKey 0 a) (s.heldKey 0 b)) [h 0, h 1, h 2, h 3]).map (·.msg.port) = [2, 3, 0, 1]))) = true := by
  decide +kernel

/-- Two copies of three, whichever two, and three that differ. -/
theorem witness_SequenceCopiesVoteByMajority :
    ((let x : DomState := { DomState.reset with copyA := 5, copyB := 5, copyC := 6 };
    let n := fun k : Word => (none, k);
    decide (x.fenced = 0 ∧ x.vote = some (n 5, some 2)) &&
      decide (({ x with copyB := 6, copyC := 5 } : DomState).vote = some (n 5, some 1)) &&
      decide (({ x with copyA := 6, copyC := 5 } : DomState).vote = some (n 5, some 0)) &&
      decide (({ x with copyB := 6, copyC := 7 } : DomState).vote = none) &&
      decide (({ x with copyC := 5 } : DomState).vote = some (n 5, none))) &&
      (let h : Held := ⟨msgAt 9, 9, false, false⟩;
    let x : DomState := { DomState.reset with copyA := 5, copyB := 5, copyC := 5, treeA := [h], treeB := [h], treeC := [{ h with late := true }] };
    decide (x.vote = some ((some h, 5), some 2)))) = true := by
  decide +kernel

/-! ## Release and egress -/

/-- A release descriptor for slot 255: 60 bytes, T_rel in units of 1/256 ns. -/
def relDesc (len tRel : Nat) : List Byte := desc [(8, 2, len), (10, 2, 255), (12, 1, 1), (16, 8, tRel), (32, 8, 77)]

/-- A device that takes releases, with one descriptor at the head of ring 1. -/
def devRel (len tRel : Nat) : State :=
  withEntry 1 3 .cores (relDesc len tRel) (rv (Reg.PORT_MODE 255) 1 (rv Reg.REL_CFG 0x07D00001 dev))

/-- A posting whose frame is being read. -/
def posted (tRel : Nat) (s : State) : State :=
  { s with postings := [postingOf 1 (entry (relDesc 60 tRel))] }

/-- A posting taken and one refused; an acceptance at the earliest and the latest T_rel, and each refusal. -/
theorem witness_PostingsTakenAndAccepted :
    ((let s := devRel 60 0;
    running 3 s && decide ((s.ring 1).type = 3 ∧ (s.ring 1).head = some (entry (relDesc 60 0)) ∧
      s.time.pending = none ∧ s.postCheck (postingOf 1 (entry (relDesc 60 0))) = 0)) &&
      (after (.releasePost 1) (devRel 60 0) fun t => decide (t.postings.length = 1 ∧ t.relUsed = 256)) &&
      (let s := devRel 9213 0;
    decide (s.postCheck (postingOf 1 (entry (relDesc 9213 0))) = 6) &&
      after (.releasePost 1) s fun t => rose (Reg.REL_CNT_REFUSED 6) 1 s t &&
      decide (t.postings.map (·.status) = [some 6])) &&
      (let s := posted (256 * 2000) (devRel 60 0);
    decide (s.reading 1 = some (postingOf 1 (entry (relDesc 60 (256 * 2000))))) &&
      after (.releaseAcceptance 1 (some (zeros 60))) s fun t => decide (t.relNext = 2 ∧
      t.postings.map (·.rel) = [1]) && rose Reg.REL_CNT_ACCEPTED 1 s t) &&
      (after (.releaseAcceptance 1 (some (zeros 60))) (posted (256 * 2000 - 1) dev) fun t =>
        decide (t.postings.map (·.status) = [some 3]) && rose (Reg.REL_CNT_REFUSED 3) 1 dev t) &&
      (after (.releaseAcceptance 1 (some (zeros 60))) (posted (256 * 1000000000) (devRel 60 0)) fun t =>
        decide (t.postings.map (·.rel) = [1])) &&
      (after (.releaseAcceptance 1 (some (zeros 60))) (posted (256 * 1000000000 + 1) dev) fun t =>
        decide (t.postings.map (·.status) = [some 4])) &&
      (after (.releaseAcceptance 1 none) (posted 0 dev) fun t => decide (t.postings.map (·.status) = [some 9] ∧
        t.relNext = 1)) &&
      (let s := { devRel 60 0 with time := { dev.time with dialFault := true } };
    after (.releasePost 1) s fun t => decide (t.postings.map (·.status) = [some 8])) &&
      (let s := (devRel 60 0).modRing 1 fun r =>
        { r with taken := [{ entry (relDesc 60 0) with abandoned := true }] };
    after (.releasePost 1) s fun t => rose (Reg.REL_CNT_REFUSED 9) 1 s t) &&
      (after (.releaseAcceptance 1 (some (zeros 60))) (rv (Reg.PORT_MODE 248) 0x2D (posted 0 dev)) fun t =>
        decide (t.postings.map (·.status) = [some 7]))) = true := by
  decide +kernel

/-- A release of slot 255 with its one copy in a state, T_rel 4,096/256 ns, its port UP. -/
def devCopy (st : CopyState) (d : Dial) : State :=
  { (atDial d (rv (Reg.PORT_MODE 255) 1 dev)).modPort 255 (fun p => { p with link := .up }) with
    postings := [⟨1, 0, 9, 4096, 60, 255, true, 77, 0, zeros 60, [⟨255, 0, st⟩], false, none, false⟩], relNext := 10 }

/-- A frame in a queue. -/
def qf (q n : Nat) : QFrame := ⟨zeros n, q, none, none, none⟩

/-- The guard, the launch, the end and the record of one copy, and each way its launch fails. -/
theorem witness_CopiesGuardedLaunchedCompleted :
    ((let s := devCopy .armed 4096;
    running 3 s && (s.armedCopy 255 9).isSome &&
      ((s.armedCopy 255 9).any fun x => decide (copyAt x.1 x.2 ≤ fine s.dial + 25 * s.guardNow 255)) &&
      after (.guardBegin 255 9) s fun t => t.guarded 255) &&
      (let s := (devCopy .armed 4096).modEgr 255 fun e =>
        { e with wire := some (qf 0 252), preempt := true, wireBytes := 256, wireEnd := 0x10000 };
    !s.wireSent 255 && decide (max (s.wireSentBytes 255) 60 + 64 ≤ 256) &&
      after (.guardBegin 255 9) s fun t => decide ((t.egr 255).wire = none ∧
      (t.egr 255).resume.map (·.1) = some (qf 0 252)) && rose (Reg.REL_CNT_PREEMPT 255) 1 s t) &&
      (let s := devCopy .armed 4096;
    !s.dialStopped && ((s.armedCopy 255 9).any fun x => decide (copyAt x.1 x.2 ≤ fine s.dial)) && s.isUp 255 &&
      !s.notSecure 255 (zeros 60)) &&
      (let s := (devCopy .armed 4096).modPort 255 fun p => { p with link := .training };
    !s.isUp 255 && (s.armedCopy 255 9).isSome) &&
      (let s := (rv (Reg.PORT_MODE 255) 0x101 (devCopy .armed 4096)).setReg (Reg.LAMP_TX_SC 255) 1;
    s.isUp 255 && s.notSecure 255 (zeros 60) && (s.armedCopy 255 9).isSome) &&
      (let s := devCopy .committed (256 * 1000000);
    ((s.posting 9).any fun p => (p.copyOn 255).any fun c => decide (s.copyLast p c ≤ fine s.dial)) &&
      after (.copyEnd 255 9) s fun t => rose (Reg.REL_CNT_COPY_SENT 255) 1 s t &&
      decide (t.postings.map (·.status) = [some 0])) &&
      (let s := devCopy .committed 4096;
    !s.aud.full && decide (s.aud.lost = 0 ∧ s.aud.epoch = none) &&
      after (.releaseInstant 9) s fun t => decide (t.reg Reg.AUD_NEXT_INDEX = 1) &&
      (t.posting 9).any fun p => p.audited) &&
      (let s := withEntry 1 3 .cores (relDesc 60 4096)
        { devCopy .sent 4096 with postings := [⟨1, 0, 9, 4096, 60, 255, true, 77, 0, zeros 60, [⟨255, 0, .sent⟩], true, some 0, false⟩] };
    after (.releaseCompletion 1) s fun t => decide ((t.ring 1).doneCur = 1 ∧
      t.postings.map (·.written) = [true]))) = true := by
  decide +kernel

/-- Slot 255 UP, its queues as given. -/
def devQueues (qs : List (List QFrame)) : State :=
  ((rv (Reg.PORT_MODE 255) 1 dev).modPort 255 fun p => { p with link := .up }).modEgr 255 fun e =>
    { e with queues := qs }

/-- A FRAME_TX entry for slot 255, queue 3. -/
def txDesc (len n : Nat) : List Byte := desc [(8, 2, len), (10, 1, n), (11, 1, 3)]

/-- The order of the queues, a guard, a frame at and beyond MAX_FRAME; entries at their bounds; the shapers. -/
theorem witness_FramesQueuedScheduledShaped :
    ((let s := devQueues [[qf 0 60], [], [], [], [], [], [qf 6 60], [qf 7 60]];
    running 3 s && s.isUp 255 && !s.maskStop && s.maySend 255 7 && decide ((s.pick 255).1 = some 7)) &&
      (let s := devQueues [[qf 0 60], [], [], [], [], [], [qf 6 60], []];
    !s.maySend 255 7 && s.maySend 255 6 && decide ((s.pick 255).1 = some 6)) &&
      (let s := { devQueues [[qf 0 60], [], [], [], [], [], [], []] with postings := (devCopy .committed 0).postings };
    s.guarded 255 && after (.txSchedule 255) s fun t => decide (t.out = [] ∧ t.queue 255 0 = [qf 0 60]) &&
      rose (Reg.REL_CNT_GUARD_DEFER 255) 1 s t) &&
      (let s := (devQueues [[qf 0 1514], [], [], [], [], [], [], []]).setReg (Reg.PORT_FRAME 255) 1518;
    decide ((s.pick 255).1 = some 0 ∧ (qf 0 1514).size ≤ s.maxFrame 255) &&
      !shaperOn (s.reg (Reg.REL_PORT_SHAPER 255))) &&
      (let s := (devQueues [[qf 0 61], [], [], [], [], [], [], []]).setReg (Reg.PORT_FRAME 255) 64;
    decide ((s.pick 255).1 = some 0 ∧ s.maxFrame 255 < (qf 0 61).size) &&
      after (.txSchedule 255) s fun t => decide ((t.egr 255).wire = some (qf 0 61) ∧ (t.egr 255).stomped = true ∧
      t.queue 255 0 = [] ∧ t.out = [.stomped 255]) && rose (Reg.PORT_CNT_TX_STOMPED 255) 1 s t) &&
      (let s := withEntry 1 9 .cores (txDesc 9212 255) ((devQueues (List.replicate 8 [])).setReg (Reg.REL_Q_CFG 255
        3) 0x10000000000000);
    atHead 1 (entry (txDesc 9212 255)) s && s.ownsSlot .cores 255 &&
      decide (4 + 9212 ≤ bits (s.reg (Reg.REL_Q_CFG 255 3)) 55 32)) &&
      (let s := withEntry 1 9 .cores (txDesc 60 255) (devQueues (List.replicate 8 []));
    after (.frameTxPost 1 (some (zeros 60))) s fun t => decide ((t.queue 255 3).length = 1 ∧ t.out = [])) &&
      (let s := withEntry 1 9 .cores (txDesc 59 255) (devQueues (List.replicate 8 []));
    after (.frameTxPost 1 (some (zeros 60))) s fun t => ended t && decide (t.egress = s.egress)) &&
      (let s := withEntry 1 9 .cores (txDesc 60 255) (devQueues (List.replicate 8 []));
    after (.frameTxPost 1 none) s fun t => ended t && decide (t.egress = s.egress)) &&
      (let s := (dev.setReg (Reg.REL_PORT_SHAPER 0) 0x8000FFFF00000005).modEgr 0 fun e => { e with tokens := -1 };
    decide ((s.refill 0 |>.egr 0).tokens = 15)) &&
      (accepted .cores dev &&
        after (.relPortShaperWrite .cores 255 0x8100000100000005) dev fun t => decide ((t.egr 255).tokens = 256) &&
        rose (Reg.REL_CNT_SHAPER_RESET 255) 1 dev t) &&
      (after (.relPortShaperWrite .cores 255 0x8000000100000005) dev fun t => decide ((t.egr 255).tokens = 0)) &&
      (after (.relQShaperWrite .cores 255 7 0x8000000100000005) dev fun t =>
        decide (t.reg (Reg.REL_Q_SHAPER 255 7) = 0x8000000100000005))) = true := by
  decide +kernel

/-! ## Receiving frames and the lookup tables -/

/-- Slot 255 UP in a mode, without a bond. -/
def devUp (v : Word) : State := (rv (Reg.PORT_MODE 255) v dev).modPort 255 fun p => { p with link := .up }

/-- A frame of a length with its FCS right, from lane 255. -/
def frameOf (body : List Byte) : RxFrame := ⟨255, 0, 0, 0, body ++ fcsBytes body⟩

/-- An Ethernet frame of an EtherType, 60 bytes without FCS. -/
def ethOf (etype : Nat) : List Byte := zeros 12 ++ beBytes 2 etype ++ zeros 46

/-- A CLASS entry that matches every frame and says what becomes of it. -/
def classAll (result : Nat) : Entry := { Entry.empty with img := BitVec.ofNat 512 (2 ^ 496 + result * 2 ^ 408) }

/-- Each filter and its bounds; an exception and its end; a drop by the class map; codewords at the FEC's capacity. -/
theorem witness_FramesFilteredAndClassified :
    ((running 2 (devUp 1) && (devUp 1).isUp 255 &&
      after (.frameReceived (frameOf (zeros 60))) dev fun t => decide (t = dev)) &&
      (after (.frameReceived ⟨255, 0, 0, 0, zeros 64⟩) (devUp 1) fun t =>
        rose (Reg.PORT_CNT_RX_FCS_ERR 255) 1 dev t && rose (Reg.PORT_CNT_STAMP_DISCARD 255) 1 dev t) &&
      (after (.frameReceived (frameOf (zeros 59))) (devUp 1) fun t => rose (Reg.PORT_CNT_RX_RUNT 255) 1 dev t) &&
      (after (.frameReceived (frameOf (zeros 61))) ((devUp 1).setReg (Reg.PORT_FRAME 255) 64) fun t =>
        rose (Reg.PORT_CNT_RX_OVERSIZE 255) 1 dev t) &&
      (after (.frameReceived (frameOf (zeros 12 ++ [0x88, 0x08, 0x01, 0x01] ++ zeros 44))) (devUp 1) fun t =>
        rose (Reg.PORT_CNT_PAUSE_IGNORED 255) 1 dev t) &&
      (let s := (devUp 1).setReg (Reg.PORT_FRAME 255) 64;
    receivable (frameOf (ethOf 0x1234)) s &&
      decide (parseFrame (ethOf 0x1234) = .ok ⟨[], 0x1234, 14, none, none⟩) &&
      decide (((s.rxCount 255 (ethOf 0x1234)).classLookup 255 ⟨[], 0x1234, 14, none, none⟩).1 = none) &&
      after (.frameReceived (frameOf (ethOf 0x1234))) s fun t => rose (Reg.PIPE_CNT_EXC_REASON 7 2) 1 s t &&
      decide (t.out.length = 1) && after (.exceptionFrameConsumed 7) t fun u => decide ((u.pipe 7).excFrames = [])) &&
      (after (.frameReceived (frameOf (ethOf 0x0800))) (devUp 1) fun t =>
        rose (Reg.PIPE_CNT_EXC_REASON 7 4) 1 dev t) &&
      (after (.frameReceived (frameOf (zeros 12 ++ [0x81, 0, 0, 0, 0x81, 0, 0, 0, 0x81,
        0] ++ zeros 38))) (devUp 1) fun t => rose (Reg.PIPE_CNT_EXC_REASON 7 3) 1 dev t) &&
      (let s := { devUp 1 with tables := [(entryKey 3 0 9, classAll 5)] };
    receivable (frameOf (ethOf 0x1234)) s &&
      decide ((s.classLookup 255 ⟨[], 0x1234, 14, none, none⟩).1 = some 9) &&
      after (.frameReceived (frameOf (ethOf 0x1234))) s fun t => rose (Reg.PIPE_CNT_CLASS_DROP 255) 1 s t &&
      decide (t.out = [])) &&
      (let s := devUp 0x27;
    decide (fecCapacity (fecOf (s.portMode 255)) = 15) && !s.hiSerNow 255 && !(s.port 255).hiSer &&
      after (.codewordDecoded 255 15 ⟨0, 0, true⟩ [] []) s fun t => (t.port 255).receiving &&
      rose (Reg.PORT_CNT_FEC_SYM_CORR 255) 15 s t && rose (Reg.PORT_CNT_FEC_CW 255) 1 s t &&
      decide ((t.port 255).window = [false])) &&
      (after (.codewordDecoded 255 16 ⟨3, 2, false⟩ [] []) (devUp 0x27) fun t =>
        rose (Reg.PORT_CNT_FEC_CW_UNCORR 255) 1 dev t && rose (Reg.PORT_CNT_STAMP_DISCARD 255) 2 dev t &&
        rose (Reg.PORT_CNT_FEC_FRAME_DROP 255) 3 dev t && decide ((t.port 255).window = [true]))) = true := by
  decide +kernel

/-- A message that takes the slot's last token, and one that finds none. -/
theorem witness_OrderMessagesAdmitted :
    ((let s := dev.modPolicer 255 fun p => { p with bucket := { p.bucket with tokens := tokenUnit } };
    let t := s.orderMessage 255 15 7 [1] ⟨none, none, none, none⟩;
    !s.dialStopped && rose (Reg.PIPE_CNT_ORDER 255) 1 s t &&
      decide ((t.pipe 7).fifo = [⟨15, 255, 7, 0, 1, 0xFF, false, false, [1]⟩] ∧
      Store.get (fun _ => 0) t.arrivals 255 = 1)) &&
      (let s := dev.modPolicer 255 fun p => { p with bucket := { p.bucket with tokens := tokenUnit - 1 } };
    let t := s.orderMessage 255 15 7 [1] ⟨none, none, none, none⟩;
    rose (Reg.PIPE_CNT_ADMIT_DROP 255) 1 s t && decide ((t.pipe 7).fifo = [] ∧ t.arrivals = []))) = true := by
  decide +kernel

/-- An ADMIT_SET for slot 255 at the head of an ADMIN ring. -/
def devAdmit (rate : Nat) : State := asked (admin 0x20 255 rate 0 0) devOpen

/-- One for slot 9, which a port of eight lanes at slot 8 leaves idle. -/
def devAdmitIdle : State := asked (admin 0x20 9 150000000 0 0) (rv (Reg.PORT_MODE 8) 0x2D devOpen)

/-- A rate beyond the limit; a template committed, and refused while a domain is open. -/
theorem witness_AdmissionAndTemplatesConfigured :
    ((adminAt 1 0x20 (entry (admin 0x20 255 150000000 0 0)) (devAdmit 150000000) &&
      soleFeed (devAdmit 150000000) && !(devAdmit 150000000).isIdle 255) &&
      (adminAt 1 0x20 (entry (admin 0x20 9 150000000 0 0)) devAdmitIdle && devAdmitIdle.isIdle 9) &&
      (after (.admitSet 1) (devAdmit 150000001) fun t => ended t &&
        decide (tallied t = 0x83 ∧ t.reg (Reg.PIPE_ADMIT 255) = dev.reg (Reg.PIPE_ADMIT 255))) &&
      (let s := { dev with staged := [(Reg.PIPE_TMPL_W1 1023, 0x1FF)] };
    accepted .cores s && !s.anyOpen &&
      after (.pipeTmplW0Write .cores 1023 0x3FF0000) s fun t =>
      decide (t.reg (Reg.PIPE_TMPL_W1 1023) = 0x1FF &&& writableBits (Reg.PIPE_TMPL_W1 1023))) &&
      (after (.pipeTmplW0Write .cores 1023 0x3FE0000) dev fun t => rose Reg.PIPE_CNT_TMPL_REFUSED 1 dev t) &&
      (after (.pipeTmplW0Write .cores 1023 0x3FF0000) (dev.modDom 0 fun x => { x with phase := .opening }) fun t =>
        rose Reg.PIPE_CNT_TMPL_REFUSED 1 dev t)) = true := by
  decide +kernel

theorem witness_admitSet_fits :
    (devAdmit 150000000).storeFits (fun i => if i = 255 then 100 else (devAdmit 150000000).admitRate i)
      (devAdmit 150000000).seqCfg = true := by
  rw [storeFits_of_soleFeed (by decide +kernel) (by decide +kernel) _ _ (by decide +kernel)]
  decide +kernel

theorem witness_admitSet_idle_fits :
    devAdmitIdle.storeFits (fun i =>
      if i = 9 then 150000000 else devAdmitIdle.admitRate i) devAdmitIdle.seqCfg = true := by
  rw [storeFits_of_soleFeed (by decide +kernel) (by decide +kernel) _ _ (by decide +kernel)]
  decide +kernel

/-- A table operation: table, operation, target, index. -/
def updDesc (t op target index : Nat) : List Byte :=
  desc [(0, 8, 0x1000), (8, 1, t), (9, 1, op), (10, 1, target), (12, 4, index)]

/-- It stands at the head of a table-update ring. -/
def devTable (t op target index : Nat) (e : Entry) (s : State) : State :=
  withEntry 1 4 .cores (updDesc t op target index)
    (if e = Entry.empty then s else { s with tables := [(entryKey t (tableInst t target) index, e)] })

/-- A locked entry. -/
def locked : Entry := { Entry.empty with lock := true, side := [2, 3], counts := [5] }

/-- The operations on entries, at the last index of their tables, and each refusal. -/
theorem witness_TableEntriesReadAndWritten :
    ((let s := devTable 6 1 0 0 Entry.empty dev;
    !opAllowed 6 1 && atHead 1 (entry (updDesc 6 1 0 0)) s && !s.updHeld 1 &&
      [Instr.tableRead 1 none, .tableLock 1, .tableWrite 1 none, .tableUnlock 1, .tableInsert 1 none, .tableDelete
      1 none].all fun i => after i s fun t => ended t && rose (Reg.TBL_CNT_UPD_REFUSED 1) 1 s t &&
      decide (tallied t = 1)) &&
      (let s := devTable 0 1 0 65536 Entry.empty dev;
    opAllowed 0 1 && !indexOk 0 0 65536 && indexOk 0 0 65535 && after (.tableLock 1) s fun t => ended t &&
      decide (tallied t = 2)) &&
      (let s := devTable 0 0 7 65535 locked dev;
    tableAt 1 0 (entry (updDesc 0 0 7 65535)) s && issues .cores s &&
      after (.tableRead 1 none) s fun t => ended t &&
      wrote t fun a b => decide (a = 0x1000 ∧ b.length = 64 ∧ b.getLast? = some 1)) &&
      (let s := devTable 0 1 7 65535 Entry.empty dev;
    tableAt 1 1 (entry (updDesc 0 1 7 65535)) s &&
      ((sidePools (entryKey 0 7 65535)).all fun p => decide (s.sideUsed p < 256)) &&
      after (.tableLock 1) s fun t => ended t && (t.entry (entryKey 0 7 65535)).lock) &&
      (let s := devTable 0 2 7 65535 locked dev;
    tableAt 1 2 (entry (updDesc 0 2 7 65535)) s &&
      decide (s.writeCheck .cores 0 (entryKey 0 7 65535) (imageOf (zeros 62 ++ [1, 0])) = 0) &&
      after (.tableWrite 1 (some (zeros 62 ++ [1, 0]))) s fun t => ended t &&
      decide ((t.entry (entryKey 0 7 65535)).img = storedImage 0 (imageOf (zeros 62 ++ [1, 0])))) &&
      (let s := devTable 0 2 7 65535 Entry.empty dev;
    after (.tableWrite 1 (some (zeros 62 ++ [1, 0]))) s fun t => ended t && decide (tallied t = 3 ∧ t.tables = [])) &&
      (let s := devTable 0 2 7 65535 { locked with old := some ⟨0, [], 0, none⟩ } dev;
    after (.tableWrite 1 (some (zeros 64))) s fun t => !ended t &&
      decide (t.heldUpd = [⟨1, entryKey 0 7 65535, false, some (zeros 64)⟩])) &&
      (let s := devTable 0 3 7 65535 locked dev;
    tableAt 1 3 (entry (updDesc 0 3 7 65535)) s && after (.tableUnlock 1) s fun t => ended t &&
      decide (t.entry (entryKey 0 7 65535) = { Entry.empty with counts := addCounts [5] [2, 3] }))) = true := by
  decide +kernel

/-- 256 locked entries of pipeline 7's instance of table 0. -/
def sideFull : State :=
  devTable 0 1 7 65535 Entry.empty
    { dev with tables := (List.range 256).map fun i => (entryKey 0 7 i, { Entry.empty with lock := true }) }

/-- A LOCK that finds every side counter of its pipeline in use. -/
theorem witness_lock_without_side_counters :
    ((tableAt 1 1 (entry (updDesc 0 1 7 65535)) sideFull &&
      decide (sidePools (entryKey 0 7 65535) = [7] ∧ sideFull.sideUsed 7 = 256))) = true := by
  decide +kernel

/-- An LPM image: 10.0.0.0/8 and a next hop. -/
def lpmImage (len nh : Nat) : List Byte :=
  [10] ++ zeros 15 ++ [BitVec.ofNat 8 len] ++ zeros 3 ++ leBytes 2 nh ++ zeros 42

/-- The installed prefix. -/
def tenSlash8 : Prefix := ⟨3, false, 10, 8, 7⟩

/-- Prefixes put, changed and removed; old contents, a sweep and a scrub. -/
theorem witness_PrefixesAndAgeing :
    ((let s := devTable 6 4 3 0 Entry.empty dev;
    prefixOk false 8 (imagePrefix false (lpmImage 8 7)).2 && tableAt 1 4 (entry (updDesc 6 4 3 0)) s &&
      decide (lpmBlocks [tenSlash8] ≤ 16384) && after (.tableInsert 1 (some (lpmImage 8 7))) s fun t => ended t &&
      decide (t.lpm = [tenSlash8])) &&
      (let s := { devTable 6 4 3 0 Entry.empty dev with lpm := [tenSlash8] };
    after (.tableInsert 1 (some (lpmImage 8 9))) s fun t => ended t &&
      decide (t.lpm = [{ tenSlash8 with nexthop := 9 }])) &&
      (let s := { devTable 6 5 3 0 Entry.empty dev with lpm := [tenSlash8] };
    tableAt 1 5 (entry (updDesc 6 5 3 0)) s && after (.tableDelete 1 (some (lpmImage 8 9))) s fun t => ended t &&
      decide (t.lpm = [])) &&
      (let s := devTable 6 5 3 0 Entry.empty dev;
    after (.tableDelete 1 (some (lpmImage 8 9))) s fun t => ended t && decide (tallied t = 9)) &&
      (let s := atDial (256 * 1000000000)
        { dev with tables := [(entryKey 0 7 65535, { locked with old := some ⟨0, [], 0, some (List.replicate 8 0)⟩ })] };
    s.oldDone (entryKey 0 7 65535) ⟨0, [], 0, some (List.replicate 8 0)⟩ &&
      after (.oldContentsRelease 0 7 65535) s fun t => decide (t.entry (entryKey 0 7 65535) = locked)) &&
      (let s := { dev with tables := [(entryKey 2 7 5, { Entry.empty with img := 1 <<< 496 })], tbl := { dev.tbl with passes := [(7, 2)] } };
    decide (s.sweeping 7 = 2) && after (.sweepOverrun 7) s fun t => decide (t.sweeping 7 = 1) &&
      rose Reg.TBL_CNT_SWEEP_OVERRUN 1 s t && (t.entry (entryKey 2 7 5)).mark &&
      after (.sweepPass 7) t fun u => decide (u.sweeping 7 = 0)) &&
      (let s := { dev with tables := [(entryKey 1 0 9, { locked with parity := 0x80 })] };
    decide (entryCopy (entryKey 1 0 9) 7 = 7) && (s.entry (entryKey 1 0 9)).bad 7 &&
      after (.tableScrub 1 7 9) s fun t => rose (Reg.TBL_CNT_PARITY 1) 1 s t &&
      decide ((t.entry (entryKey 1 0 9)).reported = 0x80))) = true := by
  decide +kernel

/-! ## The lamp room -/

/-- A key in a slot. -/
def key (type : Nat) (bs : List Byte) : KeySlot := { KeySlot.none with type := type, key := bs, state := .active }

/-- Keys 1 and 2 in place, and a key command of the cores at the head of an ADMIN ring. -/
def devKeys (k1 k2 : KeySlot) (d : List Byte) : State :=
  asked d ((dev.modKeySlot 1 fun _ => k1).modKeySlot 2 fun _ => k2)

/-- The plaintext of an AES-128 key's blob, and its wrapping under a key of zeros. -/
def plainBlob : List Byte := [1, 16, 1, 0, 0, 0, 0, 0] ++ List.replicate 16 0xAB

def wrappedBlob : List Byte := Modes.kwpWrap (zeros 32) plainBlob

/-- Each command that makes a key, and one that names a slot outside its issuer's share. -/
theorem witness_KeysMadeByOwners :
    ((let d := admin 0x40 (1 + 2 * 65536 + 32 * 2 ^ 32) 0x1000 0 0;
    let s := withEntry 1 5 (.pf 0) d ((linked 0 dev).modFn (.pf 0) fun y => { y with busMaster := true });
    !s.ownsKey (.pf 0) 1 && adminAt 1 0x40 (entry d) s && after (.keyLoad 1 none) s fun t => ended t &&
      decide (tallied t = 1 ∧ t.lamp = s.lamp) && rose Reg.LAMP_CNT_KEYCMD_REFUSED 1 s t) &&
      (let d := admin 0x40 (1 + 2 * 65536 + 32 * 2 ^ 32) 0x1000 0 0;
    let s := devKeys KeySlot.none (key 4 (zeros 32)) d;
    running 5 s && adminAt 1 0x40 (entry d) s && s.ownsKey .cores 1 &&
      decide (keyField (entry d) 29 16 = 2 ∧ keyField (entry d) 47 32 = 32 ∧ (s.keySlotAt 2).type = 4 ∧
      (s.keySlotAt 1).state = .empty)) &&
      ((slotOfBlob plainBlob).isSome && !(slotOfBlob (zeros 24)).isSome) &&
      (let d := admin 0x41 (1 + 65536 + 0 * 2 ^ 24) 0 0 0;
    let s := devKeys KeySlot.none KeySlot.none d;
    adminAt 1 0x41 (entry d) s && s.entropyOk && keyLengthOk 1 16 && after (.keyGenerate 1) s fun t => ended t &&
      decide ((t.keySlotAt 1).type = 1 ∧ (t.keySlotAt 1).key.length = 16) && rose Reg.LAMP_CNT_KEYCMD 1 s t) &&
      (let d := admin 0x42 1 0x1000 0 0;
    let s := devKeys KeySlot.none KeySlot.none d;
    adminAt 1 0x42 (entry d) s && s.entropyOk) &&
      (let d := admin 0x43 (1 + 2 * 65536 + 4 * 2 ^ 32) 0x1000 0x2000 0;
    let s := devKeys (key 5 (zeros 47 ++ [1])) KeySlot.none d;
    adminAt 1 0x43 (entry d) s &&
      decide ((s.keySlotAt 1).type = 5 ∧ (s.keySlotAt 2).state = .empty ∧ beNat (s.keySlotAt 1).key = 1 ∧
      keyField (entry d) 40 32 = 4)) &&
      (decide (P384.base.isSome ∧ P384.decode (P384.encode P384.base) = P384.base)) &&
      (decide (P384.mul 1 P384.base = P384.base)) &&
      (let d := admin 0x44 (1 + 2 * 65536 + 3 * 2 ^ 32 + 32 * 2 ^ 48) 0x1000 0 0;
    let s := devKeys (key 7 (zeros 16)) KeySlot.none d;
    adminAt 1 0x44 (entry d) s &&
      decide ((s.keySlotAt 1).type = 7 ∧ (s.keySlotAt 2).state = .empty ∧ (s.keySlotAt 3).state = .empty ∧
      keyField (entry d) 53 48 = 32))) = true := by
  decide +kernel

/-- An exportable and an unexportable key; a seal; a key destroyed, used, or held by a job; a query. -/
theorem witness_KeysExportedSealedDestroyed :
    ((let d := admin 0x45 (1 + 2 * 65536) 0x1000 0 0;
    let s := devKeys { key 1 (zeros 16) with exportable := true } (key 4 (zeros 32)) d;
    adminAt 1 0x45 (entry d) s && wrapsType (s.keySlotAt 2) 1 && issues .cores s) &&
      (let s := devKeys (key 1 (zeros 16)) (key 4 (zeros 32)) (admin 0x45 (1 + 2 * 65536) 0x1000 0 0);
    after (.keyExport 1) s fun t => ended t && decide (tallied t = 6)) &&
      (let d := admin 0x46 1 0 0 0;
    let s := devKeys (key 1 (zeros 16)) KeySlot.none d;
    adminAt 1 0x46 (entry d) s && decide (s.persistentSlots < 4096)) &&
      (let d := admin 0x47 1 0 0 0;
    let s := devKeys (key 1 (zeros 16)) KeySlot.none d;
    adminAt 1 0x47 (entry d) s && decide (s.keyHolders 1 = 0) && after (.keyDestroy 1) s fun t => ended t &&
      decide (t.keySlotAt 1 = KeySlot.none)) &&
      (let s := devKeys (key 6 (zeros 32)) KeySlot.none (admin 0x47 1 0 0 0);
    let s := { s with aud := { s.aud with keySlot := some 1 } }.setReg Reg.AUD_CFG (2 ^ 32);
    s.keyInUse 1 && after (.keyDestroy 1) s fun t => ended t && decide (tallied t = 7)) &&
      (let s := devKeys (key 1 (zeros 16)) KeySlot.none (admin 0x47 1 0 0 0);
    let s := { s with lamp := { s.lamp with waiting := [⟨9, 0, .cores, desc [(32, 2, 1)], none, none, 3, 0, 0, some ⟨[], [], 0, 0, 0, some 1⟩, false, false, false, false⟩] } };
    decide (0 < s.keyHolders 1) && !s.keyInUse 1 && after (.keyDestroy 1) s fun t => !ended t &&
      decide ((t.keySlotAt 1).dying = some [(1, 0)])) &&
      (let d := admin 0x48 1 0x1000 0 0;
    let s := devKeys (key 1 (zeros 16)) KeySlot.none d;
    adminAt 1 0x48 (entry d) s && after (.keyQuery 1) s fun t => ended t && decide (t.lamp = s.lamp))) = true := by
  decide +kernel

/-- The last SA of a slot, the SA in use, a PN of a VALID SA, an SA without a key, and a party that may not write. -/
theorem witness_MacsecRegistersWritten :
    ((accepted .cores dev && !dev.isIdle 255 && dev.saWriter .cores && !dev.saWriter .foreman &&
      after (.lampSaWrite .foreman 255 0x70 0) dev fun t => rose Reg.LAMP_CNT_SA_WRITE_REFUSED 1 dev t) &&
      (after (.lampSaWrite .cores 255 0x40 0) dev fun t => rose Reg.LAMP_CNT_SA_WRITE_REFUSED 1 dev t) &&
      (after (.lampSaWrite .cores 255 0x78 9) (dev.setReg (Reg.LAMP_TX_SA 255 3) 1) fun t =>
        rose Reg.LAMP_CNT_SA_WRITE_REFUSED 1 dev t) &&
      (after (.lampSaWrite .cores 255 0x70 1) dev fun t => rose Reg.LAMP_CNT_SA_WRITE_REFUSED 1 dev t) &&
      (let s := dev.modKeySlot 2 fun _ => key 3 (zeros 16);
    after (.lampSaWrite .cores 255 0x70 9) s fun t =>
      decide (t.reg (Reg.LAMP_TX_SA 255 3) = 9 &&& writableBits (Reg.LAMP_TX_SA 255 3))) &&
      (after (.encodingAnWrite .cores 255 0x100) dev fun t => decide (t.encodingAn 255 = 1)) &&
      (after (.encodingAnWrite .foreman 255 0x100) dev fun t => decide (t.encodingAn 255 = 0) &&
        rose Reg.LAMP_CNT_SA_WRITE_REFUSED 1 dev t)) = true := by
  decide +kernel

/-- A source at the 40th repetition of a sample. -/
def repeating : Source :=
  { Source.reset with last := some 7, repeats := 40, aptSeen := 40, aptCount := 40, aptFirst := some 7 }

/-- The 256 sample values, once each. -/
def sweep256 : List Byte := (List.range 256).map fun i => BitVec.ofNat 8 i

/-- One sample's part in a retest. -/
def sampled (p : Source × Bool) (v : Byte) : Source × Bool := ((p.1.test v).1, p.2 || (p.1.test v).2)

theorem sweep_first :
    sweep256.foldl sampled (Source.reset, false) = (⟨false, some 255, 1, some 0, 1, 256⟩, false) := by decide +kernel

theorem sweep_second :
    sweep256.foldl sampled (⟨false, some 255, 1, some 0, 1, 256⟩, false) = (⟨false, some 255, 1, some 0, 2, 512⟩,
      false) := by
  decide +kernel

theorem sweep_third :
    sweep256.foldl sampled (⟨false, some 255, 1, some 0, 2, 512⟩, false) = (⟨false, some 255, 1, some 0, 1, 256⟩,
      false) := by
  decide +kernel

/-- A source that gives every sample value in turn passes a retest (R209). -/
theorem test_retestPasses : samplesPass (sweep256 ++ sweep256 ++ sweep256 ++ sweep256) = true := by
  have h : samplesPass (sweep256 ++ sweep256 ++ sweep256 ++ sweep256) =
      decide (((sweep256 ++ sweep256 ++ sweep256 ++ sweep256).foldl sampled (Source.reset, false)).2 = false) := rfl
  rw [h, List.foldl_append, List.foldl_append, List.foldl_append, sweep_first, sweep_second, sweep_third,
    sweep_second]
  rfl

/-- The 41st repetition, with the other source healthy and failed; a retest; a spent budget; the generators. -/
theorem witness_CanaryFollowsSources :
    ((let s := dev.setSource 1 repeating;
    ((s.source 1).test 7).2 && !((s.source 1).test 8).2 &&
      (after (.noiseSample 1 7) s fun t => (t.source 1).failed && decide (t.lamp.canary = 1) &&
      rose (Reg.LAMP_CNT_SRC_FAIL 1) 1 s t) && after (.noiseSample 1 8) s fun t => !(t.source 1).failed) &&
      (let s := (dev.setSource 0 repeating).setSource 1 { Source.reset with failed := true };
    after (.noiseSample 0 7) s fun t => decide (t.lamp.canary = 2 ∧ t.reg Reg.LAMP_GRACE_LEFT = 0x100000)) &&
      (let s := { dev with lamp := { dev.lamp with canary := 2 } }.setReg Reg.LAMP_GRACE_LEFT 0;
    after .graceSpent s (fun t => decide (t.lamp.canary = 3)) && after .drbgReseed s fun t => decide (t = s)) &&
      (after .drbgReseed { dev with lamp := { dev.lamp with canary := 1, calls := 7 } } fun t =>
        decide (t.lamp.calls = 0) && rose Reg.LAMP_CNT_RESEED 1 dev t) &&
      (let s := { dev with lamp := { dev.lamp with canary := 3 } };
    after (.maskReseed 7) s (fun t => decide (t = s)) &&
      after (.maskReseed 7) dev fun t => decide (t.lamp.calls = 1 ∧ t.free = 32)) &&
      (let s := { dev with lamp := { dev.lamp with canary := 2 } }.setReg Reg.LAMP_GRACE_LEFT 9;
    after (.maskReseed 0) s fun t => decide (t.lamp.calls = 1 ∧ t.free = 32 ∧
      t.reg Reg.LAMP_GRACE_LEFT = 8))) = true := by
  decide +kernel

/-- A job's descriptor: length, mode, key slot, IV and tag lengths. -/
def jobDesc (len mode slot iv tag : Nat) : List Byte :=
  desc [(24, 4, len), (30, 1, mode), (32, 2, slot), (34, 1, iv), (35, 1, tag)]

/-- A job of the cores. -/
def jobOf (urgency arrival : Nat) (r : Option JobResult) : Job :=
  ⟨1, 0, .cores, jobDesc 0 9 0 0 0, some [], none, urgency, 0, arrival, r, false, false, false, false⟩

/-- A digest of no bytes, a RANDOM of one, a job for a key outside the share; a preemption and a completion. -/
theorem witness_JobsRunOnEngines :
    ((let s := withEntry 1 6 .cores (jobDesc 0 9 0 0 0) dev;
    running 5 s && atHead 1 (entry (jobDesc 0 9 0 0 0)) s &&
      decide (s.idleEngine = some 0 ∧ s.stagesHeld = 0 ∧ s.lamp.waiting = []) && jobParamOk (jobDesc 0 9 0 0 0)) &&
      (let s := withEntry 1 7 .cores (jobDesc 1 13 0 0 0) dev;
    jobParamOk (jobDesc 1 13 0 0 0) && s.entropyOk &&
      after (.random 1) s fun t => (t.lamp.engines.getD 0 none).any fun j => j.result.any fun r =>
      decide (r.status = 0 ∧ r.output.length = 1)) &&
      (let s := withEntry 1 6 (.pf 0) (jobDesc 16 1 9 16 0) (linked 0 dev);
    !s.ownsKey (.pf 0) 9 && jobParamOk (jobDesc 16 1 9 16 0) && jobKeyed 1 &&
      after (.ctr 1 (some (zeros 16)) none) s fun t => (t.lamp.engines.getD 0 none).any fun j =>
      j.result.any fun r => decide (r.status = 5)) &&
      (let s := withEntry 1 6 .cores (jobDesc 0 0 0 16 0) dev;
    !jobParamOk (jobDesc 0 0 0 16 0) &&
      after (.cbc 1 (some []) none) s fun t => (t.lamp.engines.getD 0 none).any fun j => j.result.any fun r =>
      decide (r.status = 3)) &&
      (let s := { dev with lamp := { dev.lamp with engines := List.replicate 16 (some (jobOf 3 0 (some ⟨[], [], 0, 0, 0, none⟩))), waiting := [jobOf 2 1 (some ⟨[], [], 0, 0, 0, none⟩)] } };
    decide (s.nextJob = some (jobOf 2 1 (some ⟨[], [], 0, 0, 0, none⟩)) ∧ s.idleEngine = none) &&
      (jobOf 2 1 none).outranks (jobOf 3 0 none) &&
      after (.jobPreempt 15) s fun t => ((t.lamp.engines.getD 15 none).any fun j => j.arrival == 1) &&
      rose Reg.LAMP_CNT_PREEMPT 1 s t) &&
      (let s := withEntry 1 6 .cores (jobDesc 0 9 0 0 0)
        { dev with lamp := { dev.lamp with engines := List.replicate 15 none ++ [some (jobOf 3 0 (some ⟨[], [], 10, 0, 0, none⟩))] } };
    after (.jobCompletion 15 true) s fun t => ended t && decide (t.lamp.engines.getD 15 none = none) &&
      rose Reg.LAMP_CNT_JOBS 1 s t && rose (Reg.LAMP_CNT_JOB_STATUS 10) 1 s t)) = true := by
  decide +kernel

/-! ## Host links, functions and rings -/

/-- The link of PF index 0 is up. -/
def host : State := linked 0 dev

/-- A function whose Bus Master Enable is 1, over the link of PF index 0. -/
def mastering (f : Party) : State := host.modFn f fun y => { y with busMaster := true }

/-- The link of PF index 0 is frozen and holds completions. -/
def frozenLink (waits : List Instr) (s : State) : State :=
  s.modLink 0 fun l => { l with frozen := true, waits := waits }

/-- A message that PF index 0 may not send yet. -/
def heldMsg (cls ring vector : Nat) : HeldOut := ⟨.pf 0, cls, ring, none, .msix (.pf 0) vector 2 3⟩

/-- A degraded link, its loss with a ring, PERST_N, a pool that fits and one that does not, an FLR, paused DMA, and
error status. -/
theorem witness_LinksAndFunctionsFollowR230 :
    ((dev.mayTrain 0 && decide (4 ≤ dev.linkMaxRate 0 ∧ dev.linkWidth 0 = 16) &&
      after (.hostLinkUp 0 4 8 true) dev fun t => (t.link 0).dlActive && (t.link 0).degraded &&
      rose (Reg.HOST_CNT_DEGRADED 0) 1 dev t) &&
      (let s := withEntry 5 6 (.pf 0) (zeros 64) host;
    decide (s.vfs = []) && after (.hostLinkDown 0) s fun t => decide (t.link 0 = HostLink.down ∧
      (t.ring 5).phase = .hostLost) && rose (Reg.HOST_CNT_LINK_DOWN 0) 1 s t) &&
      (host.pfExists 0 && after (.perstAssert 0) host fun t =>
        decide (t.link 0 = { HostLink.down with perst := true })) &&
      (let s := { host with phase := .rest };
    !s.clocked && after (.perstAssert 0) s fun t => t.perst 0 && t.perst 1 && decide (t.regs = s.regs)) &&
      (let s := dev.modLink 0 fun l => { l with perst := true };
    after (.perstDeassert 0) s fun t => !(t.link 0).perst) &&
      (host.sharesFit 0 2 && decide (2 + host.vfsElsewhere 0 ≤ 8192) &&
        after (.vfEnable 0 2) host fun t => t.vfExists 0 2 && !t.vfExists 0 3) &&
      (let s := rv (shareKey 0 1 0) (word (65535 + 10 * 65536)) host;
    !s.sharesFit 0 2 && (after (.vfEnable 0 2049) host fun t => !t.vfExists 0 2 &&
      rose (Reg.HOST_CNT_VF_REFUSED 0) 1 host t) && after (.vfEnable 0 2) s fun t => !t.vfExists 0 2 &&
      rose (Reg.HOST_CNT_VF_REFUSED 0) 1 s t) &&
      (let s := host.modFn (.pf 0) fun y => { y with vfEnable := true, numVfs := 2 };
    after (.vfDisable 0) s fun t => !t.vfExists 0 1) &&
      (let s := withEntry 5 6 (.pf 0) (zeros 64) (mastering (.pf 0));
    s.fnExists (.pf 0) && decide (s.vfs = []) && after (.flr (.pf 0)) s fun t => (t.fn (.pf 0)).flr &&
      decide ((t.ring 5).phase = .hostLost) &&
      after (.flrComplete (.pf 0)) t fun u => decide (u.fn (.pf 0) = (t.fn (.pf 0)).resetKeeping)) &&
      (let s := ((mastering (.pf 0)).modFn (.pf 0) fun y => { y with busMaster := false }).modLink 0 fun l =>
        { l with held := [heldMsg 2 7 1, heldMsg 0 9 2, heldMsg 2 5 3] };
    (s.link 0).carries && after (.busMasterEnable (.pf 0)) s fun t =>
      decide (t.out = [.msix (.pf 0) 1 2 3, .msix (.pf 0) 3 2 3, .msix (.pf 0) 2 2 3] ∧ (t.link 0).held = []) &&
      after (.busMasterDisable (.pf 0) false) t fun u => !(u.fn (.pf 0)).busMaster) &&
      (let s := host.modFn (.pf 0) fun y => { y with uncorr := 0x1000, header := some [] };
    after (.aerStatusWrite (.pf 0) .uncorrStatus 0xFFFFFFFF) s fun t => decide ((t.fn (.pf 0)).uncorr = 0 ∧
      (t.fn (.pf 0)).header = none) &&
      after (.aerStatusWrite (.pf 0) .device 0x10) t fun u => decide ((u.fn (.pf 0)).devCtl = 0x10))) = true := by
  decide +kernel

/-- A poisoned completion on a link with CONTAIN and on one without; a held completion, and a held table image; a
release with one held failure, and one without a freeze. -/
theorem witness_DmaErrorsReportedAndFrozen :
    ((let s := withEntry 5 6 (.pf 0) (zeros 64) ((mastering (.pf 0)).setReg (Reg.HOST_PORT_CFG 0) 2);
    (s.link 0).carries && after (.dmaCompletion ⟨5, some 0⟩ (some .poisoned)) s fun t => (t.link 0).frozen &&
      rose (Reg.HOST_CNT_NONFATAL 0) 1 s t && rose (Reg.HOST_CNT_DMA_RD_FAIL 0) 1 s t &&
      decide ((t.fn (.pf 0)).uncorr = BitVec.ofNat 32 (2 ^ BusError.poisoned.bit))) &&
      (let s := withEntry 5 6 (.pf 0) (zeros 64) (mastering (.pf 0));
    after (.completionTimeout ⟨5, some 0⟩) s fun t => !(t.link 0).frozen &&
      rose (Reg.HOST_CNT_DMA_RD_FAIL 0) 1 s t && decide ((t.ring 5).taken = [])) &&
      (let s := withEntry 5 6 (.pf 0) (zeros 64) (frozenLink [] (mastering (.pf 0)));
    after (.dmaCompletion ⟨5, some 0⟩ (some .unsupported)) s (fun t =>
      decide ((t.link 0).waits = [.dmaCompletion ⟨5, some 0⟩ (some .unsupported)]) &&
      rose (Reg.HOST_CNT_NONFATAL 0) 1 s t) &&
      after (.tableWrite 5 none) s (fun t => decide ((t.link 0).waits = [.tableWrite 5 none]))) &&
      (let s := withEntry 5 6 (.pf 0) (zeros 64) ((frozenLink [.dmaCompletion ⟨5,
        some 0⟩ (some .timeout)] (mastering (.pf 0))).modLink 0 fun l => { l with held := [heldMsg 0 9 2] });
    s.reaches (.pf 0) && after (.hostFreezeRelease (.pf 0) 0) s fun t => !(t.link 0).frozen &&
      decide ((t.link 0).waits = [] ∧ (t.ring 5).taken = [] ∧ t.out.contains (.msix (.pf 0) 2 2 3)) &&
      rose (Reg.HOST_CNT_DMA_RD_FAIL 0) 1 s t) &&
      (after (.hostFreezeRelease (.pf 0) 0) host fun t =>
        rose (Reg.HOST_CNT_RELEASE_IGNORED 0) 1 host t)) = true := by
  decide +kernel

/-- Ring 8 is PF index 0's own, its share being rings 0 to 63. -/
def withShare : State := rv (shareKey 0 0 0) (word (64 * 65536)) (mastering (.pf 0))

/-- Ring 8 of PF index 0 in a phase and type, fetching or not. -/
def ring8 (ph : RingPhase) (type : Nat) (fetching : Bool) : State :=
  withShare.modRing 8 fun r =>
    { r with owner := .pf 0, cfg := word (type + 4 * 16), phase := ph, enable := decide (ph ≠ .disabled), fetching := fetching }

/-- A ring enabled, one that is not, each way a ring is disabled, its four configuration registers, and a write
refused. -/
theorem witness_RingsConfiguredAndEnabled :
    ((let s := ring8 .disabled 6 false;
    granted (.pf 0) s && decide (s.windowOwner (.pf 0) 8 = some (.pf 0)) && (s.ring 8).valid &&
      after (.ringEnable (.pf 0) 8) s fun t => decide ((t.ring 8).phase = .active)) &&
      (let s := ring8 .active 6 false;
    after (.ringEnable (.pf 0) 8) s fun t => rose (Reg.RING_CNT_CFG_REFUSED 0) 1 s t) &&
      (let s := ring8 .active 6 false;
    after (.ringDisable (.pf 0) 8) s fun t => decide ((t.ring 8).phase = .disabled)) &&
      (let s := (ring8 .active 6 false).modRing 8 fun r => { r with devCur := 1, taken := [entry (zeros 64)] };
    after (.ringDisable (.pf 0) 8) s fun t => decide ((t.ring 8).phase = .draining)) &&
      (let s := ring8 .hostLost 6 false;
    after (.ringDisable (.pf 0) 8) s fun t => decide ((t.ring 8).phase = .disabled)) &&
      (let s := ring8 .disabled 0 false;
    after (.ringConfigWrite (.pf 0) 8 0x100 0x123456789) s (fun t => decide ((t.ring 8).base = 0x123456000)) &&
      after (.ringConfigWrite (.pf 0) 8 0x108 0xFE46) s (fun t => decide ((t.ring 8).cfg = 0x46)) &&
      ringCfgValid (.pf 0) 0xFE46 &&
      after (.ringConfigWrite (.pf 0) 8 0x110 15) s (fun t => decide ((t.ring 8).piAddr = 8)) &&
      after (.ringConfigWrite (.pf 0) 8 0x118 0xFFFF) s (fun t => decide ((t.ring 8).irq = 0x87FF))) &&
      (let s := ring8 .active 6 false;
    after (.ringConfigWrite (.pf 0) 8 0x100 0) s fun t => rose (Reg.RING_CNT_CFG_REFUSED 0) 1 s t)) = true := by
  decide +kernel

/-- A doorbell taken and one ignored; a scan begun and ended; a producer index past the ring, unread and in range; the
hold-off's message; a snapshot. -/
theorem witness_RingsFetched :
    ((let s := ring8 .active 6 false;
    granted (.pf 0) s && s.scanWanted 8 && issues (.pf 0) s &&
      after (.ringDoorbell (.pf 0) 8) s fun t => (t.ring 8).fetching &&
      decide (t.out.length = 1 ∧ (t.ring 8).fetching) && rose (Reg.RING_CNT_DOORBELLS 0) 1 s t) &&
      (let s := ring8 .disabled 6 false;
    after (.ringDoorbell (.pf 0) 8) s fun t => rose (Reg.RING_CNT_DOORBELL_IGNORED 0) 1 s t) &&
      (let s := (ring8 .active 1 false).modRing 8 fun r => { r with cfg := r.cfg ||| 0x10000 };
    (s.ring 8).fast && s.ringServed (s.ring 8) && decide ((s.ring 8).scanNs ≠ 0) && s.scanWanted 8 &&
      after (.periodicScan 8) s fun t => (t.ring 8).fetching) &&
      (let s := ring8 .active 1 true;
    let own := zeros 63 ++ [0x80];
    after (.descriptorFetch 8 [some own, some (zeros 64)]) s (fun t => decide ((t.ring 8).hamper = [own]) &&
      !(t.ring 8).fetching) &&
      after (.descriptorFetch 8 [none]) s (fun t => decide ((t.ring 8).phase = .error ∧ (t.ring 8).cause = 2))) &&
      (let s := ring8 .active 4 true;
    let own := zeros 63 ++ [0x80];
    s.readsIssued 8 && decide ((s.ring 8).scanned.length = 16) &&
      after (.descriptorFetch 8 [some own, some own, some (zeros 64)]) s fun t => decide ((t.ring 8).devCur = 2 ∧
      (t.ring 8).taken.map (·.desc) = [own, own])) &&
      (let s := ring8 .active 5 true;
    !(s.ring 8).fast && after (.piRead 8 none []) s (fun t => decide ((t.ring 8).phase = .error ∧
      (t.ring 8).cause = 2)) &&
      after (.piRead 8 (some 17) []) s (fun t => decide ((t.ring 8).phase = .error ∧ (t.ring 8).cause = 1)) &&
      after (.piRead 8 (some 16) [some (zeros 63 ++ [0x80]), some (zeros 64)]) s (fun t =>
      decide ((t.ring 8).devCur = 1 ∧ t.reg Reg.RING_TALLY_NEXT = s.reg Reg.RING_TALLY_NEXT + 1))) &&
      (let s := ring8 .active 5 true;
    after (.piRead 8 (some 1) [some (desc [(0, 2, 0x99), (63, 1, 0x80)])]) s fun t =>
      decide ((t.ring 8).devCur = 1 ∧ (t.ring 8).doneCur = 1 ∧ (t.ring 8).taken = []) &&
      wrote t fun a b => decide (a = 40 ∧ b.take 2 = [0x80, 0])) &&
      (let s := ((ring8 .active 6 false).modRing 8 fun r =>
        { r with irq := 0x38007, backs := 1, backsAt := some 0 }).modFn (.pf 0) fun y =>
        { y with table := [(14, 0xFEE00000), (15, 0x55)] };
    let s := atDial 0x1000000000 s;
    decide (0 + 3 * 100 * nsUnits ≤ s.dial.toNat) && s.vectorOpen (.pf 0) 7 &&
      after (.irqHoldoff 8) s fun t => decide ((t.ring 8).backsAt = none ∧
      t.out = [.msix (.pf 0) 7 0xFEE00000 0x55])) &&
      (let s := withEntry 1 5 (.pf 0) (admin 0x3E 8 0x1000 0 0) withShare;
    adminAt 1 0x3E (entry (admin 0x3E 8 0x1000 0 0)) s && after (.ringSnapshot 1) s fun t => ended t &&
      decide (tallied t = 0))) = true := by
  decide +kernel

/-! ## Virtual NVMe -/

/-- A command of PF index 0's controller, identifier 7. -/
def nvme (sq nsid : Nat) (d10 d11 d12 : BitVec 32) : NvmeCmd := ⟨.pf 0, sq, 7, nsid, 0x10000, d10, d11, d12, 0, [],
  0, 0⟩

/-- A controller in operation: an admin and an I/O queue pair, each with one command to fetch. -/
def ctrlOn : Ctrl :=
  { Ctrl.reset with
    enabled := true, ready := true
    sqs := [⟨0, 16, 0, 1, 0, 0x1000, false, false, 8⟩, ⟨1, 16, 0, 1, 1, 0x3000, false, false, 10⟩]
    cqs := [⟨0, 16, 0, 0, 0, 0x2000, true, false, 9⟩, ⟨1, 16, 0, 0, 1, 0x4000, true, false, 11⟩] }

/-- PF index 0 with shares of rings, queue pairs and namespaces. -/
def nvmeShare : State := rv (shareKey 0 0 2) (word (8 * 65536 + 4 * 256)) withShare

/-- PF index 0's controller. -/
def withCtrl (c : Ctrl) : State := nvmeShare.modCtrl (.pf 0) fun _ => c

/-- A completion with a result and a status has been written. -/
def answered (result status : Nat) (t : State) : Bool :=
  t.out.any fun o => match o with
    | .dmaWrite _ _ b _ => decide (b.length = 16 ∧ leField b 0 4 = result ∧ leField b 12 2 = 7 ∧ leField b 14 2 / 2 = status)
    | _ => false

/-- A controller started, stopped and absent; the doorbells of its queues. -/
theorem witness_ControllersStartAndStop :
    ((let s := nvmeShare;
    granted (.pf 0) s && s.hasCtrl (.pf 0) &&
      decide (s.freeRing (.pf 0) = some 0 ∧
      (s.claimRing (.pf 0) 0 10 ((s.ctrl (.pf 0)).prop nvmeAsq).toNat).freeRing (.pf 0) = some 1) &&
      after (.ccEnSet (.pf 0)) s fun t => (t.ctrl (.pf 0)).ready &&
      decide ((t.ctrl (.pf 0)).sqs.map (·.ring) = [0] ∧ (t.ctrl (.pf 0)).cqs.map (·.ring) = [1])) &&
      (after (.ccEnClear (.pf 0)) (withCtrl ctrlOn) fun t => !(t.ctrl (.pf 0)).enabled &&
        decide ((t.ctrl (.pf 0)).sqs = [])) &&
      (granted (.pf 0) withShare && !withShare.hasCtrl (.pf 0) &&
        after (.ccEnSet (.pf 0)) withShare fun t => rose Reg.GEN_CNT_IGNORED 1 withShare t) &&
      (let s := withCtrl ctrlOn;
    issues (.pf 0) s && after (.nvmeDoorbell (.pf 0) 1 false 3) s fun t =>
      decide (((t.ctrl (.pf 0)).sq 1).map (·.tail) = some 3 ∧ t.out = [.dmaRead (.pf 0) 10 0x3040 128])) &&
      (after (.nvmeDoorbell (.pf 0) 1 true 2) (withCtrl ctrlOn) fun t =>
        decide (((t.ctrl (.pf 0)).cq 1).map (·.head) = some 2))) = true := by
  decide +kernel

/-- Each admin command: an Identify whose data spans two pages, features, queues, logs, an Abort and an event request.
-/
theorem witness_AdminCommandsAnswered :
    ((let s := withCtrl ctrlOn;
    fetchable (nvme 0 0 1 0 0) false s && after (.identify (nvme 0 0 1 0 0)) s (answered 0 0) &&
      after (.identify { nvme 0 0 1 0 0 with prp := 0x10F00, prp2 := 0x20000 }) s (fun t => answered 0 0 t &&
      wrote t (fun a b => decide (a = 0x10F00 ∧ b.length = 256)) &&
      wrote t fun a b => decide (a = 0x20000 ∧ b.length = 3840)) &&
      after (.identify (nvme 0 1 0 0 0)) s (answered 0 0) && after (.identify (nvme 0 0 2 0 0)) s (answered 0 0) &&
      after (.identify { nvme 0 0 1 0 0 with psdt := 1 }) s (answered 0 nvmeInvalidField)) &&
      (let s := withCtrl { ctrlOn with ps := 0 };
    after (.getFeatures (nvme 0 0 2 0 0)) s (answered 0 0)) &&
      (after (.setFeatures (nvme 0 0 2 0 0)) (withCtrl ctrlOn) (answered 0 0)) &&
      (after (.setFeatures (nvme 0 0 2 1 0)) (withCtrl ctrlOn) fun t =>
        decide ((t.ctrl (.pf 0)).psTarget = some (1, nvme 0 0 2 1 0) ∧ t.out = [])) &&
      (let s := withCtrl { ctrlOn with cqs := ctrlOn.cqs.take 1, sqs := ctrlOn.sqs.take 1 };
    let c := nvme 0 0 (1 + 15 * 65536) 1 0;
    decide (s.freeRing (.pf 0) = some 0) && after (.createIoCq c) s fun t => answered 0 0 t &&
      decide (((t.ctrl (.pf 0)).cq 1).map (·.base) = some 0x10000)) &&
      (let s := withCtrl { ctrlOn with sqs := ctrlOn.sqs.take 1 };
    let c := nvme 0 0 (2 + 15 * 65536) (1 + 65536) 0;
    after (.createIoSq c) s fun t => answered 0 0 t && decide (((t.ctrl (.pf 0)).sq 2).map (·.size) = some 16)) &&
      (after (.deleteIoSq (nvme 0 0 1 0 0)) (withCtrl ctrlOn) fun t => decide ((t.ctrl (.pf 0)).sq 1 = none)) &&
      (let s := withCtrl { ctrlOn with sqs := ctrlOn.sqs.take 1 };
    after (.deleteIoCq (nvme 0 0 1 0 0)) s fun t => decide ((t.ctrl (.pf 0)).cq 1 = none)) &&
      (after (.getLogPage (nvme 0 0 2 0 0)) (withCtrl ctrlOn) (answered 0 0)) &&
      (after (.abort (nvme 0 0 1 0 0)) (withCtrl ctrlOn) (answered 1 0)) &&
      (after (.asynchronousEventRequest (nvme 0 0 0 0 0)) (withCtrl ctrlOn) fun t =>
        decide ((t.ctrl (.pf 0)).aers = [nvme 0 0 0 0 0] ∧ t.out = []))) = true := by
  decide +kernel

/-- An extent of 100 blocks on drive 0. -/
def ext0 : Extent := ⟨false, 0, 1, 0, 100⟩

/-- Namespace 3, of that extent, attached to PF index 0 as NSID 1; drive 0 is ready. -/
def withNs (s : State) : State :=
  (s.setSpace 3 (some ⟨false, [ext0], some (.pf 0, 1), none⟩)).modDrive 0 fun _ => ⟨true, true, [(1, 1000, false)]⟩

/-- A piece of a command with one part. -/
def piece (kind : PieceKind) (phase : PiecePhase) (slot : Option Nat) (st : PartState) (retried : Bool) : Piece :=
  ⟨5, 5, nvme 1 1 0 0 0, 3, kind, 0, 1, true, phase, slot, none, [], none, false, false, false,
    [⟨ext0, 0, 0, 1, zeros 512, st, retried⟩]⟩

/-- Each I/O command without a namespace, past it and within it; a part that completes, fails, times out, is retried;
a slot; a replay. -/
theorem witness_TransfersJournaledAndRetried :
    ((let s := withCtrl ctrlOn;
    let c := nvme 1 1 0 0 0;
    fetchable c true s && decide (s.nsOf (.pf 0) 1 = none) &&
      [Instr.nvmeRead c, .nvmeWrite c (some []), .flush c, .writeZeroes c, .datasetManagement c (some [])].all fun
      i => after i s fun t => answered 0 nvmeInvalidNs t && rose Reg.NVME_CNT_COMMANDS 1 s t) &&
      (let s := withNs (withCtrl ctrlOn);
    let c := nvme 1 1 0 0 0;
    decide ((s.nsOf (.pf 0) 1).map (·.1) = some 3) && after (.flush c) s (answered 0 0) &&
      after (.datasetManagement c (some [])) s (answered 0 0)) &&
      (let s := withNs (withCtrl ctrlOn);
    let c := nvme 1 1 100 0 0;
    after (.nvmeRead c) s (answered 0 nvmeOutOfRange) &&
      after (.nvmeWrite c (some [])) s (answered 0 nvmeOutOfRange) &&
      after (.writeZeroes c) s (answered 0 nvmeOutOfRange)) &&
      (let s := withNs (withCtrl ctrlOn);
    let c := nvme 1 1 99 0 0;
    s.reachable ext0 && after (.nvmeRead c) s fun t => decide (t.pieces.map (fun p =>
      (p.kind, p.phase, p.parts.map (·.st))) = [(.read, .issued, [.flying])])) &&
      (let s := withNs (withCtrl ctrlOn);
    let c := nvme 1 1 99 0 0;
    after (.nvmeWrite c (some (zeros 512))) s fun t => decide (t.pieces.map (fun p =>
      (p.kind, p.phase, p.slot)) = [(.write, .issued, some 0)] ∧ t.ledgerRead (journalHeader 0 + 16) = 1)) &&
      (let s := withNs (withCtrl ctrlOn);
    let c := nvme 1 1 99 0 0;
    after (.writeZeroes c) s fun t => decide (t.pieces.map (fun p =>
      (p.kind, p.phase, p.slot)) = [(.zeroes, .issued, some 0)] ∧ t.ledgerRead (journalHeader 0 + 16) = 1)) &&
      (let s := { withNs (withCtrl ctrlOn) with pieces := [piece .read .issued none .flying false] };
    after (.partComplete 5 0 (.ok (zeros 512))) s (fun t => decide (t.pieces = []) &&
      rose Reg.NVME_CNT_COMMANDS 1 s t && rose Reg.NVME_CNT_READ_BYTES 512 s t) &&
      after (.partComplete 5 0 .error) s (fun t => decide (t.pieces.map (fun p =>
      p.parts.map (·.st)) = [[.due]]) && rose (Reg.NVME_RP_CNT_ERR 0) 1 s t) &&
      after (.partTimeout 5 0) s (fun t => decide (t.pieces.map (fun p => p.parts.map (·.st)) = [[.due]]))) &&
      (let s := { withNs (withCtrl ctrlOn) with pieces := [piece .read .issued none .flying true] };
    after (.partTimeout 5 0) s fun t => decide (t.pieces = [])) &&
      (let s := { withNs (withCtrl ctrlOn) with pieces := [piece .read .issued none .due false] };
    after (.partRetry 5 0) s fun t => decide (t.pieces.map (fun p => p.parts.map (·.st)) = [[.flying]]) &&
      rose Reg.NVME_CNT_EXTENT_FAIL 1 s t) &&
      (let s := { withNs (withCtrl ctrlOn) with pieces := [piece .write .journal none .idle false] };
    after .journalSlotTaken s fun t => decide (t.pieces.map (·.slot) = [some 0] ∧
      t.ledgerRead (journalHeader 0 + 16) = 1)) &&
      (let s := { withNs (withCtrl ctrlOn) with pieces := [{ piece .write .kept (some 0) .idle false with replay := true }] };
    after (.nsReadyRetry 5 true) s fun t => decide (t.pieces = []) && rose Reg.NVME_CNT_REPLAYED 1 s t)) = true := by
  decide +kernel

/-- The record of an extent on a drive's namespace, as NS_CREATE reads it. -/
def extRec (drive nsid start count : Nat) : List Byte :=
  leBytes 4 (drive * 256) ++ leBytes 4 nsid ++ leBytes 8 start ++ leBytes 8 count ++ zeros 8

/-- NS_CREATE and each of its failures, NS_DELETE, NS_ATTACH and NS_DETACH, a power state entered, a drive gone and
back. -/
theorem witness_NamespacesAndDrivesManaged :
    ((let d := admin 0x50 (4 + 2 ^ 20) 0x1000 0 0;
    let s := withEntry 1 5 .cores d (withNs dev);
    adminAt 1 0x50 (entry d) s && after (.nsCreate 1 (some (leBytes 32 0))) s (fun t => decide (tallied t = 2)) &&
      after (.nsCreate 1 (some (extRec 0 1 50 10))) s (fun t => decide (tallied t = 3)) &&
      after (.nsCreate 1 (some (extRec 0 1 100 10))) s (fun t => ended t &&
      decide (tallied t = 0 ∧ (t.space 4).map (·.extents) = some [⟨false, 0, 1, 100, 10⟩]))) &&
      (let d := admin 0x50 (3 + 2 ^ 20) 0x1000 0 0;
    let s := withEntry 1 5 .cores d (withNs dev);
    after (.nsCreate 1 (some (leBytes 32 0))) s fun t => decide (tallied t = 1)) &&
      (let s := withNs (withEntry 1 5 .cores (admin 0x51 3 0 0 0) dev);
    adminAt 1 0x51 (entry (admin 0x51 3 0 0 0)) s &&
      after (.nsDelete 1) s fun t => decide (tallied t = 4 ∧ (t.space 3).isSome)) &&
      (let s := (withNs (withEntry 1 5 .cores (admin 0x51 3 0 0 0) dev)).setSpace 3 (some ⟨false, [ext0], none,
        none⟩);
    after (.nsDelete 1) s fun t => decide (tallied t = 0 ∧ t.space 3 = none)) &&
      (let d := admin 0x52 3 0 0 0;
    let s := (withEntry 1 5 .cores d (withNs (withCtrl ctrlOn))).setSpace 3 (some ⟨false, [ext0], none, none⟩);
    adminAt 1 0x52 (entry d) s && s.hasCtrl (.pf 0) && decide (s.nsOf (.pf 0) 1 = none) &&
      after (.nsAttach 1) s fun t => ended t &&
      decide (tallied t = 0 ∧ (t.space 3).map (·.attached) = some (some (.pf 0, 1)))) &&
      (let d := admin 0x52 3 0 0 0;
    let s := (withEntry 1 5 .cores d (withNs dev)).setSpace 3 (some ⟨false, [ext0], none, none⟩);
    !s.hasCtrl (.pf 0) && after (.nsAttach 1) s fun t => ended t && decide (tallied t = 5)) &&
      (let d := admin 0x53 3 0 0 0;
    let s := withEntry 1 5 .cores d (withNs (withCtrl ctrlOn));
    adminAt 1 0x53 (entry d) s && after (.nsDetach 1) s fun t => ended t &&
      decide ((t.space 3).map (·.attached) = some none)) &&
      (let s := withCtrl { ctrlOn with psTarget := some (2, nvme 0 0 2 2 0) };
    after (.psEntryDone (.pf 0)) s fun t => decide ((t.ctrl (.pf 0)).ps = 2 ∧ (t.ctrl (.pf 0)).psTarget = none)) &&
      (let s := withNs dev;
    after (.driveRemoved 0) s (fun t => decide (t.drive 0 = Drive.absent) &&
      rose (Reg.NVME_RP_CNT_REMOVED 0) 1 s t) &&
      after (.driveReturned 1 1 500 true) (s.setReg (Reg.NVME_RP_CFG 1) 1) (fun t => (t.drive 1).ready &&
      (t.drive 1).spaces.contains (1, 500, true)) &&
      after (.driveReturned 1 1 500 true) (s.setReg (Reg.NVME_RP_CFG 1) 0) (fun t =>
      decide (t = s.setReg (Reg.NVME_RP_CFG 1) 0)))) = true := by
  decide +kernel

/-! ## Remote memory access -/

/-- An attribute block: target state, MTU 1,024, slot 255, depths 1. -/
def qpAttr (st : Nat) : List Byte :=
  desc [(0, 1, st), (1, 1, 3), (2, 1, 1), (3, 1, 7), (5, 1, 255), (21, 1, 1), (22, 1, 1)]

/-- A queue pair of the cores, in a state. -/
def pair (ph : QpPhase) : Qp :=
  { Qp.none with phase := ph, log2sq := 4, log2rq := 4, attr := qpAttr 3, created := 1 }

/-- Queue pair 9, memory region 2 of 4,096 bytes with every right, and an infrastructure slot. -/
def withPair (q : Qp) (s : State) : State :=
  rv (Reg.PORT_MODE 255) 0x203
    { s with rdma := { s.rdma with qps := [(9, q)], mrs := [(2, ⟨.cores, true, 1, 7, 0x1000, 4096, none⟩)] } }

/-- A send entry of an opcode: 100 bytes at 0x1000 of region 2. -/
def sendEntry (op : Nat) : List Byte :=
  desc [(0, 8, 0x1000), (8, 4, 0x201), (12, 4, 100), (16, 8, 0x2000), (24, 4, 0x201), (32, 1, op), (63, 1, 0x80)]

/-- A queue pair created, moved, moved by no transition, queried, destroyed in and out of RESET; a region registered
and deregistered; doorbells ignored and taken. -/
theorem witness_QueuePairsAndRegions :
    ((let d := admin 0x60 (4 + 4 * 256) 0x1000 0x2000 0x100800001000;
    let s := asked d dev;
    adminAt 1 0x60 (entry d) s && after (.qpCreate 1) s fun t => ended t &&
      decide (tallied t = 0 ∧ (t.rdma.qps.map fun e => (e.2.live, e.2.phase, e.2.log2sq)) = [(true, .reset, 4)])) &&
      (let s := withPair (pair .reset) (asked (admin 0x61 9 0x1000 0 0) dev);
    adminAt 1 0x61 (entry (admin 0x61 9 0x1000 0 0)) s && s.ownQp .cores 9 &&
      after (.qpModify 1 (some (qpAttr 1))) s (fun t => decide ((t.qp 9).phase = .init ∧ tallied t = 0)) &&
      after (.qpModify 1 (some (qpAttr 3))) s (fun t => decide ((t.qp 9).phase = .reset ∧ tallied t = 2)) &&
      after (.qpModify 1 (some (qpAttr 5))) s (fun t => decide (tallied t = 4))) &&
      (let s := withPair (pair .init) (asked (admin 0x61 9 0x1000 0 0) dev);
    attrOk (qpAttr 2) && s.slotOn 255 && s.isInfra 255 && !s.isIdle 255 && s.ownsSlot .cores 255 &&
      after (.qpModify 1 (some (qpAttr 2))) s fun t => decide ((t.qp 9).phase = .rtr)) &&
      (let s := withPair (pair .rtr) (asked (admin 0x62 9 0x1000 0 0) dev);
    adminAt 1 0x62 (entry (admin 0x62 9 0x1000 0 0)) s && issues .cores s &&
      after (.qpQuery 1) s fun t => ended t && decide (tallied t = 0)) &&
      (let s := withPair (pair .reset) (asked (admin 0x63 9 0 0 0) dev);
    after (.qpDestroy 1) s fun t => decide (t.qp 9 = Qp.none)) &&
      (let s := withPair (pair .rts) (asked (admin 0x63 9 0 0 0) dev);
    adminAt 1 0x63 (entry (admin 0x63 9 0 0 0)) s &&
      after (.qpDestroy 1) s fun t => decide (tallied t = 2 ∧ (t.qp 9).phase = .rts)) &&
      (let d := admin 0x64 (7 * 2 ^ 24) 0x5000 0x100 0;
    let s := asked d dev;
    adminAt 1 0x64 (entry d) s && after (.mrReg 1) s fun t => ended t &&
      decide ((t.rdma.mrs.map fun e => (e.2.start, e.2.len, e.2.rights)).contains (0x5000, 0x100, 7))) &&
      (let s := withPair (pair .rts) (asked (admin 0x65 0x201 0 0 0) dev);
    adminAt 1 0x65 (entry (admin 0x65 0x201 0 0 0)) s && after (.mrDereg 1) s fun t => !(t.mr 2).live) &&
      (let s := withPair (pair .reset) dev;
    granted .cores s && after (.rdmaDoorbell .cores 9 false) s fun t => rose Reg.RDMA_CNT_DOORBELL_IGNORED 1 s t) &&
      (let s := withPair (pair .rts) dev;
    decide ((s.qp 9).live = true ∧ (s.qp 9).owner = .cores ∧ (s.qp 9).phase = .rts)) &&
      (let s := withPair { pair .rts with rqReads := 1, sqReads := 1 } dev;
    let own := zeros 63 ++ [0x80];
    decide (s.wqReads 9 true ≠ 0) && arrives .cores s &&
      after (.piRead (wqRing 9 true) (some 2) [some own, some (zeros 64)]) s (fun t =>
      decide ((t.qp 9).recvs = [own] ∧ (t.qp 9).phase = .rts)) &&
      after (.piRead (wqRing 9 false) (some 1) [some own]) s (fun t => decide ((t.qp 9).fetched = [own])) &&
      after (.piRead (wqRing 9 false) (some 17) []) s (fun t => decide ((t.qp 9).phase = .err)) &&
      after (.piRead (wqRing 9 true) none []) s (fun t => decide ((t.qp 9).phase = .err)))) = true := by
  decide +kernel

/-- A send entry taken, sent or waiting. -/
def taken (sent : Bool) (wait : Nat) : Wqe := ⟨0, sendEntry 0, 0, 5, 1, List.replicate 100 1, sent, 0, false, 0, wait⟩

/-- An entry of each opcode; a timeout; a trigger; the end of an RNR delay. -/
theorem witness_SendEntriesRunAndRetry :
    ((let z := zeros 100;
    [(0, Instr.send 9 0 (some z)), (1, .sendImm 9 0 (some z)), (2, .rdmaWrite 9 0 (some z)),
      (3, .writeImm 9 0 (some z)), (4, .rdmaRead 9 0)].all fun (op, i) =>
      let s := withPair { pair .rts with fetched := [sendEntry op] } dev
      decide (s.localFail (s.qp 9) ⟨0, sendEntry op, op, 0, 0, if op = 4 then [] else z, false, 0, false, 0,
        0⟩ = 0) && after i s fun t => decide ((t.qp 9).sendPsn = 1 ∧ (t.qp 9).wqes.map (·.opcode) = [op] ∧
        (t.qp 9).fetched = [])) &&
      (let s := atDial 0x10000000000 (withPair
        { pair .rts with wqes := [taken true 0], sqDev := 1, ackPsn := 5, sendPsn := 6 } dev);
    let q := s.qp 9;
    decide (q.at 2 % 32 ≠ 0 ∧ q.outstanding ≠ 0 ∧ 0 + 4096 * 2 ^ (q.at 2 % 32) * nsUnits ≤ s.dial.toNat ∧
      q.retries + 1 < q.at 3 % 8 + 1) && after (.ackTimeout 9) s fun t => decide ((t.qp 9).retries = 1) &&
      rose Reg.RDMA_CNT_RETRANSMIT 1 s t) &&
      (let s := withPair { pair .rts with wqes := [taken false 2], sqDev := 1 } dev;
    s.waitMet (taken false 2) && decide (s.localFail (s.qp 9) (taken false 2) = 0) &&
      after (.triggeredStart 9) s fun t => rose Reg.RDMA_CNT_TRIGGERED 1 s t) &&
      (let s := withPair { pair .rts with wqes := [taken true 0], sqDev := 1, rnrUntil := some 0 } dev;
    after (.rnrDelayExpiry 9) s fun t => decide ((t.qp 9).rnrUntil = none ∧ (t.qp 9).phase = .rts)) &&
      (let q := { pair .rts with wqes := [taken true 0], sqDev := 1, ackPsn := 5, sendPsn := 6, retries := 7 };
    let s := atDial 0x10000000000 (withPair q dev);
    decide (s.qp 9 = q ∧ q.at 3 % 8 ≤ q.retries) && (s.rdma.qps.all fun e => e.1 == 9) &&
      after (.ackTimeout 9) s fun t => decide ((t.qp 9).phase = .err) && rose (Reg.RDMA_CNT_WR_STATUS 5) 1 s t) &&
      (let q := { pair .rts with wqes := [taken true 0], sqDev := 1, ackPsn := 5, sendPsn := 6 };
    let s := withPair q dev;
    let t := s.ackReceived 9 5 0x20;
    decide (q.outstanding ≠ 0 ∧ q.at 3 / 16 % 8 = 0 ∧ (t.qp 9).phase = .err) &&
      rose (Reg.RDMA_CNT_WR_STATUS 6) 1 s t) &&
      (let q := { pair .rts with wqes := [taken true 0], sqDev := 1, ackPsn := 5, sendPsn := 6, attr := putAt 0 (pair .rts).attr 3 0x77 };
    let t := (withPair q dev).ackReceived 9 5 0x20;
    decide (q.at 3 / 16 % 8 = 7 ∧ (t.qp 9).phase = .rts ∧
      (t.qp 9).rnrUntil = some ((0 : Dial).plusNs (rnrTimer 0))))) = true := by
  decide +kernel

/-! ## Virtual functions -/

/-- VF 2 of PF index 0 exists and selects itself; its PF's VFM_SEL names it. -/
def vf2 (f : VfState → VfState) : State :=
  ((host.modFn (.pf 0) fun y => { y with vfEnable := true, numVfs := 2 }).modVf 0 2 f).setReg (Reg.VFM_SEL 0) 2

/-- A resource block: its first two words. -/
def shareBlock (w0 w1 : Nat) : List Byte := leBytes 8 w0 ++ leBytes 8 w1 ++ zeros 64

/-- A reduction of VF 2's share to nothing, not yet told to it. -/
def shrink2 : Shrink := ⟨1, 0, 5, List.replicate 10 0, 50, false, false, false, false⟩

/-- VF 2 holding rings 16 to 19. -/
def vf2Rings (f : VfState → VfState) : State := rv (shareKey 0 2 0) (word (16 + 4 * 65536)) (vf2 f)

/-- A LOCK by a VF of an entry that its share does not hold. -/
theorem witness_table_operation_outside_a_share :
    ((let s := withEntry 1 4 (.vf 0 2) (updDesc 0 1 7 5) (vf2 id);
    opAllowed 0 1 && indexOk 0 7 5 && !s.updShared (.vf 0 2) 0 7 5 && arrives (.vf 0 2) s &&
      after (.tableLock 1) s fun t => decide (tallied t = 2 ∧ t.tables = []))) = true := by
  decide +kernel

/-- VF_SHARE_SET with each status; a reduction placed, expired and complete; a share word written by the PF. -/
theorem witness_SharesSetShrunkAndWritten :
    ((let d := admin 0x30 2 0x1000 0 0;
    let s := withEntry 1 5 (.pf 0) d (vf2Rings id);
    running 4 s && adminAt 1 0x30 (entry d) s &&
      after (.vfShareSet 1 (some (shareBlock (16 + 4 * 65536) 0))) s (fun t => decide (tallied t = 0)) &&
      after (.vfShareSet 1 (some (shareBlock (32 + 4 * 65536) 0))) s (fun t =>
      decide ((t.vfState 0 2).shrink.map (·.new.head?) = some (some (word (32 + 4 * 65536))) ∧
      t.shareWords 0 2 = s.shareWords 0 2)) &&
      after (.vfShareSet 1 (some (shareBlock (65535 + 4 * 65536) 0))) s (fun t => decide (tallied t = 2))) &&
      (let d := admin 0x30 2 0x1000 0 0;
    let s := withEntry 1 5 (.pf 0) d (rv (shareKey 0 1 0) (word (32 + 4 * 65536)) (vf2Rings id));
    after (.vfShareSet 1 (some (shareBlock (33 + 4 * 65536) 0))) s fun t => decide (tallied t = 1)) &&
      (let d := admin 0x30 2 0x1000 0 0;
    let s := withEntry 1 5 (.pf 0) d (((vf2Rings id).modDom 15 fun x =>
      { x with phase := .opened }).setReg (Reg.SEQ_RINGS 15) 0x110010);
    after (.vfShareSet 1 (some (shareBlock (18 + 2 * 65536) 0))) s fun t => decide (tallied t = 3 ∧
      t.shareWords 0 2 = s.shareWords 0 2)) &&
      (let s := vf2Rings fun f => { f with shrink := some shrink2 };
    after (.shrink 0 2) s fun t => (t.vfState 0 2).inFull &&
      decide (t.reg (Reg.VF_MBOX_IN 0 2 0) = 0x1F0 ∧ t.reg (Reg.VF_MBOX_IN 0 2 1) = 5 ∧
      t.reg (Reg.VF_MBOX_IN 0 2 2) = 50)) &&
      (let s := atDial 0x3201 (vf2Rings fun f => { f with shrink := some shrink2 });
    after (.graceExpired 0 2) s fun t => decide ((t.vfState 0 2).shrink.map (fun x =>
      (x.expired, x.enforced)) = some (true, true))) &&
      (let s := vf2Rings fun f => { f with shrink := some { shrink2 with enforced := true } };
    after (.shrinkComplete 0 2) s fun t => decide ((t.vfState 0 2).shrink = none ∧
      t.shareWords 0 2 = List.replicate 10 0 ∧ ((t.vfState 0 2).owed.map fun ws => ws.getD 0 0) = [0x1F0]) &&
      rose Reg.VFM_CNT_SHRINKS 1 s t) &&
      (let s := vf2Rings fun f => { f with owed := [[0x1F0, 5, 50], [0x2F0, 6, 60]] };
    after (.shrink 0 2) s fun t => (t.vfState 0 2).lateShrink &&
      decide ((t.vfState 0 2).owed = [[0x2F0, 6, 60]] ∧ t.reg (Reg.VF_MBOX_IN 0 2 1) = 5)) &&
      (let s := vf2 id;
    granted (.pf 0) s && after (.vfmResWrite 0 9 1) s fun t => rose Reg.VFM_CNT_CFG_REFUSED 1 s t) &&
      (let s := host.setReg (Reg.VFM_SEL 0) 2048;
    !s.vfExists 0 2048 && after (.vfmResWrite 0 1 0xFFFFFFFFFFFFFFFF) s fun t =>
      decide (t.voted (shareKey 0 2048 1) = 0x07FF3FFF))) = true := by
  decide +kernel

/-- Messages both ways and their acknowledgements, each ignored write, a SHRINK acknowledged in time and late, an
offer of majors. -/
theorem witness_MailboxesAndAbiAnswered :
    ((let s := (vf2 id).setReg (Reg.VF_MBOX_OUT 0 2 0) 0xEF;
    granted (.vf 0 2) s && after (.vfMboxDoorbell 0 2) s fun t => (t.vfState 0 2).outBusy &&
      decide (t.reg Reg.RING_TALLY_NEXT = s.reg Reg.RING_TALLY_NEXT + 1)) &&
      (let s := (vf2 id).setReg (Reg.VF_MBOX_OUT 0 2 0) 0xF0;
    after (.vfMboxDoorbell 0 2) s (fun t => rose Reg.VFM_CNT_MBOX_IGNORED 1 s t) &&
      after (.vfMboxAck 0 2) s (fun t => rose Reg.VFM_CNT_MBOX_IGNORED 1 s t) &&
      after (.vfmMboxAck 0) s (fun t => rose Reg.VFM_CNT_MBOX_IGNORED 1 s t)) &&
      (let s := vf2 fun f => { f with inFull := true };
    after (.vfMboxAck 0 2) s (fun t => !(t.vfState 0 2).inFull && rose Reg.VFM_CNT_MBOX_TO_VF 1 s t) &&
      after (.vfmMboxDoorbell 0) s (fun t => rose Reg.VFM_CNT_MBOX_IGNORED 1 s t)) &&
      (let s := vf2 fun f => { f with inFull := true, inShrink := true, lateShrink := true };
    after (.vfMboxAck 0 2) s fun t => rose Reg.VFM_CNT_LATE_ACK 1 s t) &&
      (let s := vf2Rings fun f =>
        { f with inFull := true, inShrink := true, shrink := some { shrink2 with placed := true } };
    after (.vfMboxAck 0 2) s fun t => decide ((t.vfState 0 2).shrink.map (fun x =>
      (x.acked, x.enforced)) = some (true, true))) &&
      (after (.genAbiOfferWrite (.vf 0 2) 0xFF000001) (vf2 id) fun t =>
        decide (t.reg (Reg.VF_GEN_ABI_OFFER 0 2) = 1 ∧ t.reg (Reg.VF_GEN_ABI 0 2) = 0x100010100)) &&
      (after (.genAbiOfferWrite (.pf 0) 2) (vf2 id) fun t => decide (t.reg (Reg.GEN_ABI 0) = 0x100000000)) &&
      (let s := vf2 id;
    s.vfExists 0 2 && decide (s.vfSelected 0 = 2) &&
      after (.vfmMboxDoorbell 0) s fun t => (t.vfState 0 2).inFull && !(t.vfState 0 2).inShrink) &&
      (let s := vf2 fun f => { f with outBusy := true, outTally := 5 };
    after (.vfmMboxAck 0) s fun t => !(t.vfState 0 2).outBusy && rose Reg.VFM_CNT_MBOX_TO_PF 1 s t)) = true := by
  decide +kernel

/-! ## Gallery stacking -/

/-- A stack of devices 0, 1 and 2, of which this is one; its successor is device 2 and its tag 7. -/
def inStack (me : Nat) (g : GalState → GalState) : State :=
  let s := dev.setReg Reg.GAL_CFG 0x700020701
  { s with gal := g { s.gal with devId := me, authority := 0 } }

/-- Link 3 in a phase, its peer device 0. -/
def link3 (ph : GalPhase) (refuse : Nat) (g : GalState) : GalState :=
  { g with links := g.links.set 3 ⟨ph, 0, false, refuse, 1, 0⟩ }

/-- A sample whose delay is 0 and whose offset is x / 256 ns. -/
def sampleOf (x : Nat) : DialSample := ⟨0, BitVec.ofNat _ x, BitVec.ofNat _ x, 0, 0, false, 0, none⟩

/-- A stacked message of device 1's port 255 for domain 15, to device 0. -/
def stackMsg : StreamMsg := ⟨3, 0, 15, 511, 0x1000, 9, 0, 0, false, true, [1, 2]⟩

/-- A stack in which this device 1 relays between devices 0 and 2, on links 3 and 4. -/
def relaying : State :=
  inStack 1 fun g => { g with links := (g.links.set 3 ⟨.up, 0, false, 0, 1, 0⟩).set 4 ⟨.up, 2, false, 0, 1, 0⟩
                              reach := [some 2, none, some 2] }

/-- A hello with each first failing check; links lost and retried; samples in and out of bound; a member without
samples; a succession; streams. -/
theorem witness_StackLinksDialAndStreams :
    ((let s := inStack 1 (link3 .training 0);
    [(Hello.mk [(2, 0)] 7 0 false, 1), (⟨[(1, 3)], 6, 0, false⟩, 2), (⟨[(1, 3)], 7, 3, false⟩, 3), (⟨[(1, 3)], 7,
      1, false⟩, 4), (⟨[(1, 3)], 7, 0, true⟩, 5)].all fun (h, k) => after (.hello 3 h) s fun t =>
      decide ((t.galLink 3).phase = .hello ∧ (t.galLink 3).refuse = k) && rose (Reg.GAL_CNT_TRAIN_FAIL 3) 1 s t) &&
      (let s := inStack 1 (link3 .training 0);
    after (.hello 3 ⟨[(2, 0), (1, 3)], 7, 0, false⟩) s fun t => decide ((t.galLink 3).phase = .up ∧
      (t.galLink 3).minor = 0)) &&
      (after (.galTrainRetry 3) (inStack 1 (link3 .hello 5)) fun t => decide ((t.galLink 3).phase = .training)) &&
      (let s := inStack 1 (link3 .up 0);
    after (.galLinkLoss 3) s (fun t => decide ((t.galLink 3).phase = .training) &&
      rose (Reg.GAL_CNT_LINK_DOWN 3) 1 s t) && after (.dialSampleSend 3) s (fun t => decide (t.out.length = 1))) &&
      (let s := inStack 1 fun g => { link3 .up 0 g with joined := true, good := 7 };
    s.stackMember && s.stackEn && !s.stopped 0 && s.galCarries 3 &&
      (s.heard 0 (sampleOf 128)).ofAuthority 3 (sampleOf 128) &&
      decide ((s.galLink 3).peer = 0 ∧ (s.galLink 3).phase = .up)) &&
      (let s := inStack 1 fun g => { g with dialLock := true };
    s.sampleOverdue && after .sampleTimeout s fun t => !t.gal.dialLock && decide (t.time.disc = .holdover) &&
      rose Reg.GAL_CNT_DIAL_LOCK_LOSS 1 s t) &&
      (let s := atDial 0x10000000 (inStack 1 id);
    s.isMember 0 && s.cutLong 0 && after (.peerLost 0) s fun t => t.gal.masterLost && t.gal.lost.getLsbD 0 &&
      rose Reg.GAL_CNT_PEER_LOST 1 s t) &&
      (let s := inStack 2 id;
    s.sampleOverdue && !s.sampleComes &&
      after (.galSucceed .cores) s fun t => decide (t.reg Reg.GAL_SUCCEED_RESULT = 1 ∧ t.gal.authority = 2) &&
      rose Reg.GAL_CNT_SUCCEED 1 s t) &&
      (after (.galSucceed .cores) (inStack 1 id) (fun t => decide (t.reg Reg.GAL_SUCCEED_RESULT = 2)) &&
        after (.galSucceed .cores) (inStack 2 fun g => { g with lastSample := some 0 }) (fun t =>
        decide (t.reg Reg.GAL_SUCCEED_RESULT = 3))) &&
      (let s := { inStack 2 (link3 .up 0) with pending := [.dialSample 3 (sampleOf 0), .dialTick] };
    s.sampleComes && after (.galSucceed .cores) s fun t => decide (t.reg Reg.GAL_SUCCEED_RESULT = 3)) &&
      (running 1 relaying && decide (relaying.carries 2 = some 4) && relaying.relays 0 2) &&
      (let h : Held := ⟨{ msgAt 0 with port := 511 }, 0, false, false⟩;
    let s := (rv (Reg.SEQ_DOMAIN_CFG 15) 0x100000100FA0 (atDial 0x10000000 (inStack 1 (link3 .up 0)))).setReg
      (Reg.GAL_DOM 15) 0x201;
    let s := s.modDom 15 fun x => { x with phase := .opened, held := [h] };
    s.stacked 15 && decide (s.mergers 15 = [0] ∧ (s.dom 15).unsent = []) && (s.carrier 0).isSome &&
      s.ownPort h.msg.port && decide (s.premerge 15 = 0)) &&
      (let s := (rv (Reg.SEQ_DOMAIN_CFG 15) 0x100000100FA0 (inStack 0 fun g =>
        { g with links := g.links.set 3 ⟨.up, 1, false, 0, 1, 0⟩ })).setReg (Reg.GAL_DOM 15) 0x201;
    let s := s.modDom 15 fun x => { x with phase := .opened };
    stackMsg.wf && decide (stackMsg.dest = s.gal.devId) && s.stacked 15 && (s.feeders 15).contains 1 &&
      !s.frontierAt 15 (s.dom 15).frontier 0x1000)) = true := by
  decide +kernel

/-! ## Starts, recovery and the fuse -/

/-- A header of empty sections, without its HDR_CRC. -/
def bareHeader (svn : Nat) : List Byte :=
  desc [(0, 4, 0x544F425A), (4, 1, 1), (6, 2, svn), (8, 4, 3), (16, 4, 4096), (24, 4, 4096), (32, 4, 4096),
    (40, 8, (crc64 []).toNat)]

/-- An image with that header. -/
def bareImage (svn : Nat) : Image :=
  ⟨true, (bareHeader svn).take 60 ++ leBytes 4 (crc32c ((bareHeader svn).take 60)).toNat, [], [], [], []⟩

/-- What a start finds: a bank A that answers as told and no bank B; sensors at a temperature. -/
def inputs (a : Image) (t : Int) : StartInputs := ⟨0, false, true, some a, some Image.none, [t], none, none, [], []⟩

/-- The image checks; starts into recovery; a device too hot; starts from each phase; WAKE_N without a retained image.
-/
theorem witness_StartsBootTheFirstGoodBank :
    ((decide (dev.boot.fuse = none ∧ dev.boot.busy = none) && coolEnough [99] && !coolEnough [100]) &&
      (let s := { State.reset with life := { State.reset.life with spares := 1, stopped := [7, 8] } };
    let l := (s.repair { inputs Image.none 0 with coresFailed := [8, 9, 64] }).life;
    decide (l.spares = 0 ∧ l.stopped = [8, 9] ∧ l.stoppedForGood = 2)) &&
      (let s := { State.reset with life := { State.reset.life with rows := [(.l2, 3)] }, boot := { State.reset.boot with fastWake := true } };
    decide ((s.repair { inputs Image.none 0 with coresFailed := [8], rowsFailed := [(.l3, 4)] }).life = s.life)) &&
      (decide (((bareImage 0).check 0).1 = 0 ∧ ((bareImage 4).check 5).1 = bootRollback ∧
        (Image.none.check 0).1 = bootFlash)) &&
      (after (.powerOn (inputs Image.none 99)) State.reset fun t => decide (t.phase = .recovery ∧
        t.boot.bootedFrom = 3 ∧ bits (t.reg Reg.PWR_RESET_CAUSE) 3 0 = 1) &&
        rose Reg.BOOT_CNT_COLD 1 State.reset t) &&
      (after (.powerOn (inputs Image.none 100)) State.reset fun t => decide (t.phase = .tripped)) &&
      (after (.resetNAssert (inputs Image.none 99)) dev fun t => decide (t.phase = .recovery ∧
        bits (t.reg Reg.PWR_RESET_CAUSE) 3 0 = 2)) &&
      (let s := { dev with phase := .tripped, power := { dev.power with trip := true } };
    after (.resetNAssert (inputs Image.none 99)) s (fun t => decide (bits (t.reg Reg.PWR_RESET_CAUSE) 3 0 = 3) &&
      !t.power.trip) && after (.thermtripRecheck [99] (inputs Image.none 99)) s (fun t =>
      decide (t.phase = .recovery)) &&
      after (.thermtripRecheck [100] (inputs Image.none 99)) s (fun t => decide (t.phase = .tripped))) &&
      (after (.watchdog (inputs Image.none 99)) dev fun t => decide (bits (t.reg Reg.PWR_RESET_CAUSE) 3 0 = 4) &&
        rose Reg.PWR_CNT_WATCHDOG 1 dev t) &&
      (let s := { dev with phase := .rest };
    after (.wake (inputs Image.none 99)) s (fun t => decide (bits (t.reg Reg.PWR_RESET_CAUSE) 3 0 = 5) &&
      rose Reg.BOOT_CNT_WAKE_FULL 1 s t) &&
      after (.wake (inputs Image.none 99)) dev (fun t => decide (t.phase = .running)))) = true := by
  decide +kernel

/-- A FUSE_RAISE to count 1 of ring 1, tally 5, due in 10 s. -/
def raise1 (confirmed : Bool) : FuseCmd := ⟨1, 0, 5, 1, 10000000000, confirmed⟩

/-- The device with a raise pending. -/
def raising (confirmed : Bool) : State :=
  let s := withEntry 1 5 (.pf 0) (admin 0x70 1 0 0 0) (mastering (.pf 0))
  { s with boot := { s.boot with fuse := some (raise1 confirmed) } }

/-- Each recovery action begun or refused, its end; the upload window. -/
theorem witness_RecoveryActionsRun :
    (([(Instr.check, 0), (.boot, 3), (.programA, 3), (.programB, 3)].all fun (i, r) => after i host fun t =>
      decide (t.reg Reg.BOOT_REC_RESULT = r)) &&
      (let s := { host with phase := .recovery };
    running 6 s && s.reaches (.pf 0) &&
      [Instr.check, .boot, .programA, .programB].all fun i => after i s fun t =>
      decide (t.reg Reg.BOOT_REC_RESULT = 0) && t.boot.busy.isSome &&
      after i t fun u => decide (u.reg Reg.BOOT_REC_RESULT = 4)) &&
      (let s := rv Reg.BOOT_POLICY 0x20 { host with boot := { host.boot with bootedFrom := 0 } };
    after .programA s (fun t => decide (t.reg Reg.BOOT_REC_RESULT = 3)) &&
      after .programB s (fun t => decide (t.reg Reg.BOOT_REC_RESULT = 0))) &&
      (let s := { host with boot := { host.boot with busy := some (1, false, 4) } };
    after (.recActionComplete true) s fun t => decide (t.reg Reg.BOOT_REC_RESULT = 66)) &&
      (let s := { host with boot := { host.boot with busy := some (1, true, 0) } };
    after (.recActionComplete true) s fun t => decide (t.reg Reg.BOOT_REC_RESULT = 1)) &&
      (let s := { host with boot := { host.boot with busy := some (4, true, 0) } };
    after (.recActionComplete true) s (fun t => t.boot.flashNewer &&
      decide (t.boot.bankB = s.upload ∧ t.boot.bankA = s.boot.bankA)) &&
      after (.recActionComplete false) s (fun t => decide (t.reg Reg.BOOT_REC_RESULT = 130))) &&
      (let s := host.setReg Reg.BOOT_REC_OFFSET (word (99 * 0x40000));
    after (.bootRecWinWrite (.pf 0) 0x3FFF8 7) s fun t =>
      decide (memRead t.retention (0x40000 * 99 + 0x3FFF8) 1 = [7] ∧ t.boot.retained = none)) &&
      (after (.bootRecWinWrite .cores 0 7) host (fun t => rose Reg.BOOT_CNT_REFUSED 1 host t))) = true := by
  decide +kernel

/-- A raise refused by each check, confirmed, not confirmed and programmed. -/
theorem witness_FuseRaisedOnceConfirmed :
    ((after (.bootFuseConfirmWrite .cores 0) host (fun t => rose Reg.BOOT_CNT_REFUSED 1 host t)) &&
      (let d := admin 0x70 1 0 0 0;
    let s := (withEntry 1 5 (.pf 0) d (mastering (.pf 0))).setReg Reg.BOOT_IMAGE 1;
    adminAt 1 0x70 (entry d) s &&
      after (.fuseRaise 1) s (fun t => decide (t.boot.fuse.map (fun f => (f.count, f.tally)) = some (1, 5))) &&
      after (.fuseRaise 1) (s.setReg Reg.BOOT_IMAGE 0) (fun t => decide (tallied t = 2)) &&
      after (.fuseRaise 1) { s with boot := { s.boot with fuseA := 1 } } (fun t => decide (tallied t = 1)) &&
      after (.fuseRaise 1) { s with boot := { s.boot with fuseA := 1, fuseB := BitVec.allOnes 256 } } (fun t =>
      decide (tallied t = 3))) &&
      (let d := admin 0x70 1 0 0 0;
    let s := (withEntry 1 5 (.pf 0) d (mastering (.pf 0))).setReg Reg.BOOT_IMAGE 1;
    let s := { s with boot := { s.boot with confirms := [(9, 0x50001)] } };
    after (.fuseRaise 1) s fun t => decide (t.boot.fuse = some (raise1 true) ∧ t.boot.confirms = [])) &&
      (after (.bootFuseConfirmWrite .sideband 0x50001) (raising false) (fun t =>
        decide (t.boot.fuse.map (·.confirmed) = some true)) &&
        after (.bootFuseConfirmWrite .sideband 0x60001) (raising false) (fun t =>
        decide (t.boot.fuse.map (·.confirmed) = some false))) &&
      (let s := atDial 0x25400000000000 (raising false);
    decide (10000000000 ≤ s.dialNs) && after .noConfirm s fun t => ended t &&
      decide (tallied t = 4 ∧ t.boot.fuse = none)) &&
      (after (.fuseProgramDone false) (raising true) (fun t => decide (tallied t = 5 ∧ t.fuseCount = 0)) &&
        decide ((raise1 true).count = (raising true).fuseCount + 1))) = true := by
  decide +kernel

/-! ## Power -/

/-- A power failure, a droop, the supply's collapse, a rail fault, each PLL; Sprint granted; Deep Rest entered and
refused with each code. -/
theorem witness_PowerLossSprintAndRest :
    ((let s := dev.modPort 255 fun p => { p with link := .up };
    after .powerFail s (fun t => decide (t.phase = .powerFailed) && !t.isUp 255) &&
      after .droopTrip s (fun t => decide (t.phase = .powerFailed) && rose Reg.PWR_CNT_DROOP 1 s t)) &&
      (let s := { dev with aud := { dev.aud with queue := [(0x3A000000, 7), (0x3A000008, 8)] } };
    after (.supplyCollapse 1) s fun t => decide (t.phase = .off ∧ t.ledgerRead 0x3A000000 = 7 ∧
      t.ledgerRead 0x3A000008 = 0)) &&
      (after .seqErr dev fun t => decide (t.phase = .seqHeld) && t.power.seqErr) &&
      (after (.pllLockLoss (.cluster 7)) dev fun t => decide (t.clusterFreq 7 = 0) && t.power.stopped.getLsbD 7) &&
      (let s := { dev with time := { dev.time with disc := .locked } };
    after (.pllLockLoss .time) s fun t => decide (t.time.disc = .holdover)) &&
      (after (.pllLockLoss .cipher) dev (fun t => t.lamp.pllLost) &&
        after (.pllLockLoss .trace) dev (fun t => t.pmu.portStopped) &&
        after (.pllLockLoss .system) dev (fun t => decide (t.phase = .recovery))) &&
      (let s := (dev.setReg Reg.PWR_CFG 1).setReg Reg.PWR_SPRINT_LEFT 1000;
    accepted .cores s && s.sprintAllowed &&
      after (.pwrSprintReqWrite .cores 0x1FF) s fun t => decide (t.power.sprint = 0xFF ∧
      t.reg Reg.PWR_SPRINT_REQ = 0xFF)) &&
      (accepted .sideband dev &&
        after (.pwrSprintReqWrite .sideband 1) dev fun t => rose Reg.GEN_CNT_IGNORED 1 dev t) &&
      (accepted .foreman dev &&
        after (.deepRestEnter .foreman) dev fun t => decide (t.phase = .rest ∧
        t.out.head? = some (.pin "ALERT" true))) &&
      ([(6, Party.cores, dev), (2, .foreman, dev.modDom 15 fun x =>
        { x with phase := .opened }), (5, .foreman,
        { dev with gal := { dev.gal with links := dev.gal.links.set 7 ⟨.up, 1, false, 0, 1, 0⟩ } })].all fun (k,
        who, s) => after (.deepRestEnter who) s fun t => decide (t.reg Reg.PWR_REST_RESULT = word k) &&
        rose Reg.PWR_CNT_REST_REFUSED 1 s t)) = true := by
  decide +kernel

/-- Samples at 110 °C, at 105 °C and cool; a millisecond of the ladder at level 2; the cap, the refill and a capped
Sprint. -/
theorem witness_LadderFollowsHeatAndPower :
    ((after (.sensorSample [20, 110]) dev fun t => decide (t.phase = .tripped) && t.power.trip) &&
      (after (.sensorSample [20, 105]) dev fun t => decide (t.power.level = 3 ∧ t.power.tj = 105)) &&
      (let s := { dev with power := { dev.power with level := 1, below := 9 } };
    { s with power := { s.power with tj := 91, hotSensor := 0 } }.levelCool &&
      after (.sensorSample [91]) s (fun t => decide (t.power.level = 0)) &&
      after (.sensorSample [92]) s (fun t => decide (t.power.level = 1 ∧ t.power.below = 0))) &&
      (let s := ({ dev with power := { dev.power with level := 2, tj := 100 } }.setReg (Reg.PWR_CLUSTER_FREQ 7)
        2800).setReg (Reg.PWR_CLUSTER_FREQ 0) 900;
    after .ladderStep s fun t => decide (t.clusterFreq 7 = 2600 ∧ t.clusterFreq 0 = 800 ∧ t.lamp.shed = 1)) &&
      (let s := { dev with lamp := { dev.lamp with shed := 2 } };
    after .ladderStep s fun t => decide (t.lamp.shed = 1)) &&
      (!dev.sprinting && after (.powerAverage 6901) dev (fun t => t.power.capped &&
        rose Reg.PWR_CNT_CAP 1 dev t) &&
        after (.powerAverage 0) ((dev.setReg Reg.PWR_CFG 0x1000000).setReg Reg.PWR_SPRINT_LEFT 5) (fun t =>
        decide (t.sprintLeft = 6))) &&
      (let s := { dev with power := { dev.power with sprint := 1 } };
    s.sprinting && after (.powerAverage 6901) s fun t => decide (t.power.sprint = 0) &&
      rose Reg.PWR_CNT_SPRINT_CAPPED 1 s t)) = true := by
  decide +kernel

/-! ## Register writes -/

/-- An address of PF BAR0 lands on a plain register with a key. -/
def landsPlain (a k : Nat) : Bool :=
  match target .cores a with
  | some (.reg r _ j) => decide (r.write = .plain ∧ r.slot ≠ 9 ∧ j = k)
  | _ => false

/-- A plain register and a voted one written whole and by halves; read-only ones, one of a foreign ring context. -/
theorem witness_WritesStagedAndCommitted :
    ((landsPlain 0x100040 Reg.TIME_STEP_HI && !aliased .cores 0x100040 &&
      after (.registerWrite .cores 0x100040 8 ⟨0xFFFFFFFFFFFFFFFF, false⟩) dev fun t =>
      decide (t.reg Reg.TIME_STEP_HI = 0xFF)) &&
      (landsPlain 0x500000 Reg.REL_CFG &&
        after (.registerWrite .cores 0x500000 8 ⟨0x3E80000, false⟩) dev fun t =>
        decide (t.voted Reg.REL_CFG = 0x3E80000 ∧ t.regC Reg.REL_CFG = 0x3E80000)) &&
      (after (.lowHalfWrite .cores 0x100038 0x89ABCDEF) dev fun t => decide (t.reg Reg.TIME_STEP_LO = 0 ∧
        t.latch (latchKey .cores 0x100038) = (regName .cores 0x100038, 0x89ABCDEF)) &&
        after (.highHalfWrite .cores 0x10003C 0x1234567) t fun u =>
        decide (u.reg Reg.TIME_STEP_LO = 0x123456789ABCDEF)) &&
      (after (.lowHalfWrite .cores 0x100038 1) dev fun t =>
        after (.registerWrite .cores 0x100040 4 ⟨2, false⟩) t fun u => rose Reg.GEN_CNT_SPLIT_DISCARD 1 t u) &&
      (after (.registerWrite .cores 0x0 8 ⟨1, false⟩) dev fun t => rose Reg.GEN_CNT_IGNORED 1 dev t) &&
      (host.reaches (.pf 0) && (host.windowOwner (.pf 0) 0).isNone &&
        after (.registerWrite (.pf 0) 0xA00128 8 ⟨1, false⟩) host fun t =>
        rose (Reg.RING_CNT_CFG_REFUSED 0) 1 host t) &&
      (after (.registerWrite (.pf 0) 0x100040 8 ⟨1, true⟩) host fun t => decide (t.reg Reg.TIME_STEP_HI = 0) &&
        rose (Reg.HOST_CNT_NONFATAL 0) 1 host t)) = true := by
  decide +kernel

/-- Writes of PF index 0 before readiness and over a frozen link. -/
theorem witness_WritesBeforeReadyAndFrozenIgnored :
    ((let s := linked 0 { dev with phase := .recovery };
    (target (.pf 0) 0x100040).isSome && !earlySlot (.pf 0) 0x100040 &&
      after (.registerWrite (.pf 0) 0x100040 8 ⟨1, false⟩) s fun t => rose Reg.GEN_CNT_IGNORED 1 s t) &&
      (let s := (linked 0 dev).modLink 0 fun l => { l with frozen := true };
    s.reaches (.pf 0) && !isFreeze (.pf 0) 0x100040 &&
      after (.registerWrite (.pf 0) 0x100040 8 ⟨1, false⟩) s fun t =>
      rose (Reg.HOST_CNT_FROZEN_WRITE 0) 1 s t)) = true := by
  decide +kernel

/-! ## Observation, voting, service life -/

/-- A logbook event of a number. -/
def logged (n : Nat) : LogEvent := ⟨n, 8, [1], 0⟩

/-- GO taken and refused; a bank filled; a dump skipped; a record written and one suppressed; the hours saturating;
the trace's packets. -/
theorem witness_ObservationRecordsTaken :
    ((after (.headcount .cores 3) dev fun t => decide ((t.bank 1).phase = .pending ∧ (t.bank 1).at_ = 25600 ∧
      t.reg Reg.PMU_HC_RESULT = 1)) &&
      (let s := { dev with pmu := { dev.pmu with bank1 := { dev.pmu.bank1 with phase := .filling } } };
    after (.headcount .cores 3) s (fun t => decide (t.reg Reg.PMU_HC_RESULT = 2) &&
      rose Reg.PMU_CNT_HC_REFUSED 1 s t) && after (.bankFilled 1) s (fun t => decide ((t.bank 1).phase = .valid) &&
      rose Reg.PMU_CNT_HEADCOUNTS 1 s t)) &&
      (let s := { dev with log := { dev.log with queue := [logged 0x601, logged 2] } };
    decide (1024 ≤ 1024 * logBurstOf (s.reg Reg.LOG_RATE) - (s.logLack 0x601 0).1) &&
      after .logRecordWrite s fun t => decide (t.log.queue = [logged 2] ∧ t.reg Reg.LOG_TOTAL = 1) &&
      rose Reg.LOG_CNT_RECORDS 1 s t) &&
      (let s := { dev with log := { dev.log with queue := [logged 0x601], buckets := [(0x601, (1024 * logBurstOf (dev.reg Reg.LOG_RATE), 0))] } };
    !logUnlimited 0x601 && after .logRecordWrite s fun t => decide (t.reg Reg.LOG_TOTAL = 0) &&
      rose Reg.LOG_CNT_SUPPRESSED 1 s t) &&
      (after .hoursTick (dev.setReg Reg.LOG_HOURS 0xFFFFFFFF) fun t => decide (t.reg Reg.LOG_HOURS = 0xFFFFFFFF)) &&
      (let s := { dev with phase := .rest };
    after .hoursTick s (fun t => decide (t = s)) &&
      after .hoursTick { dev with phase := .powerFailed } fun t =>
      decide (t.reg Reg.LOG_HOURS = dev.reg Reg.LOG_HOURS + 1)) &&
      (let s := { (dev.setReg Reg.TRC_EN 1).setReg Reg.TRC_CFG 1 with pmu := { dev.pmu with idle := 3 } };
    s.traced 0 && decide (s.traceSink ≠ 2 ∧ s.unstated 0 = 0) && !s.life.stopped.contains 0) &&
      (let s := (dev.setReg Reg.TRC_EN (2 ^ 63)).setReg Reg.TRC_CFG 0x3E8003D;
    s.traced 63 && !s.traceFull 12 && s.syncDue 63 && decide (s.unstated 63 = 0) &&
      after (.dialSync 63) s (fun t => decide (t.out = [.trace (traceBytes 63 1 (leBytes 9 0))])) &&
      after (.powerGap 63 true 0) s (fun t => !t.out.isEmpty && t.pmu.idle.getLsbD 63))) = true := by
  decide +kernel

/-- Three equal copies, each single one that differs, three that differ. -/
theorem witness_VotersReadAndScrubCopies :
    ((decide (voteIndex (Reg.PORT_MODE 255) = some (2, 255) ∧ voteIndex (shareKey 15 2048 9) ≠ none) &&
      after (.voteScrub Reg.REL_CFG) dev fun t => decide (t = dev)) &&
      ([({ dev with regs := Store.put resetOf Reg.REL_CFG 1 dev.regs } : State),
        { dev with copyB := Store.put resetOf Reg.REL_CFG 1 dev.copyB },
        { dev with copyC := Store.put resetOf Reg.REL_CFG 1 dev.copyC }].all fun s =>
        after (.voteScrub Reg.REL_CFG) s fun t => decide (t.reg Reg.REL_CFG = resetOf Reg.REL_CFG ∧
        t.regB Reg.REL_CFG = resetOf Reg.REL_CFG ∧ t.regC Reg.REL_CFG = resetOf Reg.REL_CFG ∧
        s.voted Reg.REL_CFG = resetOf Reg.REL_CFG) && rose (Reg.GEN_CNT_VOTE_CORR 3) 1 s t) &&
      (let s := { dev with copyB := Store.put resetOf Reg.REL_CFG 1 dev.copyB, copyC := Store.put resetOf Reg.REL_CFG 2 dev.copyC };
    after (.voteScrub Reg.REL_CFG) s fun t => t.stopped 3 && t.log.splits.contains Reg.REL_CFG &&
      after (.voteScrub Reg.REL_CFG) t fun u => decide (u = t)) &&
      (let k := Reg.SEQ_DOMAIN_CFG 15;
    let s := { devDom fun x => { x with phase := .opened } with copyB := [(k, 1)], copyC := [(k, 2)] };
    decide (voteIndex k = some (1, 15)) && after (.voteScrub k) s fun t => t.stopped 1 &&
      rose (Reg.SEQ_CNT_HALTS 15) 1 s t && rose (Reg.SEQ_CNT_HALTS 14) 0 s t)) = true := by
  decide +kernel

/-- Corrected and uncorrectable words and rows of each memory, what they held, and a row's third correction. -/
theorem witness_MemoriesScrubbed :
    ((after (.memoryScrub .ledger ⟨17, .other⟩ .corrected) dev (fun t => rose Reg.AUD_CNT_ECC_CORR 1 dev t &&
      decide (t.life.eccCorr = 1)) &&
      after (.memoryScrub .ledger ⟨17, .other⟩ .uncorrectable) dev (fun t => t.aud.torn.contains 16 &&
      rose Reg.AUD_CNT_ECC_UNCORR 1 dev t)) &&
      (let s := { dev with life := { dev.life with rowHits := [(ScrubRow.key .l2 3, [24575, 0])] } }.setReg
        Reg.LOG_HOURS 24575;
    decide (Store.get (fun _ => []) s.life.rowHits (ScrubRow.key .l2 3) = [24575, 0] ∧
      (s.reg Reg.LOG_HOURS).toNat < 0 + 24 * 1024)) &&
      (let s := dev.modPipe 1 fun p => { p with fifo := [msgAt 0] };
    decide (0 < (s.pipe 1).fifo.length) &&
      after (.memoryScrub .packetBuffer ⟨5, .arriving 1 0⟩ .uncorrectable) s (fun t =>
      decide ((t.pipe 1).fifo = [] ∧ t.life.ingressErr = 1)) &&
      after (.memoryScrub .retention ⟨5, .arriving 1 0⟩ .uncorrectable) s (fun t =>
      decide ((t.pipe 1).fifo = [msgAt 0] ∧ t.life.eccUncorr = 1)) &&
      after (.memoryScrub .hbm ⟨5, .read .cores⟩ .uncorrectable) dev (fun t =>
      decide (t.out = [.poisonedRead .cores 5]))) &&
      (let s := devQueues [[], [], [], [], [], [], [], [qf 7 60, qf 7 61]];
    after (.memoryScrub .packetBuffer ⟨5, .queued 255 7 1⟩ .uncorrectable) s fun t =>
      decide (t.queue 255 7 = [qf 7 60] ∧ t.life.eccUncorr = 1)) &&
      (let s := devDom fun x => { x with phase := .opened, held := [⟨msgAt 512, 512, false, false⟩] };
    decide (0 < (s.dom 15).held.length)) &&
      (let s := { dev with boot := { dev.boot with retained := some Image.none, digest := some [] } };
    after (.memoryScrub .retention ⟨5, .retained⟩ .uncorrectable) s fun t => decide (t.boot.retained = none ∧
      t.boot.digest = none)) &&
      (after (.memoryScrub .l3 ⟨5, .core 63⟩ .uncorrectable) dev fun t => decide (t.life.stopped = [63] ∧
        t.life.coreFaults = 1)) &&
      (after (.memoryScrub .hostLink ⟨15, .other⟩ .corrected) dev (fun t => (t.fn (.pf 15)).corr.getLsbD 14) &&
        after (.memoryScrub .hostLink ⟨15, .other⟩ .uncorrectable) dev (fun t =>
        (t.fn (.pf 15)).uncorr.getLsbD 22) &&
        after (.memoryScrub .hostLink ⟨15, .other⟩ .clean) dev (fun t => decide (t = dev)))) = true := by
  decide +kernel

/-- The query, the averages of an hour, lane margins and ageing margins. -/
theorem witness_ServiceLifeKept :
    ((let d := admin 0x71 0 0x1000 0 0;
    adminAt 1 0x71 (entry d) (asked d dev) && issues ((asked d dev).ring 1).owner (asked d dev) &&
      after (.lifeAverageUpdate 0 0) dev (fun t => decide (t.life = dev.life)) &&
      after (.lifeAverageUpdate 1 0) dev (fun t => decide (t = dev))) &&
      (let s := { dev with life := { dev.life with hourTj := 161, hourN := 2, hourBytes := 3, hourRoom := 4 } };
    decide (averageTj 161 2 = 1288 ∧ averageUtil 3 4 = 7500) &&
      after (.lifeAverageUpdate 1288 7500) s fun t => decide (t.life.tjSum = 161 ∧ t.life.samples = 2 ∧
      t.life.lineBytes = 3 ∧ t.life.lineRoom = 4 ∧ t.life.hourN = 0)) &&
      (after (.laneMarginCheck 511 true) dev (fun t => t.life.lowLanes.contains 511 &&
        after (.laneMarginCheck 511 false) t fun u => !u.life.lowLanes.contains 511) &&
        after (.ageingCheck [101, 60, 80]) dev (fun t => decide (t.life.margin = 60)))) = true := by
  decide +kernel

/-! ## The block as a whole -/

/-- Two waiting commands, and none. -/
theorem witness_StepRunsFrontCommand :
    ((match step { dev with pending := [.hoursTick, .dialTick] } with
    | .next t => decide (t.pending = [.dialTick] ∧ t.reg Reg.LOG_HOURS = dev.reg Reg.LOG_HOURS + 1)
    | _ => false) &&
      (match step dev with
    | .next t => decide (t = dev)
    | _ => false)) = true := by
  decide +kernel

/-- A command of an instance the device does not have, and one of the last it has. -/
theorem witness_UnknownInstancesChangeNothing :
    ((!(Instr.portModeWrite .cores 256 0).wf && (Instr.portModeWrite .cores 255 0).wf) &&
      (match exec (.portModeWrite .cores 256 0) dev with
    | .next t => decide (t = dev)
    | _ => false)) = true := by
  decide +kernel

/-- R372: VALUE wraps from 0xFFFF_FFFF_FFFF to 0 and sets OVF. -/
theorem test_counterWraps :
    ((decide (((dev.setReg Reg.PWR_CNT_CAP 0xFFFFFFFFFFFF).count Reg.PWR_CNT_CAP).reg Reg.PWR_CNT_CAP =
      0x8000000000000000))) = true := by
  decide +kernel

/-- A state with three equal copies after a tick, and one with a copy that differs. -/
theorem witness_StepKeepsDialCopiesEqual :
    ((match step (atDial 0x100 { dev with pending := [.dialTick, .hoursTick] }) with
    | .next t => decide (t.pending = [.hoursTick] ∧ t.time.a = t.time.b ∧ t.time.a = t.time.c ∧ t.time.a ≠ (0x100 : Dial).count)
    | _ => false) &&
      (decide ({ dev.time with b := 1 }.a ≠ { dev.time with b := 1 }.b))) = true := by
  decide +kernel

/-- A canonical state, and one that is not. -/
theorem witness_StepKeepsStoresCanonical :
    ((sound dev && !sound { dev with regs := [(Reg.REL_CFG, resetOf Reg.REL_CFG)] } &&
      !sound { dev with ledger := [(5, 0)] })) = true := by
  decide +kernel

/-! ## Ill-formed commands, and published examples -/

/-- A command that names an instance the device does not have is ill-formed and changes nothing. -/
def ignoresUnknown (i : Instr) : Bool :=
  !i.wf && match exec i dev with
    | .next t => decide (t = dev)
    | _ => false

/-- A PF index past 15, and VF numbers 0 and 2,049. -/
theorem test_unknownPartiesIgnored :
    (([Party.pf 16, .vf 16 1, .vf 0 0, .vf 0 2049].all fun p => ignoresUnknown (.step p) &&
      ignoresUnknown (.flr p) && ignoresUnknown (.rdmaDoorbell p 0 false) &&
      ignoresUnknown (.identify { nvme 0 0 0 0 0 with fn := p }))) = true := by
  decide +kernel

/-- Lane and slot 256, priority, queue and pipeline 8, and release number 0. -/
theorem test_unknownPortsIgnored :
    (([Instr.tdcRecal 257 [], .frameReceived ⟨256, 0, 0, 0,
      []⟩, .pfcPauseExpiry 256 0, .pfcPauseExpiry 0 8, .pfcWatchdog 0 8, .portModeWrite .cores 256
      0, .alignmentLost 256 false, .relQShaperWrite .cores 0 8 0, .holdStoreArrival 8, .sweepPass
      8, .exceptionFrameConsumed 8, .laneMarginCheck 512 true, .guardBegin 0 0, .guardBegin 256 1, .copyEnd 0
      0, .releaseInstant 0, .recalUpdate 32 [], .pipeTmplW0Write .cores 1024 0].all ignoresUnknown)) = true := by
  decide +kernel

/-- Domain 16, ring 65,536, target, source and bank 2, engine 16, link 8, core 64, and the others past their last
instance. -/
theorem test_unknownBlocksIgnored :
    (([Instr.musterRelease 16, .seqFeedWrite .cores 16 0 0, .seqFeedWrite .cores 0 4 0, .mirrorRecord 0 ⟨0, 0,
      2048, 0, 0, []⟩, .streamMessage { stackMsg with link := 8 }, .streamMessage
      { stackMsg with domain := 16 }, .admitSet 65536, .periodicScan 65536, .drainRetry 2, .noiseSample 2
      0, .capture 2, .jobPreempt 16, .hostLinkDown 16, .vfEnable 0 65536, .perstAssert 8, .driveRemoved
      16, .galLinkLoss 8, .peerLost 8, .shrink 0 0, .shrink 0 2049, .vfmResWrite 0 10 0, .dialSync 64].all
      ignoresUnknown)) = true := by
  decide +kernel

/-- FIPS 180-4: SHA-384 and SHA-512 of "abc". -/
theorem test_publishedDigests :
    ((decide ((Sha.sha384 [0x61, 0x62, 0x63]).take 8 = [0xcb, 0x00, 0x75, 0x3f, 0x45, 0xa3, 0x5e, 0x8b])) &&
      (decide ((Sha.sha512 [0x61, 0x62, 0x63]).take 8 = [0xdd, 0xaf, 0x35, 0xa1, 0x93, 0x61, 0x7a,
        0xba]))) = true := by
  decide +kernel

/-- FIPS 197, example C.1. -/
theorem test_publishedCipher :
    ((decide (Aes.enc ((List.range 16).map fun i => BitVec.ofNat 8 i) ((List.range 16).map fun i =>
      BitVec.ofNat 8 (17 * i)) = [0x69, 0xc4, 0xe0, 0xd8, 0x6a, 0x7b, 0x04, 0x30, 0xd8, 0xcd, 0xb7, 0x80, 0x70,
      0xb4, 0xc5, 0x5a]))) = true := by
  decide +kernel

/-- The check values of CRC-32C, CRC-32 and CRC-64 over "123456789". -/
theorem test_publishedChecksums :
    ((let m : List Byte := [0x31, 0x32, 0x33, 0x34, 0x35, 0x36, 0x37, 0x38, 0x39];
    decide (crc32c m = 0xE3069283 ∧ crc32 m = 0xCBF43926 ∧ crc64 m = 0x6C40DF5F0B497347))) = true := by
  decide +kernel

/-- REL_PORT_GUARD's reset value is the guard of PORT_MODE's, and R360's worked landings. -/
theorem test_guardOfReset :
    ((decide (dev.guardOf 0 = 0x7B0B)) &&
      (decide ((landing 0x0F01238).map (fun l =>
        (l.row.name, l.idx, l.counted)) = some ("PWR_TEMP", [39], true)))) = true := by
  decide +kernel

/-- The block decodes no words: its table gives none. -/
theorem test_noWords (nbits w : Nat) : decodeTableWord nbits w = none := rfl

end Sys2Proof.Tests
end

section
namespace Sys2Proof.Machine

open Sys2Proof.Claims

/-! ## Every command answers (R10) -/

/-- Whatever the command, its answer is its effect when everything it names exists, and the state as it was otherwise. -/
theorem exec_eq_within (i : Instr) (s : State) : ∃ u, exec i s = within i.wf u s := by
  cases i <;> exact ⟨_, rfl⟩

/-- Settles O55, by exec_eq_within. -/
theorem unknownInstancesChangeNothing : Obligations.UnknownInstancesChangeNothing := by
  unfold Obligations.UnknownInstancesChangeNothing
  intro i s
  obtain ⟨u, hu⟩ := exec_eq_within i s
  refine ⟨⟨_, hu⟩, fun hwf => ?_⟩
  rw [hu, hwf, within_false]

/-! ## Reset (R8) -/

theorem State.reset_regsWf : Store.wf resetOf State.reset.regs = true := rfl

/-- Settles O60: reset memories and registers list nothing, and every Dial copy is 0. -/
theorem resetStoresCanonical : Obligations.ResetStoresCanonical := by
  unfold Obligations.ResetStoresCanonical sound
  obtain ⟨hledger, hretention⟩ := State.reset_memWf
  refine ⟨?_, rfl, rfl⟩
  rw [hledger, hretention, State.reset_regsWf]
  rfl

end Sys2Proof.Machine
end

section
namespace Sys2Proof.Machine

open Sys2Proof.Claims

/-! ## The voters of a block that runs (R30, R367, R368) -/

/-- A key that a store does not list reads as its default. -/
theorem Store.get_of_not_mem {α : Type} (dflt : Nat → α) {k : Nat} {m : Store α} (h : k ∉ m.map Prod.fst) :
    Store.get dflt m k = dflt k := by
  induction m with
  | nil => rfl
  | cons e m ih =>
    obtain ⟨hne, hm⟩ : k ≠ e.1 ∧ k ∉ m.map Prod.fst := by simpa using h
    simp [Store.get, hne.symm, ih hm]

/-- A block's voters find nothing to correct exactly when the copies of each of its registers agree. -/
theorem State.disputed_eq_nil_iff {i : Nat} {s : State} :
    s.disputed i = [] ↔ ∀ k, (voteIndex k).any (fun x => x.1 == i) = true → s.agreed k = true := by
  simp only [State.disputed, List.filter_eq_nil_iff, List.mem_eraseDups]
  constructor
  · intro h k hk
    by_cases hmem : k ∈ (s.regs ++ s.copyB ++ s.copyC).map Prod.fst
    · simpa [hk] using h k hmem
    · obtain ⟨⟨ha, hb⟩, hc⟩ : (k ∉ s.regs.map Prod.fst ∧ k ∉ s.copyB.map Prod.fst) ∧
          k ∉ s.copyC.map Prod.fst := by
        simpa only [List.map_append, List.mem_append, not_or] using hmem
      simp [State.agreed, State.reg, State.regB, State.regC, Store.get_of_not_mem resetOf ha,
        Store.get_of_not_mem resetOf hb, Store.get_of_not_mem resetOf hc]
  · intro h k _
    cases hk : (voteIndex k).any (fun x => x.1 == i) with
    | false => simp
    | true => simp [h k hk]

theorem running_iff {b : Nat} {s : State} :
    running b s = true ↔ s.clocked = true ∧ s.stopped b = false ∧ s.disputed b = [] := by
  simp [running, and_assoc]

/-- An effect of a block that runs happens. -/
theorem unlessStopped_running {b : Nat} {s : State} (h : running b s = true) (f : State → State) :
    unlessStopped b f s = f s := by
  obtain ⟨_, hstop, hvote⟩ := running_iff.1 h
  exact unlessStopped_of hstop hvote f

/-- The counter of discarded halves is no register that a voter reads. -/
theorem voteIndex_splitDiscard : voteIndex Reg.GEN_CNT_SPLIT_DISCARD = none := by decide

/-- A block goes on running when, of the phase and the registers, the counter of discarded halves alone changes. -/
theorem running_congr {b : Nat} {s t : State} (hphase : t.phase = s.phase)
    (hreg : ∀ k, k ≠ Reg.GEN_CNT_SPLIT_DISCARD → t.reg k = s.reg k)
    (hb : t.copyB = s.copyB) (hc : t.copyC = s.copyC) (h : running b s = true) : running b t = true := by
  obtain ⟨hclock, hstop, hvote⟩ := running_iff.1 h
  refine running_iff.2 ⟨by simpa [State.clocked, hphase] using hclock, ?_, ?_⟩
  · simpa [State.stopped, hreg Reg.GEN_STATUS (by decide)] using hstop
  · rw [State.disputed_eq_nil_iff] at hvote ⊢
    intro k hk
    have hne : k ≠ Reg.GEN_CNT_SPLIT_DISCARD := by
      rintro rfl
      simp [voteIndex_splitDiscard] at hk
    simpa [State.agreed, State.regB, State.regC, hreg k hne, hb, hc] using hvote k hk

/-! ## Staging latches (R365) -/

@[simp] theorem State.latch_setLatch_self (k : Nat) (x : Nat × BitVec 32) (s : State) :
    (s.setLatch k x).latch k = x := by
  simp [State.latch, State.setLatch]

section Unstage

variable (l name : Nat) (s : State)

/-- A latch that holds another register stays. -/
theorem State.unstage_of_ne {l name : Nat} {s : State} (h : (s.latch l).1 ≠ name) : s.unstage l name = s := by
  simp [State.unstage, h]

/-- A latch that holds the register is emptied, which is counted. -/
theorem State.unstage_of_eq {l name : Nat} {s : State} (h : (s.latch l).1 = name) :
    s.unstage l name = (s.setLatch l latchEmpty).count Reg.GEN_CNT_SPLIT_DISCARD := by
  simp [State.unstage, h]

/-- Discarding a staged half changes the registers and the latches alone. -/
theorem State.unstage_frame :
    s.unstage l name = { s with regs := (s.unstage l name).regs, latches := (s.unstage l name).latches } := by
  unfold State.unstage
  split <;> rfl

@[simp] theorem State.unstage_phase : (s.unstage l name).phase = s.phase := by rw [State.unstage_frame]
@[simp] theorem State.unstage_copyB : (s.unstage l name).copyB = s.copyB := by rw [State.unstage_frame]
@[simp] theorem State.unstage_copyC : (s.unstage l name).copyC = s.copyC := by rw [State.unstage_frame]
@[simp] theorem State.unstage_staged : (s.unstage l name).staged = s.staged := by rw [State.unstage_frame]
@[simp] theorem State.unstage_doms : (s.unstage l name).doms = s.doms := by rw [State.unstage_frame]

/-- The one register that discarding a staged half changes is its counter. -/
theorem State.reg_unstage_ne {k : Nat} (h : k ≠ Reg.GEN_CNT_SPLIT_DISCARD) : (s.unstage l name).reg k = s.reg k := by
  unfold State.unstage
  split
  · exact State.reg_count_ne h _
  · rfl

theorem State.reg_unstage_discards : (s.unstage l name).reg Reg.GEN_CNT_SPLIT_DISCARD =
    if (s.latch l).1 = name then counterPlus 1 (s.reg Reg.GEN_CNT_SPLIT_DISCARD)
    else s.reg Reg.GEN_CNT_SPLIT_DISCARD := by
  unfold State.unstage
  split
  · exact State.reg_count_self _ _
  · rfl

theorem State.voted_unstage {k : Nat} (h : k ≠ Reg.GEN_CNT_SPLIT_DISCARD) :
    (s.unstage l name).voted k = s.voted k := by
  simp [State.voted, State.regB, State.regC, State.reg_unstage_ne l name s h]

variable {s}

theorem running_unstage {b : Nat} (h : running b s = true) : running b (s.unstage l name) = true :=
  running_congr (by simp) (fun _ => State.reg_unstage_ne l name s) (by simp) (by simp) h

end Unstage

/-! ## Counting beside a discarded half -/

/-- Counting one event in one register. -/
theorem onlyRegs_count (k : Nat) (s : State) : onlyRegs [k] s (s.count k) :=
  ⟨rfl, fun _ hj => State.reg_count_ne (by simpa using hj) s⟩

theorem counts_one_iff {k : Nat} {s t : State} : counts k 1 s t ↔ t.reg k = counterPlus 1 (s.reg k) := by
  simp [counts]

theorem counts_count (k : Nat) (s : State) : counts k 1 s (s.count k) := by
  simp [counts_one_iff]

/-- Another register's event counts from its value before the discard. -/
theorem counts_count_discarded {k : Nat} (h : k ≠ Reg.GEN_CNT_SPLIT_DISCARD) (who : Party) (key : Nat) (s : State) :
    counts k 1 s ((discarded who key s).count k) := by
  simp [counts_one_iff, discarded, State.reg_unstage_ne _ _ s h]

/-! ## Writes that are taken (R217, R230, R231, R233, R306) -/

/-- A party whose write is taken exists, reaches the registers, and is no VF; a PF finds a ready device and a link that is
not frozen. -/
theorem accepted_iff {who : Party} {s : State} :
    accepted who s = true ↔ who.wf = true ∧ s.reaches who = true ∧ (∀ p v, who ≠ .vf p v) ∧
      ∀ p, who.pfIndex = some p → s.ready = true ∧ (s.link p).frozen = false := by
  cases who <;> simp [accepted, Party.pfIndex, and_assoc]

theorem State.clocked_of_reaches {who : Party} {s : State} (h : s.reaches who = true) : s.clocked = true := by
  simp only [State.reaches, Bool.and_eq_true] at h
  exact h.1.1

theorem busWrite_accepted {who : Party} {s : State} (h : accepted who s = true) (early unfrozen : Bool)
    (f : State → State) : busWrite who early unfrozen f s = f s := by
  obtain ⟨_, hreach, _, hpf⟩ := accepted_iff.1 h
  exact busWrite_granted early unfrozen f hreach hpf

theorem pfWrite_accepted {who : Party} {s : State} (h : accepted who s = true) (early unfrozen : Bool)
    (f : State → State) : pfWrite who early unfrozen f s = f s := by
  obtain ⟨_, _, hvf, _⟩ := accepted_iff.1 h
  rw [← busWrite_accepted h early unfrozen f]
  cases who with
  | vf p v => exact absurd rfl (hvf p v)
  | pf p => rfl
  | cores => rfl
  | foreman => rfl
  | sideband => rfl

end Sys2Proof.Machine
end

section
namespace Sys2Proof.Machine

open Sys2Proof.Claims

/-! ## What an audit record changes (R162 to R174) -/

theorem auditReg_eq_false_iff {k : Nat} :
    auditReg k = false ↔ k / 0x100000 ≠ 7 ∧ k ≠ Reg.LOG_CNT_QUEUE_DROP := by
  simp [auditReg]

/-- Only AUD's state and registers, the logbook and its count of dropped events differ. -/
structure AuditOnly (s t : State) : Prop where
  frame : t = { s with regs := t.regs, aud := t.aud, log := t.log }
  reg : ∀ k, auditReg k = false → t.reg k = s.reg k

namespace AuditOnly

theorem refl (s : State) : AuditOnly s s := ⟨rfl, fun _ _ => rfl⟩

theorem trans {s t u : State} (h : AuditOnly s t) (h' : AuditOnly t u) : AuditOnly s u :=
  ⟨by rw [h'.frame, h.frame], fun k hk => (h'.reg k hk).trans (h.reg k hk)⟩

section

variable {s t : State} (h : AuditOnly s t)
include h

theorem foldl {α : Type} {f : State → α → State} (hf : ∀ u x, AuditOnly u (f u x)) (xs : List α) :
    AuditOnly s (xs.foldl f t) := by
  induction xs generalizing t with
  | nil => exact h
  | cons x xs ih => exact ih (h.trans (hf t x))

theorem setReg {k : Nat} (hk : auditReg k = true) (v : Word) : AuditOnly s (t.setReg k v) :=
  h.trans ⟨rfl, fun j hj => State.reg_setReg_ne (by rintro rfl; simp [hk] at hj) v t⟩

theorem count {k : Nat} (hk : auditReg k = true) : AuditOnly s (t.count k) := h.setReg hk _

theorem setAud (a : AudState) : AuditOnly s { t with aud := a } := h.trans ⟨rfl, fun _ _ => rfl⟩

theorem logEvent (number block : Nat) (params : List Nat) : AuditOnly s (t.logEvent number block params) :=
  h.trans ⟨by rw [State.logEvent_frame], fun _ hk =>
    State.reg_logEvent number block params t (by rintro rfl; simp [auditReg] at hk)⟩

theorem ledgerQueue (a : Nat) (ws : List Word) : AuditOnly s (t.ledgerQueue a ws) := h.setAud _

theorem setFill (n : Nat) : AuditOnly s (t.setFill n) := by
  unfold State.setFill
  dsimp only
  split
  · exact (((h.setReg (by decide) _).setAud _).count (by decide)).logEvent _ _ _
  · exact (h.setReg (by decide) _).setAud _

theorem auditWrite (bs : List Byte) : AuditOnly s (t.auditWrite bs) := by
  unfold State.auditWrite
  dsimp only
  split
  · exact ((((h.setAud _).ledgerQueue _ _).setReg (by decide) _).setReg (by decide) _).setFill _
  · exact (((h.ledgerQueue _ _).setReg (by decide) _).setReg (by decide) _).setFill _

theorem auditPut (bs : List Byte) : AuditOnly s (t.auditPut bs) := (h.count (by decide)).auditWrite bs

theorem auditSeal (tail reseal : Bool) : AuditOnly s (t.auditSeal tail reseal) := by
  unfold State.auditSeal
  split
  · exact h
  · split
    · exact h
    · exact (((((((h.auditPut _).setAud _).ledgerQueue _ _).ledgerQueue _ _).ledgerQueue _ _).setReg (by decide) _).setReg
        (by decide) _).count (by decide)

theorem sealDue : AuditOnly s t.sealDue := by
  unfold State.sealDue
  split
  · exact h
  · split
    · exact h.auditSeal _ _
    · exact h

theorem auditUnplace (n : Nat) : AuditOnly s (t.auditUnplace n) := by
  unfold State.auditUnplace
  split
  · exact h
  · exact ((h.setReg (by decide) _).setReg (by decide) _).setAud _

theorem auditStand (r : AuditRec) : AuditOnly s (t.auditStand r) := (h.auditWrite _).setAud _

theorem auditPlace (r : AuditRec) : AuditOnly s (t.auditPlace r) := by
  unfold State.auditPlace
  split
  · exact h.count (by decide)
  · exact (((h.count (by decide)).auditUnplace _).foldl (fun u => (refl u).auditStand) _).setAud _

theorem auditJoin (r : AuditRec) : AuditOnly s (t.auditJoin r) := h.sealDue.auditPlace r

theorem auditAppend (r : AuditRec) : AuditOnly s (t.auditAppend r) := by
  unfold State.auditAppend
  dsimp only
  split
  · exact (h.auditJoin r).auditSeal _ _
  · exact h.auditJoin r

theorem auditGap : AuditOnly s t.auditGap := by
  unfold State.auditGap
  split
  · exact h
  · exact ((h.auditJoin _).setAud _).count (by decide)

theorem auditLose : AuditOnly s t.auditLose := (h.setAud _).count (by decide)

theorem auditReady : AuditOnly s t.auditReady := by
  unfold State.auditReady
  split
  · exact h
  · exact h.sealDue.auditGap.sealDue

/-- Producing a record changes AUD and the logbook alone. -/
theorem audit (r : AuditRec) : AuditOnly s (t.audit r) := by
  unfold State.audit
  dsimp only
  split
  · exact h
  · split
    · exact h.auditReady.auditLose
    · exact h.auditReady.auditAppend r

end

end AuditOnly

end Sys2Proof.Machine
end

section
namespace Sys2Proof.Machine

open Sys2Proof.Claims

/-! ## Following a domain's conditions (R107, R108) -/

/-- A change of a domain's conditions is noted in the domain and in the logbook alone. -/
theorem State.condPoll_frame (d : Nat) (s : State) :
    s.condPoll d = { s with doms := (s.condPoll d).doms, regs := (s.condPoll d).regs, log := (s.condPoll d).log } := by
  unfold State.condPoll
  dsimp only
  split
  · rfl
  · rw [State.logEvent_frame]
    rfl

theorem State.reg_condPoll (d : Nat) (s : State) {k : Nat} (h : k ≠ Reg.LOG_CNT_QUEUE_DROP) :
    (s.condPoll d).reg k = s.reg k := by
  unfold State.condPoll
  dsimp only
  split
  · rfl
  · exact State.reg_logEvent _ _ _ _ h

theorem State.condPollAll_frame (s : State) :
    s.condPollAll = { s with doms := s.condPollAll.doms, regs := s.condPollAll.regs, log := s.condPollAll.log } := by
  unfold State.condPollAll
  generalize List.range 16 = ds
  induction ds generalizing s with
  | nil => rfl
  | cons d ds ih =>
    rw [List.foldl_cons, ih, State.condPoll_frame]

section

variable (s : State)

@[simp] theorem State.condPollAll_copyB : s.condPollAll.copyB = s.copyB := by rw [State.condPollAll_frame]
@[simp] theorem State.condPollAll_copyC : s.condPollAll.copyC = s.copyC := by rw [State.condPollAll_frame]
@[simp] theorem State.condPollAll_ports : s.condPollAll.ports = s.ports := by rw [State.condPollAll_frame]
@[simp] theorem State.condPollAll_aud : s.condPollAll.aud = s.aud := by rw [State.condPollAll_frame]
@[simp] theorem State.condPollAll_ledger : s.condPollAll.ledger = s.ledger := by rw [State.condPollAll_frame]
@[simp] theorem State.condPollAll_links : s.condPollAll.links = s.links := by rw [State.condPollAll_frame]
@[simp] theorem State.condPollAll_funs : s.condPollAll.funs = s.funs := by rw [State.condPollAll_frame]
@[simp] theorem State.condPollAll_rings : s.condPollAll.rings = s.rings := by rw [State.condPollAll_frame]

end

theorem State.reg_condPollAll (s : State) {k : Nat} (h : k ≠ Reg.LOG_CNT_QUEUE_DROP) :
    s.condPollAll.reg k = s.reg k := by
  unfold State.condPollAll
  generalize List.range 16 = ds
  induction ds generalizing s with
  | nil => rfl
  | cons d ds ih => exact (ih _).trans (State.reg_condPoll d s h)

end Sys2Proof.Machine
end

section
namespace Sys2Proof.Machine

open Sys2Proof.Claims

/-! ## What leaves a slot's mode and link as they are -/

/-- The three copies of PORT_MODE of slot n, and the slot's record, are as they were. -/
structure KeepsPort (n : Nat) (s t : State) : Prop where
  reg : t.reg (Reg.PORT_MODE n) = s.reg (Reg.PORT_MODE n)
  copyB : t.copyB = s.copyB
  copyC : t.copyC = s.copyC
  port : t.port n = s.port n

namespace KeepsPort

theorem refl (n : Nat) (s : State) : KeepsPort n s s := ⟨rfl, rfl, rfl, rfl⟩

/-- An effect that leaves the registers, their copies and the ports alone. -/
theorem of_eq (n : Nat) {s t : State} (hr : t.regs = s.regs) (hb : t.copyB = s.copyB) (hc : t.copyC = s.copyC)
    (hp : t.ports = s.ports) : KeepsPort n s t :=
  ⟨State.reg_congr hr _, hb, hc, by simp [State.port, hp]⟩

theorem trans {n : Nat} {s t u : State} (h : KeepsPort n s t) (h' : KeepsPort n t u) : KeepsPort n s u :=
  ⟨h'.reg.trans h.reg, h'.copyB.trans h.copyB, h'.copyC.trans h.copyC, h'.port.trans h.port⟩

section

variable {n : Nat} {s t : State} (h : KeepsPort n s t)
include h

theorem foldl {α : Type} {f : State → α → State} {xs : List α} (hf : ∀ u, ∀ x ∈ xs, KeepsPort n u (f u x)) :
    KeepsPort n s (xs.foldl f t) := by
  induction xs generalizing t with
  | nil => exact h
  | cons x xs ih => exact ih (h.trans (hf t x (by simp))) fun u y hy => hf u y (by simp [hy])

theorem setReg {k : Nat} (hk : Reg.PORT_MODE n ≠ k) (v : Word) : KeepsPort n s (t.setReg k v) :=
  h.trans ⟨State.reg_setReg_ne hk v t, rfl, rfl, rfl⟩

theorem count {k : Nat} (hk : Reg.PORT_MODE n ≠ k) : KeepsPort n s (t.count k) := h.setReg hk _

theorem countBy {k : Nat} (hk : Reg.PORT_MODE n ≠ k) (m : Nat) : KeepsPort n s (t.countBy k m) := by
  unfold State.countBy
  split
  · exact h
  · exact h.setReg hk _

theorem countSlot {k : Nat} (hk : Reg.PORT_MODE n ≠ k) (i : Nat) : KeepsPort n s (t.countSlot i k) := by
  unfold State.countSlot
  split
  · exact h
  · exact h.count hk

theorem countSlotBy {k : Nat} (hk : Reg.PORT_MODE n ≠ k) (i m : Nat) : KeepsPort n s (t.countSlotBy i k m) := by
  unfold State.countSlotBy
  split
  · exact h
  · exact h.countBy hk m

theorem emit (o : Out) : KeepsPort n s (t.emit o) := h.trans (of_eq n rfl rfl rfl rfl)

theorem modEgr (i : Nat) (f : EgressState → EgressState) : KeepsPort n s (t.modEgr i f) :=
  h.trans (of_eq n rfl rfl rfl rfl)

theorem setFree (v : Nat) : KeepsPort n s { t with free := v } := h.trans (of_eq n rfl rfl rfl rfl)

theorem modPolicer (i : Nat) (f : Policer → Policer) : KeepsPort n s (t.modPolicer i f) :=
  h.trans (of_eq n rfl rfl rfl rfl)

theorem setExcBucket (i : Nat) (b : Bucket) : KeepsPort n s (t.setExcBucket i b) :=
  h.trans (of_eq n rfl rfl rfl rfl)

theorem modRel (rel : Nat) (f : Posting → Posting) : KeepsPort n s (t.modRel rel f) :=
  h.trans (of_eq n rfl rfl rfl rfl)

theorem modPort {i : Nat} (hi : n ≠ i) (f : PortState → PortState) : KeepsPort n s (t.modPort i f) :=
  h.trans ⟨rfl, rfl, rfl, State.port_modPort_ne hi f t⟩

theorem complete (c : Nat) (cur : BitVec 32) (fields : List (Nat × List Byte)) :
    KeepsPort n s (t.complete c cur fields) := by
  rw [State.complete_frame]
  exact h.trans (of_eq n rfl rfl rfl rfl)

theorem pfcSettle (i : Nat) : KeepsPort n s (t.pfcSettle i) := by
  unfold State.pfcSettle
  dsimp only
  split
  · exact h
  · split
    · exact (h.modEgr i _).emit _
    · split
      · exact (h.modEgr i _).emit _
      · exact h

theorem poolFree (f : QFrame) : KeepsPort n s (t.poolFree f) := by
  unfold State.poolFree
  split
  · exact h
  · exact (h.modEgr _ _).pfcSettle _

theorem txDone (f : QFrame) (status : Nat) (stamp : Dial) : KeepsPort n s (t.txDone f status stamp) := by
  unfold State.txDone
  split
  · exact h
  · exact h.complete _ _ _

theorem loseFrame (f : QFrame) (status : Nat) : KeepsPort n s (t.loseFrame f status) :=
  (h.txDone f status 0).poolFree f

theorem condPollAll (hn : n < 256) : KeepsPort n s t.condPollAll := by
  refine h.trans ⟨State.reg_condPollAll t ?_, by simp, by simp, by simp [State.port]⟩
  simp only [Reg.PORT_MODE, Reg.LOG_CNT_QUEUE_DROP]
  omega

theorem auditOnly (hn : n < 256) {u : State} (ha : AuditOnly t u) : KeepsPort n s u := by
  refine h.trans ⟨ha.reg _ ?_, ?_, ?_, ?_⟩
  · simp only [auditReg_eq_false_iff, Reg.PORT_MODE, Reg.LOG_CNT_QUEUE_DROP]
    omega
  all_goals rw [ha.frame]
  rfl

theorem audit (hn : n < 256) (r : AuditRec) : KeepsPort n s (t.audit r) := h.auditOnly hn ((AuditOnly.refl t).audit r)

end

end KeepsPort

end Sys2Proof.Machine
end

section
namespace Sys2Proof.Machine

open Sys2Proof.Claims

namespace KeepsPort

/-! ### What a port's leaving UP does on the egress side (R65, R129, R137) -/

theorem ne_copyCounter {n : Nat} (i reason : Nat) : Reg.PORT_MODE n ≠ copyCounter i reason := by
  unfold copyCounter
  split <;>
    simp only [Reg.PORT_MODE, Reg.REL_CNT_COPY_DOWN, Reg.REL_CNT_COPY_LONG, Reg.REL_CNT_COPY_COLLIDE,
      Reg.REL_CNT_COPY_LATE_ARM, Reg.REL_CNT_COPY_LAUNCH_FULL, Reg.REL_CNT_COPY_SECURE, Reg.REL_CNT_COPY_DIAL,
      Reg.REL_CNT_COPY_ABORTED] <;>
    omega

section

variable {n : Nat} {s t : State} (h : KeepsPort n s t) (hn : n < 256)
include h hn

theorem dropCopy (rel i reason : Nat) : KeepsPort n s (t.dropCopy rel i reason) := by
  unfold State.dropCopy
  split
  · exact h
  · exact ((h.modRel rel _).countSlot (ne_copyCounter i reason) i).audit hn _

theorem auditRelease (rel : Nat) : KeepsPort n s (t.auditRelease rel) := by
  unfold State.auditRelease
  split
  · exact h
  · split
    · exact h
    · exact (h.modRel rel _).audit hn _

theorem settleRelease (rel : Nat) : KeepsPort n s (t.settleRelease rel) := by
  have hs := h.auditRelease hn rel
  unfold State.settleRelease
  dsimp only
  split
  · exact hs
  · split
    · exact hs
    · refine (hs.modRel rel _).count ?_
      split_ifs <;>
        simp only [Reg.PORT_MODE, Reg.REL_CNT_ALL_SENT, Reg.REL_CNT_PARTIAL, Reg.REL_CNT_NONE_SENT] <;> omega

theorem copySent (rel i : Nat) : KeepsPort n s (t.copySent rel i) := by
  unfold State.copySent
  split
  · exact h
  · split
    · exact h
    · refine KeepsPort.settleRelease (countSlotBy (countSlot (countSlot (h.modRel rel _) ?_ i) ?_ i) ?_ i _) hn rel
      all_goals
        simp only [Reg.PORT_MODE, Reg.REL_CNT_COPY_SENT, Reg.PORT_CNT_TX_FRAMES, Reg.PORT_CNT_TX_BYTES]
        omega

theorem abortCopies (i : Nat) : KeepsPort n s (t.abortCopies i) := by
  refine h.foldl fun u p _ => ?_
  split
  · exact refl n u
  · split
    · exact (refl n u).copySent hn _ i
    · exact (((refl n u).emit _).dropCopy hn _ i 8).settleRelease hn _

omit hn in
theorem cutWire (i : Nat) : KeepsPort n s (t.cutWire i) := by
  refine (h.modEgr i _).foldl fun u f _ => ?_
  refine (((refl n u).emit _).countSlot ?_ i).loseFrame f 1
  simp only [Reg.PORT_MODE, Reg.REL_CNT_TX_ABORTED]
  omega

theorem wireDone (i : Nat) : KeepsPort n s (t.wireDone i) := by
  unfold State.wireDone
  split
  · exact h
  · dsimp only
    split
    · exact ((h.modEgr i _).setFree _).loseFrame _ _
    · refine poolFree (txDone (countSlot (countSlotBy (countSlot (h.modEgr i _) ?_ i) ?_ i _) ?_ i) _ 0 _) _
      all_goals
        simp only [Reg.PORT_MODE, Reg.PORT_CNT_TX_FRAMES, Reg.PORT_CNT_TX_BYTES, Reg.REL_CNT_Q_SENT]
        omega

theorem egressDown (i : Nat) : KeepsPort n s (t.egressDown i) := by
  unfold State.egressDown
  dsimp only
  split
  · exact (((h.wireDone hn i).cutWire i).abortCopies hn i).modEgr i _
  · exact ((h.cutWire i).abortCopies hn i).modEgr i _

theorem leaveUp (i : Nat) (cut : Bool) : KeepsPort n s (t.leaveUp i cut) := by
  unfold State.leaveUp
  dsimp only
  split
  · refine countSlot (countSlot (h.egressDown hn i) ?_ i) ?_ i
    all_goals
      simp only [Reg.PORT_MODE, Reg.PORT_CNT_RX_ABORTED, Reg.PORT_CNT_STAMP_DISCARD]
      omega
  · exact h.egressDown hn i

/-- Switching off another slot. -/
theorem linkOff {i : Nat} (hi : n ≠ i) : KeepsPort n s (t.linkOff i) := by
  unfold State.linkOff
  dsimp only
  split
  · exact (h.leaveUp hn i false).modPort hi _
  · exact h.modPort hi _

omit hn in
/-- Enabling another slot. -/
theorem linkOn {i : Nat} (hi : n ≠ i) : KeepsPort n s (t.linkOn i) :=
  ((h.modPort hi _).modPolicer i _).setExcBucket i _

end

end KeepsPort

/-! ## PORT_MODE written (R61, R62, R65) -/

/-- The slots that a mode covers lie above its own (R11). -/
theorem ne_of_mem_coveredBy {n k : Nat} {m : Word} (h : k ∈ coveredBy n m) : n ≠ k := by
  simp only [coveredBy, List.mem_map] at h
  obtain ⟨i, hi, rfl⟩ := h
  have : i ≠ 0 := by
    rintro rfl
    cases hl : lanesOf (speedOf m) <;> simp [hl, List.range_succ_eq_map] at hi
  omega

/-- A slot that is switched off is DISABLED. -/
theorem State.linkOff_link (n : Nat) (s : State) : ((s.linkOff n).port n).link = .disabled := by
  simp [State.linkOff, PortState.reset]

/-- The three copies of PORT_MODE of slot n hold a mode. -/
structure ModeStored (n : Nat) (m : Word) (s : State) : Prop where
  reg : s.reg (Reg.PORT_MODE n) = m
  regB : s.regB (Reg.PORT_MODE n) = m
  regC : s.regC (Reg.PORT_MODE n) = m

/-- Enabling a slot leaves the registers alone. -/
theorem ModeStored.linkOn {n : Nat} {m : Word} {s : State} (h : ModeStored n m s) (i : Nat) :
    ModeStored n m (s.linkOn i) := by
  have hr : (s.linkOn i).regs = s.regs := rfl
  have hb : (s.linkOn i).copyB = s.copyB := rfl
  have hc : (s.linkOn i).copyC = s.copyC := rfl
  exact ⟨(State.reg_congr hr _).trans h.reg, by simpa [State.regB, hb] using h.regB,
    by simpa [State.regC, hc] using h.regC⟩

theorem ModeStored.keep {n : Nat} {m : Word} {s t : State} (h : ModeStored n m s) (hk : KeepsPort n s t) :
    ModeStored n m t :=
  ⟨hk.reg.trans h.reg, by simpa [State.regB, hk.copyB] using h.regB, by simpa [State.regC, hk.copyC] using h.regC⟩

/-- The bits of PORT_MODE below its reserved ones say whether a mode changes. -/
theorem modeChange_of_masked (old v : Word) : (old ^^^ (v &&& 0x3FF)) &&& 0x3FE = (old ^^^ v) &&& 0x3FE := by
  have hmask : ∀ (i : Nat) (hi : i < 64), (0x3FE : Word)[i] = true → (0x3FF : Word)[i] = true := by decide
  ext i hi
  simp only [BitVec.getElem_and, BitVec.getElem_xor]
  cases h : (0x3FE : Word)[i] with
  | false => simp only [Bool.and_false]
  | true => simp only [hmask i hi h, Bool.and_true]

/-- A refused mode counts, and nothing else. -/
theorem portModeWrite_refused {n : Nat} {v : Word} {s : State}
    (h : modeValid (v &&& 0x3FF) = false ∨ ((s.portMode n ^^^ v) &&& 0x3FE ≠ 0 ∧ s.feedsOpen n = true)) :
    portModeWrite n v s = s.count Reg.PORT_CNT_MODE_REFUSED := by
  unfold portModeWrite
  dsimp only
  rw [modeChange_of_masked, if_pos]
  rcases h with h | ⟨hother, hopen⟩
  · exact .inl (by rw [h]; rfl)
  · exact .inr (.inr ⟨decide_eq_true hother, hopen⟩)

/-- A permitted mode on a slot that feeds no open domain stands in all three copies. -/
theorem portModeWrite_stores {n : Nat} {v : Word} {s : State} (hn : n < 256) (hvalid : modeValid (v &&& 0x3FF) = true)
    (halign : n % lanesOf (speedOf (v &&& 0x3FF)) = 0) (hclosed : s.feedsOpen n = false) :
    ModeStored n (v &&& 0x3FF) (portModeWrite n v s) ∧
      (bit (s.portMode n) 0 = true → bit v 0 = false → ((portModeWrite n v s).port n).link = .disabled) := by
  unfold portModeWrite
  extract_lets old new other retrain up s1 s2 s3 s4 s5 s6 s7
  rw [if_neg (by simp only [new, hvalid, halign, hclosed]; simp)]
  have hstored : ModeStored n new s3 :=
    ⟨State.reg_setRv_self _ _ _, State.regB_setRv_self _ _ _, State.regC_setRv_self _ _ _⟩
  have h34 : KeepsPort n s3 s4 := by
    unfold s4
    split
    · exact (KeepsPort.refl n s3).foldl fun u k hk => (KeepsPort.refl n u).linkOff hn (ne_of_mem_coveredBy hk)
    · exact KeepsPort.refl n s3
  have h35 : KeepsPort n s3 s5 := by
    unfold s5
    split
    · exact h34.modEgr n _
    · exact h34
  have h6 : ModeStored n new s6 := by
    have h5 := hstored.keep h35
    unfold s6
    split
    · exact h5.linkOn n
    · exact h5
  have h67 : KeepsPort n s6 s7.condPollAll := by
    refine KeepsPort.condPollAll (KeepsPort.foldl (KeepsPort.refl n s6) fun u k hk => ?_) hn
    exact (KeepsPort.refl n u).linkOn (ne_of_mem_coveredBy (List.mem_filter.1 hk).1)
  refine ⟨h6.keep h67, fun hon hoff => ?_⟩
  have hnew : bit new 0 = false := by simpa [new, bit] using hoff
  have h56 : s6 = s5 := if_neg (by simp [hnew])
  have h2 : s2 = s1.linkOff n := if_pos (by simp [old, hon, hnew])
  have h23 : s3.port n = s2.port n := rfl
  rw [h67.port, h56, h35.port, h23, h2]
  exact State.linkOff_link n s1

end Sys2Proof.Machine
end

section
namespace Sys2Proof.Machine

open Sys2Proof.Claims

/-! ## PORT_MODE's statement (R11, R61, R62) -/

section

variable (l name : Nat) (s : State)

@[simp] theorem State.portMode_unstage (n : Nat) : (s.unstage l name).portMode n = s.portMode n :=
  State.voted_unstage l name s (by simp only [Reg.PORT_MODE, Reg.GEN_CNT_SPLIT_DISCARD]; omega)

@[simp] theorem State.isIdle_unstage (n : Nat) : (s.unstage l name).isIdle n = s.isIdle n := by
  simp [State.isIdle, State.portOfLane, State.slotOn]

@[simp] theorem State.isOpen_unstage (d : Nat) : (s.unstage l name).isOpen d = s.isOpen d := by
  rw [State.isOpen, State.dom, State.unstage_doms]
  rfl

@[simp] theorem State.anyOpen_unstage : (s.unstage l name).anyOpen = s.anyOpen := by
  simp [State.anyOpen, funext (State.isOpen_unstage l name s)]

@[simp] theorem State.inFeed_unstage (d n : Nat) : (s.unstage l name).inFeed d n = s.inFeed d n := by
  have hne : Reg.SEQ_FEED d (n / 64) ≠ Reg.GEN_CNT_SPLIT_DISCARD := by
    simp only [Reg.SEQ_FEED, Reg.GEN_CNT_SPLIT_DISCARD]
    omega
  simp [State.inFeed, State.reg_unstage_ne l name s hne]

@[simp] theorem State.feedsOpen_unstage (n : Nat) : (s.unstage l name).feedsOpen n = s.feedsOpen n := by
  simp [State.feedsOpen]

end

/-- A write to PORT_MODE that is taken acts on the slot, a half staged for the register having been discarded. -/
theorem exec_portModeWrite {who : Party} {slot : Nat} {s : State} (v : Word) (hslot : slot < 256)
    (hacc : accepted who s = true) (hrun : running 2 s = true) :
    exec (.portModeWrite who slot v) s =
      .next (onSlot slot (portModeWrite slot v) (discarded who (Reg.PORT_MODE slot) s)) := by
  have hwf : Instr.wf (.portModeWrite who slot v) = true := by
    show (who.wf && decide (slot < 256)) = true
    simp [(accepted_iff.1 hacc).1, hslot]
  show execPortModeWrite who slot v s = _
  rw [execPortModeWrite, hwf, within_true, pfWrite_accepted hacc, whole, unlessStopped_running]
  · rfl
  · exact running_unstage _ _ hrun

theorem onSlot_of_idle {n : Nat} {s : State} (h : s.isIdle n = true) (f : State → State) :
    onSlot n f s = s.count Reg.PORT_CNT_IDLE_SLOT_WRITES := by
  simp [onSlot, h]

theorem onSlot_of_own {n : Nat} {s : State} (h : s.isIdle n = false) (f : State → State) : onSlot n f s = f s := by
  simp [onSlot, h]

/-- Settles O10: a taken write is refused with a count (portModeWrite_refused), or stands in every copy
(portModeWrite_stores). -/
theorem portModesStoredOrRefused : Obligations.PortModesStoredOrRefused := by
  unfold Obligations.PortModesStoredOrRefused
  constructor
  · intro who slot v s hslot hacc hrun hidle hvalid halign hclosed
    have hidle' : (discarded who (Reg.PORT_MODE slot) s).isIdle slot = false := by simpa [discarded] using hidle
    have hclosed' : (discarded who (Reg.PORT_MODE slot) s).feedsOpen slot = false := by
      simpa [discarded] using hclosed
    obtain ⟨hstored, hoff⟩ := portModeWrite_stores hslot hvalid halign hclosed'
    refine ⟨_, exec_portModeWrite v hslot hacc hrun, ?_⟩
    rw [onSlot_of_own hidle']
    exact ⟨hstored.reg, hstored.regB, hstored.regC, by simpa [discarded] using hoff⟩
  · intro who slot v s hslot hacc hrun
    refine ⟨fun hidle => ⟨_, exec_portModeWrite v hslot hacc hrun, ?_⟩, fun hidle hbad =>
      ⟨_, exec_portModeWrite v hslot hacc hrun, ?_⟩⟩
    · rw [onSlot_of_idle (by simpa [discarded] using hidle)]
      exact ⟨counts_count_discarded (by decide) who _ s, onlyRegs_count _ _⟩
    · rw [onSlot_of_own (by simpa [discarded] using hidle), portModeWrite_refused (by simpa [discarded] using hbad)]
      exact ⟨counts_count_discarded (by decide) who _ s, onlyRegs_count _ _⟩

end Sys2Proof.Machine
end

section
namespace Sys2Proof.Machine

open Sys2Proof.Claims

/-! ## Completing the entry at the head of a ring (R237, R244, R248, R255) -/

theorem issues_eq_dmaOpen (fn : Party) (s : State) : issues fn s = s.dmaOpen fn := by
  unfold issues State.dmaOpen State.dmaLost
  cases fn.pfIndex with
  | none => rfl
  | some p =>
    simp only [Bool.not_or, Bool.not_not]
    ac_rfl

/-- What atHead says of the entry. -/
theorem atHead_iff {c : Nat} {x : Taken} {s : State} :
    atHead c x s = true ↔ (s.ring c).head = some x ∧
      (s.ring c).taken.find? (fun t => t.cursor == x.cursor) = some x ∧ x.abandoned = false ∧ x.held = false := by
  simp [atHead, and_assoc]

@[simp] theorem State.doneCur_ringIrq (c : Nat) (s : State) : ((s.ringIrq c).ring c).doneCur = (s.ring c).doneCur := by
  unfold State.ringIrq
  dsimp only
  split
  · rfl
  · split
    · rw [State.msixFor_frame]
      simp [State.ring, State.modRing, Store.modify]
    · simp

@[simp] theorem State.doneCur_drainCheck (c : Nat) (s : State) :
    ((s.drainCheck c).ring c).doneCur = (s.ring c).doneCur := by
  unfold State.drainCheck
  dsimp only
  split
  · simp
  · rfl

theorem State.doneCur_entryDone (c : Nat) (cur : BitVec 32) (s : State) :
    ((s.entryDone c cur).ring c).doneCur = (s.ring c).doneCur + 1 := by
  simp [State.entryDone]

@[simp] theorem State.writeBack_rings (c : Nat) (x : Taken) (fields : List (Nat × List Byte)) (s : State) :
    (s.writeBack c x fields).rings = s.rings := by
  rw [State.writeBack_frame]

/-- An entry that stands on its ring, neither abandoned nor held, completes at once where its function may send. -/
theorem State.doneCur_complete {c : Nat} {x : Taken} {s : State} (fields : List (Nat × List Byte))
    (hfind : (s.ring c).taken.find? (fun t => t.cursor == x.cursor) = some x) (habandoned : x.abandoned = false)
    (hheld : x.held = false) :
    ((s.complete c x.cursor fields).ring c).doneCur =
      (s.ring c).doneCur + BitVec.ofNat 32 (b2n (s.dmaOpen (s.ring c).owner)) := by
  have hback : (s.writeBack c x fields).ring c = s.ring c := by simp [State.ring]
  unfold State.complete
  simp only [hfind, habandoned, hheld, Bool.false_eq_true, if_false]
  cases s.dmaOpen (s.ring c).owner with
  | true => simp [State.doneCur_entryDone, hback, b2n]
  | false => simp [hback, b2n]

/-- The ledger after a word write depends on the ledger before it alone. -/
theorem State.ledgerWord_ledger_congr {s t : State} (h : t.ledger = s.ledger) (a : Nat) (v : Word) :
    (t.ledgerWord a v).ledger = (s.ledgerWord a v).ledger := by
  unfold State.ledgerWord
  split <;> simp [h]

@[simp] theorem State.adminDone_regs (c : Nat) (x : Taken) (status result : Nat) (s : State) :
    (s.adminDone c x status result).regs = s.regs := by
  rw [State.adminDone_frame]

/-- The entry at the head of an ADMIN ring completes with a status, whatever the command has changed beside the rings, the
links, the functions and the ledger. -/
theorem adminEnds_adminDone {c : Nat} {x : Taken} {s t : State} (status result : Nat) (hhead : atHead c x s = true)
    (hrings : t.rings = s.rings) (hlinks : t.links = s.links) (hfuns : t.funs = s.funs) (hledger : t.ledger = s.ledger) :
    adminEnds c status x s (t.adminDone c x status result) := by
  obtain ⟨_, hfind, habandoned, hheld⟩ := atHead_iff.1 hhead
  constructor
  · have hring : (t.endTally x.tally status 0 c).ring c = s.ring c := by
      rw [State.endTally, State.ledgerWord_frame]
      simp [State.ring, hrings]
    have hopen : (t.endTally x.tally status 0 c).dmaOpen (s.ring c).owner = s.dmaOpen (s.ring c).owner := by
      rw [State.endTally, State.ledgerWord_frame]
      simp [State.dmaOpen, State.dmaLost, State.link, State.fn, hlinks, hfuns]
    rw [oneDone, issues_eq_dmaOpen, State.adminDone, State.doneCur_complete _ (by rw [hring]; exact hfind) habandoned
      hheld, hring, hopen]
  · rw [State.adminDone_frame]
    exact State.ledgerWord_ledger_congr hledger _ _

/-- An ADMIN command that stores a register and follows the conditions completes its entry. -/
theorem adminEnds_setReg_condPollAll {c : Nat} {x : Taken} {s : State} (status result : Nat)
    (hhead : atHead c x s = true) (k : Nat) (v : Word) :
    adminEnds c status x s (((s.setReg k v).condPollAll).adminDone c x status result) :=
  adminEnds_adminDone status result hhead (by simp) (by simp) (by simp) (by simp)

/-- What adminAt says of its ring. -/
theorem adminAt_iff {c op : Nat} {x : Taken} {s : State} :
    adminAt c op x s = true ↔ c < 65536 ∧ s.clocked = true ∧ atHead c x s = true ∧ (s.ring c).type = 5 ∧
      adminOpcode x.desc = op ∧ adminPermitted (s.ring c).owner op = true := by
  simp [adminAt, and_assoc]

/-- The command at the head of an ADMIN ring runs. -/
theorem onAdmin_of_adminAt {c op : Nat} {x : Taken} {s : State} (h : adminAt c op x s = true)
    (f : Taken → Party → State → State) : onAdmin c op f s = f x (s.ring c).owner s := by
  obtain ⟨_, _, hat, htype, hop, hperm⟩ := adminAt_iff.1 h
  obtain ⟨hhead, _⟩ := atHead_iff.1 hat
  simp [onAdmin, hhead, htype, hop, hperm]

/-! ## ADMIT_SET (R79, R335) -/

theorem exec_admitSet {c : Nat} {x : Taken} {s : State} (h : adminAt c 0x20 x s = true) :
    exec (.admitSet c) s = .next (admitSet c s) := by
  obtain ⟨hc, hclock, _⟩ := adminAt_iff.1 h
  have hwf : Instr.wf (.admitSet c) = true := decide_eq_true hc
  show execAdmitSet c s = _
  rw [execAdmitSet, hwf, within_true, whenClocked_of hclock]

section

variable {c : Nat} {x : Taken} {s : State} (h : adminAt c 0x20 x s = true)
include h

theorem admitSet_refused
    (hbad : 150000000 < bits (adminParam x.desc 1) 31 0 ∨
      s.storeFits (fun i => if i = bits (adminParam x.desc 0) 7 0 then bits (adminParam x.desc 1) 31 0
        else s.admitRate i) s.seqCfg = false) :
    admitSet c s = s.adminDone c x configLimit 0 := by
  rw [admitSet, onAdmin_of_adminAt h]
  exact if_pos (hbad.imp_right fun hfit => by rw [hfit]; rfl)

variable (hrate : bits (adminParam x.desc 1) 31 0 ≤ 150000000)
  (hfits : s.storeFits (fun i => if i = bits (adminParam x.desc 0) 7 0 then bits (adminParam x.desc 1) 31 0
    else s.admitRate i) s.seqCfg = true)
include hrate hfits

theorem admitSet_idle (hidle : s.isIdle (bits (adminParam x.desc 0) 7 0) = true) :
    admitSet c s = (s.count Reg.PORT_CNT_IDLE_SLOT_WRITES).adminDone c x 0 0 := by
  rw [admitSet, onAdmin_of_adminAt h]
  dsimp only
  rw [if_neg (by simp [hfits, hrate]), if_pos hidle]

theorem admitSet_stores (hidle : s.isIdle (bits (adminParam x.desc 0) 7 0) = false) :
    admitSet c s = ((s.setReg (Reg.PIPE_ADMIT (bits (adminParam x.desc 0) 7 0))
      (word (bits (adminParam x.desc 1) 31 0 + bits (adminParam x.desc 1) 47 32 * 2 ^ 32))).condPollAll).adminDone
        c x 0 0 := by
  rw [admitSet, onAdmin_of_adminAt h]
  dsimp only
  rw [if_neg (by simp [hfits, hrate]), if_neg (by simp [hidle])]

end

/-! ## Templates (R76, R88, R89) -/

@[simp] theorem State.stagedWord_storeMasked (j k : Nat) (v : Word) (s : State) :
    (s.storeMasked k v).stagedWord j = s.stagedWord j := rfl

/-- Committing the staged words of registers. -/
def State.commitStaged (ks : List Nat) (s : State) : State := ks.foldl (fun s k => s.storeMasked k (s.stagedWord k)) s

theorem State.commitStaged_frame (ks : List Nat) (s : State) :
    s.commitStaged ks = { s with regs := (s.commitStaged ks).regs } := by
  induction ks generalizing s with
  | nil => rfl
  | cons k ks ih => exact ih _

/-- Each of the registers takes the writable bits of its staged word; every other stays. -/
theorem State.reg_commitStaged {ks : List Nat} (hks : ks.Nodup) (s : State) (j : Nat) :
    (s.commitStaged ks).reg j =
      if j ∈ ks then (s.reg j &&& ~~~(writableBits j)) ||| (s.stagedWord j &&& writableBits j) else s.reg j := by
  induction ks generalizing s with
  | nil => rfl
  | cons k ks ih =>
    obtain ⟨hk, hks⟩ := List.nodup_cons.1 hks
    rw [State.commitStaged, List.foldl_cons, ← State.commitStaged, ih hks]
    by_cases hj : j = k
    · subst hj
      simp [hk]
    · simp [hj, State.reg_storeMasked_ne hj]

theorem exec_pipeTmplW0Write {who : Party} {i : Nat} {s : State} (v : Word) (hi : i < 1024)
    (hacc : accepted who s = true) :
    exec (.pipeTmplW0Write who i v) s = .next (pipeTmplW0Write i v (discarded who (Reg.PIPE_TMPL_W0 i) s)) := by
  have hwf : Instr.wf (.pipeTmplW0Write who i v) = true := by
    show (who.wf && decide (i < 1024)) = true
    simp [(accepted_iff.1 hacc).1, hi]
  show execPipeTmplW0Write who i v s = _
  rw [execPipeTmplW0Write, hwf, within_true, pfWrite_accepted hacc]
  rfl

theorem pipeTmplW0Write_refused {i : Nat} {v : Word} {s : State} (h : s.anyOpen = true ∨ bits v 25 16 ≠ i) :
    pipeTmplW0Write i v s = s.count Reg.PIPE_CNT_TMPL_REFUSED := if_pos h

theorem pipeTmplW0Write_commits {i : Nat} {v : Word} {s : State} (hclosed : s.anyOpen = false)
    (hid : bits v 25 16 = i) :
    pipeTmplW0Write i v s = (s.storeMasked (Reg.PIPE_TMPL_W0 i) v).commitStaged
      [Reg.PIPE_TMPL_W1 i, Reg.PIPE_TMPL_W2 i, Reg.PIPE_TMPL_W3 i] :=
  if_neg (by simp [hclosed, hid])

/-- The four words of a template are four registers. -/
theorem templateWords_distinct (i : Nat) :
    Reg.PIPE_TMPL_W0 i ∉ [Reg.PIPE_TMPL_W1 i, Reg.PIPE_TMPL_W2 i, Reg.PIPE_TMPL_W3 i] ∧
      [Reg.PIPE_TMPL_W1 i, Reg.PIPE_TMPL_W2 i, Reg.PIPE_TMPL_W3 i].Nodup := by
  simp [Reg.PIPE_TMPL_W0, Reg.PIPE_TMPL_W1, Reg.PIPE_TMPL_W2, Reg.PIPE_TMPL_W3]

/-- None of a template's words is the counter of discarded halves. -/
theorem templateWord_ne_splitDiscard {i k : Nat}
    (hk : k ∈ [Reg.PIPE_TMPL_W0 i, Reg.PIPE_TMPL_W1 i, Reg.PIPE_TMPL_W2 i, Reg.PIPE_TMPL_W3 i]) :
    k ≠ Reg.GEN_CNT_SPLIT_DISCARD := by
  simp only [List.mem_cons, List.not_mem_nil, or_false, Reg.PIPE_TMPL_W0, Reg.PIPE_TMPL_W1, Reg.PIPE_TMPL_W2,
    Reg.PIPE_TMPL_W3] at hk
  simp only [Reg.GEN_CNT_SPLIT_DISCARD]
  omega

/-- A template that may be written holds the written word and its staged words, and nothing else has changed. -/
theorem pipeTmplW0Write_stores {i : Nat} {v : Word} (who : Party) {s : State} (hclosed : s.anyOpen = false)
    (hid : bits v 25 16 = i) :
    let k0 := Reg.PIPE_TMPL_W0 i
    let t := pipeTmplW0Write i v (discarded who k0 s)
    t.reg k0 = (s.reg k0 &&& ~~~(writableBits k0)) ||| (v &&& writableBits k0) ∧
      (∀ k ∈ [Reg.PIPE_TMPL_W1 i, Reg.PIPE_TMPL_W2 i, Reg.PIPE_TMPL_W3 i],
        t.reg k = (s.reg k &&& ~~~(writableBits k)) ||| (s.stagedWord k &&& writableBits k)) ∧
      onlyRegs [k0, Reg.PIPE_TMPL_W1 i, Reg.PIPE_TMPL_W2 i, Reg.PIPE_TMPL_W3 i] (discarded who k0 s) t := by
  intro k0 t
  obtain ⟨hk0, hnodup⟩ := templateWords_distinct i
  have hreg : ∀ k ∈ [k0, Reg.PIPE_TMPL_W1 i, Reg.PIPE_TMPL_W2 i, Reg.PIPE_TMPL_W3 i],
      (discarded who k0 s).reg k = s.reg k := fun k hk =>
    State.reg_unstage_ne _ _ s (templateWord_ne_splitDiscard hk)
  have hother : ∀ k, k ≠ k0 → ((discarded who k0 s).storeMasked k0 v).reg k = (discarded who k0 s).reg k :=
    fun k hk => State.reg_storeMasked_ne hk v _
  have ht : t = _ := pipeTmplW0Write_commits (by simpa [discarded] using hclosed) hid
  rw [ht]
  refine ⟨?_, fun k hk => ?_, ?_, fun k hk => ?_⟩
  · rw [State.reg_commitStaged hnodup, if_neg hk0, State.reg_storeMasked_self, hreg k0 (by simp)]
  · have hne : k ≠ k0 := by
      rintro rfl
      exact hk0 hk
    rw [State.reg_commitStaged hnodup, if_pos hk, hother k hne, hreg k (List.mem_cons_of_mem _ hk),
      State.stagedWord_storeMasked]
    simp [State.stagedWord, discarded]
  · rw [State.commitStaged_frame]
    rfl
  · rw [List.mem_cons, not_or] at hk
    rw [State.reg_commitStaged hnodup, if_neg hk.2, hother k hk.1]

/-- Settles O24: the command's effect by its checks (admitSet_refused, admitSet_idle, admitSet_stores) and the entry's
completion (adminEnds_adminDone); a template's words by pipeTmplW0Write_stores. -/
theorem admissionAndTemplatesConfigured : Obligations.AdmissionAndTemplatesConfigured := by
  unfold Obligations.AdmissionAndTemplatesConfigured
  constructor
  · intro c x s h n rate fits
    obtain ⟨_, _, hhead, _⟩ := adminAt_iff.1 h
    refine ⟨_, exec_admitSet h, fun hrate hfits hidle => ?_, fun hrate hfits hidle => ?_, fun hbad => ?_⟩
    · rw [admitSet_stores h hrate hfits hidle]
      refine ⟨(adminEnds_setReg_condPollAll 0 0 hhead _ _).1, ?_⟩
      rw [State.reg_congr (State.adminDone_regs _ _ _ _ _), State.reg_condPollAll, State.reg_setReg_self]
      simp only [Reg.PIPE_ADMIT, Reg.LOG_CNT_QUEUE_DROP]
      omega
    · rw [admitSet_idle h hrate hfits hidle]
      refine ⟨adminEnds_adminDone 0 0 hhead rfl rfl rfl rfl, ?_, ?_⟩
      · rw [counts_one_iff, State.reg_congr (State.adminDone_regs _ _ _ _ _), State.reg_count_self]
      · rw [State.reg_congr (State.adminDone_regs _ _ _ _ _), State.reg_count_ne]
        simp only [Reg.PIPE_ADMIT, Reg.PORT_CNT_IDLE_SLOT_WRITES]
        omega
    · rw [admitSet_refused h hbad]
      exact ⟨adminEnds_adminDone _ 0 hhead rfl rfl rfl rfl, State.reg_congr (State.adminDone_regs _ _ _ _ _) _⟩
  · intro who i v s hi hacc k0
    refine ⟨fun hclosed hid => ⟨_, exec_pipeTmplW0Write v hi hacc, pipeTmplW0Write_stores who hclosed hid⟩,
      fun hbad => ⟨_, exec_pipeTmplW0Write v hi hacc, ?_⟩⟩
    rw [pipeTmplW0Write_refused (by simpa [discarded] using hbad)]
    exact ⟨counts_count_discarded (by decide) who _ s, onlyRegs_count _ _⟩

end Sys2Proof.Machine
end

section
namespace Sys2Proof.Machine

open Sys2Proof.Claims

/-! ## The three forms of a register write (R219, R361 to R365) -/

theorem exec_registerWrite {who : Party} {s : State} (hwf : who.wf = true) (hclock : s.clocked = true) (a size : Nat)
    (v : BusValue) : exec (.registerWrite who a size v) s = .next (registerWrite who a size v s) := by
  have hok : Instr.wf (.registerWrite who a size v) = true := hwf
  show execRegisterWrite who a size v s = _
  rw [execRegisterWrite, hok, within_true, whenClocked_of hclock]

theorem exec_lowHalfWrite {who : Party} {s : State} (hwf : who.wf = true) (hclock : s.clocked = true) (a : Nat)
    (lo : BitVec 32) : exec (.lowHalfWrite who a lo) s = .next (writeLow who a lo s) := by
  have hok : Instr.wf (.lowHalfWrite who a lo) = true := hwf
  show execLowHalfWrite who a lo s = _
  rw [execLowHalfWrite, hok, within_true, whenClocked_of hclock]

theorem exec_highHalfWrite {who : Party} {s : State} (hwf : who.wf = true) (hclock : s.clocked = true) (a : Nat)
    (hi : BitVec 32) : exec (.highHalfWrite who a hi) s = .next (writeHigh who a hi s) := by
  have hok : Instr.wf (.highHalfWrite who a hi) = true := hwf
  show execHighHalfWrite who a hi s = _
  rw [execHighHalfWrite, hok, within_true, whenClocked_of hclock]

/-- A half as the bus brings it. -/
theorem half_of_word (x : BitVec 32) : BitVec.ofNat 32 (bits (word x.toNat) 31 0) = x := by
  apply BitVec.eq_of_toNat_eq
  have := x.isLt
  simp [bits, word]
  omega

theorem registerWrite_whole {a : Nat} (ha : a % 8 = 0) (who : Party) (v : Word) (s : State) :
    registerWrite who a 8 ⟨v, false⟩ s = write64 who a v s := by
  simp [registerWrite, accessAligned, ha]

theorem registerWrite_low {a : Nat} (ha : a % 8 = 0) (who : Party) (lo : BitVec 32) (s : State) :
    registerWrite who a 4 ⟨word lo.toNat, false⟩ s = writeLow who a lo s := by
  have h4 : a % 4 = 0 := by omega
  simp [registerWrite, accessAligned, ha, h4, half_of_word]

theorem registerWrite_high {a : Nat} (ha : a % 8 = 4) (who : Party) (hi : BitVec 32) (s : State) :
    registerWrite who a 4 ⟨word hi.toNat, false⟩ s = writeHigh who a hi s := by
  have h4 : a % 4 = 0 := by omega
  simp [registerWrite, accessAligned, ha, h4, half_of_word]

/-! ## A write that is taken at a canonical address (R231, R233, R361) -/

section

variable {who : Party} {a : Nat} {t : Target} {s : State} (htarget : target who a = some t)
  (hcanon : aliased who a = false)
include htarget hcanon

theorem onAccess_canonical (f : Target → State → State) :
    onAccess who a f s = busWrite who (earlySlot who a) (isFreeze who a) (f t) s := by
  simp [onAccess, htarget, hcanon]

theorem onAccess_accepted (hacc : accepted who s = true) (f : Target → State → State) :
    onAccess who a f s = f t s := by
  rw [onAccess_canonical htarget hcanon, busWrite_accepted hacc]

end

/-- Before the datapath is ready a PF's write outside GEN, HOST and BOOT is ignored and counted. -/
theorem busWrite_notReady {p : Nat} {s : State} (hreach : s.reaches (.pf p) = true) (hready : s.ready = false)
    (unfrozen : Bool) (f : State → State) : busWrite (.pf p) false unfrozen f s = s.count Reg.GEN_CNT_IGNORED := by
  simp [busWrite, Party.pfIndex, hreach, hready, State.ignored]

/-- While its link is frozen a PF's write to any register but HOST_FREEZE is ignored and counted. -/
theorem busWrite_frozen {p : Nat} {s : State} (hreach : s.reaches (.pf p) = true) (hready : s.ready = true)
    (hfrozen : (s.link p).frozen = true) (early : Bool) (f : State → State) :
    busWrite (.pf p) early false f s = s.count (Reg.HOST_CNT_FROZEN_WRITE p) := by
  simp [busWrite, Party.pfIndex, hreach, hready, hfrozen]

/-! ## What a write to a register of a block slot does -/

/-- A register of a block slot that a write reaches at its canonical address, taken and with its block running. -/
structure Writes (who : Party) (a : Nat) (r : RegRow) (idx : List Nat) (k : Nat) (s : State) : Prop where
  acc : accepted who s = true
  target : target who a = some (.reg r idx k)
  canonical : aliased who a = false
  slot : r.slot ≠ 9
  runs : ∀ b, slotBlock r.slot = some b → running b s = true

namespace Writes

variable {who : Party} {a : Nat} {r : RegRow} {idx : List Nat} {k : Nat} {s : State}

/-- The write goes to the row's rule: its block runs also once staged halves are gone. -/
theorem commit (h : Writes who a r idx k s) (v : Word) {u : State}
    (hu : ∀ b, running b s = true → running b u = true) :
    u.commit who (.reg r idx k) v = u.writeRow who r idx k v := by
  have hslot : ¬(r.slot = 9 ∧ (!u.pfExists (idx.headD 0)) = true) := fun e => h.slot e.1
  simp only [State.commit, if_neg hslot, whileRuns]
  split
  · rename_i b hb
    exact unlessStopped_running (hu b (h.runs b hb)) _
  · rfl

theorem write64 (h : Writes who a r idx k s) (v : Word) :
    Machine.write64 who a v s = (s.unstage (latchKey who a) (regName who a)).writeRow who r idx k v := by
  rw [Machine.write64, onAccess_accepted h.target h.canonical h.acc]
  exact h.commit v fun b => running_unstage _ _

theorem running_setLatch {b : Nat} (key : Nat) (x : Nat × BitVec 32) (h : running b s = true) :
    running b (s.setLatch key x) = true :=
  running_congr rfl (fun _ _ => rfl) rfl rfl h

/-- A low half of a register whose halves wait is staged; another register's half is discarded and counted. -/
theorem writeLow (h : Writes who a r idx k s) (hw : r.write ≠ .ringDoorbell) (lo : BitVec 32) :
    Machine.writeLow who a lo s =
      (if (s.latch (latchKey who a)).1 ≠ 0 ∧ (s.latch (latchKey who a)).1 ≠ regName who a then
        s.count Reg.GEN_CNT_SPLIT_DISCARD else s).setLatch (latchKey who a) (regName who a, lo) := by
  have hact : actsAtOnce who a = false := by simp [actsAtOnce, h.target, hw]
  rw [Machine.writeLow, onAccess_accepted h.target h.canonical h.acc]
  simp [Target.halves, hact]

/-- A high half commits with the low half staged for its register. -/
theorem writeHigh (h : Writes who a r idx k s) (hw : r.write ≠ .ringDoorbell) (hi : BitVec 32)
    (hheld : (s.latch (latchKey who a)).1 = regName who a) :
    Machine.writeHigh who a hi s =
      (s.setLatch (latchKey who a) latchEmpty).writeRow who r idx k (hi ++ (s.latch (latchKey who a)).2) := by
  have hact : actsAtOnce who a = false := by simp [actsAtOnce, h.target, hw]
  have hready : ¬(who.isHost = true ∧ s.reaches who = true ∧ (!s.ready) = true ∧ (!earlySlot who a) = true) := by
    rintro ⟨hhost, _, hnot, _⟩
    obtain ⟨p, hp⟩ := Option.isSome_iff_exists.1 hhost
    obtain ⟨_, _, _, hpf⟩ := accepted_iff.1 h.acc
    simp [(hpf p hp).1] at hnot
  rw [Machine.writeHigh, if_neg hready, writeHighReady, onAccess_accepted h.target h.canonical h.acc]
  simp only [Target.halves, hact, Bool.or_self, Bool.false_eq_true, if_false, hheld, if_true, joinHalves]
  exact h.commit _ fun b => running_setLatch _ _

end Writes

/-- A register that a write only stores. -/
theorem writeRow_plain {r : RegRow} {k : Nat} (hw : r.write = .plain) (hpps : k ≠ Reg.TIME_PPS_OUT)
    (hdump : k ≠ Reg.PMU_DUMP_CFG) (who : Party) (idx : List Nat) (v : Word) (s : State) :
    s.writeRow who r idx k v = s.storeRow r k v := by
  simp [State.writeRow, hw, hpps, hdump]

end Sys2Proof.Machine
end

section
namespace Sys2Proof.Machine

open Sys2Proof.Claims

/-! ## Stored registers (R7, R8) -/

/-- Register k of row r has taken a value: its writable bits, of all three copies where it has three. -/
def RowStored (r : RegRow) (k : Nat) (v : Word) (s t : State) : Prop :=
  (r.access ≠ .rv → t.reg k = (s.reg k &&& ~~~(writableBits k)) ||| (v &&& writableBits k)) ∧
    (r.access = .rv → t.reg k = (s.voted k &&& ~~~r.mask) ||| (v &&& r.mask) ∧ t.regB k = t.reg k ∧
      t.regC k = t.reg k)

/-- A register's write changed that register, its copies and the latches alone, beside the counter of discarded halves. -/
def StoresOnly (k : Nat) (s t : State) : Prop :=
  t = { s with regs := t.regs, copyB := t.copyB, copyC := t.copyC, latches := t.latches } ∧
    ∀ j, j ≠ k → j ≠ Reg.GEN_CNT_SPLIT_DISCARD → t.reg j = s.reg j

section

variable (r : RegRow) (k : Nat) (v : Word) (s : State)

theorem State.storeRow_of_rv {r : RegRow} (h : r.access = .rv) :
    s.storeRow r k v = s.setRv k ((s.voted k &&& ~~~r.mask) ||| (v &&& r.mask)) := if_pos h

theorem State.storeRow_of_single {r : RegRow} (h : r.access ≠ .rv) : s.storeRow r k v = s.storeMasked k v := if_neg h

theorem State.storeRow_frame :
    s.storeRow r k v = { s with regs := (s.storeRow r k v).regs, copyB := (s.storeRow r k v).copyB,
                                copyC := (s.storeRow r k v).copyC } := by
  unfold State.storeRow
  split <;> rfl

@[simp] theorem State.latch_count (key : Nat) : (s.count k).latch key = s.latch key := rfl

@[simp] theorem State.latch_storeRow (key : Nat) : (s.storeRow r k v).latch key = s.latch key := by
  rw [State.storeRow_frame]
  rfl

theorem State.reg_storeRow_ne {j : Nat} (h : j ≠ k) : (s.storeRow r k v).reg j = s.reg j := by
  unfold State.storeRow
  split
  · exact State.reg_setRv_ne h _ s
  · exact State.reg_storeMasked_ne h v s

theorem rowStored_storeRow {s t : State} (hreg : t.reg k = s.reg k) (hvoted : t.voted k = s.voted k) :
    RowStored r k v s (t.storeRow r k v) := by
  constructor
  · intro h
    rw [State.storeRow_of_single k v t h, State.reg_storeMasked_self, hreg]
  · intro h
    rw [State.storeRow_of_rv k v t h, hvoted]
    exact ⟨State.reg_setRv_self _ _ _, by simp, by simp⟩

theorem storesOnly_storeRow {s t : State} (hframe : t = { s with regs := t.regs, latches := t.latches })
    (hreg : ∀ j, j ≠ Reg.GEN_CNT_SPLIT_DISCARD → t.reg j = s.reg j) : StoresOnly k s (t.storeRow r k v) := by
  refine ⟨?_, fun j hj hsplit => (State.reg_storeRow_ne r k v t hj).trans (hreg j hsplit)⟩
  rw [State.storeRow_frame, hframe]

end

/-! ## Each form of a write (R7, R365) -/

namespace Writes

variable {who : Party} {a : Nat} {r : RegRow} {idx : List Nat} {k : Nat} {s : State}

/-- Whole: the register takes the value, and a half staged for it is discarded and counted. -/
theorem whole_plain (h : Writes who a r idx k s) (hw : r.write = .plain) (hpps : k ≠ Reg.TIME_PPS_OUT)
    (hdump : k ≠ Reg.PMU_DUMP_CFG) (hk : k ≠ Reg.GEN_CNT_SPLIT_DISCARD) (v : Word) :
    let held := decide ((s.latch (latchKey who a)).1 = regName who a)
    let t := Machine.write64 who a v s
    RowStored r k v s t ∧ StoresOnly k s t ∧ counts Reg.GEN_CNT_SPLIT_DISCARD (if held then 1 else 0) s t ∧
      (held = true → t.latch (latchKey who a) = latchEmpty) := by
  intro held t
  have ht : t = (s.unstage (latchKey who a) (regName who a)).storeRow r k v :=
    (h.write64 v).trans (writeRow_plain hw hpps hdump who idx v _)
  rw [ht]
  refine ⟨rowStored_storeRow r k v (State.reg_unstage_ne _ _ s hk) (State.voted_unstage _ _ s hk),
    storesOnly_storeRow r k v (State.unstage_frame _ _ s) fun _ => State.reg_unstage_ne _ _ s, ?_, fun hheld => ?_⟩
  · rw [counts, State.reg_storeRow_ne r k v _ hk.symm, State.reg_unstage_discards]
    by_cases hheld : (s.latch (latchKey who a)).1 = regName who a <;> simp [held, hheld]
  · rw [State.latch_storeRow, State.unstage_of_eq (of_decide_eq_true hheld), State.latch_count,
      State.latch_setLatch_self]

/-- The high half: the register takes it with the staged low half, and the latch is empty. -/
theorem high_plain (h : Writes who a r idx k s) (hw : r.write = .plain) (hpps : k ≠ Reg.TIME_PPS_OUT)
    (hdump : k ≠ Reg.PMU_DUMP_CFG) (hi : BitVec 32) (hheld : (s.latch (latchKey who a)).1 = regName who a) :
    let t := Machine.writeHigh who a hi s
    RowStored r k (hi ++ (s.latch (latchKey who a)).2) s t ∧ StoresOnly k s t ∧
      t.latch (latchKey who a) = latchEmpty := by
  intro t
  have ht : t = (s.setLatch (latchKey who a) latchEmpty).storeRow r k (hi ++ (s.latch (latchKey who a)).2) :=
    (h.writeHigh (by simp [hw]) hi hheld).trans (writeRow_plain hw hpps hdump who idx _ _)
  rw [ht]
  exact ⟨rowStored_storeRow r k _ rfl rfl, storesOnly_storeRow r k _ rfl fun _ _ => rfl,
    by rw [State.latch_storeRow, State.latch_setLatch_self]⟩

/-- The low half: it stands in the latch, from which another register's half is discarded and counted. -/
theorem low_staged (h : Writes who a r idx k s) (hw : r.write ≠ .ringDoorbell) (lo : BitVec 32) :
    let l := s.latch (latchKey who a)
    let held := decide (l.1 = regName who a)
    let t := Machine.writeLow who a lo s
    t.latch (latchKey who a) = (regName who a, lo) ∧
      counts Reg.GEN_CNT_SPLIT_DISCARD (if l.1 ≠ 0 ∧ held = false then 1 else 0) s t ∧
      onlyRegs [Reg.GEN_CNT_SPLIT_DISCARD] { s with latches := t.latches } t := by
  intro l held t
  have hiff : l.1 ≠ 0 ∧ held = false ↔ l.1 ≠ 0 ∧ l.1 ≠ regName who a :=
    and_congr_right' decide_eq_false_iff_not
  by_cases hother : l.1 ≠ 0 ∧ held = false
  · have ht : t = (s.count Reg.GEN_CNT_SPLIT_DISCARD).setLatch (latchKey who a) (regName who a, lo) :=
      (h.writeLow hw lo).trans (by rw [if_pos (hiff.1 hother)])
    rw [ht, if_pos hother]
    exact ⟨State.latch_setLatch_self _ _ _, counts_count _ s, rfl, (onlyRegs_count _ s).2⟩
  · have ht : t = s.setLatch (latchKey who a) (regName who a, lo) :=
      (h.writeLow hw lo).trans (by rw [if_neg fun e => hother (hiff.2 e)])
    rw [ht, if_neg hother]
    exact ⟨State.latch_setLatch_self _ _ _, rfl, rfl, fun _ _ => rfl⟩

end Writes

/-! ## Read-only registers (R7, R258, R338) -/

/-- A read-only register of the ring window names a context that the party may not act on. -/
def foreignWindow (who : Party) (r : RegRow) (s : State) : Bool :=
  decide (r.slot = 10 ∧ 0x128 ≤ r.base ∧ r.base ≤ 0x140) &&
    (s.windowOwner who (bits (s.reg (Reg.RING_SEL who.copy)) 15 0)).isNone

section

variable {who : Party} {r : RegRow} {s : State} (hw : r.write = .none) (idx : List Nat) (k : Nat) (v : Word)
include hw

/-- A read-only register ignores a write and counts it, in BOOT as refused where it comes from another party than PF0 of
H0. -/
theorem writeRow_readOnly (h : foreignWindow who r s = false) :
    s.writeRow who r idx k v =
      s.count (if r.slot = 16 ∧ who ≠ .pf 0 then Reg.BOOT_CNT_REFUSED else Reg.GEN_CNT_IGNORED) := by
  simp only [State.writeRow, hw]
  by_cases hwin : r.slot = 10 ∧ 0x128 ≤ r.base ∧ r.base ≤ 0x140
  · obtain ⟨o, ho⟩ : ∃ o, s.windowOwner who (bits (s.reg (Reg.RING_SEL who.copy)) 15 0) = some o := by
      simpa [foreignWindow, hwin, ← Option.isSome_iff_exists] using h
    have hboot : ¬(r.slot = 16 ∧ who ≠ .pf 0) := by omega
    rw [if_pos hwin, if_neg hboot, ringWindowWrite, if_pos hwin.2.1, onWindow, ho]
    rfl
  · rw [if_neg hwin, readOnlyWrite]
    by_cases hslot : r.slot = 16
    · by_cases hwho : who = .pf 0 <;> simp [hslot, hwho, bootWrite, State.ignored]
    · simp [hslot, State.ignored]

/-- A read-only register of a context that a PF may not act on refuses a write and counts it for the PF. -/
theorem writeRow_foreign (h : foreignWindow who r s = true) {p : Nat} (hp : who.pfIndex = some p) :
    s.writeRow who r idx k v = s.count (Reg.RING_CNT_CFG_REFUSED p) := by
  obtain ⟨hwin, hnone⟩ : (r.slot = 10 ∧ 0x128 ≤ r.base ∧ r.base ≤ 0x140) ∧
      s.windowOwner who (bits (s.reg (Reg.RING_SEL who.copy)) 15 0) = none := by
    simpa [foreignWindow] using h
  simp only [State.writeRow, hw]
  rw [if_pos hwin, ringWindowWrite, if_pos hwin.2.1, onWindow, hnone]
  simp [State.ringRefused, State.countPf, State.ringCount, hp, State.count]

end

/-! ## The statement -/

/-- The two commands that bring a low half bring the same one. -/
theorem exec_lowForms {who : Party} {a : Nat} {lo : BitVec 32} {c : Instr} {s : State} (hwf : who.wf = true)
    (hclock : s.clocked = true)
    (hc : c ∈ Instr.lowHalfWrite who a lo ::
      (if a % 8 = 0 then [.registerWrite who a 4 ⟨word lo.toNat, false⟩] else [])) :
    exec c s = .next (writeLow who a lo s) := by
  rcases List.mem_cons.1 hc with rfl | hc
  · exact exec_lowHalfWrite hwf hclock a lo
  · obtain ⟨ha, rfl⟩ : a % 8 = 0 ∧ c = .registerWrite who a 4 ⟨word lo.toNat, false⟩ := by simpa using hc
    rw [exec_registerWrite hwf hclock, registerWrite_low ha]

/-- The two commands that bring a high half bring the same one. -/
theorem exec_highForms {who : Party} {a : Nat} {hi : BitVec 32} {c : Instr} {s : State} (hwf : who.wf = true)
    (hclock : s.clocked = true)
    (hc : c ∈ Instr.highHalfWrite who a hi ::
      (if a % 8 = 4 then [.registerWrite who a 4 ⟨word hi.toNat, false⟩] else [])) :
    exec c s = .next (writeHigh who a hi s) := by
  rcases List.mem_cons.1 hc with rfl | hc
  · exact exec_highHalfWrite hwf hclock a hi
  · obtain ⟨ha, rfl⟩ : a % 8 = 4 ∧ c = .registerWrite who a 4 ⟨word hi.toNat, false⟩ := by simpa using hc
    rw [exec_registerWrite hwf hclock, registerWrite_high ha]

/-- A whole write as a command. -/
theorem exec_wholeWrite {who : Party} {a : Nat} {s : State} (hwf : who.wf = true) (hclock : s.clocked = true)
    (ha : a % 8 = 0) (v : Word) : exec (.registerWrite who a 8 ⟨v, false⟩) s = .next (write64 who a v s) := by
  rw [exec_registerWrite hwf hclock, registerWrite_whole ha]

/-- Settles O49: each form of a write by its lemma of Writes, a read-only register by writeRow_readOnly and
writeRow_foreign, and the bus by busWrite_notReady and busWrite_frozen. -/
theorem registerWritesCommitted : Obligations.RegisterWritesCommitted := by
  unfold Obligations.RegisterWritesCommitted
  constructor
  · intro who a r idx k s hacc htarget hcanon hslot hclock hruns l held stored only
    have h : Writes who a r idx k s := ⟨hacc, htarget, hcanon, hslot, hruns⟩
    have hwf := (accepted_iff.1 hacc).1
    refine ⟨fun hw hpps hdump hk => ⟨fun v ha => ?_, fun hi hheld c hc => ?_⟩, fun hw v ha hheld => ?_,
      fun hw lo c hc => ?_⟩
    · exact ⟨_, exec_wholeWrite hwf hclock ha v, h.whole_plain hw hpps hdump hk v⟩
    · exact ⟨_, exec_highForms hwf hclock hc, h.high_plain hw hpps hdump hi hheld⟩
    · have hcommit : write64 who a v s = s.writeRow who r idx k v := by
        rw [h.write64 v, State.unstage_of_ne (of_decide_eq_false hheld)]
      refine ⟨_, exec_wholeWrite hwf hclock ha v, fun hown => ?_, fun hforeign p hp => ?_⟩
      · rw [hcommit, writeRow_readOnly hw idx k v hown]
        exact ⟨counts_count _ s, onlyRegs_count _ s⟩
      · rw [hcommit, writeRow_foreign hw idx k v hforeign hp]
        exact ⟨counts_count _ s, onlyRegs_count _ s⟩
    · exact ⟨_, exec_lowForms hwf hclock hc, h.low_staged hw lo⟩
  · intro p a v t s hp hreach ha htarget hcanon
    have hexec := exec_wholeWrite (who := .pf p) (decide_eq_true hp) (State.clocked_of_reaches hreach) ha v
    refine ⟨fun hready hearly => ⟨_, hexec, ?_⟩, fun hready hfrozen hfreeze => ⟨_, hexec, ?_⟩⟩
    · rw [write64, onAccess_canonical htarget hcanon, hearly, busWrite_notReady hreach hready]
      exact ⟨counts_count _ s, onlyRegs_count _ s⟩
    · rw [write64, onAccess_canonical htarget hcanon, hfreeze, busWrite_frozen hreach hready hfrozen]
      exact ⟨counts_count _ s, onlyRegs_count _ s⟩

end Sys2Proof.Machine
end

section
namespace Sys2Proof.Machine

/-! ## What each operation leaves of the queue and of the Dial copies

One lemma per state operation that a command runs. A lemma whose definition computes with large literals first makes
the operation it calls opaque (exists_eq'), so that matching does not evaluate it. -/

/-- What a command may not touch (the queue) and what it may only move together (the three Dial copies, R30). -/
def State.queueDial (s : State) : List Instr × DialCount × DialCount × DialCount :=
  (s.pending, s.time.a, s.time.b, s.time.c)

/-! ### Updates and combinators -/

/-- A record update that names neither the queue nor TIME. -/
@[simp] theorem State.queueDial_update (s : State)
    {phase regs copyB copyC latches staged free ports policers excBuckets arrivals pipes floorOn openWait doms
    postings relNext egress tables lpm heldUpd tbl aud ledger retention lamp links funs rings ctrls spaces pieces
    pieceNext drives rdma vfs gal boot power log pmu life out} :
    State.queueDial
    ⟨s.pending, phase, regs, copyB, copyC, latches, staged, free, s.time, ports, policers, excBuckets, arrivals,
      pipes, floorOn, openWait, doms, postings, relNext, egress, tables, lpm, heldUpd, tbl, aud, ledger, retention,
      lamp, links, funs, rings, ctrls, spaces, pieces, pieceNext, drives, rdma, vfs, gal, boot, power, log, pmu,
      life, out⟩ = s.queueDial := by
  cases s; rfl

/-- A record update that names neither the queue nor a Dial copy. -/
@[simp] theorem State.queueDial_updateTime (s : State)
    {phase regs copyB copyC latches staged free ports policers excBuckets arrivals pipes floorOn openWait doms
    postings relNext egress tables lpm heldUpd tbl aud ledger retention lamp links funs rings ctrls spaces pieces
    pieceNext drives rdma vfs gal boot power log pmu life out
    disc' slew' refPresent' pllLocked' byRefLoss' dialFault' pending' ppsGood' ppsBad' outliers' ppsSeen' ppsOut'
    second' tdc' stepped' elapsed'} :
    State.queueDial
    ⟨s.pending, phase, regs, copyB, copyC, latches, staged, free, ⟨s.time.a, s.time.b, s.time.c, disc', slew',
      refPresent', pllLocked', byRefLoss', dialFault', pending', ppsGood', ppsBad', outliers', ppsSeen', ppsOut',
      second', tdc', stepped', elapsed'⟩, ports, policers, excBuckets, arrivals, pipes, floorOn, openWait, doms,
      postings, relNext, egress, tables, lpm, heldUpd, tbl, aud, ledger, retention, lamp, links, funs, rings,
      ctrls, spaces, pieces, pieceNext, drives, rdma, vfs, gal, boot, power, log, pmu, life, out⟩ = s.queueDial := by
  cases s; rfl

@[simp] theorem State.queueDial_ite (p : Prop) [Decidable p] (s t : State) :
    (if p then s else t).queueDial = if p then s.queueDial else t.queueDial := apply_ite ..

section

variable {α : Type}

@[simp] theorem queueDial_foldl {f : State → α → State} (h : ∀ s x, (f s x).queueDial = s.queueDial) (xs : List α)
    (s : State) : (xs.foldl f s).queueDial = s.queueDial := by
  induction xs generalizing s with
  | nil => rfl
  | cons x xs ih => exact (ih _).trans (h s x)

@[simp] theorem queueDial_foldr {f : α → State → State} (h : ∀ x s, (f x s).queueDial = s.queueDial) (xs : List α)
    (s : State) : (xs.foldr f s).queueDial = s.queueDial := by
  induction xs with
  | nil => rfl
  | cons x xs ih => exact (h x _).trans ih

end

section

variable (s u : State)
  (who f o fn : Party)
  (n c k p q i d a rel ring qpn psn core cls cause op w m x status block index lane pipe slot inst number table
    value reason l name dev b e : Nat)
  (v : Word)
  (t : Taken)
  (cmd : NvmeCmd)
  (stamp : Dial)
  (inp : StartInputs)
  (r : AuditRec)
  (image body payload bytes bs : List Byte)

/-! ### Machine/Ops.lean -/

@[simp] theorem State.queueDial_setReg : (s.setReg k v).queueDial = s.queueDial := by simp [State.setReg]
@[simp] theorem State.queueDial_storeMasked : (s.storeMasked k v).queueDial = s.queueDial := by
  simp [State.storeMasked]
@[simp] theorem State.queueDial_modReg (f : Word → Word) : (s.modReg k f).queueDial = s.queueDial := by
  simp [State.modReg]
@[simp] theorem State.queueDial_setField (hi lo v : Nat) : (s.setField k hi lo v).queueDial = s.queueDial := by
  simp [State.setField]
@[simp] theorem State.queueDial_setRv : (s.setRv k v).queueDial = s.queueDial := by simp [State.setRv]
@[simp] theorem State.queueDial_countBy : (s.countBy k n).queueDial = s.queueDial := by simp [State.countBy]
@[simp] theorem State.queueDial_count : (s.count k).queueDial = s.queueDial := by simp [State.count]
@[simp] theorem State.queueDial_ignored : s.ignored.queueDial = s.queueDial := by simp [State.ignored]
@[simp] theorem State.queueDial_modPort (f : PortState → PortState) : (s.modPort n f).queueDial = s.queueDial := by
  simp [State.modPort]
@[simp] theorem State.queueDial_modPolicer (f : Policer → Policer) : (s.modPolicer n f).queueDial = s.queueDial := by
  simp [State.modPolicer]
@[simp] theorem State.queueDial_modPipe (f : PipeState → PipeState) : (s.modPipe k f).queueDial = s.queueDial := by
  simp [State.modPipe]
@[simp] theorem State.queueDial_modDom (f : DomState → DomState) : (s.modDom d f).queueDial = s.queueDial := by
  simp [State.modDom]
@[simp] theorem State.queueDial_modEgr (f : EgressState → EgressState) : (s.modEgr n f).queueDial = s.queueDial := by
  simp [State.modEgr]
@[simp] theorem State.queueDial_modLink (f : HostLink → HostLink) : (s.modLink p f).queueDial = s.queueDial := by
  simp [State.modLink]
@[simp] theorem State.queueDial_modRing (f : Ring → Ring) : (s.modRing c f).queueDial = s.queueDial := by
  simp [State.modRing]
@[simp] theorem State.queueDial_modKeySlot (f : KeySlot → KeySlot) : (s.modKeySlot i f).queueDial = s.queueDial := by
  simp [State.modKeySlot]
@[simp] theorem State.queueDial_modVf (v : Nat) (f : VfState → VfState) :
    (s.modVf p v f).queueDial = s.queueDial := by
  simp [State.modVf]
@[simp] theorem State.queueDial_modQp (f : Qp → Qp) : (s.modQp n f).queueDial = s.queueDial := by simp [State.modQp]
@[simp] theorem State.queueDial_modMr (f : Mr → Mr) : (s.modMr n f).queueDial = s.queueDial := by simp [State.modMr]
@[simp] theorem State.queueDial_modDrive (f : Drive → Drive) : (s.modDrive n f).queueDial = s.queueDial := by
  simp [State.modDrive]
@[simp] theorem State.queueDial_setSpace (x : Option Namespace) : (s.setSpace n x).queueDial = s.queueDial := by
  simp [State.setSpace]
@[simp] theorem State.queueDial_modFn (g : Function → Function) : (s.modFn f g).queueDial = s.queueDial := by
  simp [State.modFn]
@[simp] theorem State.queueDial_modCtrl (g : Ctrl → Ctrl) : (s.modCtrl f g).queueDial = s.queueDial := by
  simp [State.modCtrl]
@[simp] theorem State.queueDial_passCycle : s.passCycle.queueDial = s.queueDial := by simp [State.passCycle]
@[simp] theorem State.queueDial_emit (o : Out) : (s.emit o).queueDial = s.queueDial := by simp [State.emit]
@[simp] theorem State.queueDial_dma (entry : Option (BitVec 32)) (o : Out) :
    (s.dma fn cls ring entry o).queueDial = s.queueDial := by
  simp [State.dma]
@[simp] theorem State.queueDial_dmaWrite (addr : Nat) (ro : Bool) :
    (s.dmaWrite fn addr bytes ro).queueDial = s.queueDial := by
  simp [State.dmaWrite]
@[simp] theorem State.queueDial_msixSend (v : Nat) : (s.msixSend fn cls ring v).queueDial = s.queueDial := by
  simp [State.msixSend]
@[simp] theorem State.queueDial_msixFor (v : Nat) : (s.msixFor fn cls ring v).queueDial = s.queueDial := by
  simp [State.msixFor]
@[simp] theorem State.queueDial_msix (v : Nat) : (s.msix fn v).queueDial = s.queueDial := by simp [State.msix]
@[simp] theorem State.queueDial_msixSettle : (s.msixSettle fn).queueDial = s.queueDial := by simp [State.msixSettle]
@[simp] theorem State.queueDial_logEvent (params : List Nat) :
    (s.logEvent number block params).queueDial = s.queueDial := by
  simp [State.logEvent]
@[simp] theorem State.queueDial_msixTableWrite : (s.msixTableWrite fn i v).queueDial = s.queueDial := by
  simp [State.msixTableWrite]
@[simp] theorem State.queueDial_noteHalts : s.noteHalts.queueDial = s.queueDial := by simp [State.noteHalts]
@[simp] theorem State.queueDial_split : (s.split k i inst).queueDial = s.queueDial := by simp [State.split]
@[simp] theorem queueDial_voteScrub : (voteScrub k s).queueDial = s.queueDial := by
  unfold voteScrub
  split <;> simp
@[simp] theorem State.queueDial_voteBlock : (s.voteBlock i).queueDial = s.queueDial := by simp [State.voteBlock]
@[simp] theorem queueDial_unlessStopped (f : State → State) : (unlessStopped k f s).queueDial =
    if s.stopped k ∨ (s.voteBlock k).stopped k then s.queueDial else (f (s.voteBlock k)).queueDial := by
  unfold unlessStopped
  split <;> simp [*]

@[simp] theorem State.queueDial_ledgerWord : (s.ledgerWord a v).queueDial = s.queueDial := by simp [State.ledgerWord]
@[simp] theorem State.queueDial_ledgerWords (ws : List Word) : (s.ledgerWords a ws).queueDial = s.queueDial := by
  induction ws generalizing a s with
  | nil => rfl
  | cons v ws ih => simp [State.ledgerWords, ih]

@[simp] theorem State.queueDial_randomBytes : (s.randomBytes n).2.queueDial = s.queueDial := by
  simp [State.randomBytes]
@[simp] theorem State.queueDial_errorSource (error : Nat) (corr masked froze : Bool) (fn : Nat) :
    (s.errorSource p error corr masked froze block fn ring).queueDial = s.queueDial := by
  simp [State.errorSource]
@[simp] theorem State.queueDial_freeze (error : Nat) : (s.freeze p error).queueDial = s.queueDial := by
  simp [State.freeze]
@[simp] theorem State.queueDial_errorMessage : (s.errorMessage f cls).queueDial = s.queueDial := by
  simp [State.errorMessage]
@[simp] theorem State.queueDial_noteError (e : BusError) (masked froze : Bool) :
    (s.noteError f p block ring e masked froze).queueDial = s.queueDial := by
  simp [State.noteError]
@[simp] theorem State.queueDial_logHeader : (s.logHeader f p block ring).queueDial = s.queueDial := by
  simp [State.logHeader]
@[simp] theorem State.queueDial_report (e : BusError) : (s.report f block ring e).queueDial = s.queueDial := by
  unfold State.report
  split <;> simp
@[simp] theorem queueDial_whenClocked (f : State → State) :
    (whenClocked f s).queueDial = if s.clocked then (f s).queueDial else s.queueDial := by
  rw [whenClocked, State.queueDial_ite]

@[simp] theorem State.queueDial_unreached : (s.unreached who).queueDial = s.queueDial := by simp [State.unreached]
@[simp] theorem queueDial_busWrite (early unfrozen : Bool) {f : State → State}
    (h : ∀ s, (f s).queueDial = s.queueDial) :
    (busWrite who early unfrozen f s).queueDial = s.queueDial := by
  unfold busWrite
  repeat' split
  all_goals simp [h]
@[simp] theorem queueDial_pfWrite (early unfrozen : Bool) {f : State → State}
    (h : ∀ s, (f s).queueDial = s.queueDial) :
    (pfWrite who early unfrozen f s).queueDial = s.queueDial := by
  unfold pfWrite
  split <;> simp [h]
@[simp] theorem State.queueDial_setLatch (x : Nat × BitVec 32) : (s.setLatch k x).queueDial = s.queueDial := by
  simp [State.setLatch]
@[simp] theorem State.queueDial_unstage (latch : Nat) : (s.unstage latch name).queueDial = s.queueDial := by
  simp [State.unstage]
@[simp] theorem queueDial_whole (f : State → State) : (whole who k f s).queueDial =
    (f (s.unstage (slotLatch who (k / 0x100000)) (barName k))).queueDial := by
  rw [whole]

@[simp] theorem queueDial_wholeVf (o : Nat) (f : State → State) : (wholeVf who o f s).queueDial =
    (f (s.unstage (slotLatch who (if o < 0x20 then 0 else 13)) (offsetName o))).queueDial := by
  rw [wholeVf]

@[simp] theorem queueDial_wholeAt (o : Nat) {f : State → State} (h : ∀ s, (f s).queueDial = s.queueDial) :
    (wholeAt who k o f s).queueDial = s.queueDial := by
  unfold wholeAt
  split <;> simp [h]

/-! ### Machine/Audit.lean -/

@[simp] theorem State.queueDial_setFill : (s.setFill n).queueDial = s.queueDial := by
  simp only [State.setFill, State.queueDial_ite, State.queueDial_logEvent, State.queueDial_count,
    State.queueDial_update, State.queueDial_setReg, ite_self]

@[simp] theorem State.queueDial_ledgerQueue (ws : List Word) : (s.ledgerQueue a ws).queueDial = s.queueDial := by
  simp [State.ledgerQueue]
@[simp] theorem State.queueDial_ledgerCommit : s.ledgerCommit.queueDial = s.queueDial := by
  simp [State.ledgerCommit]
@[simp] theorem State.queueDial_auditWrite : (s.auditWrite bs).queueDial = s.queueDial := by simp [State.auditWrite]
@[simp] theorem State.queueDial_auditPut : (s.auditPut bs).queueDial = s.queueDial := by simp [State.auditPut]
@[simp] theorem State.queueDial_auditSeal (tail reseal : Bool) :
    (s.auditSeal tail reseal).queueDial = s.queueDial := by
  unfold State.auditSeal
  split <;> simp
@[simp] theorem State.queueDial_sealDue : s.sealDue.queueDial = s.queueDial := by
  unfold State.sealDue
  split <;> simp
@[simp] theorem State.queueDial_auditUnplace : (s.auditUnplace n).queueDial = s.queueDial := by
  simp [State.auditUnplace]
@[simp] theorem State.queueDial_auditStand : (s.auditStand r).queueDial = s.queueDial := by simp [State.auditStand]
@[simp] theorem State.queueDial_auditPlace : (s.auditPlace r).queueDial = s.queueDial := by simp [State.auditPlace]
@[simp] theorem State.queueDial_auditJoin : (s.auditJoin r).queueDial = s.queueDial := by simp [State.auditJoin]
@[simp] theorem State.queueDial_auditAppend : (s.auditAppend r).queueDial = s.queueDial := by simp [State.auditAppend]
@[simp] theorem State.queueDial_auditGap : s.auditGap.queueDial = s.queueDial := by simp [State.auditGap]
@[simp] theorem State.queueDial_auditLose : s.auditLose.queueDial = s.queueDial := by simp [State.auditLose]
@[simp] theorem State.queueDial_auditReady : s.auditReady.queueDial = s.queueDial := by simp [State.auditReady]
@[simp] theorem State.queueDial_audit : (s.audit r).queueDial = s.queueDial := by simp [State.audit]
@[simp] theorem State.queueDial_auditDial (what : Nat) (before : Dial) (old : Word) (after : Dial) (new : Word) :
    (s.auditDial what before old after new).queueDial = s.queueDial := by
  simp [State.auditDial]
@[simp] theorem State.queueDial_auditDomain (event : Nat) (seq : Word) (digest : Nat) :
    (s.auditDomain d event stamp seq digest).queueDial = s.queueDial := by
  simp [State.auditDomain]
@[simp] theorem State.queueDial_auditStart : s.auditStart.queueDial = s.queueDial := by simp [State.auditStart]
@[simp] theorem State.queueDial_auditGenesis : s.auditGenesis.queueDial = s.queueDial := by
  simp [State.auditGenesis]

/-! ### Machine/RingOps.lean -/

@[simp] theorem queueDial_onLink (i : Instr) {f : State → State} (h : ∀ s, (f s).queueDial = s.queueDial) :
    (onLink o i f s).queueDial = s.queueDial := by
  unfold onLink
  split <;> simp [h]
@[simp] theorem State.queueDial_ringCount (pfKey : Nat → Nat) (vfOff : Nat) :
    (s.ringCount o pfKey vfOff n).queueDial = s.queueDial := by
  unfold State.ringCount
  split <;> simp
@[simp] theorem State.queueDial_newTally (kind opcode : Nat) (covered : List Byte) :
    (s.newTally ring o kind opcode covered).2.queueDial = s.queueDial := by
  simp [State.newTally]
@[simp] theorem State.queueDial_endTally (t : Word) (delay : Nat) :
    (s.endTally t status delay ring).queueDial = s.queueDial := by
  simp [State.endTally]
@[simp] theorem State.queueDial_ringIrq : (s.ringIrq c).queueDial = s.queueDial := by simp [State.ringIrq]
@[simp] theorem queueDial_irqHoldoff : (irqHoldoff c s).queueDial = s.queueDial := by
  unfold irqHoldoff
  dsimp only
  split <;> simp
@[simp] theorem State.queueDial_takeWith (desc : List Byte) (msg : Option (Nat × Numbered)) :
    (s.takeWith c desc msg).queueDial = s.queueDial := by
  unfold State.takeWith
  dsimp only
  repeat' split
  all_goals simp
@[simp] theorem State.queueDial_take (desc : List Byte) : (s.take c desc).queueDial = s.queueDial := by
  simp [State.take]
@[simp] theorem State.queueDial_drainCheck : (s.drainCheck c).queueDial = s.queueDial := by simp [State.drainCheck]
@[simp] theorem State.queueDial_ringWrite (addr : Nat) (ro : Bool) :
    (s.ringWrite c addr bytes ro).queueDial = s.queueDial := by
  simp [State.ringWrite]
@[simp] theorem State.queueDial_writeBack (fields : List (Nat × List Byte)) :
    (s.writeBack c t fields).queueDial = s.queueDial := by
  simp [State.writeBack]
@[simp] theorem State.queueDial_entryDone (cur : BitVec 32) : (s.entryDone c cur).queueDial = s.queueDial := by
  simp [State.entryDone]
@[simp] theorem State.queueDial_complete (cur : BitVec 32) (fields : List (Nat × List Byte)) :
    (s.complete c cur fields).queueDial = s.queueDial := by
  unfold State.complete
  dsimp only
  split <;> simp
@[simp] theorem State.queueDial_entryWrite (addr : Nat) (ro : Bool) :
    (s.entryWrite c t addr bytes ro).queueDial = s.queueDial := by
  simp [State.entryWrite]
@[simp] theorem State.queueDial_startEntry (cur : BitVec 32) : (s.startEntry c cur).queueDial = s.queueDial := by
  simp [State.startEntry]
@[simp] theorem State.queueDial_adminDone (result : Nat) :
    (s.adminDone c t status result).queueDial = s.queueDial := by
  simp [State.adminDone]
@[simp] theorem queueDial_onAdmin {f : Taken → Party → State → State}
    (h : ∀ x y s, (f x y s).queueDial = s.queueDial) :
    (onAdmin c op f s).queueDial = s.queueDial := by
  unfold onAdmin
  dsimp only
  repeat' split
  all_goals simp [h]
@[simp] theorem State.queueDial_hostLost : (s.hostLost c).queueDial = s.queueDial := by simp [State.hostLost]
@[simp] theorem queueDial_forAll {α : Type} (xs : List α) {f : α → State → State}
    (h : ∀ x s, (f x s).queueDial = s.queueDial) :
    (forAll xs f s).queueDial = s.queueDial := by
  simp [forAll, h]
@[simp] theorem State.queueDial_returnMessages (ms : List (Nat × Numbered)) :
    (s.returnMessages ms).queueDial = s.queueDial := by
  simp [State.returnMessages]
@[simp] theorem State.queueDial_disableRing : (s.disableRing c).queueDial = s.queueDial := by
  unfold State.disableRing
  dsimp only
  split <;> simp

/-! ### Machine/Time.lean -/

@[simp] theorem State.queueDial_setDisc (d : Disc) (byLoss : Bool) :
    (s.setDisc d byLoss).queueDial = s.queueDial := by
  simp [State.setDisc]
@[simp] theorem State.queueDial_relock : s.relock.queueDial = s.queueDial := by simp [State.relock]
@[simp] theorem State.queueDial_refSettle : s.refSettle.queueDial = s.queueDial := by simp [State.refSettle]
@[simp] theorem State.queueDial_storeFreq (v : Nat) : (s.storeFreq v).queueDial = s.queueDial := by
  simp [State.storeFreq]
@[simp] theorem State.queueDial_addPhase (v : Int) : (s.addPhase v).queueDial = s.queueDial := by
  simp [State.addPhase]
@[simp] theorem queueDial_timeAdjFreq : (timeAdjFreq who v s).queueDial = s.queueDial := by simp [timeAdjFreq]
@[simp] theorem queueDial_timeAdjPhase : (timeAdjPhase who v s).queueDial = s.queueDial := by simp [timeAdjPhase]
@[simp] theorem queueDial_timeCfgWrite : (timeCfgWrite v s).queueDial = s.queueDial := by
  unfold timeCfgWrite
  dsimp only
  repeat' split
  all_goals simp
@[simp] theorem queueDial_timeDiscWrite : (timeDiscWrite who v s).queueDial = s.queueDial := by simp [timeDiscWrite]
@[simp] theorem queueDial_stepGo (absolute : Bool) : (stepGo absolute s).queueDial = s.queueDial := by simp [stepGo]
@[simp] theorem queueDial_utcApply : (utcApply s).queueDial = s.queueDial := by simp [utcApply]
@[simp] theorem queueDial_refLoss : (refLoss s).queueDial = s.queueDial := by simp [refLoss]
@[simp] theorem queueDial_refReturn : (refReturn s).queueDial = s.queueDial := by simp [refReturn]
@[simp] theorem State.queueDial_ppsMiss : s.ppsMiss.queueDial = s.queueDial := by simp [State.ppsMiss]
@[simp] theorem State.queueDial_ppsOutlier (e : Int) : (s.ppsOutlier e).queueDial = s.queueDial := by
  simp [State.ppsOutlier]
@[simp] theorem State.queueDial_ppsSteer (e : Int) : (s.ppsSteer e).queueDial = s.queueDial := by
  simp [State.ppsSteer]
@[simp] theorem queueDial_ppsEdge (falling : Bool) (strobe : Dial) (code : Byte) :
    (ppsEdge falling strobe code s).queueDial = s.queueDial := by
  unfold ppsEdge
  extract_lets _ _ _ t u _ seen
  have hseen : seen.queueDial = s.queueDial :=
    (State.queueDial_updateTime u).trans <| (State.queueDial_count ..).trans <| State.queueDial_setReg ..
  repeat' split
  · rfl
  · simp
  · simp [hseen]
  · exact hseen

@[simp] theorem queueDial_ppsMissing : (ppsMissing s).queueDial = s.queueDial := by simp [ppsMissing]
@[simp] theorem queueDial_ppsOutEdge : (ppsOutEdge s).queueDial = s.queueDial := by simp [ppsOutEdge]
@[simp] theorem queueDial_recalUpdate (octet : Nat) (target : List Int) :
    (recalUpdate octet target s).queueDial = s.queueDial := by
  simp [recalUpdate]
@[simp] theorem queueDial_tdcRecal (table : List Byte) : (tdcRecal lane table s).queueDial = s.queueDial := by
  simp [tdcRecal]
@[simp] theorem State.queueDial_latchFrac : (s.latchFrac who).queueDial = s.queueDial := by simp [State.latchFrac]
@[simp] theorem queueDial_dialNsRead : (dialNsRead who s).queueDial = s.queueDial := by
  unfold dialNsRead
  split <;> simp

/-! ### Machine/PortOps.lean -/

@[simp] theorem State.queueDial_countSlot : (s.countSlot n k).queueDial = s.queueDial := by simp [State.countSlot]
@[simp] theorem State.queueDial_countSlotBy : (s.countSlotBy n k m).queueDial = s.queueDial := by
  simp [State.countSlotBy]
@[simp] theorem queueDial_onSlot {f : State → State} (h : ∀ s, (f s).queueDial = s.queueDial) :
    (onSlot n f s).queueDial = s.queueDial := by
  simp [onSlot, h]

/-! ### Machine/SeqOps.lean -/

@[simp] theorem State.queueDial_condPoll : (s.condPoll d).queueDial = s.queueDial := by simp [State.condPoll]
@[simp] theorem State.queueDial_condPollAll : s.condPollAll.queueDial = s.queueDial := by simp [State.condPollAll]
@[simp] theorem State.queueDial_domainEvent (event : Nat) (seq : Word) (digest : Nat) :
    (s.domainEvent d event stamp seq digest).queueDial = s.queueDial := by
  simp [State.domainEvent]
@[simp] theorem State.queueDial_haltDomain : (s.haltDomain d cause).queueDial = s.queueDial := by
  simp [State.haltDomain]
@[simp] theorem State.queueDial_deliverInto (n : Numbered) : (s.deliverInto c n).queueDial = s.queueDial := by
  unfold State.deliverInto
  dsimp only
  split <;> simp
@[simp] theorem State.queueDial_deliver (n : Numbered) : (s.deliver d n).queueDial = s.queueDial := by
  simp [State.deliver]
@[simp] theorem queueDial_backlogDelivery (rej : Bool) : (backlogDelivery d rej s).queueDial = s.queueDial := by
  unfold backlogDelivery
  split <;> simp
@[simp] theorem State.queueDial_queueCopy : (s.queueCopy k bs).queueDial = s.queueDial := by simp [State.queueCopy]
@[simp] theorem State.queueDial_sendCopies (record : List Byte) :
    (s.sendCopies d record).queueDial = s.queueDial := by
  simp [State.sendCopies]
@[simp] theorem State.queueDial_mirrorDiffers (n : Word) : (s.mirrorDiffers d n).queueDial = s.queueDial := by
  simp [State.mirrorDiffers]
@[simp] theorem State.queueDial_compareMirror (n : Numbered) : (s.compareMirror d n).queueDial = s.queueDial := by
  unfold State.compareMirror
  split <;> simp
@[simp] theorem State.queueDial_setNext (n : Word) : (s.setNext d n).queueDial = s.queueDial := by
  simp [State.setNext]
@[simp] theorem State.queueDial_setTree (t : List Held) : (s.setTree d t).queueDial = s.queueDial := by
  simp [State.setTree]
@[simp] theorem State.queueDial_fenceCopy : (s.fenceCopy d i).queueDial = s.queueDial := by simp [State.fenceCopy]
@[simp] theorem State.queueDial_outvoted : (s.outvoted d i).queueDial = s.queueDial := by simp [State.outvoted]
@[simp] theorem State.queueDial_voteRelease : (s.voteRelease d).queueDial = s.queueDial := by
  unfold State.voteRelease
  repeat' split
  all_goals simp
@[simp] theorem State.queueDial_publish (n : Numbered) : (s.publish d n).queueDial = s.queueDial := by
  simp [State.publish]
@[simp] theorem State.queueDial_keepStandby (n : Numbered) : (s.keepStandby d n).queueDial = s.queueDial := by
  simp [State.keepStandby]
@[simp] theorem State.queueDial_emitMsg (cond : Bool) (h : Held) : (s.emitMsg d cond h).queueDial = s.queueDial := by
  simp [State.emitMsg]
@[simp] theorem State.queueDial_emitMsgs (cond : Bool) : (s.emitMsgs d cond n).queueDial = s.queueDial := by
  induction n generalizing s with
  | zero => rfl
  | succ n ih =>
    unfold State.emitMsgs
    dsimp only
    repeat' split
    all_goals simp [ih]

@[simp] theorem State.queueDial_intoMerge (batch : List Held) : (s.intoMerge d batch).queueDial = s.queueDial := by
  simp [State.intoMerge]
@[simp] theorem queueDial_musterRelease : (musterRelease d s).queueDial = s.queueDial := by simp [musterRelease]
@[simp] theorem State.queueDial_streamOver (m : StreamMsg) : (s.streamOver l m).queueDial = s.queueDial := by
  simp [State.streamOver]
@[simp] theorem State.queueDial_streamOut (m : Msg) : (s.streamOut d m).queueDial = s.queueDial := by
  refine queueDial_foldl (fun s dev => ?_) _ s
  split <;> simp

@[simp] theorem State.queueDial_countOutside : (s.countOutside d).queueDial = s.queueDial := by
  simp [State.countOutside]
@[simp] theorem State.queueDial_hold (m : Msg) (streamed : Bool) : (s.hold m streamed).queueDial = s.queueDial := by
  simp [State.hold]
@[simp] theorem State.queueDial_arrive (fed : Bool) (m : Msg) : (s.arrive fed m).queueDial = s.queueDial := by
  simp [State.arrive]

/-! ### Machine/Gallery.lean -/

@[simp] theorem State.queueDial_setGal (f : GalState → GalState) : (s.setGal f).queueDial = s.queueDial := by
  simp [State.setGal]
@[simp] theorem State.queueDial_modGalLink (f : GalLink → GalLink) : (s.modGalLink n f).queueDial = s.queueDial := by
  simp [State.modGalLink]
@[simp] theorem State.queueDial_routeStack : s.routeStack.queueDial = s.queueDial := by simp [State.routeStack]
@[simp] theorem State.queueDial_joining : s.joining.queueDial = s.queueDial := by simp [State.joining]
@[simp] theorem queueDial_hello (h : Hello) : (hello n h s).queueDial = s.queueDial := by simp [hello]
@[simp] theorem queueDial_galTrainRetry : (galTrainRetry n s).queueDial = s.queueDial := by simp [galTrainRetry]
@[simp] theorem State.queueDial_unheard : (s.unheard dev).queueDial = s.queueDial := by simp [State.unheard]
@[simp] theorem queueDial_galLinkLoss : (galLinkLoss n s).queueDial = s.queueDial := by simp [galLinkLoss]
@[simp] theorem queueDial_dialSampleSend : (dialSampleSend n s).queueDial = s.queueDial := by simp [dialSampleSend]
@[simp] theorem State.queueDial_loseLock : s.loseLock.queueDial = s.queueDial := by simp [State.loseLock]
@[simp] theorem State.queueDial_galSteer (offset : Int) : (s.galSteer offset).queueDial = s.queueDial := by
  simp [State.galSteer]
@[simp] theorem State.queueDial_galDisc (d : Disc) : (s.galDisc d).queueDial = s.queueDial := by simp [State.galDisc]
@[simp] theorem State.queueDial_judgeSample (offset : Int) : (s.judgeSample offset).queueDial = s.queueDial := by
  simp [State.judgeSample]
@[simp] theorem State.queueDial_heard (x : DialSample) : (s.heard dev x).queueDial = s.queueDial := by
  simp [State.heard]
@[simp] theorem State.queueDial_holdDial : s.holdDial.queueDial = s.queueDial := by simp [State.holdDial]
@[simp] theorem queueDial_sampleTimeout : (sampleTimeout s).queueDial = s.queueDial := by simp [sampleTimeout]
@[simp] theorem queueDial_peerLost : (peerLost dev s).queueDial = s.queueDial := by simp [peerLost]
@[simp] theorem queueDial_galSucceed : (galSucceed s).queueDial = s.queueDial := by simp [galSucceed]
@[simp] theorem queueDial_streamSend : (streamSend d s).queueDial = s.queueDial := by
  unfold streamSend
  repeat' split
  all_goals simp
@[simp] theorem State.queueDial_relayMessage (m : StreamMsg) : (s.relayMessage m).queueDial = s.queueDial := by
  unfold State.relayMessage
  split <;> simp
@[simp] theorem queueDial_streamMessage (m : StreamMsg) : (streamMessage m s).queueDial = s.queueDial := by
  simp [streamMessage]

/-! ### Machine/Lamp.lean -/

@[simp] theorem State.queueDial_drbg : (s.drbg n).2.queueDial = s.queueDial := by simp [State.drbg]
@[simp] theorem State.queueDial_setSource (y : Source) : (s.setSource x y).queueDial = s.queueDial := by
  simp [State.setSource]
@[simp] theorem State.queueDial_canaryDown : s.canaryDown.queueDial = s.queueDial := by simp [State.canaryDown]
@[simp] theorem queueDial_noiseSample (v : Byte) : (noiseSample x v s).queueDial = s.queueDial := by
  simp [noiseSample]
@[simp] theorem queueDial_sourceRetest (vs : List Byte) : (sourceRetest x vs s).queueDial = s.queueDial := by
  simp [sourceRetest]
@[simp] theorem queueDial_graceSpent : (graceSpent s).queueDial = s.queueDial := by simp [graceSpent]
@[simp] theorem queueDial_drbgReseed : (drbgReseed s).queueDial = s.queueDial := by simp [drbgReseed]
@[simp] theorem queueDial_maskReseed (datapath : Nat) : (maskReseed datapath s).queueDial = s.queueDial := by
  simp [maskReseed]
@[simp] theorem State.queueDial_writeBlobs (place : Nat) (mark : Word) (plain : List Byte)
    (seals : List (List Byte)) :
    (s.writeBlobs i place mark plain seals).queueDial = s.queueDial := by
  simp [State.writeBlobs]
@[simp] theorem State.queueDial_emptyKey : (s.emptyKey i).queueDial = s.queueDial := by simp [State.emptyKey]
@[simp] theorem State.queueDial_fillKey (x : KeySlot) : (s.fillKey i x).queueDial = s.queueDial := by
  simp [State.fillKey]
@[simp] theorem State.queueDial_keyDone (result : Nat) : (s.keyDone c t o status result).queueDial = s.queueDial := by
  unfold State.keyDone
  dsimp only
  split <;> simp
@[simp] theorem queueDial_keyLoad (blob : Option (List Byte)) : (keyLoad c blob t o s).queueDial = s.queueDial := by
  unfold keyLoad
  dsimp only
  repeat' split
  all_goals simp
@[simp] theorem State.queueDial_redraw (type : Nat) (key : List Byte) :
    (s.redraw type key).2.queueDial = s.queueDial := by
  unfold State.redraw
  dsimp only
  split <;> simp
@[simp] theorem queueDial_keyGenerate : (keyGenerate c t o s).queueDial = s.queueDial := by
  unfold keyGenerate
  dsimp only
  repeat' split
  all_goals simp
@[simp] theorem queueDial_keyEcdhGen : (keyEcdhGen c t o s).queueDial = s.queueDial := by simp [keyEcdhGen]
@[simp] theorem queueDial_keyAgree (point info : Option (List Byte)) :
    (keyAgree c point info t o s).queueDial = s.queueDial := by
  unfold keyAgree
  dsimp only
  repeat' split
  all_goals simp
@[simp] theorem queueDial_keyDeriveMka (ckn : Option (List Byte)) :
    (keyDeriveMka c ckn t o s).queueDial = s.queueDial := by
  unfold keyDeriveMka
  split <;> simp
@[simp] theorem queueDial_keyExport : (keyExport c t o s).queueDial = s.queueDial := by simp [keyExport]
@[simp] theorem queueDial_keySeal (m1 m2 : Option (List Byte)) : (keySeal c m1 m2 t o s).queueDial = s.queueDial := by
  simp [keySeal]
@[simp] theorem queueDial_keyDestroy : (keyDestroy c t o s).queueDial = s.queueDial := by simp [keyDestroy]
@[simp] theorem State.queueDial_settleDestroy : (s.settleDestroy i).queueDial = s.queueDial := by
  unfold State.settleDestroy
  repeat' split
  · rfl
  · rfl
  · rw [queueDial_foldl fun s w => by split <;> simp, State.queueDial_emptyKey]

@[simp] theorem State.queueDial_settleKeys : s.settleKeys.queueDial = s.queueDial := by simp [State.settleKeys]
@[simp] theorem queueDial_keyQuery : (keyQuery c t o s).queueDial = s.queueDial := by simp [keyQuery]
@[simp] theorem State.queueDial_reopenKeys : s.reopenKeys.queueDial = s.queueDial := by simp [State.reopenKeys]
@[simp] theorem State.queueDial_pnNearEnd : (s.pnNearEnd n).queueDial = s.queueDial := by simp [State.pnNearEnd]
@[simp] theorem queueDial_lampSaWrite (off : Nat) : (lampSaWrite who n off v s).queueDial = s.queueDial := by
  simp [lampSaWrite]
@[simp] theorem queueDial_encodingAnWrite : (encodingAnWrite who n v s).queueDial = s.queueDial := by
  simp [encodingAnWrite]

/-! ### Machine/Jobs.lean -/

@[simp] theorem queueDial_jobIv (d aux : List Byte) (k : KeySlot) : (jobIv d aux k s).2.queueDial = s.queueDial := by
  unfold jobIv
  repeat' split
  all_goals simp
@[simp] theorem State.queueDial_useCounter : (s.useCounter i).queueDial = s.queueDial := by simp [State.useCounter]
@[simp] theorem queueDial_runKeyed (f : List Byte → List Byte → List Byte → List Byte → List Byte → ModeOut)
    (d src aux : List Byte) (k : KeySlot) :
    (runKeyed f d src aux i k s).2.queueDial = s.queueDial := by
  unfold runKeyed
  dsimp only
  split <;> simp
@[simp] theorem queueDial_startJob (f : List Byte → List Byte → List Byte → List Byte → List Byte → ModeOut)
    (j : Job) :
    (startJob f j s).2.queueDial = s.queueDial := by
  unfold startJob
  dsimp only
  repeat' split
  all_goals simp only [State.queueDial_drbg, queueDial_runKeyed]

@[simp] theorem State.queueDial_placeJob (j : Job) : (s.placeJob e j).queueDial = s.queueDial := by
  unfold State.placeJob
  dsimp only
  split <;> simp
@[simp] theorem State.queueDial_fillEngines : s.fillEngines.queueDial = s.queueDial := by
  refine queueDial_foldl (fun s _ => ?_) _ s
  split <;> simp

@[simp] theorem queueDial_arriveJob (mode : Nat) (src aux : Option (List Byte)) :
    (arriveJob mode ring src aux s).queueDial = s.queueDial := by
  unfold arriveJob
  dsimp only
  split <;> simp
@[simp] theorem State.queueDial_endJob (j : Job) : (s.endJob j).queueDial = s.queueDial := by simp [State.endJob]
@[simp] theorem queueDial_jobPreempt : (jobPreempt e s).queueDial = s.queueDial := by
  unfold jobPreempt
  repeat' split
  all_goals simp
@[simp] theorem State.queueDial_countJob : (s.countJob o status).queueDial = s.queueDial := by
  unfold State.countJob
  dsimp only
  split <;> simp
@[simp] theorem State.queueDial_refuseJob : (s.refuseJob c t status).queueDial = s.queueDial := by
  simp [State.refuseJob]
@[simp] theorem queueDial_jobCompletion (written : Bool) : (jobCompletion e written s).queueDial = s.queueDial := by
  unfold jobCompletion
  split <;> simp

/-! ### Machine/Macsec.lean -/

@[simp] theorem State.queueDial_takePn : (s.takePn n).queueDial = s.queueDial := by simp [State.takePn]
@[simp] theorem State.queueDial_protect (f : List Byte) : (s.protect n f).2.queueDial = s.queueDial := by
  simp [State.protect]
@[simp] theorem State.queueDial_wireFrame (f : List Byte) : (s.wireFrame n f).2.queueDial = s.queueDial := by
  unfold State.wireFrame
  dsimp only
  split <;> simp
@[simp] theorem State.queueDial_macsecRx : (s.macsecRx n bytes).2.queueDial = s.queueDial := by
  unfold State.macsecRx
  dsimp only
  repeat' split
  all_goals simp only [State.queueDial_count, State.queueDial_setReg]

/-! ### Machine/TableOps.lean -/

@[simp] theorem State.queueDial_modEntry (f : Entry → Entry) : (s.modEntry k f).queueDial = s.queueDial := by
  simp [State.modEntry]
@[simp] theorem State.queueDial_countEntry : (s.countEntry k pipe).queueDial = s.queueDial := by
  simp [State.countEntry]
@[simp] theorem State.queueDial_captureMargins : s.captureMargins.queueDial = s.queueDial := by
  simp [State.captureMargins]
@[simp] theorem State.queueDial_parityReport (t : Nat) : (s.parityReport t pipe index).queueDial = s.queueDial := by
  simp [State.parityReport]
@[simp] theorem State.queueDial_meetEntry : (s.meetEntry k pipe).queueDial = s.queueDial := by simp [State.meetEntry]
@[simp] theorem State.queueDial_rewriteNodes (p : Prefix) : (s.rewriteNodes p).queueDial = s.queueDial := by
  simp [State.rewriteNodes]

/-! ### Machine/RelOps.lean -/

@[simp] theorem State.queueDial_modRel (f : Posting → Posting) : (s.modRel rel f).queueDial = s.queueDial := by
  simp [State.modRel]
@[simp] theorem State.queueDial_noteDrop (p : Posting) : (s.noteDrop p n reason).queueDial = s.queueDial := by
  simp [State.noteDrop]
@[simp] theorem State.queueDial_dropCopy : (s.dropCopy rel n reason).queueDial = s.queueDial := by
  unfold State.dropCopy
  split <;> simp
@[simp] theorem State.queueDial_auditRelease : (s.auditRelease rel).queueDial = s.queueDial := by
  unfold State.auditRelease
  split <;> simp
@[simp] theorem State.queueDial_settleRelease : (s.settleRelease rel).queueDial = s.queueDial := by
  unfold State.settleRelease
  dsimp only
  split <;> simp
@[simp] theorem State.queueDial_endCopy : (s.endCopy rel n reason).queueDial = s.queueDial := by simp [State.endCopy]
@[simp] theorem State.queueDial_dropArmed : s.dropArmed.queueDial = s.queueDial := by simp [State.dropArmed]
@[simp] theorem State.queueDial_prunePostings : s.prunePostings.queueDial = s.queueDial := by
  simp [State.prunePostings]

/-! ### Machine/EgressOps.lean -/

@[simp] theorem State.queueDial_sendPfc (quanta : Nat) : (s.sendPfc n quanta).queueDial = s.queueDial := by
  simp [State.sendPfc]
@[simp] theorem State.queueDial_pfcSettle : (s.pfcSettle n).queueDial = s.queueDial := by simp [State.pfcSettle]
@[simp] theorem State.queueDial_poolTake (id bytes copies : Nat) :
    (s.poolTake n id bytes copies).queueDial = s.queueDial := by
  simp [State.poolTake]
@[simp] theorem State.queueDial_poolFree (f : QFrame) : (s.poolFree f).queueDial = s.queueDial := by
  unfold State.poolFree
  split <;> simp
@[simp] theorem State.queueDial_txDone (f : QFrame) : (s.txDone f status stamp).queueDial = s.queueDial := by
  unfold State.txDone
  split <;> simp
@[simp] theorem State.queueDial_loseFrame (f : QFrame) : (s.loseFrame f status).queueDial = s.queueDial := by
  simp [State.loseFrame]
@[simp] theorem State.queueDial_setQueue (fs : List QFrame) : (s.setQueue n q fs).queueDial = s.queueDial := by
  simp [State.setQueue]
@[simp] theorem State.queueDial_enqueue (f : QFrame) : (s.enqueue n f).queueDial = s.queueDial := by
  simp [State.enqueue]
@[simp] theorem State.queueDial_pfcEnd : (s.pfcEnd n).queueDial = s.queueDial := by simp [State.pfcEnd]
@[simp] theorem State.queueDial_setPause (until_ : Option Dial) :
    (s.setPause n p until_).queueDial = s.queueDial := by
  simp [State.setPause]
@[simp] theorem State.queueDial_pfcReceived (f : List Byte) : (s.pfcReceived n f).queueDial = s.queueDial := by
  simp [State.pfcReceived]
@[simp] theorem queueDial_pfcPauseExpiry : (pfcPauseExpiry n p s).queueDial = s.queueDial := by simp [pfcPauseExpiry]
@[simp] theorem queueDial_pfcRefresh : (pfcRefresh n s).queueDial = s.queueDial := by simp [pfcRefresh]
@[simp] theorem queueDial_pfcWatchdog : (pfcWatchdog n p s).queueDial = s.queueDial := by simp [pfcWatchdog]
@[simp] theorem State.queueDial_wireDone : (s.wireDone n).queueDial = s.queueDial := by
  unfold State.wireDone
  split <;> simp
@[simp] theorem State.queueDial_cutWire : (s.cutWire n).queueDial = s.queueDial := by
  unfold State.cutWire
  rw [queueDial_foldl fun s f => by simp, State.queueDial_modEgr]

@[simp] theorem State.queueDial_copySent : (s.copySent rel n).queueDial = s.queueDial := by
  unfold State.copySent
  split <;> simp
@[simp] theorem State.queueDial_abortCopies : (s.abortCopies n).queueDial = s.queueDial := by
  refine queueDial_foldl (fun s p => ?_) _ s
  split <;> simp

@[simp] theorem State.queueDial_egressDown : (s.egressDown n).queueDial = s.queueDial := by simp [State.egressDown]
@[simp] theorem State.queueDial_flushHeld : (s.flushHeld n).queueDial = s.queueDial := by simp [State.flushHeld]
@[simp] theorem queueDial_portHoldExpiry : (portHoldExpiry n s).queueDial = s.queueDial := by simp [portHoldExpiry]
@[simp] theorem State.queueDial_verifyPreempt : (s.verifyPreempt n).queueDial = s.queueDial := by
  simp [State.verifyPreempt]
@[simp] theorem State.queueDial_egressUp : (s.egressUp n).queueDial = s.queueDial := by simp [State.egressUp]

/-! ### Machine/RdmaOps.lean -/

@[simp] theorem State.queueDial_frameRx (f : List Byte) : (s.frameRx c n cls stamp f).queueDial = s.queueDial := by
  unfold State.frameRx
  dsimp only
  split <;> simp
@[simp] theorem State.queueDial_sendPacket (opcode : Nat) (ackReq fence : Bool) (ext : List Byte) :
    (s.sendPacket qpn opcode psn ackReq fence ext payload).queueDial = s.queueDial := by
  simp [State.sendPacket]
@[simp] theorem State.queueDial_countWr : (s.countWr o status).queueDial = s.queueDial := by
  unfold State.countWr
  repeat' split
  all_goals simp
@[simp] theorem State.queueDial_wqWrite (base log2 : Nat) (cur : BitVec 32) (entry : List Byte)
    (fields : List (Nat × List Byte)) :
    (s.wqWrite o base log2 cur entry fields).queueDial = s.queueDial := by
  simp [State.wqWrite]
@[simp] theorem State.queueDial_sqDone (w : Wqe) : (s.sqDone qpn w status).queueDial = s.queueDial := by
  simp [State.sqDone]
@[simp] theorem State.queueDial_rqDone (bytes : Nat) (imm : Option (List Byte)) (opcode : Nat) :
    (s.rqDone qpn bytes imm status opcode).queueDial = s.queueDial := by
  unfold State.rqDone
  dsimp only
  split <;> simp
@[simp] theorem State.queueDial_mrSettle : s.mrSettle.queueDial = s.queueDial := by
  refine queueDial_foldl (fun s x => ?_) _ s
  dsimp only
  repeat' split
  all_goals simp

@[simp] theorem State.queueDial_flushQp : (s.flushQp qpn).queueDial = s.queueDial := by simp [State.flushQp]
@[simp] theorem State.queueDial_breakWaits : (s.breakWaits qpn).queueDial = s.queueDial := by simp [State.breakWaits]
@[simp] theorem State.queueDial_settleQp (fuel : Nat) : (s.settleQp fuel qpn).queueDial = s.queueDial := by
  induction fuel generalizing s qpn with
  | zero => rfl
  | succ fuel ih =>
    unfold State.settleQp
    repeat' split
    all_goals simp [ih]

@[simp] theorem State.queueDial_settle : (s.settle qpn).queueDial = s.queueDial := by simp [State.settle]
@[simp] theorem State.queueDial_qpError : (s.qpError qpn).queueDial = s.queueDial := by simp [State.qpError]
@[simp] theorem State.queueDial_failOldest : (s.failOldest qpn status).queueDial = s.queueDial := by
  simp [State.failOldest]
@[simp] theorem State.queueDial_sendEntry (w : Wqe) : (s.sendEntry qpn w k).queueDial = s.queueDial := by
  simp [State.sendEntry]
@[simp] theorem State.queueDial_startReady (fuel : Nat) : (s.startReady fuel qpn).queueDial = s.queueDial := by
  induction fuel generalizing s with
  | zero => rfl
  | succ fuel ih =>
    unfold State.startReady
    dsimp only
    repeat' split
    all_goals simp [ih]

@[simp] theorem State.queueDial_pumpQp : (s.pumpQp qpn).queueDial = s.queueDial := by simp [State.pumpQp]
@[simp] theorem State.queueDial_resendFrom : (s.resendFrom qpn psn).queueDial = s.queueDial := by
  simp [State.resendFrom]
@[simp] theorem State.queueDial_goBack : (s.goBack qpn psn).queueDial = s.queueDial := by simp [State.goBack]
@[simp] theorem State.queueDial_ackBefore : (s.ackBefore qpn psn).queueDial = s.queueDial := by simp [State.ackBefore]
@[simp] theorem State.queueDial_ackReceived (syndrome : Nat) :
    (s.ackReceived qpn psn syndrome).queueDial = s.queueDial := by
  simp [State.ackReceived]
@[simp] theorem State.queueDial_readResponse : (s.readResponse qpn op psn payload).queueDial = s.queueDial := by
  unfold State.readResponse
  dsimp only
  split <;> simp
@[simp] theorem State.queueDial_sendRead (len msn : Nat) : (s.sendRead qpn psn len msn).queueDial = s.queueDial := by
  simp [State.sendRead]
@[simp] theorem State.queueDial_sendReply (r : QpReply) : (s.sendReply qpn r).queueDial = s.queueDial := by
  unfold State.sendReply
  split <;> simp
@[simp] theorem State.queueDial_reply (r : QpReply) : (s.reply qpn r).queueDial = s.queueDial := by simp [State.reply]
@[simp] theorem State.queueDial_flushReplies : (s.flushReplies p).queueDial = s.queueDial := by
  simp [State.flushReplies]
@[simp] theorem State.queueDial_sendAck (syndrome : Nat) : (s.sendAck qpn psn syndrome).queueDial = s.queueDial := by
  simp [State.sendAck]
@[simp] theorem State.queueDial_refuse (code : Nat) : (s.refuse qpn psn code).queueDial = s.queueDial := by
  simp [State.refuse]
@[simp] theorem State.queueDial_answerRead (len : Nat) : (s.answerRead qpn psn len).queueDial = s.queueDial := by
  simp [State.answerRead]
@[simp] theorem State.queueDial_accept (ack ends : Bool) : (s.accept qpn psn ack ends).queueDial = s.queueDial := by
  simp [State.accept]
@[simp] theorem State.queueDial_sendReceived (ack : Bool) :
    (s.sendReceived qpn op psn ack body).queueDial = s.queueDial := by
  unfold State.sendReceived
  dsimp only
  split <;> simp
@[simp] theorem State.queueDial_writeReceived (ack : Bool) :
    (s.writeReceived qpn op psn ack body).queueDial = s.queueDial := by
  simp [State.writeReceived]
@[simp] theorem State.queueDial_requestInOrder (ack : Bool) :
    (s.requestInOrder qpn op psn ack body).queueDial = s.queueDial := by
  simp [State.requestInOrder]
@[simp] theorem State.queueDial_duplicate : (s.duplicate qpn op psn body).queueDial = s.queueDial := by
  unfold State.duplicate
  extract_lets
  repeat' split
  · exact State.queueDial_sendAck ..
  · exact State.queueDial_refuse ..
  · exact State.queueDial_answerRead ..

@[simp] theorem State.queueDial_touchQp : s.touchQp.queueDial = s.queueDial := by simp [State.touchQp]
@[simp] theorem State.queueDial_rdmaReceived (f : List Byte) (l3 l4 : Nat) (v6 : Bool) :
    (s.rdmaReceived n stamp cls f l3 l4 v6).queueDial = s.queueDial := by
  simp [State.rdmaReceived]

/-! ### Machine/Rdma.lean -/

@[simp] theorem State.queueDial_noteQps : s.noteQps.queueDial = s.queueDial := by simp [State.noteQps]
@[simp] theorem queueDial_qpCreate : (qpCreate c s).queueDial = s.queueDial := by simp [qpCreate]
@[simp] theorem State.queueDial_moveQp (goal : QpPhase) (b : List Byte) :
    (s.moveQp n goal b).queueDial = s.queueDial := by
  unfold State.moveQp
  split <;> simp
@[simp] theorem queueDial_qpModify (attr : Option (List Byte)) : (qpModify c attr s).queueDial = s.queueDial := by
  apply queueDial_onAdmin
  intro t o s
  dsimp only
  repeat' split
  all_goals simp

@[simp] theorem queueDial_qpQuery : (qpQuery c s).queueDial = s.queueDial := by simp [qpQuery]
@[simp] theorem queueDial_qpDestroy : (qpDestroy c s).queueDial = s.queueDial := by simp [qpDestroy]
@[simp] theorem queueDial_mrReg : (mrReg c s).queueDial = s.queueDial := by simp [mrReg]
@[simp] theorem queueDial_mrDereg : (mrDereg c s).queueDial = s.queueDial := by simp [mrDereg]
@[simp] theorem State.queueDial_takeRecvs (entries : List (List Byte)) :
    (s.takeRecvs n entries).queueDial = s.queueDial := by
  simp [State.takeRecvs]
@[simp] theorem queueDial_rdmaDoorbell (rq : Bool) : (rdmaDoorbell who n rq s).queueDial = s.queueDial := by
  simp [rdmaDoorbell]
@[simp] theorem State.queueDial_takeSends (es : List (List Byte)) : (s.takeSends n es).queueDial = s.queueDial := by
  simp [State.takeSends]
@[simp] theorem State.queueDial_wqError (k : Nat → Nat) (vfOff : Nat) :
    (s.wqError n k vfOff).queueDial = s.queueDial := by
  simp [State.wqError]
@[simp] theorem queueDial_wqFetch (rq : Bool) (pi : Option (BitVec 32)) (entries : List (Option (List Byte))) :
    (wqFetch n rq pi entries s).queueDial = s.queueDial := by
  unfold wqFetch
  dsimp only
  repeat' split
  all_goals simp
@[simp] theorem State.queueDial_takeSend (entry data : List Byte) :
    (s.takeSend n entry data).queueDial = s.queueDial := by
  simp [State.takeSend]
@[simp] theorem State.queueDial_failQueueRead (entry : Option (BitVec 32)) :
    (s.failQueueRead c entry).queueDial = s.queueDial := by
  obtain ⟨sub, hsub⟩ := exists_eq' (a' := @HSub.hSub Nat Nat Nat _)
  unfold State.failQueueRead
  rw [hsub]
  dsimp only
  repeat' split
  all_goals simp

@[simp] theorem queueDial_sendWork (at_ : BitVec 32) (op : Nat → Bool) (data : List Byte) :
    (sendWork n at_ op data s).queueDial = s.queueDial := by
  unfold sendWork
  split <;> simp
@[simp] theorem queueDial_sendCommand (at_ : BitVec 32) (data : List Byte) :
    (sendCommand n at_ data s).queueDial = s.queueDial := by
  unfold sendCommand
  split <;> simp
@[simp] theorem queueDial_ackTimeout : (ackTimeout n s).queueDial = s.queueDial := by
  unfold ackTimeout
  dsimp only
  split <;> simp
@[simp] theorem queueDial_rnrDelayExpiry : (rnrDelayExpiry n s).queueDial = s.queueDial := by simp [rnrDelayExpiry]
@[simp] theorem queueDial_triggeredStart : (triggeredStart n s).queueDial = s.queueDial := by
  unfold triggeredStart
  split <;> simp
@[simp] theorem State.queueDial_drainRdma : (s.drainRdma o).queueDial = s.queueDial := by simp [State.drainRdma]

/-! ### Machine/Tables.lean -/

@[simp] theorem State.queueDial_updDone : (s.updDone c t status).queueDial = s.queueDial := by simp [State.updDone]
@[simp] theorem queueDial_onTable {f : Taken → State → State} (h : ∀ x s, (f x s).queueDial = s.queueDial) :
    (onTable c op f s).queueDial = s.queueDial := by
  unfold onTable
  dsimp only
  repeat' split
  all_goals simp [h]
@[simp] theorem State.queueDial_writeImage (b : List Byte) : (s.writeImage c t b).queueDial = s.queueDial := by
  simp [State.writeImage]
@[simp] theorem queueDial_tableRead (buf : Option (List Byte)) : (tableRead c buf t s).queueDial = s.queueDial := by
  unfold tableRead
  dsimp only
  repeat' split
  all_goals simp
@[simp] theorem State.queueDial_noteSide : (s.noteSide k).queueDial = s.queueDial := by simp [State.noteSide]
@[simp] theorem queueDial_tableLock : (tableLock c t s).queueDial = s.queueDial := by simp [tableLock]
@[simp] theorem State.queueDial_countLate : (s.countLate k).queueDial = s.queueDial := by simp [State.countLate]
@[simp] theorem State.queueDial_storeImage (x : BitVec 512) : (s.storeImage k e x).queueDial = s.queueDial := by
  simp [State.storeImage]
@[simp] theorem State.queueDial_actWrite (img : List Byte) : (s.actWrite c t img).queueDial = s.queueDial := by
  simp [State.actWrite]
@[simp] theorem State.queueDial_holdUpdate (unlock : Bool) (img : Option (List Byte)) :
    (s.holdUpdate c t unlock img).queueDial = s.queueDial := by
  simp [State.holdUpdate]
@[simp] theorem queueDial_tableWrite (image : Option (List Byte)) :
    (tableWrite c image t s).queueDial = s.queueDial := by
  unfold tableWrite
  split <;> simp
@[simp] theorem State.queueDial_actUnlock : (s.actUnlock c t).queueDial = s.queueDial := by simp [State.actUnlock]
@[simp] theorem queueDial_tableUnlock : (tableUnlock c t s).queueDial = s.queueDial := by simp [tableUnlock]
@[simp] theorem queueDial_onPrefix (image : Option (List Byte)) {f : List Byte → Nat → Nat → State → State}
    (h : ∀ x y z s, (f x y z s).queueDial = s.queueDial) :
    (onPrefix c image t f s).queueDial = s.queueDial := by
  unfold onPrefix
  split <;> simp [h]
@[simp] theorem queueDial_tableInsert (image : Option (List Byte)) :
    (tableInsert c image t s).queueDial = s.queueDial := by
  simp [tableInsert]
@[simp] theorem queueDial_tableDelete (image : Option (List Byte)) :
    (tableDelete c image t s).queueDial = s.queueDial := by
  simp [tableDelete]
@[simp] theorem State.queueDial_actHeld (h : HeldUpdate) : (s.actHeld h).queueDial = s.queueDial := by
  unfold State.actHeld
  split <;> simp
@[simp] theorem queueDial_oldContentsRelease : (oldContentsRelease table inst index s).queueDial = s.queueDial := by
  unfold oldContentsRelease
  dsimp only
  split <;> simp
@[simp] theorem State.queueDial_sweep : (s.sweep pipe).queueDial = s.queueDial := by simp [State.sweep]
@[simp] theorem queueDial_sweepPass : (sweepPass pipe s).queueDial = s.queueDial := by simp [sweepPass]
@[simp] theorem queueDial_sweepOverrun : (sweepOverrun pipe s).queueDial = s.queueDial := by simp [sweepOverrun]
@[simp] theorem State.queueDial_meetNode (b : BadNode) : (s.meetNode b).queueDial = s.queueDial := by
  simp [State.meetNode]
@[simp] theorem queueDial_tableScrub : (tableScrub table inst index s).queueDial = s.queueDial := by
  unfold tableScrub
  repeat' split
  all_goals simp

/-! ### Machine/Rings.lean -/

@[simp] theorem State.queueDial_countPf (k : Nat → Nat) : (s.countPf who k).queueDial = s.queueDial := by
  simp [State.countPf]
@[simp] theorem State.queueDial_ringRefused : (s.ringRefused who).queueDial = s.queueDial := by
  simp [State.ringRefused]
@[simp] theorem queueDial_onWindow {f : Party → State → State} (h : ∀ x s, (f x s).queueDial = s.queueDial) :
    (onWindow who c f s).queueDial = s.queueDial := by
  unfold onWindow
  split <;> simp [h]
@[simp] theorem State.queueDial_beginFetch : (s.beginFetch c).queueDial = s.queueDial := by simp [State.beginFetch]
@[simp] theorem State.queueDial_wakeRing : (s.wakeRing c).queueDial = s.queueDial := by simp [State.wakeRing]
@[simp] theorem queueDial_ringDoorbell : (ringDoorbell who c s).queueDial = s.queueDial := by simp [ringDoorbell]
@[simp] theorem queueDial_periodicScan : (periodicScan c s).queueDial = s.queueDial := by simp [periodicScan]
@[simp] theorem State.queueDial_endFetch : (s.endFetch c).queueDial = s.queueDial := by simp [State.endFetch]
@[simp] theorem State.queueDial_ringError : (s.ringError c cause).queueDial = s.queueDial := by simp [State.ringError]
@[simp] theorem State.queueDial_fetchFail : (s.fetchFail c).queueDial = s.queueDial := by simp [State.fetchFail]
@[simp] theorem State.queueDial_takeEntry (d : List Byte) : (s.takeEntry c d).queueDial = s.queueDial := by
  unfold State.takeEntry
  dsimp only
  split <;> simp
@[simp] theorem queueDial_descriptorFetch (entries : List (Option (List Byte))) :
    (descriptorFetch c entries s).queueDial = s.queueDial := by
  simp [descriptorFetch]
@[simp] theorem State.queueDial_noteJobs : s.noteJobs.queueDial = s.queueDial := by simp [State.noteJobs]
@[simp] theorem queueDial_ringPiRead (pi : Option (BitVec 32)) (entries : List (Option (List Byte))) :
    (ringPiRead c pi entries s).queueDial = s.queueDial := by
  unfold ringPiRead
  dsimp only
  repeat' split
  all_goals simp
@[simp] theorem queueDial_piRead (pi : Option (BitVec 32)) (entries : List (Option (List Byte))) :
    (piRead c pi entries s).queueDial = s.queueDial := by
  unfold piRead
  split <;> simp
@[simp] theorem queueDial_ringEnable : (ringEnable who c s).queueDial = s.queueDial := by simp [ringEnable]
@[simp] theorem queueDial_ringDisable : (ringDisable who c s).queueDial = s.queueDial := by simp [ringDisable]
@[simp] theorem queueDial_ringConfigWrite (reg : Nat) : (ringConfigWrite who c reg v s).queueDial = s.queueDial := by
  simp [ringConfigWrite]
@[simp] theorem queueDial_ringSnapshot : (ringSnapshot c s).queueDial = s.queueDial := by simp [ringSnapshot]

/-! ### Machine/Ledger.lean -/

@[simp] theorem queueDial_epochTimeout : (epochTimeout s).queueDial = s.queueDial := by
  unfold epochTimeout
  split <;> simp
@[simp] theorem queueDial_sealNow : (sealNow s).queueDial = s.queueDial := by simp [sealNow]
@[simp] theorem queueDial_decideChain : (decideChain s).queueDial = s.queueDial := by simp [decideChain]
@[simp] theorem queueDial_newChain : (newChain s).queueDial = s.queueDial := by simp [newChain]
@[simp] theorem queueDial_drainResume : (drainResume s).queueDial = s.queueDial := by simp [drainResume]
@[simp] theorem State.queueDial_issueDrain : (s.issueDrain k m).queueDial = s.queueDial := by simp [State.issueDrain]
@[simp] theorem queueDial_drainWrite : (drainWrite s).queueDial = s.queueDial := by simp [drainWrite]
@[simp] theorem State.queueDial_drainAdvance : s.drainAdvance.queueDial = s.queueDial := by
  simp [State.drainAdvance]
@[simp] theorem State.queueDial_drainSettle (d : Drain) : (s.drainSettle d).queueDial = s.queueDial := by
  simp [State.drainSettle]
@[simp] theorem queueDial_drainWriteComplete (ok : Bool) : (drainWriteComplete m ok s).queueDial = s.queueDial := by
  unfold drainWriteComplete
  split <;> simp
@[simp] theorem queueDial_drainRetry : (drainRetry m s).queueDial = s.queueDial := by
  unfold drainRetry
  split <;> simp
@[simp] theorem queueDial_drainTgtWrite : (drainTgtWrite m v s).queueDial = s.queueDial := by
  unfold drainTgtWrite
  dsimp only
  split <;> simp
@[simp] theorem queueDial_drainAckWrite : (drainAckWrite v s).queueDial = s.queueDial := by simp [drainAckWrite]
@[simp] theorem queueDial_audCtlWrite : (audCtlWrite v s).queueDial = s.queueDial := by
  unfold audCtlWrite
  split <;> simp
@[simp] theorem State.queueDial_chainAt (epoch drainNext : Nat) :
    (s.chainAt index epoch drainNext).queueDial = s.queueDial := by
  simp [State.chainAt]
@[simp] theorem State.queueDial_audRestart : s.audRestart.queueDial = s.queueDial := by simp [State.audRestart]
@[simp] theorem State.queueDial_recoverChain : s.recoverChain.queueDial = s.queueDial := by
  obtain ⟨pick, hpick⟩ := exists_eq' (a' := @ite (Bool × Nat))
  unfold State.recoverChain
  rw [hpick]
  extract_lets -underBinder u check wi we wd slot low ahead i
  have hu : u.queueDial = s.queueDial := by simp [u]
  clear_value u check wi we wd slot low ahead i
  split
  extract_lets -underBinder v b prev next _ unkeyed _ flags walk rested placed _ sealed torn walked _ opened
    recovered
  have hv : v.queueDial = s.queueDial := (State.queueDial_setReg ..).trans hu
  have hunkeyed : unkeyed.queueDial = s.queueDial :=
    (State.queueDial_setReg ..).trans <| (State.queueDial_ledgerQueue ..).trans <|
    (State.queueDial_chainAt ..).trans hv
  have hsealed : sealed.queueDial = s.queueDial :=
    (State.queueDial_update placed).trans <| (State.queueDial_chainAt ..).trans hv
  have hopened : opened.queueDial = s.queueDial :=
    (State.queueDial_update walked).trans <| (State.queueDial_chainAt ..).trans hv
  have hrecovered : recovered.queueDial = s.queueDial := by
    unfold recovered
    split
    · exact (State.queueDial_auditLose ..).trans hopened
    · exact (State.queueDial_auditPlace ..).trans hopened
  repeat' split
  · exact (State.queueDial_auditStart ..).trans <| (State.queueDial_update unkeyed).trans hunkeyed
  · exact (State.queueDial_auditGenesis ..).trans hunkeyed
  · exact (State.queueDial_auditStart ..).trans <| (State.queueDial_setReg ..).trans hsealed
  · exact (State.queueDial_auditStart ..).trans <| (State.queueDial_setReg ..).trans <|
      (State.queueDial_auditSeal ..).trans hrecovered

@[simp] theorem State.queueDial_auditPowerFail (armed : Nat) :
    (s.auditPowerFail cause armed).queueDial = s.queueDial := by
  simp [State.auditPowerFail]
@[simp] theorem State.queueDial_collapse : (s.collapse n).queueDial = s.queueDial := by simp [State.collapse]

/-! ### Machine/StorageOps.lean -/

@[simp] theorem State.queueDial_prpWrite (total off : Nat) :
    (s.prpWrite cmd total off bytes).queueDial = s.queueDial := by
  simp [State.prpWrite]
@[simp] theorem State.queueDial_nvmePost (x : NvPost) : (s.nvmePost f x).queueDial = s.queueDial := by
  unfold State.nvmePost
  dsimp only
  split <;> simp
@[simp] theorem State.queueDial_nvmeDone (result : Nat) : (s.nvmeDone cmd result status).queueDial = s.queueDial := by
  unfold State.nvmeDone
  split <;> simp
@[simp] theorem State.queueDial_nvmeFlushPosts : (s.nvmeFlushPosts f).queueDial = s.queueDial := by
  simp [State.nvmeFlushPosts]
@[simp] theorem State.queueDial_ioDone (readBytes writeBytes : Nat) :
    (s.ioDone cmd status readBytes writeBytes).queueDial = s.queueDial := by
  unfold State.ioDone
  split <;> simp
@[simp] theorem State.queueDial_modPiece (f : Piece → Piece) : (s.modPiece i f).queueDial = s.queueDial := by
  simp [State.modPiece]
@[simp] theorem State.queueDial_noteJournal : s.noteJournal.queueDial = s.queueDial := by simp [State.noteJournal]
@[simp] theorem State.queueDial_journalCommit (p : Piece) : (s.journalCommit p).queueDial = s.queueDial := by
  unfold State.journalCommit
  split <;> simp
@[simp] theorem State.queueDial_journalBefore (p : Piece) : (s.journalBefore p).queueDial = s.queueDial := by
  unfold State.journalBefore
  split <;> simp
@[simp] theorem State.queueDial_journalRetire (p : Piece) : (s.journalRetire p).queueDial = s.queueDial := by
  unfold State.journalRetire
  split <;> simp
@[simp] theorem State.queueDial_sqe (op : Option Nat) (nsid lba blocks bytes : Nat) :
    (s.sqe op nsid lba blocks bytes).2.queueDial = s.queueDial := by
  simp [State.sqe]
@[simp] theorem State.queueDial_issuePart : (s.issuePart i k).queueDial = s.queueDial := by
  unfold State.issuePart
  repeat' split
  all_goals simp
@[simp] theorem State.queueDial_issueParts (pick : Part → Bool) : (s.issueParts i pick).queueDial = s.queueDial := by
  unfold State.issueParts
  split <;> simp
@[simp] theorem State.queueDial_commitPiece : (s.commitPiece i).queueDial = s.queueDial := by
  unfold State.commitPiece
  split <;> simp
@[simp] theorem State.queueDial_slotPiece (slots : List Nat) : (s.slotPiece i slots).queueDial = s.queueDial := by
  simp [State.slotPiece]
@[simp] theorem State.queueDial_beginPiece : (s.beginPiece i).queueDial = s.queueDial := by
  unfold State.beginPiece
  split <;> simp
@[simp] theorem State.queueDial_placeRead (p : Piece) (bytes : Nat) :
    (s.placeRead p bytes).queueDial = s.queueDial := by
  simp [State.placeRead]
@[simp] theorem State.queueDial_endPiece (status : Option Nat) : (s.endPiece i status).queueDial = s.queueDial := by
  unfold State.endPiece
  split <;> simp
@[simp] theorem State.queueDial_advancePiece : (s.advancePiece i).queueDial = s.queueDial := by
  unfold State.advancePiece
  repeat' split
  all_goals simp
@[simp] theorem State.queueDial_finishGroup (g : Nat) : (s.finishGroup g).queueDial = s.queueDial := by
  unfold State.finishGroup
  dsimp only
  split <;> simp
@[simp] theorem State.queueDial_releasePiece : (s.releasePiece i).queueDial = s.queueDial := by
  unfold State.releasePiece
  split <;> simp
@[simp] theorem queueDial_withDrives {f : State → State} (h : ∀ s, (f s).queueDial = s.queueDial) :
    (withDrives f s).queueDial = s.queueDial := by
  simp [withDrives, h]
@[simp] theorem State.queueDial_finishDetach : (s.finishDetach i).queueDial = s.queueDial := by
  unfold State.finishDetach
  repeat' split
  · rfl
  · rfl
  · rfl
  · rw [queueDial_forAll]
    · exact queueDial_withDrives _ fun s => by simp
    · intro w s
      split <;> simp

@[simp] theorem State.queueDial_storageRound : s.storageRound.queueDial = s.queueDial := by
  simp [State.storageRound]
@[simp] theorem State.queueDial_storageRounds : (s.storageRounds n).queueDial = s.queueDial := by
  induction n generalizing s with
  | zero => rfl
  | succ n ih => simp [State.storageRounds, ih]

@[simp] theorem State.queueDial_readyCtrls : s.readyCtrls.queueDial = s.queueDial := by simp [State.readyCtrls]
@[simp] theorem State.queueDial_storageSettle : s.storageSettle.queueDial = s.queueDial := by
  simp [State.storageSettle]
@[simp] theorem State.queueDial_addPieces (mk : Nat → Nat → List Piece) :
    (s.addPieces mk).queueDial = s.queueDial := by
  simp [State.addPieces]
@[simp] theorem State.queueDial_dropPieces (keep : Piece → Bool) : (s.dropPieces f keep).queueDial = s.queueDial := by
  simp [State.dropPieces]
@[simp] theorem State.queueDial_retryKept : (s.retryKept i).queueDial = s.queueDial := by
  unfold State.retryKept
  split <;> simp
@[simp] theorem State.queueDial_resolveSlot : (s.resolveSlot i).queueDial = s.queueDial := by
  unfold State.resolveSlot
  dsimp only
  repeat' split
  all_goals simp
@[simp] theorem State.queueDial_resolveJournal : s.resolveJournal.queueDial = s.queueDial := by
  simp [State.resolveJournal]

/-! ### Machine/Storage.lean -/

@[simp] theorem State.queueDial_setPs (ps : Nat) : (s.setPs f ps).queueDial = s.queueDial := by simp [State.setPs]
@[simp] theorem State.queueDial_claimRing (type base : Nat) :
    (s.claimRing f c type base).queueDial = s.queueDial := by
  simp [State.claimRing]
@[simp] theorem State.queueDial_freeNvRing (q : NvQueue) : (s.freeNvRing q).queueDial = s.queueDial := by
  simp [State.freeNvRing]
@[simp] theorem State.queueDial_createCq : (s.createCq cmd).queueDial = s.queueDial := by
  unfold State.createCq
  dsimp only
  repeat' split
  all_goals simp
@[simp] theorem State.queueDial_createSq : (s.createSq cmd).queueDial = s.queueDial := by
  unfold State.createSq
  dsimp only
  repeat' split
  all_goals simp
@[simp] theorem State.queueDial_dropSq (qid : Nat) : (s.dropSq f qid).queueDial = s.queueDial := by
  unfold State.dropSq
  split <;> simp
@[simp] theorem State.queueDial_dropCq (qid : Nat) : (s.dropCq f qid).queueDial = s.queueDial := by
  unfold State.dropCq
  split <;> simp
@[simp] theorem State.queueDial_deleteSq : (s.deleteSq cmd).queueDial = s.queueDial := by simp [State.deleteSq]
@[simp] theorem State.queueDial_deleteCq : (s.deleteCq cmd).queueDial = s.queueDial := by simp [State.deleteCq]
@[simp] theorem State.queueDial_identifyCtrl : (s.identifyCtrl f).2.queueDial = s.queueDial := by
  simp [State.identifyCtrl]
@[simp] theorem State.queueDial_identify : (s.identify cmd).queueDial = s.queueDial := by
  unfold State.identify
  dsimp only
  repeat' split
  all_goals simp
@[simp] theorem State.queueDial_getFeatures : (s.getFeatures cmd).queueDial = s.queueDial := by
  simp [State.getFeatures]
@[simp] theorem State.queueDial_setFeatures : (s.setFeatures cmd).queueDial = s.queueDial := by
  simp [State.setFeatures]
@[simp] theorem State.queueDial_getLogPage : (s.getLogPage cmd).queueDial = s.queueDial := by
  unfold State.getLogPage
  split <;> simp
@[simp] theorem State.queueDial_asyncError (info : Nat) : (s.asyncError f info).queueDial = s.queueDial := by
  unfold State.asyncError
  split <;> simp
@[simp] theorem State.queueDial_abortCmd : (s.abortCmd cmd).queueDial = s.queueDial := by
  unfold State.abortCmd
  dsimp only
  repeat' split
  all_goals simp
@[simp] theorem State.queueDial_asyncEvent : (s.asyncEvent cmd).queueDial = s.queueDial := by simp [State.asyncEvent]
@[simp] theorem State.queueDial_onNamespace {f : Nat → Namespace → State → State}
    (h : ∀ x y s, (f x y s).queueDial = s.queueDial) :
    (s.onNamespace cmd f).queueDial = s.queueDial := by
  unfold State.onNamespace
  split <;> simp [h]
@[simp] theorem State.queueDial_transfer (kind : PieceKind) (data : Option (List Byte)) :
    (s.transfer cmd kind data).queueDial = s.queueDial := by
  simp [State.transfer]
@[simp] theorem State.queueDial_deallocate (ranges : Option (List (Nat × Nat))) :
    (s.deallocate cmd ranges).queueDial = s.queueDial := by
  simp [State.deallocate]
@[simp] theorem State.queueDial_flushCmd : (s.flushCmd cmd).queueDial = s.queueDial := by simp [State.flushCmd]
@[simp] theorem State.queueDial_runNvme (op : NvmeOp) : (s.runNvme op cmd).queueDial = s.queueDial := by
  unfold State.runNvme
  repeat' split
  all_goals simp
@[simp] theorem State.queueDial_takeHead (qid : Nat) : (s.takeHead f qid).queueDial = s.queueDial := by
  simp [State.takeHead]
@[simp] theorem State.queueDial_fetchNvme (op : NvmeOp) : (s.fetchNvme op cmd).queueDial = s.queueDial := by
  unfold State.fetchNvme
  dsimp only
  split <;> simp
@[simp] theorem State.queueDial_failNvme (entry : Option (BitVec 32)) :
    (s.failNvme f ring entry).queueDial = s.queueDial := by
  unfold State.failNvme
  dsimp only
  split <;> simp
@[simp] theorem queueDial_psEntryDone : (psEntryDone f s).queueDial = s.queueDial := by
  unfold psEntryDone
  dsimp only
  split <;> simp
@[simp] theorem queueDial_ccEnSet : (ccEnSet f s).queueDial = s.queueDial := by
  unfold ccEnSet
  dsimp only
  repeat' split
  all_goals simp
@[simp] theorem State.queueDial_ctrlReset (apply : Bool) : (s.ctrlReset f apply).queueDial = s.queueDial := by
  simp [State.ctrlReset]
@[simp] theorem queueDial_ccEnClear : (ccEnClear f s).queueDial = s.queueDial := by simp [ccEnClear]
@[simp] theorem queueDial_nvmeDoorbell (cq : Bool) (v : BitVec 32) :
    (nvmeDoorbell who q cq v s).queueDial = s.queueDial := by
  unfold nvmeDoorbell
  dsimp only
  repeat' split
  all_goals simp
@[simp] theorem queueDial_nsCreate (list : Option (List Byte)) : (nsCreate c list s).queueDial = s.queueDial := by
  unfold nsCreate
  split <;> simp
@[simp] theorem queueDial_nsDelete : (nsDelete c s).queueDial = s.queueDial := by simp [nsDelete]
@[simp] theorem queueDial_nsAttach : (nsAttach c s).queueDial = s.queueDial := by
  apply queueDial_onAdmin
  intro t o s
  dsimp only
  repeat' split
  all_goals simp

@[simp] theorem queueDial_nsDetach : (nsDetach c s).queueDial = s.queueDial := by
  apply queueDial_onAdmin
  intro t o s
  dsimp only
  repeat' split
  all_goals simp

@[simp] theorem queueDial_journalSlotTaken : (journalSlotTaken s).queueDial = s.queueDial := by
  unfold journalSlotTaken
  split <;> simp
@[simp] theorem State.queueDial_countPortErr (x : Part) : (s.countPortErr x).queueDial = s.queueDial := by
  simp [State.countPortErr]
@[simp] theorem queueDial_partComplete (r : PartResult) : (partComplete i k r s).queueDial = s.queueDial := by
  unfold partComplete
  repeat' split
  all_goals simp
@[simp] theorem queueDial_partTimeout : (partTimeout i k s).queueDial = s.queueDial := by simp [partTimeout]
@[simp] theorem queueDial_partRetry : (partRetry i k s).queueDial = s.queueDial := by
  unfold partRetry
  split <;> simp
@[simp] theorem queueDial_nsReadyRetry (ok : Bool) : (nsReadyRetry i ok s).queueDial = s.queueDial := by
  unfold nsReadyRetry
  split <;> simp
@[simp] theorem queueDial_driveRemoved : (driveRemoved n s).queueDial = s.queueDial := by simp [driveRemoved]
@[simp] theorem queueDial_driveReturned (nsid lbas : Nat) (fmt4k : Bool) :
    (driveReturned n nsid lbas fmt4k s).queueDial = s.queueDial := by
  simp [driveReturned]
@[simp] theorem queueDial_nvmeFetch (i : Instr) (op : NvmeOp) : (nvmeFetch i op cmd s).queueDial = s.queueDial := by
  simp [nvmeFetch]

/-! ### Machine/Functions.lean -/

@[simp] theorem State.queueDial_setShare (v : Nat) (ws : List Word) :
    (s.setShare p v ws).queueDial = s.queueDial := by
  simp [State.setShare]
@[simp] theorem queueDial_vfShareSet (block : Option (List Byte)) :
    (vfShareSet c block s).queueDial = s.queueDial := by
  apply queueDial_onAdmin
  intro t o s
  dsimp only
  repeat' split
  all_goals simp

@[simp] theorem State.queueDial_vfMboxIrq (v : Nat) : (s.vfMboxIrq p v).queueDial = s.queueDial := by
  simp [State.vfMboxIrq]
@[simp] theorem State.queueDial_mboxIgnored : s.mboxIgnored.queueDial = s.queueDial := by simp [State.mboxIgnored]
@[simp] theorem State.queueDial_placeShrink (v : Nat) (ws : List Word) (late : Bool) :
    (s.placeShrink p v ws late).queueDial = s.queueDial := by
  simp [State.placeShrink]
@[simp] theorem queueDial_shrink (v : Nat) : (shrink p v s).queueDial = s.queueDial := by
  unfold shrink
  dsimp only
  repeat' split
  all_goals simp
@[simp] theorem State.queueDial_trimQps : (s.trimQps o n).queueDial = s.queueDial := by simp [State.trimQps]
@[simp] theorem State.queueDial_trimQueues : (s.trimQueues o n).queueDial = s.queueDial := by simp [State.trimQueues]
@[simp] theorem State.queueDial_trimSpaces : (s.trimSpaces o n).queueDial = s.queueDial := by simp [State.trimSpaces]
@[simp] theorem State.queueDial_zeroiseKey : (s.zeroiseKey i).queueDial = s.queueDial := by simp [State.zeroiseKey]
@[simp] theorem State.queueDial_grantTaken : (s.grantTaken o).queueDial = s.queueDial := by simp [State.grantTaken]
@[simp] theorem State.queueDial_enforceShrink (v : Nat) : (s.enforceShrink p v).queueDial = s.queueDial := by
  unfold State.enforceShrink
  split <;> simp
@[simp] theorem queueDial_graceExpired (v : Nat) : (graceExpired p v s).queueDial = s.queueDial := by
  unfold graceExpired
  split <;> simp
@[simp] theorem State.queueDial_shrinkAcked (v : Nat) : (s.shrinkAcked p v).queueDial = s.queueDial := by
  unfold State.shrinkAcked
  split <;> simp
@[simp] theorem queueDial_shrinkComplete (v : Nat) : (shrinkComplete p v s).queueDial = s.queueDial := by
  unfold shrinkComplete
  dsimp only
  repeat' split
  all_goals simp
@[simp] theorem queueDial_vfMboxDoorbell (v : Nat) : (vfMboxDoorbell p v s).queueDial = s.queueDial := by
  simp [vfMboxDoorbell]
@[simp] theorem queueDial_vfMboxAck (v : Nat) : (vfMboxAck p v s).queueDial = s.queueDial := by simp [vfMboxAck]
@[simp] theorem queueDial_vfmMboxDoorbell : (vfmMboxDoorbell p s).queueDial = s.queueDial := by simp [vfmMboxDoorbell]
@[simp] theorem queueDial_vfmMboxAck : (vfmMboxAck p s).queueDial = s.queueDial := by simp [vfmMboxAck]
@[simp] theorem queueDial_vfmResWrite (x : Word) : (vfmResWrite p w x s).queueDial = s.queueDial := by
  simp [vfmResWrite]
@[simp] theorem State.queueDial_abandonJobs : (s.abandonJobs o).queueDial = s.queueDial := by simp [State.abandonJobs]
@[simp] theorem State.queueDial_dropWork : (s.dropWork o).queueDial = s.queueDial := by
  unfold State.dropWork
  split <;> simp
@[simp] theorem State.queueDial_vfReset (v : Nat) : (s.vfReset p v).queueDial = s.queueDial := by simp [State.vfReset]
@[simp] theorem State.queueDial_vfRingsReset (v : Nat) : (s.vfRingsReset p v).queueDial = s.queueDial := by
  simp [State.vfRingsReset]
@[simp] theorem queueDial_genAbiOfferWrite : (genAbiOfferWrite who v s).queueDial = s.queueDial := by
  unfold genAbiOfferWrite
  split <;> simp

/-! ### Machine/PortLink.lean -/

@[simp] theorem State.queueDial_leaveUp (cut : Bool) : (s.leaveUp n cut).queueDial = s.queueDial := by
  simp [State.leaveUp]
@[simp] theorem State.queueDial_linkDown (cut : Bool) : (s.linkDown n cause cut).queueDial = s.queueDial := by
  simp [State.linkDown]
@[simp] theorem State.queueDial_linkOff : (s.linkOff n).queueDial = s.queueDial := by simp [State.linkOff]
@[simp] theorem State.queueDial_setExcBucket (b : Bucket) : (s.setExcBucket n b).queueDial = s.queueDial := by
  simp [State.setExcBucket]
@[simp] theorem State.queueDial_linkOn : (s.linkOn n).queueDial = s.queueDial := by simp [State.linkOn]
@[simp] theorem queueDial_portModeWrite : (portModeWrite n v s).queueDial = s.queueDial := by simp [portModeWrite]
@[simp] theorem queueDial_onPort {f : State → State} (h : ∀ s, (f s).queueDial = s.queueDial) :
    (onPort n f s).queueDial = s.queueDial := by
  simp [onPort, h]
@[simp] theorem queueDial_alignmentAchieved (deskew : Option (List Nat)) :
    (alignmentAchieved n deskew s).queueDial = s.queueDial := by
  unfold alignmentAchieved
  repeat' split
  all_goals simp
@[simp] theorem State.queueDial_portSettle : (s.portSettle n).queueDial = s.queueDial := by simp [State.portSettle]
@[simp] theorem queueDial_upHoldExpiry : (upHoldExpiry n s).queueDial = s.queueDial := by simp [upHoldExpiry]
@[simp] theorem queueDial_alignmentLost (cut : Bool) : (alignmentLost n cut s).queueDial = s.queueDial := by
  simp [alignmentLost]
@[simp] theorem queueDial_localFault (cut : Bool) : (localFault n cut s).queueDial = s.queueDial := by
  simp [localFault]
@[simp] theorem queueDial_remoteFault (cut : Bool) : (remoteFault n cut s).queueDial = s.queueDial := by
  simp [remoteFault]
@[simp] theorem queueDial_trainTimeout : (trainTimeout n s).queueDial = s.queueDial := by simp [trainTimeout]

/-! ### Machine/Ingress.lean -/

@[simp] theorem State.queueDial_excToken : (s.excToken n stamp).2.queueDial = s.queueDial := by
  obtain ⟨spend, hspend⟩ := exists_eq' (a' := @Bucket.spend)
  generalize hf : @State.excToken = f
  delta State.excToken at hf
  rw [hspend] at hf
  subst hf
  simp

@[simp] theorem State.queueDial_exception (cls : Option Nat) :
    (s.exception n reason cls stamp bytes).queueDial = s.queueDial := by
  have h := State.queueDial_excToken s n stamp
  obtain ⟨token, htoken⟩ := exists_eq' (a' := @State.excToken)
  generalize hf : @State.exception = f
  delta State.exception at hf
  rw [htoken] at hf h
  subst hf
  simp [h]

@[simp] theorem queueDial_exceptionFrameConsumed : (exceptionFrameConsumed pipe s).queueDial = s.queueDial := by
  simp [exceptionFrameConsumed]
@[simp] theorem State.queueDial_classLookup (p : Parsed) : (s.classLookup n p).2.queueDial = s.queueDial := by
  unfold State.classLookup
  dsimp only
  repeat' split
  all_goals simp
@[simp] theorem State.queueDial_hitEntry (e : Entry) : (s.hitEntry k w e).queueDial = s.queueDial := by
  simp [State.hitEntry]
@[simp] theorem State.queueDial_learnInto (e : Entry) (counter : Nat) :
    (s.learnInto n w e counter).queueDial = s.queueDial := by
  simp [State.learnInto]
@[simp] theorem State.queueDial_learn (vid : Nat) (mac : List Byte) :
    (s.learn n vid mac).queueDial = s.queueDial := by
  obtain ⟨way, hway⟩ := exists_eq' (a' := @State.macWay)
  obtain ⟨find, hfind⟩ := exists_eq' (a' := @List.find? Nat)
  unfold State.learn
  rw [hway, hfind]
  dsimp only
  repeat' split
  all_goals simp

@[simp] theorem State.queueDial_forwardTo (g : Ingress) (queue : Nat) (slots : List Nat) :
    (s.forwardTo n g queue slots bytes).queueDial = s.queueDial := by
  unfold State.forwardTo
  split <;> simp
@[simp] theorem State.queueDial_bridge (g : Ingress) (p : Parsed) (queue group : Nat) :
    (s.bridge n g p queue group).queueDial = s.queueDial := by
  obtain ⟨way, hway⟩ := exists_eq' (a' := @State.macWay)
  obtain ⟨mask, hmask⟩ := exists_eq' (a' := @State.groupMask)
  unfold State.bridge
  rw [hway, hmask]
  dsimp only
  repeat' split
  all_goals simp

@[simp] theorem State.queueDial_route (g : Ingress) (p : Parsed) (queue : Nat) :
    (s.route n g p cls queue stamp).queueDial = s.queueDial := by
  unfold State.route
  dsimp only
  repeat' split
  all_goals simp
@[simp] theorem State.queueDial_riskTouch (index : Option Nat) :
    (s.riskTouch table pipe index).queueDial = s.queueDial := by
  unfold State.riskTouch
  split <;> simp
@[simp] theorem State.queueDial_riskCheck (v : RiskInput) : (s.riskCheck n stamp v).2.queueDial = s.queueDial := by
  unfold State.riskCheck
  dsimp only
  split <;> simp

@[simp] theorem State.queueDial_orderMessage (v : RiskInput) :
    (s.orderMessage n d stamp bytes v).queueDial = s.queueDial := by
  obtain ⟨spend, hspend⟩ := exists_eq' (a' := @Bucket.spend)
  unfold State.orderMessage
  rw [hspend]
  dsimp only
  repeat' split
  all_goals simp

@[simp] theorem State.queueDial_order (form secured : Bool) (f : List Byte) (p : Parsed) :
    (s.order n cls d form secured stamp f p).queueDial = s.queueDial := by
  unfold State.order
  dsimp only
  repeat' split
  all_goals simp
@[simp] theorem State.queueDial_pipeline (secured : Bool) (g : Ingress) :
    (s.pipeline n stamp secured g).queueDial = s.queueDial := by
  have htok := State.queueDial_excToken
  have hcls := State.queueDial_classLookup
  obtain ⟨token, htoken⟩ := exists_eq' (a' := @State.excToken)
  obtain ⟨lookup, hlookup⟩ := exists_eq' (a' := @State.classLookup)
  rw [htoken] at htok
  rw [hlookup] at hcls
  unfold State.pipeline
  rw [htoken, hlookup]
  dsimp only
  repeat' split
  all_goals simp [htok, hcls]

@[simp] theorem State.queueDial_rxDrop (key : Nat) : (s.rxDrop n key).queueDial = s.queueDial := by
  simp [State.rxDrop]
@[simp] theorem State.queueDial_rxCount (f : List Byte) : (s.rxCount n f).queueDial = s.queueDial := by
  simp [State.rxCount]
@[simp] theorem State.queueDial_rxGood (secured : Bool) (f : List Byte) :
    (s.rxGood n stamp secured f).queueDial = s.queueDial := by
  simp [State.rxGood]
@[simp] theorem queueDial_frameReceived (r : RxFrame) : (frameReceived r s).queueDial = s.queueDial := by
  have hrx := State.queueDial_macsecRx s (s.portOfLane r.lane) (r.bytes.take (r.bytes.length - 4))
  unfold frameReceived
  dsimp only
  repeat' split
  all_goals simp_all

@[simp] theorem State.queueDial_hiSerSettle : (s.hiSerSettle n).queueDial = s.queueDial := by simp [State.hiSerSettle]
@[simp] theorem State.queueDial_fecDrop (touched stamped : Nat) (stomped : List Nat) :
    (s.fecDrop n touched stamped stomped).queueDial = s.queueDial := by
  simp [State.fecDrop]
@[simp] theorem queueDial_codewordDecoded (symbols : Nat) (touched : TouchedFrames) (frames : List RxFrame)
    (stomped : List Nat) :
    (codewordDecoded lane symbols touched frames stomped s).queueDial = s.queueDial := by
  simp [codewordDecoded]
@[simp] theorem queueDial_admitSet : (admitSet c s).queueDial = s.queueDial := by simp [admitSet]
@[simp] theorem queueDial_pipeTmplW0Write : (pipeTmplW0Write i v s).queueDial = s.queueDial := by
  simp [pipeTmplW0Write]
@[simp] theorem queueDial_frameTxPost (frame : Option (List Byte)) :
    (frameTxPost c frame s).queueDial = s.queueDial := by
  unfold frameTxPost
  dsimp only
  split <;> simp

/-! ### Machine/Release.lean -/

@[simp] theorem State.queueDial_noteRefusal (p : Posting) : (s.noteRefusal p status).queueDial = s.queueDial := by
  simp [State.noteRefusal]
@[simp] theorem State.queueDial_modPosting (p : Posting) (f : Posting → Posting) :
    (s.modPosting p f).queueDial = s.queueDial := by
  simp [State.modPosting]
@[simp] theorem State.queueDial_refusePosting (p : Posting) : (s.refusePosting p status).queueDial = s.queueDial := by
  simp [State.refusePosting]
@[simp] theorem queueDial_releasePost : (releasePost c s).queueDial = s.queueDial := by
  unfold releasePost
  dsimp only
  split <;> simp
@[simp] theorem State.queueDial_armCopy : (s.armCopy rel n).queueDial = s.queueDial := by
  unfold State.armCopy
  repeat' split
  all_goals simp
@[simp] theorem queueDial_releaseAcceptance (frame : Option (List Byte)) :
    (releaseAcceptance c frame s).queueDial = s.queueDial := by
  unfold releaseAcceptance
  dsimp only
  repeat' split
  all_goals simp
@[simp] theorem State.queueDial_preemptWire : (s.preemptWire n).queueDial = s.queueDial := by
  unfold State.preemptWire
  dsimp only
  split <;> simp
@[simp] theorem queueDial_guardBegin : (guardBegin n rel s).queueDial = s.queueDial := by
  unfold guardBegin
  split <;> simp
@[simp] theorem queueDial_launcherCommit : (launcherCommit n rel s).queueDial = s.queueDial := by
  unfold launcherCommit
  split <;> simp
@[simp] theorem queueDial_copyEnd : (copyEnd n rel s).queueDial = s.queueDial := by
  unfold copyEnd
  repeat' split
  all_goals simp
@[simp] theorem queueDial_releaseInstant : (releaseInstant rel s).queueDial = s.queueDial := by simp [releaseInstant]
@[simp] theorem queueDial_releaseCompletion : (releaseCompletion c s).queueDial = s.queueDial := by
  unfold releaseCompletion
  split <;> simp
@[simp] theorem State.queueDial_refill : (s.refill n).queueDial = s.queueDial := by simp [State.refill]
@[simp] theorem queueDial_shaperRefill : (shaperRefill s).queueDial = s.queueDial := by simp [shaperRefill]
@[simp] theorem queueDial_relPortShaperWrite : (relPortShaperWrite n v s).queueDial = s.queueDial := by
  simp [relPortShaperWrite]
@[simp] theorem queueDial_relQShaperWrite : (relQShaperWrite n q v s).queueDial = s.queueDial := by
  simp [relQShaperWrite]
@[simp] theorem State.queueDial_startFrame (f : QFrame) : (s.startFrame n f).queueDial = s.queueDial := by
  simp [State.startFrame]
@[simp] theorem State.queueDial_countMaskHeld : (s.countMaskHeld n).queueDial = s.queueDial := by
  simp [State.countMaskHeld]
@[simp] theorem State.queueDial_countDeferred : (s.countDeferred n).queueDial = s.queueDial := by
  simp [State.countDeferred]
@[simp] theorem queueDial_txSchedule : (txSchedule n s).queueDial = s.queueDial := by
  unfold txSchedule
  dsimp only
  repeat' split
  all_goals simp

/-! ### Machine/HostPort.lean -/

@[simp] theorem State.queueDial_clearLatches : (s.clearLatches f).queueDial = s.queueDial := by
  simp [State.clearLatches]
@[simp] theorem State.queueDial_fnReset (sticky : Bool) : (s.fnReset f sticky).queueDial = s.queueDial := by
  simp [State.fnReset]
@[simp] theorem State.queueDial_ringsLost (f : Party → Bool) : (s.ringsLost f).queueDial = s.queueDial := by
  simp [State.ringsLost]
@[simp] theorem State.queueDial_dumpWritten : (s.dumpWritten d).queueDial = s.queueDial := by simp [State.dumpWritten]
@[simp] theorem State.queueDial_sendHeld (h : HeldOut) : (s.sendHeld h).queueDial = s.queueDial := by
  unfold State.sendHeld
  split <;> simp
@[simp] theorem State.queueDial_flushHeldOut : (s.flushHeldOut p).queueDial = s.queueDial := by
  simp [State.flushHeldOut]
@[simp] theorem State.queueDial_failRead (entry : Option (BitVec 32)) :
    (s.failRead c entry).queueDial = s.queueDial := by
  unfold State.failRead
  dsimp only
  repeat' split
  all_goals simp
@[simp] theorem State.queueDial_dropWaiting (f : Party → Bool) : (s.dropWaiting p f).queueDial = s.queueDial := by
  simp [State.dropWaiting]
@[simp] theorem State.queueDial_dropVfs (rings : Bool) : (s.dropVfs p rings).queueDial = s.queueDial := by
  simp [State.dropVfs]
@[simp] theorem queueDial_hostLinkUp (rate width : Nat) (flit : Bool) :
    (hostLinkUp p rate width flit s).queueDial = s.queueDial := by
  simp [hostLinkUp]
@[simp] theorem State.queueDial_linkLost : (s.linkLost p).queueDial = s.queueDial := by simp [State.linkLost]
@[simp] theorem queueDial_hostLinkDown : (hostLinkDown p s).queueDial = s.queueDial := by simp [hostLinkDown]
@[simp] theorem queueDial_perstAssert : (perstAssert n s).queueDial = s.queueDial := by simp [perstAssert]
@[simp] theorem queueDial_perstDeassert : (perstDeassert n s).queueDial = s.queueDial := by simp [perstDeassert]
@[simp] theorem queueDial_vfEnable : (vfEnable p n s).queueDial = s.queueDial := by simp [vfEnable]
@[simp] theorem queueDial_vfDisable : (vfDisable p s).queueDial = s.queueDial := by simp [vfDisable]
@[simp] theorem queueDial_flr : (flr f s).queueDial = s.queueDial := by
  unfold flr
  split
  · rfl
  · split
    · rfl
    · dsimp only
      rw [queueDial_forAll]
      · simp
      · intro g s
        split <;> simp

@[simp] theorem queueDial_flrComplete : (flrComplete f s).queueDial = s.queueDial := by
  unfold flrComplete
  split
  · rfl
  · split
    · rfl
    · dsimp only
      rw [State.queueDial_ite, State.queueDial_modFn, ite_self, queueDial_forAll]
      · simp
      · intro g s
        split <;> simp

@[simp] theorem queueDial_busMasterDisable (d3 : Bool) : (busMasterDisable f d3 s).queueDial = s.queueDial := by
  simp [busMasterDisable]
@[simp] theorem queueDial_busMasterEnable : (busMasterEnable f s).queueDial = s.queueDial := by simp [busMasterEnable]
@[simp] theorem queueDial_dmaCompletion (r : HostRead) (err : Option BusError) :
    (dmaCompletion r err s).queueDial = s.queueDial := by
  unfold dmaCompletion
  dsimp only
  split <;> simp
@[simp] theorem queueDial_completionTimeout (r : HostRead) : (completionTimeout r s).queueDial = s.queueDial := by
  simp [completionTimeout]
/-- What an answer built by within goes on with. -/
theorem queueDial_after_within {s u : State} (h : u.queueDial = s.queueDial) (ok : Bool) :
    ((within ok u s).after s).queueDial = s.queueDial := by
  cases ok
  · rfl
  · exact h

@[simp] theorem State.queueDial_heldCommand (i : Instr) :
    (((s.heldCommand i).2 u).after u).queueDial = u.queueDial := by
  unfold State.heldCommand
  split
  case h_48 => simp [Answer.after]
  case h_49 => rfl
  all_goals
    apply queueDial_after_within
    simp

@[simp] theorem queueDial_hostFreezeRelease : (hostFreezeRelease p s).queueDial = s.queueDial := by
  simp [hostFreezeRelease]

@[simp] theorem queueDial_aerStatusWrite (reg : CfgReg) (v : BitVec 32) :
    (aerStatusWrite f reg v s).queueDial = s.queueDial := by
  simp [aerStatusWrite]

/-! ### Machine/Boot.lean -/

@[simp] theorem queueDial_provStore (r : RegRow) (idx : List Nat) (key : Nat) :
    (provStore r idx key v s).queueDial = s.queueDial := by
  unfold provStore
  split <;> simp
theorem queueDial_provSet (type key : Nat) (h : provSet type key v s = some u) : u.queueDial = s.queueDial := by
  unfold provSet at h
  repeat' split at h
  all_goals cases h
  · simp
  · simp

theorem queueDial_provSets (type : Nat) (xs : List (Nat × BitVec 64)) (h : provSets type xs s = some u) :
    u.queueDial = s.queueDial := by
  induction xs generalizing s with
  | nil => cases h; rfl
  | cons x xs ih =>
    obtain ⟨w, hw, hu⟩ := Option.bind_eq_some_iff.1 h
    exact (ih w hu).trans (queueDial_provSet s w _ _ _ hw)

theorem queueDial_provEntry (img : BitVec 512) (h : provEntry k img s = some u) : u.queueDial = s.queueDial := by
  obtain ⟨_, h⟩ := Option.ite_none_right_eq_some.1 h
  rw [← Option.some.inj h]
  simp

theorem queueDial_provPrefix (pair : Nat) (v6 : Bool) (len value nexthop : Nat)
    (h : provPrefix pair v6 len value nexthop s = some u) : u.queueDial = s.queueDial := by
  obtain ⟨_, h⟩ := Option.ite_none_left_eq_some.1 h
  obtain ⟨_, h⟩ := Option.ite_none_left_eq_some.1 h
  rw [← Option.some.inj h, State.queueDial_update]

/-- A fold of updates each of which may refuse. -/
theorem queueDial_foldl_bind {α : Type} {f : α → State → Option State}
    (hf : ∀ x s u, f x s = some u → u.queueDial = s.queueDial) {xs : List α} {y : Option State} {u : State}
    (h : xs.foldl (fun y x => y.bind (f x)) y = some u) : ∃ w, y = some w ∧ u.queueDial = w.queueDial := by
  induction xs generalizing y with
  | nil => exact ⟨u, h, rfl⟩
  | cons x xs ih =>
    obtain ⟨w, hw, hu⟩ := ih h
    obtain ⟨y, rfl, hy⟩ := Option.bind_eq_some_iff.1 hw
    exact ⟨y, rfl, hu.trans (hf x y w hy)⟩

theorem queueDial_provTables (h : provTables bytes s = some u) : u.queueDial = s.queueDial := by
  obtain ⟨w, hw, hu⟩ := queueDial_foldl_bind (fun _ s u => queueDial_provPrefix s u _ _ _ _ _) h
  obtain ⟨s, ⟨⟩, hs⟩ := queueDial_foldl_bind (fun _ s u => queueDial_provEntry s u _ _) hw
  exact hu.trans hs

theorem queueDial_provRecord (r : ProvRecord) (h : provRecord r s = some u) : u.queueDial = s.queueDial := by
  obtain ⟨w, hw, hu⟩ := Option.bind_eq_some_iff.1 h
  refine (queueDial_provSets w u _ _ hu).trans ?_
  split at hw
  · exact queueDial_provTables _ _ _ hw
  · rw [Option.some.inj hw]

@[simp] theorem queueDial_provApply (rs : List ProvRecord) : (provApply rs s).2.queueDial = s.queueDial := by
  induction rs generalizing s with
  | nil => rfl
  | cons r rs ih =>
    unfold provApply
    repeat' split
    · rfl
    · simp [ih]
    · rfl
    · next w hw => exact (ih w).trans (queueDial_provRecord s w r hw)

@[simp] theorem State.queueDial_noteSkips (t : State) : (s.noteSkips t).queueDial = s.queueDial := by
  simp [State.noteSkips]
@[simp] theorem State.queueDial_loadCalibration : s.loadCalibration.queueDial = s.queueDial := by
  simp [State.loadCalibration]
@[simp] theorem State.queueDial_provisioned (m : Image) : (s.provisioned m).2.queueDial = s.queueDial := by
  unfold State.provisioned
  dsimp only
  repeat' split
  all_goals simp

@[simp] theorem State.queueDial_recoverTally : s.recoverTally.queueDial = s.queueDial := by
  simp [State.recoverTally]
@[simp] theorem State.queueDial_startFail (ok : Bool) : (s.startFail x ok).queueDial = s.queueDial := by
  simp [State.startFail]
@[simp] theorem State.queueDial_startSources : (s.startSources inp).queueDial = s.queueDial := by
  simp [State.startSources]
@[simp] theorem State.queueDial_startPorts : s.startPorts.queueDial = s.queueDial := by simp [State.startPorts]
@[simp] theorem State.queueDial_startGallery : s.startGallery.queueDial = s.queueDial := by
  simp [State.startGallery]
@[simp] theorem State.queueDial_startClusters : s.startClusters.queueDial = s.queueDial := by
  simp [State.startClusters]
@[simp] theorem State.queueDial_startPolicers : s.startPolicers.queueDial = s.queueDial := by
  simp [State.startPolicers]
@[simp] theorem State.queueDial_repair : (s.repair inp).queueDial = s.queueDial := by
  unfold State.repair
  dsimp only
  split
  · simp
  · rw [queueDial_foldl, State.queueDial_update]
    intro s x
    simp

@[simp] theorem State.queueDial_runImage (m : Image) (source : Nat) :
    (s.runImage m source inp).queueDial = s.queueDial := by
  obtain ⟨add, hadd⟩ := exists_eq' (a' := @HAdd.hAdd Nat Nat Nat _)
  obtain ⟨mul, hmul⟩ := exists_eq' (a' := @HMul.hMul Nat Nat Nat _)
  unfold State.runImage
  rw [hadd, hmul]
  simp

@[simp] theorem State.queueDial_tryImage (m : Image) : (s.tryImage m).2.2.queueDial = s.queueDial := by
  unfold State.tryImage
  dsimp only
  split <;> simp
@[simp] theorem State.queueDial_tryBanks (bs : List Nat) : (s.tryBanks inp bs).queueDial = s.queueDial := by
  induction bs generalizing s with
  | nil => rfl
  | cons b bs ih =>
    unfold State.tryBanks
    dsimp only
    split <;> simp [ih]

@[simp] theorem State.queueDial_fullStart : (s.fullStart inp).queueDial = s.queueDial := by simp [State.fullStart]
@[simp] theorem State.queueDial_blowFuse (blown : Bool) : (s.blowFuse n blown).queueDial = s.queueDial := by
  simp [State.blowFuse]
@[simp] theorem State.queueDial_settleFuse : s.settleFuse.queueDial = s.queueDial := by
  unfold State.settleFuse
  split <;> simp
@[simp] theorem State.queueDial_cutProgram : s.cutProgram.queueDial = s.queueDial := by
  unfold State.cutProgram
  split <;> simp
@[simp] theorem State.queueDial_settleLedger : s.settleLedger.queueDial = s.queueDial := by
  simp [State.settleLedger]
@[simp] theorem State.queueDial_loadPolicy : s.loadPolicy.queueDial = s.queueDial := by simp [State.loadPolicy]
@[simp] theorem State.queueDial_noteTrip : s.noteTrip.queueDial = s.queueDial := by
  unfold State.noteTrip
  split <;> simp
@[simp] theorem State.queueDial_findFlash : (s.findFlash inp).queueDial = s.queueDial := by simp [State.findFlash]
@[simp] theorem State.queueDial_setStraps (devId : Nat) (master : Bool) :
    (s.setStraps devId master).queueDial = s.queueDial := by
  simp [State.setStraps]
@[simp] theorem State.queueDial_sampleStraps : (s.sampleStraps inp).queueDial = s.queueDial := by
  simp [State.sampleStraps]
@[simp] theorem State.queueDial_loseRetention : s.loseRetention.queueDial = s.queueDial := by
  simp [State.loseRetention]
@[simp] theorem State.queueDial_dropDigest : s.dropDigest.queueDial = s.queueDial := by simp [State.dropDigest]
@[simp] theorem queueDial_bootRecWinWrite (off : Nat) : (bootRecWinWrite off v s).queueDial = s.queueDial := by
  simp [bootRecWinWrite]
@[simp] theorem queueDial_recAction : (recAction a s).queueDial = s.queueDial := by
  unfold recAction
  dsimp only
  repeat' split
  all_goals simp
@[simp] theorem State.queueDial_bootFromRecovery (m : Image) (source : Nat) :
    (s.bootFromRecovery m source).queueDial = s.queueDial := by
  simp [State.bootFromRecovery]
@[simp] theorem queueDial_recActionComplete (readBackOk : Bool) :
    (recActionComplete readBackOk s).queueDial = s.queueDial := by
  unfold recActionComplete
  dsimp only
  repeat' split
  all_goals simp
@[simp] theorem queueDial_fuseRaise : (fuseRaise c s).queueDial = s.queueDial := by simp [fuseRaise]
@[simp] theorem State.queueDial_fuseDone (f : FuseCmd) : (s.fuseDone f status).queueDial = s.queueDial := by
  unfold State.fuseDone
  dsimp only
  split <;> simp
@[simp] theorem queueDial_bootFuseConfirm : (bootFuseConfirm who v s).queueDial = s.queueDial := by
  unfold bootFuseConfirm
  dsimp only
  repeat' split
  all_goals simp
@[simp] theorem queueDial_noConfirm : (noConfirm s).queueDial = s.queueDial := by
  unfold noConfirm
  split <;> simp
@[simp] theorem queueDial_fuseProgramDone (blown : Bool) : (fuseProgramDone blown s).queueDial = s.queueDial := by
  unfold fuseProgramDone
  split <;> simp
@[simp] theorem queueDial_recWrite : (recWrite a s).queueDial = s.queueDial := by simp [recWrite]

/-! ### Machine/Power.lean -/

@[simp] theorem State.queueDial_setPower (f : PowerState → PowerState) : (s.setPower f).queueDial = s.queueDial := by
  simp [State.setPower]
@[simp] theorem State.queueDial_portsDark : s.portsDark.queueDial = s.queueDial := by simp [State.portsDark]
@[simp] theorem State.queueDial_powerFailure : (s.powerFailure cause).queueDial = s.queueDial := by
  simp [State.powerFailure]
@[simp] theorem queueDial_powerFail : (powerFail s).queueDial = s.queueDial := by simp [powerFail]
@[simp] theorem queueDial_droopTrip : (droopTrip s).queueDial = s.queueDial := by simp [droopTrip]
@[simp] theorem queueDial_supplyCollapse (written : Nat) : (supplyCollapse written s).queueDial = s.queueDial := by
  simp [supplyCollapse]
@[simp] theorem State.queueDial_setFreq (mhz : Nat) : (s.setFreq k mhz).queueDial = s.queueDial := by
  simp [State.setFreq]
@[simp] theorem State.queueDial_endSprint : s.endSprint.queueDial = s.queueDial := by simp [State.endSprint]
@[simp] theorem State.queueDial_grantSprint : s.grantSprint.queueDial = s.queueDial := by simp [State.grantSprint]
@[simp] theorem queueDial_sprintReqWrite : (sprintReqWrite who v s).queueDial = s.queueDial := by
  simp [sprintReqWrite]
@[simp] theorem State.queueDial_raiseLevel : (s.raiseLevel l).queueDial = s.queueDial := by simp [State.raiseLevel]
@[simp] theorem State.queueDial_trip (sensor : Nat) (t : Int) : (s.trip sensor t).queueDial = s.queueDial := by
  simp [State.trip]
@[simp] theorem State.queueDial_storeTemps (xs : List Int) : (s.storeTemps xs).queueDial = s.queueDial := by
  simp [State.storeTemps]
@[simp] theorem State.queueDial_averageTick : s.averageTick.queueDial = s.queueDial := by simp [State.averageTick]
@[simp] theorem queueDial_sensorSample (xs : List Int) : (sensorSample xs s).queueDial = s.queueDial := by
  simp [sensorSample]
@[simp] theorem State.queueDial_shedEngine : s.shedEngine.queueDial = s.queueDial := by
  unfold State.shedEngine
  dsimp only
  split <;> simp
@[simp] theorem queueDial_ladderStep : (ladderStep s).queueDial = s.queueDial := by simp [ladderStep]
@[simp] theorem State.queueDial_judgeCap : s.judgeCap.queueDial = s.queueDial := by simp [State.judgeCap]
@[simp] theorem queueDial_powerAverage : (powerAverage w s).queueDial = s.queueDial := by simp [powerAverage]
@[simp] theorem queueDial_deepRestEnter : (deepRestEnter who s).queueDial = s.queueDial := by simp [deepRestEnter]
@[simp] theorem queueDial_restWrite : (restWrite who s).queueDial = s.queueDial := by simp [restWrite]

/-! ### Machine/Observe.lean -/

@[simp] theorem State.queueDial_modBank (f : Bank → Bank) : (s.modBank b f).queueDial = s.queueDial := by
  simp [State.modBank]
@[simp] theorem queueDial_headcountWrite : (headcountWrite v s).queueDial = s.queueDial := by simp [headcountWrite]
@[simp] theorem State.queueDial_rearmOvf : s.rearmOvf.queueDial = s.queueDial := by simp [State.rearmOvf]
@[simp] theorem State.queueDial_captureVfs (values : Store Word) (ns : Nat) :
    (s.captureVfs values ns number).queueDial = s.queueDial := by
  simp [State.captureVfs]
@[simp] theorem queueDial_capture : (capture b s).queueDial = s.queueDial := by simp [capture]
@[simp] theorem queueDial_bankFilled : (bankFilled b s).queueDial = s.queueDial := by simp [bankFilled]
@[simp] theorem queueDial_dumpCfgWrite : (dumpCfgWrite v s).queueDial = s.queueDial := by simp [dumpCfgWrite]
@[simp] theorem queueDial_periodicDump : (periodicDump s).queueDial = s.queueDial := by simp [periodicDump]
@[simp] theorem State.queueDial_logStated (e : LogEvent) : (s.logStated e).queueDial = s.queueDial := by
  unfold State.logStated
  split <;> simp
@[simp] theorem State.queueDial_logWrite (e : LogEvent) : (s.logWrite e).queueDial = s.queueDial := by
  simp [State.logWrite]
@[simp] theorem State.queueDial_logSuppress (e : LogEvent) : (s.logSuppress e).queueDial = s.queueDial := by
  simp [State.logSuppress]
@[simp] theorem queueDial_logRecordWrite : (logRecordWrite s).queueDial = s.queueDial := by
  unfold logRecordWrite
  split <;> simp
@[simp] theorem queueDial_logRateWrite : (logRateWrite v s).queueDial = s.queueDial := by simp [logRateWrite]
@[simp] theorem queueDial_hoursTick : (hoursTick s).queueDial = s.queueDial := by simp [hoursTick]
@[simp] theorem State.queueDial_traceMove : (s.traceMove n).queueDial = s.queueDial := by simp [State.traceMove]
@[simp] theorem State.queueDial_traceOut : (s.traceOut bs).queueDial = s.queueDial := by simp [State.traceOut]
@[simp] theorem State.queueDial_traceFrame (type : Nat) :
    (s.traceFrame core type payload).queueDial = s.queueDial := by
  simp [State.traceFrame]
@[simp] theorem State.queueDial_traceSync : (s.traceSync core).queueDial = s.queueDial := by simp [State.traceSync]
@[simp] theorem State.queueDial_traceLoss : (s.traceLoss core n).queueDial = s.queueDial := by simp [State.traceLoss]
@[simp] theorem State.queueDial_traceOverflow : (s.traceOverflow core).queueDial = s.queueDial := by
  simp [State.traceOverflow]
@[simp] theorem State.queueDial_tracePacketSync : (s.tracePacketSync core).queueDial = s.queueDial := by
  simp [State.tracePacketSync]
@[simp] theorem queueDial_dialSync : (dialSync core s).queueDial = s.queueDial := by simp [dialSync]
@[simp] theorem queueDial_powerGap (gated : Bool) (unsent : Nat) :
    (powerGap core gated unsent s).queueDial = s.queueDial := by
  simp [powerGap]
@[simp] theorem queueDial_idleExit : (idleExit core s).queueDial = s.queueDial := by simp [idleExit]

/-! ### Machine/Life.lean -/

@[simp] theorem State.queueDial_rowCorrected (t : ScrubTarget) (row : Nat) :
    (s.rowCorrected t row).queueDial = s.queueDial := by
  simp [State.rowCorrected]
@[simp] theorem State.queueDial_ingressError : s.ingressError.queueDial = s.queueDial := by
  simp [State.ingressError]
@[simp] theorem State.queueDial_retireCore : (s.retireCore c).queueDial = s.queueDial := by simp [State.retireCore]
@[simp] theorem State.queueDial_discardItem (item : RowItem) (row : Nat) :
    (s.discardItem item row).queueDial = s.queueDial := by
  unfold State.discardItem
  repeat' split
  all_goals simp
@[simp] theorem queueDial_memoryScrub (t : ScrubTarget) (place : ScrubPlace) (r : EccResult) :
    (memoryScrub t place r s).queueDial = s.queueDial := by
  unfold memoryScrub
  split <;> simp
@[simp] theorem queueDial_lifeAverageUpdate (tj : Int) (util : Nat) :
    (lifeAverageUpdate tj util s).queueDial = s.queueDial := by
  simp [lifeAverageUpdate]
@[simp] theorem queueDial_lifeQuery : (lifeQuery c s).queueDial = s.queueDial := by simp [lifeQuery]
@[simp] theorem queueDial_laneMarginCheck (low : Bool) : (laneMarginCheck lane low s).queueDial = s.queueDial := by
  simp [laneMarginCheck]
@[simp] theorem queueDial_ageingCheck (margins : List Nat) : (ageingCheck margins s).queueDial = s.queueDial := by
  simp [ageingCheck]

/-! ### Machine/Sequencer.lean -/

@[simp] theorem queueDial_holdStoreArrival : (holdStoreArrival pipe s).queueDial = s.queueDial := by
  unfold holdStoreArrival
  split <;> simp
@[simp] theorem queueDial_mirrorRecord (r : MirrorRec) : (mirrorRecord d r s).queueDial = s.queueDial := by
  unfold mirrorRecord
  dsimp only
  repeat' split
  all_goals simp
@[simp] theorem State.queueDial_seqRefused : (s.seqRefused d).queueDial = s.queueDial := by simp [State.seqRefused]
@[simp] theorem queueDial_seqFeedWrite : (seqFeedWrite d m v s).queueDial = s.queueDial := by simp [seqFeedWrite]
@[simp] theorem queueDial_seqDomainCfgWrite : (seqDomainCfgWrite d v s).queueDial = s.queueDial := by
  simp [seqDomainCfgWrite]
@[simp] theorem queueDial_seqNextWrite : (seqNextWrite d v s).queueDial = s.queueDial := by simp [seqNextWrite]
@[simp] theorem queueDial_seqCfgSet : (seqCfgSet c s).queueDial = s.queueDial := by simp [seqCfgSet]
@[simp] theorem queueDial_admitOpen : (admitOpen d s).queueDial = s.queueDial := by simp [admitOpen]
@[simp] theorem queueDial_noteOpen : (noteOpen d s).queueDial = s.queueDial := by simp [noteOpen]
@[simp] theorem queueDial_decideOpen : (decideOpen d s).queueDial = s.queueDial := by simp [decideOpen]
@[simp] theorem queueDial_decideOpens (ds : List Nat) : (decideOpens ds s).queueDial = s.queueDial := by
  simp [decideOpens]
@[simp] theorem queueDial_openCommand : (openCommand d s).queueDial = s.queueDial := by simp [openCommand]
@[simp] theorem queueDial_domainOpens : (domainOpens d s).queueDial = s.queueDial := by simp [domainOpens]
@[simp] theorem State.queueDial_toClosed (event : Nat) : (s.toClosed d event).queueDial = s.queueDial := by
  simp [State.toClosed]
@[simp] theorem queueDial_closeCommand : (closeCommand d s).queueDial = s.queueDial := by
  unfold closeCommand
  split <;> simp
@[simp] theorem queueDial_domainCloses : (domainCloses d s).queueDial = s.queueDial := by simp [domainCloses]
@[simp] theorem queueDial_forceClose : (forceClose d s).queueDial = s.queueDial := by simp [forceClose]
@[simp] theorem queueDial_seqCtlWrite : (seqCtlWrite d v s).queueDial = s.queueDial := by
  unfold seqCtlWrite
  split <;> simp
@[simp] theorem State.queueDial_publishAll (ns : List Numbered) : (s.publishAll d ns).queueDial = s.queueDial := by
  induction ns generalizing s with
  | nil => rfl
  | cons n ns ih => simp [State.publishAll, ih]

@[simp] theorem queueDial_takeoverCommand : (takeoverCommand v s).queueDial = s.queueDial := by simp [takeoverCommand]

/-! ### Machine/Tick.lean -/

@[simp] theorem State.queueDial_raiseDialFault : s.raiseDialFault.queueDial = s.queueDial := by
  simp [State.raiseDialFault]
@[simp] theorem State.queueDial_keepFrontiers : s.keepFrontiers.queueDial = s.queueDial := by
  simp [State.keepFrontiers]
@[simp] theorem State.queueDial_sweepBoundary : s.sweepBoundary.queueDial = s.queueDial := by
  simp [State.sweepBoundary]
@[simp] theorem queueDial_decideWaiting (ws : List Nat) : (decideWaiting ws s).queueDial = s.queueDial := by
  simp [decideWaiting]
@[simp] theorem State.queueDial_scheduleRate (sec : Nat) : (s.scheduleRate n sec).queueDial = s.queueDial := by
  simp [State.scheduleRate]
@[simp] theorem State.queueDial_summariseDrops : (s.summariseDrops n).queueDial = s.queueDial := by
  simp [State.summariseDrops]
@[simp] theorem State.queueDial_summariseOutside : (s.summariseOutside d).queueDial = s.queueDial := by
  simp [State.summariseOutside]
@[simp] theorem State.queueDial_summariseSuppressed : s.summariseSuppressed.queueDial = s.queueDial := by
  simp [State.summariseSuppressed]
@[simp] theorem queueDial_wholeDialSecond : (wholeDialSecond s).queueDial = s.queueDial := by simp [wholeDialSecond]

/-! ### Machine/Registers.lean -/

@[simp] theorem queueDial_laneCalWrite : (laneCalWrite k n v s).queueDial = s.queueDial := by simp [laneCalWrite]
@[simp] theorem queueDial_templateStage : (templateStage k v s).queueDial = s.queueDial := by simp [templateStage]
@[simp] theorem queueDial_portPfcWrite : (portPfcWrite n v s).queueDial = s.queueDial := by simp [portPfcWrite]
@[simp] theorem queueDial_seqCopyWrite : (seqCopyWrite d v s).queueDial = s.queueDial := by simp [seqCopyWrite]
@[simp] theorem queueDial_galDomWrite : (galDomWrite d v s).queueDial = s.queueDial := by simp [galDomWrite]
@[simp] theorem queueDial_galAsymWrite : (galAsymWrite i v s).queueDial = s.queueDial := by simp [galAsymWrite]
@[simp] theorem queueDial_mboxToWrite (x : Word) : (mboxToWrite p w x s).queueDial = s.queueDial := by
  simp [mboxToWrite]
@[simp] theorem queueDial_mboxOutWrite (v : Nat) (x : Word) : (mboxOutWrite p v w x s).queueDial = s.queueDial := by
  simp [mboxOutWrite]
@[simp] theorem queueDial_pwrWrite : (pwrWrite who k v s).queueDial = s.queueDial := by simp [pwrWrite]
@[simp] theorem queueDial_bootWrite {f : State → State} (h : ∀ s, (f s).queueDial = s.queueDial) :
    (bootWrite who f s).queueDial = s.queueDial := by
  simp [bootWrite, h]
@[simp] theorem queueDial_recOffsetWrite : (recOffsetWrite v s).queueDial = s.queueDial := by simp [recOffsetWrite]
@[simp] theorem queueDial_recCtlWrite : (recCtlWrite v s).queueDial = s.queueDial := by simp [recCtlWrite]
@[simp] theorem queueDial_bootPolicyWrite : (bootPolicyWrite v s).queueDial = s.queueDial := by simp [bootPolicyWrite]
@[simp] theorem queueDial_readOnlyWrite : (readOnlyWrite who slot s).queueDial = s.queueDial := by
  simp [readOnlyWrite]
@[simp] theorem queueDial_whileRuns {f : State → State} (h : ∀ s, (f s).queueDial = s.queueDial) :
    (whileRuns slot f s).queueDial = s.queueDial := by
  unfold whileRuns
  split <;> simp [h]
@[simp] theorem queueDial_logWinBaseWrite : (logWinBaseWrite v s).queueDial = s.queueDial := by simp [logWinBaseWrite]
@[simp] theorem queueDial_stepCtlWrite : (stepCtlWrite v s).queueDial = s.queueDial := by simp [stepCtlWrite]
@[simp] theorem State.queueDial_storeRow (r : RegRow) : (s.storeRow r k v).queueDial = s.queueDial := by
  simp [State.storeRow]
@[simp] theorem queueDial_slotSettle : (slotSettle n k s).queueDial = s.queueDial := by simp [slotSettle]
@[simp] theorem queueDial_ppsOutWrite (r : RegRow) : (ppsOutWrite r v s).queueDial = s.queueDial := by
  simp [ppsOutWrite]
@[simp] theorem queueDial_ringWindowWrite (o : Nat) : (ringWindowWrite who c o v s).queueDial = s.queueDial := by
  simp [ringWindowWrite]
@[simp] theorem State.queueDial_writeRow (r : RegRow) (idx : List Nat) :
    (s.writeRow who r idx k v).queueDial = s.queueDial := by
  unfold State.writeRow
  split <;> simp
@[simp] theorem queueDial_nvmeWindowWrite (o : Nat) (v : BitVec 32) :
    (nvmeWindowWrite f o v s).queueDial = s.queueDial := by
  simp [nvmeWindowWrite]
@[simp] theorem State.queueDial_writeVf (v o : Nat) (x : Word) : (s.writeVf p v o x).queueDial = s.queueDial := by
  simp [State.writeVf]
@[simp] theorem queueDial_nvmeWrite64 (o : Nat) : (nvmeWrite64 f o v s).queueDial = s.queueDial := by
  simp [nvmeWrite64]
@[simp] theorem State.queueDial_commit (t : Target) : (s.commit who t v).queueDial = s.queueDial := by
  unfold State.commit
  repeat' split
  all_goals simp
@[simp] theorem State.queueDial_commitHalf (t : Target) (hi : Bool) (v : BitVec 32) :
    (s.commitHalf who t hi v).queueDial = s.queueDial := by
  unfold State.commitHalf
  split <;> simp
@[simp] theorem queueDial_onAccess {f : Target → State → State} (h : ∀ x s, (f x s).queueDial = s.queueDial) :
    (onAccess who a f s).queueDial = s.queueDial := by
  unfold onAccess
  split <;> simp [h]
@[simp] theorem queueDial_write64 : (write64 who a v s).queueDial = s.queueDial := by simp [write64]
@[simp] theorem queueDial_writeLow (v : BitVec 32) : (writeLow who a v s).queueDial = s.queueDial := by
  simp [writeLow]
@[simp] theorem queueDial_writeHighReady (v : BitVec 32) : (writeHighReady who a v s).queueDial = s.queueDial := by
  simp [writeHighReady]
@[simp] theorem queueDial_writeHigh (v : BitVec 32) : (writeHigh who a v s).queueDial = s.queueDial := by
  simp [writeHigh]
@[simp] theorem State.queueDial_badAccess : (s.badAccess who).queueDial = s.queueDial := by
  unfold State.badAccess
  split <;> simp
@[simp] theorem queueDial_registerWrite (size : Nat) (v : BusValue) :
    (registerWrite who a size v s).queueDial = s.queueDial := by
  simp [registerWrite]

end

/-! ### Commands that move the Dial -/

/-- The three Dial copies agree (R30). -/
def State.dialAgrees (s : State) : Prop := s.time.a = s.time.b ∧ s.time.a = s.time.c

/-- The queue stays as it is, and equal Dial copies stay equal. -/
structure DialKept (s t : State) : Prop where
  pending : t.pending = s.pending
  agrees : s.dialAgrees → t.dialAgrees

namespace DialKept

variable {s t u : State}

theorem of_queueDial (h : t.queueDial = s.queueDial) : DialKept s t := by
  simp only [State.queueDial, Prod.mk.injEq] at h
  obtain ⟨hp, ha, hb, hc⟩ := h
  refine ⟨hp, fun hs => ?_⟩
  unfold State.dialAgrees
  rwa [ha, hb, hc]

/-- A load gives the three copies one value. -/
theorem of_load {c : DialCount} (h : t.queueDial = (s.pending, c, c, c)) : DialKept s t := by
  simp only [State.queueDial, Prod.mk.injEq] at h
  obtain ⟨hp, ha, hb, hc⟩ := h
  exact ⟨hp, fun _ => ⟨ha.trans hb.symm, ha.trans hc.symm⟩⟩

theorem refl (s : State) : DialKept s s := of_queueDial rfl

theorem trans (h : DialKept s t) (g : DialKept t u) : DialKept s u :=
  ⟨g.pending.trans h.pending, fun hs => g.agrees (h.agrees hs)⟩

theorem next (h : DialKept s t) (g : u.queueDial = t.queueDial) : DialKept s u := h.trans (of_queueDial g)

theorem of_within {ok : Bool} (h : DialKept s t) (hu : within ok t s = .next u) : DialKept s u := by
  cases ok <;> cases hu
  · exact refl s
  · exact h

end DialKept

section

variable (s : State) (inp : StartInputs)

theorem dialKept_whenClocked {f : State → State} (h : ∀ s, DialKept s (f s)) : DialKept s (whenClocked f s) := by
  unfold whenClocked
  split
  · exact h s
  · exact .refl s

theorem dialKept_unlessStopped {k : Nat} {f : State → State} (h : ∀ s, DialKept s (f s)) :
    DialKept s (unlessStopped k f s) := by
  have hv : DialKept s (s.voteBlock k) := .of_queueDial (by simp)
  unfold unlessStopped
  dsimp only
  repeat' split
  · exact .refl s
  · exact hv
  · exact hv.trans (h _)

theorem State.dialKept_voteDial : DialKept s s.voteDial := by
  unfold State.voteDial
  extract_lets t v fix
  have hfix (copy : Nat) : DialKept s (fix copy) := by
    refine .of_load (c := v) ?_
    simp only [fix, State.queueDial_logEvent, State.queueDial_count]
    rfl
  repeat' split
  · exact .refl s
  · exact hfix 2
  · exact hfix 1
  · exact hfix 0
  · exact .of_queueDial (by simp)

/-- The same increment goes to each copy. -/
theorem State.dialKept_advance : DialKept s s.advance := by
  unfold State.advance
  extract_lets sum inc tm t
  have ht : DialKept s t := ⟨rfl, fun ⟨hb, hc⟩ => ⟨congrArg (· + inc) hb, congrArg (· + inc) hc⟩⟩
  split
  · exact ht
  · exact ht.next (by simp)

theorem dialKept_dialTick : DialKept s (dialTick s) := by
  unfold dialTick
  extract_lets v w tm z
  have hv : DialKept s v := by
    unfold v
    split
    · exact .refl s
    · exact s.dialKept_voteDial
  have hw : DialKept v w := by
    unfold w
    split
    · exact .refl v
    · exact (DialKept.of_queueDial (by simp)).trans v.keepFrontiers.dialKept_advance
  exact (hv.trans hw).next (by simp [z, tm])

theorem dialKept_slewComplete : DialKept s (slewComplete s) := by
  unfold slewComplete
  split
  · exact (DialKept.of_queueDial (by simp)).trans (dialKept_dialTick _)
  · exact .refl s

theorem State.dialKept_loadDial (r : StepReq) : DialKept s (s.loadDial r) := by
  unfold State.loadDial
  extract_lets before gone c _ loaded _ _ _ _ _ stale t
  have hstale : stale.queueDial = (s.pending, c, c, c) := rfl
  have ht : DialKept s t := (DialKept.of_load hstale).next (by simp [t])
  split
  · exact ht.next (by simp)
  · exact ht

theorem dialKept_stepDone : DialKept s (stepDone s) := by
  have hcomplete : DialKept s (stepComplete s) := by
    unfold stepComplete
    split
    · exact .refl s
    · next r _ =>
      extract_lets tm t u
      have ht : DialKept s t := .of_queueDial (by simp [t, tm])
      exact (ht.trans (t.dialKept_loadDial r)).next (by simp [u])
  unfold stepDone
  split
  · exact .refl s
  · exact hcomplete.next (by simp)

theorem State.dialKept_joinLoad (offset : Int) : DialKept s (s.joinLoad offset) := by
  unfold State.joinLoad
  extract_lets t
  have ht : DialKept s t := .of_queueDial (by simp [t])
  repeat' split
  · exact .of_queueDial (by simp)
  · exact ht.next (by simp)
  · have hload := t.dialKept_loadDial ⟨true, t.dial.shift (-offset)⟩
    exact (ht.trans hload).next (by simp)

theorem dialKept_dialSample (n : Nat) (x : DialSample) : DialKept s (dialSample n x s) := by
  unfold dialSample
  extract_lets asym t v offset w z
  have hv : v.queueDial = s.queueDial := by simp [v, t]
  have hz : z.queueDial = s.queueDial := by simp [z, w, hv]
  repeat' split
  · exact .refl s
  · exact .of_queueDial (by simp [hv])
  · exact ((DialKept.of_queueDial hz).trans (z.dialKept_joinLoad offset)).next (by simp)

theorem State.dialKept_wipe : DialKept s s.wipe := .of_load rfl

theorem State.dialKept_settleWipe : DialKept s s.settleFuse.cutProgram.settleLedger.wipe :=
  (DialKept.of_queueDial (by simp)).trans (State.dialKept_wipe _)

theorem State.dialKept_wholeReset (cause : Nat) : DialKept s (s.wholeReset cause) := by
  unfold State.wholeReset
  extract_lets t u v w
  have hw : DialKept s w := s.dialKept_settleWipe.next (by simp [w, v, u, t])
  split
  · exact hw.next (by simp)
  · exact hw.next (by simp)

theorem State.dialKept_coldStart (cause : Nat) : DialKept s (s.coldStart cause inp) :=
  (s.dialKept_wholeReset cause).next (by simp [State.coldStart])

theorem dialKept_powerOn : DialKept s (powerOn inp s) := by
  unfold powerOn
  extract_lets u pw t
  have ht : DialKept s t := .of_queueDial (by simp [t, u])
  have htripped (w : State) : DialKept w { w with phase := .tripped } := .of_queueDial (by simp)
  split
  · exact ht.trans (t.dialKept_coldStart inp 1)
  · exact ht.trans (t.dialKept_settleWipe.trans (htripped _))

theorem dialKept_resetNAssert : DialKept s (resetNAssert inp s) := by
  unfold resetNAssert
  split
  · exact .refl s
  · exact .refl s
  · exact .refl s
  · split
    · refine .trans (.of_queueDial ?_) (State.dialKept_coldStart _ inp _)
      simp
    · exact .refl s
  · exact s.dialKept_coldStart inp 2

theorem dialKept_watchdog : DialKept s (watchdog inp s) := by
  unfold watchdog
  split
  · exact (DialKept.of_queueDial (by simp)).trans (State.dialKept_coldStart _ inp 4)
  · exact .refl s

theorem dialKept_wake : DialKept s (wake inp s) := by
  unfold wake
  split
  · exact .refl s
  · extract_lets freq straps kept t v full
    have hv : DialKept s v := (s.dialKept_wholeReset 5).next (by simp [v, t])
    have hfull (u : State) : (full u).queueDial = u.queueDial := by simp [full]
    have hprov {m : Image} {r : Nat} {t : State} (h : v.provisioned m = (r, t)) : t.queueDial = v.queueDial := by
      rw [← State.queueDial_provisioned v m, h]
    clear_value kept
    refine hv.next ?_
    repeat' split
    · exact hfull v
    · exact hfull v
    · exact (hfull _).trans (hprov ‹_›)
    · simpa using hprov ‹_›

theorem dialKept_thermtripRecheck (readings : List Int) : DialKept s (thermtripRecheck readings inp s) := by
  unfold thermtripRecheck
  split
  · exact dialKept_resetNAssert s _
  · exact .refl s

theorem dialKept_seqErr : DialKept s (seqErr s) :=
  ((DialKept.of_queueDial (by simp)).trans s.settleLedger.dialKept_wipe).next (by simp [seqErr])

theorem dialKept_pllLockLoss (pll : Pll) : DialKept s (pllLockLoss pll s) := by
  have hcold (inp : StartInputs) : DialKept s (s.coldStart 4 inp) := s.dialKept_coldStart inp 4
  unfold pllLockLoss
  split
  · exact hcold _
  · exact hcold _
  · exact hcold _
  all_goals exact .of_queueDial (by simp)

end

/-- The commands that move the Dial: its ticks, its loads, and the starts, which wipe the state. -/
def movesDial : Instr → Bool
  | .dialTick | .slewComplete | .stepComplete | .dialSample .. | .powerOn _ | .resetNAssert _ | .watchdog _ | .wake _
  | .thermtripRecheck .. | .seqErr | .pllLockLoss _ => true
  | _ => false

theorem dialKept_exec_of_movesDial {c : Instr} {s t : State} (hc : movesDial c = true) (h : exec c s = .next t) :
    DialKept s t := by
  have clocked {k : Nat} {f : State → State} (hf : ∀ s, DialKept s (f s)) :
      DialKept s (whenClocked (unlessStopped k f) s) :=
    dialKept_whenClocked s fun s => dialKept_unlessStopped s hf
  unfold movesDial at hc
  split at hc
  · exact (dialKept_whenClocked s fun s => (DialKept.of_queueDial (by simp)).trans <|
      dialKept_unlessStopped s.passCycle dialKept_dialTick).of_within h
  · exact (clocked dialKept_slewComplete).of_within h
  · exact (clocked dialKept_stepDone).of_within h
  · exact (clocked fun s => dialKept_dialSample s _ _).of_within h
  · exact (dialKept_powerOn s _).of_within h
  · exact (dialKept_resetNAssert s _).of_within h
  · exact (dialKept_watchdog s _).of_within h
  · exact (dialKept_wake s _).of_within h
  · exact (dialKept_thermtripRecheck s _ _).of_within h
  · exact (dialKept_seqErr s).of_within h
  · exact (dialKept_whenClocked s fun s => dialKept_pllLockLoss s _).of_within h
  · cases hc

theorem dialKept_exec_of_not_movesDial {c : Instr} {s t : State} (hc : movesDial c = false)
    (h : exec c s = .next t) : DialKept s t := by
  cases c <;> cases hc
  all_goals
    refine DialKept.of_within (.of_queueDial ?_) h
    simp

theorem dialKept_exec {c : Instr} {s t : State} (h : exec c s = .next t) : DialKept s t :=
  match hc : movesDial c with
  | true => dialKept_exec_of_movesDial hc h
  | false => dialKept_exec_of_not_movesDial hc h

/-- Settles O58: every command keeps the queue that step hands it, and of those that write the Dial a tick adds one
increment to each copy, a load and a reset give all three one value. -/
theorem stepKeepsDialCopiesEqual : Obligations.StepKeepsDialCopiesEqual := by
  intro s t h
  obtain ⟨hp, rfl⟩ | ⟨c, rest, hp, hc⟩ := step_cases h
  · exact ⟨by rw [hp, List.tail_nil], fun hb hc => ⟨hb, hc⟩⟩
  · obtain ⟨hpending, hagrees⟩ := dialKept_exec hc
    exact ⟨by rw [hpending, hp, List.tail_cons], fun hb hc => hagrees ⟨hb, hc⟩⟩

end Sys2Proof.Machine
end

section
namespace Sys2Proof.Machine

open Sys2Proof.Claims

/-! ## The scrubber over voted registers (R30, R367, R368) -/

/-- A bit that is set reads 1. -/
theorem getLsbD_setBits_one {w i : Nat} (hi : i < w) (x : BitVec w) : (setBits x i i 1).getLsbD i = true := by
  have hvalue : x.toNat - bits x i i * 2 ^ i + 1 % 2 ^ (i + 1 - i) * 2 ^ i = x.toNat - 2 ^ i * bits x i i + 2 ^ i := by
    simp [Nat.mul_comm]
  have hquot : (x.toNat - 2 ^ i * bits x i i + 2 ^ i) / 2 ^ i = x.toNat / 2 ^ i - x.toNat / 2 ^ i % 2 + 1 := by
    rw [Nat.add_div_right _ (Nat.two_pow_pos i), Nat.sub_mul_div]
    simp [bits]
  rw [setBits, BitVec.getLsbD_ofNat, hvalue, Nat.testBit_eq_decide_div_mod_eq, hquot]
  have hodd : (x.toNat / 2 ^ i - x.toNat / 2 ^ i % 2 + 1) % 2 = 1 := by omega
  simp [hi, hodd]

theorem voteIndex_block_lt {k i inst : Nat} (h : voteIndex k = some (i, inst)) : i < 7 := by
  unfold voteIndex at h
  dsimp only at h
  repeat' split at h
  all_goals cases h
  all_goals decide

/-- The counter of a block's corrections is no voted register. -/
theorem ne_voteCorr_of_voteIndex {k i inst : Nat} (h : voteIndex k = some (i, inst)) :
    k ≠ Reg.GEN_CNT_VOTE_CORR i := by
  have hnone : ∀ i < 7, voteIndex (Reg.GEN_CNT_VOTE_CORR i) = none := by decide
  rintro rfl
  simp [hnone i (voteIndex_block_lt h)] at h

theorem exec_voteScrub {s : State} (hclock : s.clocked = true) (k : Nat) :
    exec (.voteScrub k) s = .next (voteScrub k s) := by
  change within true (whenClocked (voteScrub k) s) s = _
  rw [within_true, whenClocked_of hclock]

/-- Two copies that hold v outvote the third, whichever they are. -/
theorem vote3_eq {r a b c v : Word} (h : (a = v ∧ b = v) ∨ (a = v ∧ c = v) ∨ (b = v ∧ c = v)) :
    vote3 r a b c = v := by
  unfold vote3
  obtain ⟨rfl, rfl⟩ | ⟨rfl, rfl⟩ | ⟨rfl, rfl⟩ := h
  · simp
  · simp
  · split
    · next h => exact h.elim id id
    · simp

theorem State.voted_eq {k : Nat} {v : Word} {s : State}
    (h : (s.reg k = v ∧ s.regB k = v) ∨ (s.reg k = v ∧ s.regC k = v) ∨ (s.regB k = v ∧ s.regC k = v)) :
    s.voted k = v := vote3_eq h

section

variable {k i inst : Nat} {s : State} (h : voteIndex k = some (i, inst))

include h

theorem voteScrub_agreed (hab : s.reg k = s.regB k) (hbc : s.regB k = s.regC k) : voteScrub k s = s := by
  simp [voteScrub, h, hab, hbc]

theorem voteScrub_outvoted {v : Word} (hne : ¬(s.reg k = s.regB k ∧ s.regB k = s.regC k))
    (hv : (s.reg k = v ∧ s.regB k = v) ∨ (s.reg k = v ∧ s.regC k = v) ∨ (s.regB k = v ∧ s.regC k = v)) :
    voteScrub k s = (s.setRv k v).count (Reg.GEN_CNT_VOTE_CORR i) := by
  have hpair : s.reg k = s.regB k ∨ s.reg k = s.regC k ∨ s.regB k = s.regC k :=
    hv.imp (fun h => h.1.trans h.2.symm) (Or.imp (fun h => h.1.trans h.2.symm) fun h => h.1.trans h.2.symm)
  simp only [voteScrub, h, if_neg hne, if_pos hpair, State.voted_eq hv]

theorem voteScrub_split (hab : s.reg k ≠ s.regB k) (hbc : s.regB k ≠ s.regC k) (hac : s.reg k ≠ s.regC k) :
    voteScrub k s = s.split k i inst := by
  simp [voteScrub, h, hab, hbc, hac]

end

/-- A repair gives the three copies the majority's value, and counts; nothing else changes. -/
theorem State.repaired {k i inst : Nat} (h : voteIndex k = some (i, inst)) (v : Word) (s : State) :
    let t := (s.setRv k v).count (Reg.GEN_CNT_VOTE_CORR i)
    t.reg k = v ∧ t.regB k = v ∧ t.regC k = v ∧ counts (Reg.GEN_CNT_VOTE_CORR i) 1 s t ∧
      t = { s with regs := t.regs, copyB := t.copyB, copyC := t.copyC } ∧
      ∀ j, j ≠ k → j ≠ Reg.GEN_CNT_VOTE_CORR i → t.reg j = s.reg j ∧ t.regB j = s.regB j ∧ t.regC j = s.regC j := by
  have hk := ne_voteCorr_of_voteIndex h
  refine ⟨?_, State.regB_setRv_self k v s, State.regC_setRv_self k v s, ?_, rfl, fun j hjk hj => ⟨?_, ?_, ?_⟩⟩
  · rw [State.reg_count_ne hk, State.reg_setRv_self]
  · rw [counts_one_iff, State.reg_count_self, State.reg_setRv_ne hk.symm]
  · rw [State.reg_count_ne hj, State.reg_setRv_ne hjk]
  · exact Store.get_put_ne resetOf hjk _ _
  · exact Store.get_put_ne resetOf hjk _ _

/-! ## What a stopped block halts (R32, R368; log entry 20) -/

/-- One domain's part of noteHalts. -/
def State.noteHalt (s : State) (d : Nat) : State :=
  let last := s.reg (Reg.SEQ_LAST_NUMBER d)
  (s.count (Reg.SEQ_CNT_HALTS d)).logEvent 0x303 4 [d, 1, bits last 31 0, bits last 63 32]

/-- A domain whose halt counts when SEQ stops: it is open and not halted. -/
def State.halts (s : State) (d : Nat) : Bool := decide ((s.dom d).phase ≠ .closed ∧ (s.dom d).phase ≠ .halted)

theorem State.noteHalts_eq (s : State) : s.noteHalts = ((List.range 16).filter s.halts).foldl State.noteHalt s := rfl

/-- Events are queued beside the splits that the logbook records. -/
theorem State.splits_logEvent (number block : Nat) (params : List Nat) (s : State) :
    (s.logEvent number block params).log.splits = s.log.splits := by
  unfold State.logEvent
  split <;> rfl

/-- Halts change the registers and the logbook's queue. -/
theorem State.foldl_noteHalt_frame (ds : List Nat) (s : State) :
    let t := ds.foldl State.noteHalt s
    t.copyB = s.copyB ∧ t.copyC = s.copyC ∧ t.log.splits = s.log.splits := by
  induction ds generalizing s with
  | nil => exact ⟨rfl, rfl, rfl⟩
  | cons d ds ih =>
    obtain ⟨hb, hc, hs⟩ := ih (s.noteHalt d)
    refine ⟨hb.trans ?_, hc.trans ?_, hs.trans ?_⟩
    · rw [State.noteHalt, State.logEvent_frame]
      rfl
    · rw [State.noteHalt, State.logEvent_frame]
      rfl
    · exact State.splits_logEvent ..

theorem haltCounter_ne_queueDrop (d : Nat) (h : d < 16) : Reg.SEQ_CNT_HALTS d ≠ Reg.LOG_CNT_QUEUE_DROP := by
  unfold Reg.SEQ_CNT_HALTS Reg.LOG_CNT_QUEUE_DROP
  omega

theorem haltCounter_ne_status (d : Nat) : Reg.SEQ_CNT_HALTS d ≠ Reg.GEN_STATUS := by
  unfold Reg.SEQ_CNT_HALTS Reg.GEN_STATUS
  omega

theorem haltCounter_inj {d e : Nat} : Reg.SEQ_CNT_HALTS d = Reg.SEQ_CNT_HALTS e ↔ d = e := by
  unfold Reg.SEQ_CNT_HALTS
  omega

theorem State.reg_noteHalt_ne {j d : Nat} (hj : j ≠ Reg.LOG_CNT_QUEUE_DROP) (hd : j ≠ Reg.SEQ_CNT_HALTS d)
    (s : State) : (s.noteHalt d).reg j = s.reg j := by
  rw [State.noteHalt, State.reg_logEvent _ _ _ _ hj, State.reg_count_ne hd]

theorem State.reg_foldl_noteHalt_ne {j : Nat} {ds : List Nat} (hj : j ≠ Reg.LOG_CNT_QUEUE_DROP)
    (hd : ∀ d ∈ ds, j ≠ Reg.SEQ_CNT_HALTS d) (s : State) : (ds.foldl State.noteHalt s).reg j = s.reg j := by
  induction ds generalizing s with
  | nil => rfl
  | cons d ds ih =>
    obtain ⟨hd, hds⟩ := List.forall_mem_cons.1 hd
    exact (ih hds _).trans (State.reg_noteHalt_ne hj hd s)

/-- Each domain of a list that names none twice counts one halt. -/
theorem State.counts_foldl_noteHalt {d : Nat} (h : d < 16) {ds : List Nat} (hds : ds.Nodup) (s : State) :
    counts (Reg.SEQ_CNT_HALTS d) (b2n (decide (d ∈ ds))) s (ds.foldl State.noteHalt s) := by
  have hdrop := haltCounter_ne_queueDrop d h
  induction ds generalizing s with
  | nil => rfl
  | cons e ds ih =>
    obtain ⟨he, hds⟩ := List.nodup_cons.1 hds
    by_cases hde : d = e
    · subst hde
      have hrest : ((d :: ds).foldl State.noteHalt s).reg (Reg.SEQ_CNT_HALTS d) =
          (s.noteHalt d).reg (Reg.SEQ_CNT_HALTS d) :=
        State.reg_foldl_noteHalt_ne hdrop (fun e hmem heq => he (haltCounter_inj.1 heq ▸ hmem)) _
      have hone : (s.noteHalt d).reg (Reg.SEQ_CNT_HALTS d) = counterPlus 1 (s.reg (Reg.SEQ_CNT_HALTS d)) := by
        rw [State.noteHalt, State.reg_logEvent _ _ _ _ hdrop, State.reg_count_self]
      simpa [counts, b2n] using hrest.trans hone
    · have hsame := State.reg_noteHalt_ne hdrop (haltCounter_inj.not.2 hde) s
      simpa [counts, hde, hsame] using ih hds (s.noteHalt e)

/-! ## Three copies that differ -/

theorem State.split_recorded {k i inst : Nat} {s : State} (h : s.log.splits.contains k = true) :
    s.split k i inst = s := by
  rw [State.split, if_pos h]

/-- The mark of a split, before the domains halt: recorded, with VOTE_FAULT of its block, and logged. -/
def State.markSplit (k i inst : Nat) (s : State) : State :=
  (({ s with log := { s.log with splits := k :: s.log.splits } } : State).setField
    Reg.GEN_STATUS (8 + i) (8 + i) 1).logEvent 0x011 0 [i, inst]

theorem State.split_new {k i inst : Nat} {s : State} (h : s.log.splits.contains k = false) :
    s.split k i inst =
      ((List.range 16).filter fun d => decide (i = 1 ∧ s.stopped 1 = false) && s.halts d).foldl State.noteHalt
        (s.markSplit k i inst) := by
  have hdoms : (s.markSplit k i inst).halts = s.halts := by
    funext d
    rw [State.markSplit, State.logEvent_frame]
    rfl
  have heq : s.split k i inst =
      if i = 1 ∧ !s.stopped 1 then (s.markSplit k i inst).noteHalts else s.markSplit k i inst := by
    simp only [State.split, h]
    rfl
  rw [heq, State.noteHalts_eq, hdoms]
  by_cases hstop : i = 1 ∧ s.stopped 1 = false <;> simp [hstop]

section

variable (k i inst : Nat) (s : State)

theorem State.reg_markSplit {j : Nat} (hs : j ≠ Reg.GEN_STATUS) (hd : j ≠ Reg.LOG_CNT_QUEUE_DROP) :
    (s.markSplit k i inst).reg j = s.reg j := by
  rw [State.markSplit, State.reg_logEvent _ _ _ _ hd]
  exact State.reg_setReg_ne hs _ _

theorem State.stopped_markSplit (hi : i < 7) : (s.markSplit k i inst).stopped i = true := by
  have hne : Reg.GEN_STATUS ≠ Reg.LOG_CNT_QUEUE_DROP := by decide
  rw [State.stopped, State.markSplit, State.reg_logEvent _ _ _ _ hne, State.setField, State.modReg_eq,
    State.reg_setReg_self]
  exact getLsbD_setBits_one (by omega) _

theorem State.markSplit_frame : (s.markSplit k i inst).copyB = s.copyB ∧ (s.markSplit k i inst).copyC = s.copyC ∧
    (s.markSplit k i inst).log.splits = k :: s.log.splits := by
  refine ⟨?_, ?_, State.splits_logEvent ..⟩
  · rw [State.markSplit, State.logEvent_frame]
    rfl
  · rw [State.markSplit, State.logEvent_frame]
    rfl

end

/-- A split that is not yet recorded stops its block, and with SEQ the domains that run. -/
theorem State.split_stops {k i inst : Nat} {s : State} (hi : i < 7) (h : s.log.splits.contains k = false) :
    let t := s.split k i inst
    t.stopped i = true ∧ t.log.splits.contains k = true ∧ t.copyB = s.copyB ∧ t.copyC = s.copyC ∧
      (∀ d, d < 16 → counts (Reg.SEQ_CNT_HALTS d) (b2n (decide (i = 1 ∧ s.stopped 1 = false ∧
        (s.dom d).phase ≠ .closed ∧ (s.dom d).phase ≠ .halted))) s t) ∧
      ∀ j, j ≠ Reg.GEN_STATUS → j ≠ Reg.LOG_CNT_QUEUE_DROP → (∀ d, d < 16 → j ≠ Reg.SEQ_CNT_HALTS d) →
        t.reg j = s.reg j := by
  obtain ⟨hb, hc, hsplits⟩ := s.markSplit_frame k i inst
  generalize hds : (List.range 16).filter (fun d => decide (i = 1 ∧ s.stopped 1 = false) && s.halts d) = ds
  have hlt : ∀ d ∈ ds, d < 16 := fun d hd => List.mem_range.1 (List.mem_of_mem_filter (hds ▸ hd))
  have hmem : ∀ d < 16, d ∈ ds ↔
      i = 1 ∧ s.stopped 1 = false ∧ (s.dom d).phase ≠ .closed ∧ (s.dom d).phase ≠ .halted := by
    intro d hd
    simp [← hds, hd, State.halts, and_assoc]
  obtain ⟨hb', hc', hsplits'⟩ := State.foldl_noteHalt_frame ds (s.markSplit k i inst)
  have hreg : ∀ j, j ≠ Reg.LOG_CNT_QUEUE_DROP → (∀ d, d < 16 → j ≠ Reg.SEQ_CNT_HALTS d) →
      (ds.foldl State.noteHalt (s.markSplit k i inst)).reg j = (s.markSplit k i inst).reg j :=
    fun j hj hd => State.reg_foldl_noteHalt_ne hj (fun d hmem => hd d (hlt d hmem)) _
  rw [State.split_new h, hds]
  refine ⟨?_, ?_, hb'.trans hb, hc'.trans hc, fun d hd => ?_, fun j hs hj hd => ?_⟩
  · rw [State.stopped, hreg _ (by decide) fun d _ => (haltCounter_ne_status d).symm]
    exact s.stopped_markSplit k i inst hi
  · rw [hsplits', hsplits]
    simp
  · have hnodup : ds.Nodup := hds ▸ List.nodup_range.filter _
    have hcount := State.counts_foldl_noteHalt hd hnodup (s.markSplit k i inst)
    rw [counts, s.reg_markSplit k i inst (haltCounter_ne_status d) (haltCounter_ne_queueDrop d hd)] at hcount
    simpa only [counts, hmem d hd] using hcount
  · exact (hreg j hj hd).trans (s.reg_markSplit k i inst hs hj)

/-! ## The vote on a domain's next output (R110) -/

theorem DomState.vote_unfenced {x : DomState} (h : x.fenced = 0) :
    x.vote = voteOf [(0, (x.treeA.head?, x.copyA)), (1, (x.treeB.head?, x.copyB)), (2, (x.treeC.head?, x.copyC))] := by
  have hlive : x.live = [0, 1, 2] := by
    rw [DomState.live, h]
    decide
  rw [DomState.vote, hlive]
  rfl

/-- Settles O51: the scrubber's three cases are voteScrub's branches, a halt counts once along the fold over the domains,
and the vote of three outputs is decided by which of them are equal. -/
theorem votersReadAndScrubCopies : Obligations.VotersReadAndScrubCopies := by
  refine ⟨fun k i inst s hclock h => ?_, fun k v s hv => State.voted_eq hv, fun x n m k hx hnm => ?_⟩
  · refine ⟨_, exec_voteScrub hclock k, voteScrub_agreed h, fun v hne hv => ?_, fun hab hbc hac => ?_⟩
    · rw [voteScrub_outvoted h hne hv]
      exact State.repaired h v s
    · rw [voteScrub_split h hab hbc hac]
      exact ⟨State.split_recorded, State.split_stops (voteIndex_block_lt h)⟩
  · rw [DomState.vote_unfenced hx]
    refine ⟨?_, ?_, ?_, ?_, ?_⟩
    · intro ha hb hc
      simp [voteOf, ha, hb, hc]
    · intro ha hb hc
      simp [voteOf, ha, hb, hc, hnm.symm]
    · intro ha hb hc
      simp [voteOf, ha, hb, hc, hnm]
    · intro ha hb hc
      simp [voteOf, ha, hb, hc, hnm.symm]
    · intro hkn hkm ha hb hc
      simp [voteOf, ha, hb, hc, hnm, hkn.symm, hkm.symm]

end Sys2Proof.Machine
end

section
namespace Sys2Proof.Machine

open Sys2Proof.Claims

/-! ## What a reported error leaves as it was (R227) -/

section

variable (f : Party) (p error block ring cls : Nat) (e : BusError) (masked froze : Bool) (s : State)

@[simp] theorem State.count_life (k : Nat) : (s.count k).life = s.life := by rw [State.count_eq, State.setReg_life]
@[simp] theorem State.count_out (k : Nat) : (s.count k).out = s.out := by rw [State.count_eq, State.setReg_out]
@[simp] theorem State.count_funs (k : Nat) : (s.count k).funs = s.funs := by rw [State.count_eq, State.setReg_funs]

section

variable (corr : Bool) (fn : Nat)

/-- An entry of the error log writes three registers. -/
theorem State.errorSource_eq_setReg : ∃ a b c u v w, s.errorSource p error corr masked froze block fn ring =
    ((s.setReg a u).setReg b v).setReg c w := by
  unfold State.errorSource
  extract_lets
  exact ⟨_, _, _, _, _, _, rfl⟩

@[simp] theorem State.errorSource_life : (s.errorSource p error corr masked froze block fn ring).life = s.life := by
  obtain ⟨a, b, c, u, v, w, h⟩ := s.errorSource_eq_setReg p error block ring masked froze corr fn
  simp [h]

@[simp] theorem State.errorSource_out : (s.errorSource p error corr masked froze block fn ring).out = s.out := by
  obtain ⟨a, b, c, u, v, w, h⟩ := s.errorSource_eq_setReg p error block ring masked froze corr fn
  simp [h]

@[simp] theorem State.errorSource_funs : (s.errorSource p error corr masked froze block fn ring).funs = s.funs := by
  obtain ⟨a, b, c, u, v, w, h⟩ := s.errorSource_eq_setReg p error block ring masked froze corr fn
  simp [h]

end

/-- A freeze stops the link, and is noted in registers and in the logbook. -/
theorem State.freeze_eq : ∃ k v number params, s.freeze p error =
    (((s.modLink p fun l => { l with frozen := true }).setReg k v).count (Reg.HOST_CNT_FREEZES p)).logEvent
      number 9 params := by
  unfold State.freeze
  extract_lets
  exact ⟨_, _, _, _, rfl⟩

@[simp] theorem State.freeze_life : (s.freeze p error).life = s.life := by
  obtain ⟨k, v, number, params, h⟩ := s.freeze_eq p error
  rw [h, State.logEvent_frame]
  simp

@[simp] theorem State.freeze_out : (s.freeze p error).out = s.out := by
  obtain ⟨k, v, number, params, h⟩ := s.freeze_eq p error
  rw [h, State.logEvent_frame]
  simp

@[simp] theorem State.freeze_funs : (s.freeze p error).funs = s.funs := by
  obtain ⟨k, v, number, params, h⟩ := s.freeze_eq p error
  rw [h, State.logEvent_frame]
  simp

/-- An error message, where one is sent, joins the output. -/
theorem State.errorMessage_frame : s.errorMessage f cls = { s with out := (s.errorMessage f cls).out } := by
  unfold State.errorMessage
  dsimp only
  split <;> rfl

theorem State.errorMessage_funs : (s.errorMessage f cls).funs = s.funs := by rw [State.errorMessage_frame]

theorem State.out_errorMessage : s.out <:+ (s.errorMessage f cls).out := by
  unfold State.errorMessage
  dsimp only
  split
  · exact List.suffix_cons _ _
  · exact List.suffix_rfl

end

/-- The service life is as it was, and nothing that left the device is taken back. -/
structure KeepsLife (s t : State) : Prop where
  life : t.life = s.life
  out : s.out <:+ t.out

namespace KeepsLife

variable {s t : State} (h : KeepsLife s t)

theorem refl (s : State) : KeepsLife s s := ⟨rfl, List.suffix_rfl⟩

include h

theorem trans {u : State} (h' : KeepsLife t u) : KeepsLife s u := ⟨h'.life.trans h.life, h.out.trans h'.out⟩

theorem noteError (f : Party) (p block ring : Nat) (e : BusError) (masked froze : Bool) :
    KeepsLife s (t.noteError f p block ring e masked froze) := by
  unfold State.noteError
  extract_lets cls mask u v
  have hv : KeepsLife s v := h.trans ⟨by simp [v, u], by simp [v, u]⟩
  split
  · exact hv
  · exact hv.trans ⟨by rw [State.errorMessage_frame], State.out_errorMessage ..⟩

theorem freeze (p error : Nat) : KeepsLife s (t.freeze p error) :=
  h.trans ⟨by simp, by simp⟩

theorem logHeader (f : Party) (p block ring : Nat) : KeepsLife s (t.logHeader f p block ring) := by
  unfold State.logHeader
  split
  · exact h.trans ⟨rfl, List.suffix_rfl⟩
  · exact h.noteError ..

theorem report (f : Party) (block ring : Nat) (e : BusError) : KeepsLife s (t.report f block ring e) := by
  unfold State.report
  split
  · exact h
  · next p _ =>
    extract_lets g x masked freezes noted frozen lane
    have hnoted : KeepsLife s noted := h.noteError ..
    have hfrozen : KeepsLife s frozen := by
      unfold frozen
      split
      · exact hnoted.freeze ..
      · exact hnoted
    have hlane : KeepsLife s lane := by
      unfold lane
      split
      · exact hfrozen.trans ⟨rfl, List.suffix_rfl⟩
      · exact hfrozen
    split
    · exact hlane.logHeader ..
    · exact hlane

end KeepsLife

/-! ## The status bit of an internal error -/

theorem State.fn_congr {s t : State} (h : t.funs = s.funs) (f : Party) : t.fn f = s.fn f := by
  rw [State.fn, State.fn, h]

theorem State.fn_modFn_self (f : Party) (g : Function → Function) (s : State) : (s.modFn f g).fn f = g (s.fn f) := by
  simp [State.fn, State.modFn, Store.modify]

section

variable (f : Party) (p block ring : Nat) (e : BusError) (masked froze : Bool) (s : State)

theorem State.corr_noteError : ((s.noteError f p block ring e masked froze).fn f).corr =
    if e.correctable then (s.fn f).corr ||| BitVec.ofNat 32 (2 ^ e.bit) else (s.fn f).corr := by
  unfold State.noteError
  extract_lets cls mask u v
  have hfuns : v.funs = u.funs := by simp [v]
  have hv : (v.fn f).corr = if e.correctable then (s.fn f).corr ||| mask else (s.fn f).corr := by
    simp [State.fn_congr hfuns, u, State.fn_modFn_self]
  clear_value v
  split
  · exact hv
  · rw [State.fn_congr (v.errorMessage_funs f cls)]
    exact hv

theorem State.uncorr_noteError : ((s.noteError f p block ring e masked froze).fn f).uncorr =
    if e.correctable then (s.fn f).uncorr else (s.fn f).uncorr ||| BitVec.ofNat 32 (2 ^ e.bit) := by
  unfold State.noteError
  extract_lets cls mask u v
  have hfuns : v.funs = u.funs := by simp [v]
  have hv : (v.fn f).uncorr = if e.correctable then (s.fn f).uncorr else (s.fn f).uncorr ||| mask := by
    simp [State.fn_congr hfuns, u, State.fn_modFn_self]
  clear_value v
  split
  · exact hv
  · rw [State.fn_congr (v.errorMessage_funs f cls)]
    exact hv

end

/-- A corrected internal error of a link is noted in its PF. -/
theorem State.corr_report_correctedInternal (p block ring : Nat) (s : State) :
    ((s.report (.pf p) block ring .correctedInternal).fn (.pf p)).corr.getLsbD 14 = true := by
  have hreport : s.report (.pf p) block ring .correctedInternal =
      s.noteError (.pf p) p block ring .correctedInternal ((s.pfOf (.pf p)).corrMask.getLsbD 14) false := rfl
  rw [hreport, State.corr_noteError]
  simp [BusError.correctable, BusError.bit]

/-- An uncorrectable internal error of a link is noted in its PF, which may freeze the link. -/
theorem State.uncorr_report_internal (p block ring : Nat) (s : State) :
    ((s.report (.pf p) block ring .internal).fn (.pf p)).uncorr.getLsbD 22 = true := by
  have hnoted (masked froze : Bool) :
      ((s.noteError (.pf p) p block ring .internal masked froze).fn (.pf p)).uncorr.getLsbD 22 = true := by
    rw [State.uncorr_noteError]
    simp [BusError.correctable, BusError.bit]
  have hreport : ∃ masked froze : Bool, s.report (.pf p) block ring .internal =
      if froze then (s.noteError (.pf p) p block ring .internal masked froze).freeze p 22
      else s.noteError (.pf p) p block ring .internal masked froze := ⟨_, _, rfl⟩
  obtain ⟨masked, froze, heq⟩ := hreport
  rw [heq]
  split
  · rw [State.fn_congr (State.freeze_funs ..)]
    exact hnoted masked froze
  · exact hnoted masked froze

/-! ## What a lost frame leaves in the queues -/

/-- The queue holds the same frames, and the service life is as it was. -/
structure KeepsQueue (n q : Nat) (s t : State) : Prop where
  queue : t.queue n q = s.queue n q
  life : t.life = s.life

namespace KeepsQueue

variable {n q : Nat} {s t : State} (h : KeepsQueue n q s t)

theorem of_eq (he : t.egress = s.egress) (hl : t.life = s.life) : KeepsQueue n q s t :=
  ⟨by simp [State.queue, State.egr, he], hl⟩

include h

theorem trans {u : State} (h' : KeepsQueue n q t u) : KeepsQueue n q s u :=
  ⟨h'.queue.trans h.queue, h'.life.trans h.life⟩

theorem modEgr (m : Nat) {f : EgressState → EgressState} (hf : ∀ e, (f e).queues = e.queues) :
    KeepsQueue n q s (t.modEgr m f) := by
  refine h.trans ⟨?_, rfl⟩
  by_cases hm : n = m
  · subst hm
    simp [State.queue, hf]
  · simp [State.queue, State.egr_modEgr_ne hm]

theorem emit (o : Out) : KeepsQueue n q s (t.emit o) := h.trans (of_eq rfl rfl)

theorem sendPfc (m quanta : Nat) : KeepsQueue n q s (t.sendPfc m quanta) := by
  unfold State.sendPfc
  refine (h.modEgr m ?_).emit _
  exact fun _ => rfl

theorem pfcSettle (m : Nat) : KeepsQueue n q s (t.pfcSettle m) := by
  unfold State.pfcSettle
  dsimp only
  repeat' split
  · exact h
  · exact h.sendPfc ..
  · exact h.sendPfc ..
  · exact h

theorem txDone (f : QFrame) (status : Nat) (stamp : Dial) : KeepsQueue n q s (t.txDone f status stamp) := by
  unfold State.txDone
  split
  · exact h
  · rw [State.complete_frame]
    exact h.trans (of_eq rfl rfl)

theorem poolFree (f : QFrame) : KeepsQueue n q s (t.poolFree f) := by
  unfold State.poolFree
  split
  · exact h
  · refine (h.modEgr _ ?_).pfcSettle _
    exact fun _ => rfl

theorem loseFrame (f : QFrame) (status : Nat) : KeepsQueue n q s (t.loseFrame f status) :=
  (h.txDone f status 0).poolFree f

end KeepsQueue

@[simp] theorem State.queue_setQueue_self (n q : Nat) (fs : List QFrame) (s : State) :
    (s.setQueue n q fs).queue n q = fs := by
  simp [State.queue, State.setQueue, List.getD_eq_getElem?_getD]

/-! ## The ECC scrubber (R30, R401) -/

/-- A corrected word counts in the service life. -/
def State.wordCorrected (s : State) : State := { s with life := { s.life with eccCorr := s.life.eccCorr + 1 } }

/-- An uncorrectable word counts in the service life. -/
def State.wordLost (s : State) : State := { s with life := { s.life with eccUncorr := s.life.eccUncorr + 1 } }

theorem exec_memoryScrub {s : State} (hclock : s.clocked = true) {m : ScrubTarget} {place : ScrubPlace}
    (h : m ≠ .hostLink ∨ place.row < 16) (r : EccResult) :
    exec (.memoryScrub m place r) s = .next (memoryScrub m place r s) := by
  have hwf : (m != .hostLink || decide (place.row < 16)) = true := by simpa using h
  change within (m != .hostLink || decide (place.row < 16)) (whenClocked (memoryScrub m place r) s) s = _
  rw [hwf, within_true, whenClocked_of hclock]

section

variable {m : ScrubTarget} {place : ScrubPlace} (s : State)

theorem memoryScrub_corrected_sram (h : m ∈ sramArrays) :
    memoryScrub m place .corrected s = s.wordCorrected.rowCorrected m place.row := by
  simp only [sramArrays, List.mem_cons, List.not_mem_nil, or_false] at h
  obtain rfl | rfl | rfl | rfl := h <;> rfl

theorem memoryScrub_uncorrectable_row (hledger : m ≠ .ledger) (hlink : m ≠ .hostLink) :
    memoryScrub m place .uncorrectable s =
      if liesIn place.item m then s.wordLost.discardItem place.item place.row else s.wordLost := by
  simp only [memoryScrub, if_neg hledger, if_neg hlink]
  rfl

theorem memoryScrub_corrected_link : memoryScrub .hostLink place .corrected s =
    s.wordCorrected.report (.pf place.row) 9 0xFFFF .correctedInternal := rfl

theorem memoryScrub_uncorrectable_link : memoryScrub .hostLink place .uncorrectable s =
    s.wordLost.report (.pf place.row) 9 0xFFFF .internal := rfl

end

/-- The third correction of a row within 24 operating hours takes a spare row while one is left. -/
theorem State.rowCorrected_third {m : ScrubTarget} {row h₁ h₂ : Nat} {s : State}
    (hhits : Store.get (fun _ => []) s.life.rowHits (ScrubRow.key m row) = [h₁, h₂])
    (hnew₁ : (s.reg Reg.LOG_HOURS).toNat < h₁ + 24 * 1024) (hnew₂ : (s.reg Reg.LOG_HOURS).toNat < h₂ + 24 * 1024) :
    let t := s.rowCorrected m row
    t.life.rows = s.life.rows ++ (if s.life.rowsOf m < Config.spareRows m then [(m, row)] else []) ∧
      t.life.eccCorr = s.life.eccCorr ∧ t = { s with life := t.life } := by
  by_cases hspare : s.life.rowsOf m < Config.spareRows m
  · simp [State.rowCorrected, hhits, hnew₁, hnew₂, hspare]
  · simp [State.rowCorrected, hhits, hnew₁, hnew₂, hspare]

section

variable (s : State)

theorem State.dom_ingressError (d : Nat) : s.ingressError.dom d = s.dom d := rfl

theorem State.pipe_ingressError (k : Nat) : s.ingressError.pipe k = s.pipe k := rfl

theorem State.dom_logEvent (number block : Nat) (params : List Nat) (d : Nat) :
    (s.logEvent number block params).dom d = s.dom d := by
  rw [State.logEvent_frame]
  rfl

theorem State.discardItem_arriving {k i : Nat} (row : Nat) (h : i < (s.pipe k).fifo.length) :
    s.discardItem (.arriving k i) row =
      (s.modPipe k fun p => { p with fifo := p.fifo.eraseIdx i }).ingressError := if_pos h

/-- A message that its domain held is gone, an ingress error, whatever its conditions then are. -/
theorem State.discardItem_held {d i : Nat} (row : Nat) (h : i < (s.dom d).held.length) :
    ((s.discardItem (.held d i) row).dom d).held = (s.dom d).held.eraseIdx i ∧
      (s.discardItem (.held d i) row).life = { s.life with ingressErr := s.life.ingressErr + 1 } := by
  have hpoll (u : State) : ((u.condPoll d).dom d).held = (u.dom d).held := by
    unfold State.condPoll
    dsimp only
    split
    · rfl
    · rw [State.dom_logEvent, State.dom_modDom_self]
  rw [State.discardItem, if_pos h, hpoll, State.condPoll_frame, State.dom_ingressError, State.dom_modDom_self]
  exact ⟨rfl, rfl⟩

/-- A frame that waited in a queue is gone from it. -/
theorem State.discardItem_queued {n q i : Nat} (row : Nat) (h : i < (s.queue n q).length) :
    (s.discardItem (.queued n q i) row).queue n q = (s.queue n q).eraseIdx i ∧
      (s.discardItem (.queued n q i) row).life = s.life := by
  rw [State.discardItem, List.getElem?_eq_getElem h]
  dsimp only
  generalize hu : (if i = 0 then s.modEgr n fun e => { e with deferred := e.deferred.filter (· ≠ q) } else s) = u
  have hkeep : KeepsQueue n q s u := by
    rw [← hu]
    split
    · exact (KeepsQueue.of_eq rfl rfl).modEgr n fun _ => rfl
    · exact .of_eq rfl rfl
  obtain ⟨hqueue, hlife⟩ := (KeepsQueue.of_eq rfl rfl).loseFrame (n := n) (q := q)
    (s := u.setQueue n q ((u.queue n q).eraseIdx i)) (s.queue n q)[i] 2
  refine ⟨hqueue.trans ?_, hlife.trans hkeep.life⟩
  rw [State.queue_setQueue_self, hkeep.queue]

theorem State.discardItem_core {c : Nat} (row : Nat) (h : c < 64) (hrun : s.life.stopped.contains c = false) :
    s.discardItem (.core c) row =
      { s with life := { s.life with stopped := s.life.stopped ++ [c], coreFaults := s.life.coreFaults + 1 } } := by
  have hretire : ¬(64 ≤ c ∨ s.life.stopped.contains c = true) :=
    not_or.2 ⟨Nat.not_le.2 h, Bool.eq_false_iff.1 hrun⟩
  exact if_neg hretire

/-- A poisoned answer leaves the device, and the reader's function reports it. -/
theorem State.discardItem_read (who : Party) (row : Nat) :
    .poisonedRead who row ∈ (s.discardItem (.read who) row).out ∧ (s.discardItem (.read who) row).life = s.life := by
  obtain ⟨hlife, hout⟩ := (KeepsLife.refl (s.emit (.poisonedRead who row))).report who 9 0xFFFF .internal
  exact ⟨hout.subset (List.mem_cons_self ..), hlife⟩

/-- A reader that is no host function reports nothing. -/
theorem State.discardItem_read_of_none {who : Party} (row : Nat) (h : who.pfIndex = none) :
    s.discardItem (.read who) row = s.emit (.poisonedRead who row) := by
  simp [State.discardItem, State.report, h]

end

/-- Settles O52: memory by memory, what memoryScrub counts, and what discardItem takes away. -/
theorem memoriesScrubbed : Obligations.MemoriesScrubbed := by
  intro s hclock
  have scrub {m : ScrubTarget} (h : m ≠ .hostLink) {place : ScrubPlace} (r : EccResult) :=
    exec_memoryScrub hclock (m := m) (place := place) (.inl h) r
  have lost {m : ScrubTarget} {row : Nat} {item : RowItem} (hledger : m ≠ .ledger) (hlink : m ≠ .hostLink)
      (hlies : liesIn item m = true) :
      exec (.memoryScrub m ⟨row, item⟩ .uncorrectable) s = .next (s.wordLost.discardItem item row) := by
    rw [scrub hlink, memoryScrub_uncorrectable_row s hledger hlink, if_pos hlies]
  refine ⟨?clean, ?ledgerCorrected, ?ledgerLost, ?sram, ?arriving, ?held, ?queued, ?retained, ?core, ?hbm, ?elsewhere,
    ?link⟩
  case clean => exact fun m place h => ⟨_, exec_memoryScrub hclock h .clean, rfl⟩
  case ledgerCorrected =>
    exact fun place => ⟨_, scrub (by decide) _, counts_count _ s.wordCorrected, onlyRegs_count _ s.wordCorrected⟩
  case ledgerLost =>
    intro place
    refine ⟨_, scrub (by decide) _, ?_, ?_, rfl⟩
    · exact counts_one_iff.2 (State.reg_count_self ..)
    · simp [memoryScrub, State.count_eq]
  case sram =>
    intro m hm row h₁ h₂ hhits now hnew₁ hnew₂ item
    have hlink : m ≠ .hostLink := by
      rintro rfl
      exact absurd hm (by decide)
    obtain ⟨hrows, hcorr, hframe⟩ := State.rowCorrected_third (s := s.wordCorrected) hhits hnew₁ hnew₂
    refine ⟨_, (scrub hlink _).trans (by rw [memoryScrub_corrected_sram s hm]), hrows, hcorr, hframe⟩
  case arriving =>
    intro row k i h
    refine ⟨_, lost (by decide) (by decide) rfl, ?_⟩
    rw [s.wordLost.discardItem_arriving row h, State.pipe_ingressError, State.pipe_modPipe_self]
    exact ⟨rfl, rfl, rfl, rfl⟩
  case held =>
    intro row d i h
    obtain ⟨hheld, hlife⟩ := s.wordLost.discardItem_held row h
    exact ⟨_, lost (by decide) (by decide) rfl, hheld, by rw [hlife]; rfl, by rw [hlife]; rfl⟩
  case queued =>
    intro row n q i h
    obtain ⟨hqueue, hlife⟩ := s.wordLost.discardItem_queued row h
    exact ⟨_, lost (by decide) (by decide) rfl, hqueue, by rw [hlife]; rfl⟩
  case retained => exact fun row => ⟨_, lost (by decide) (by decide) rfl, rfl, rfl⟩
  case core =>
    intro m hm row c hc hrun
    have hkind : m ≠ .ledger ∧ m ≠ .hostLink ∧ liesIn (.core c) m = true := by
      obtain rfl | rfl : m = .l2 ∨ m = .l3 := by simpa using hm
      · exact ⟨by decide, by decide, rfl⟩
      · exact ⟨by decide, by decide, rfl⟩
    obtain ⟨hledger, hlink, hlies⟩ := hkind
    exact ⟨_, lost hledger hlink hlies, s.wordLost.discardItem_core row hc hrun⟩
  case hbm =>
    intro row who
    obtain ⟨hout, hlife⟩ := s.wordLost.discardItem_read who row
    refine ⟨_, lost (by decide) (by decide) rfl, hout, hlife, fun hnone => ?_⟩
    rw [State.discardItem_read_of_none _ row hnone]
    rfl
  case elsewhere =>
    intro m hledger hlink row item h
    refine ⟨_, scrub hlink _, ?_⟩
    rw [memoryScrub_uncorrectable_row s hledger hlink]
    obtain hlies | rfl := h
    · rw [hlies]
      rfl
    · rfl
  case link =>
    intro row item hrow
    have hlife {t : State} (e : BusError) : (t.report (.pf row) 9 0xFFFF e).life = t.life :=
      ((KeepsLife.refl t).report (.pf row) 9 0xFFFF e).life
    have link := exec_memoryScrub hclock (m := .hostLink) (place := ⟨row, item⟩) (.inr hrow)
    refine ⟨⟨_, (link _).trans (by rw [memoryScrub_corrected_link]), ?_, hlife _⟩,
      ⟨_, (link _).trans (by rw [memoryScrub_uncorrectable_link]), ?_, hlife _⟩⟩
    · exact State.corr_report_correctedInternal row 9 0xFFFF s.wordCorrected
    · exact State.uncorr_report_internal row 9 0xFFFF s.wordLost

end Sys2Proof.Machine
end

section
namespace Sys2Proof.Machine

open Sys2Proof.Claims

/-! ## Commands of a block that runs (R30, R365, R367, R368) -/

/-- A register write that is taken acts once a half staged for the register has been discarded. -/
theorem within_pfWrite_whole {who : Party} {b : Nat} {s : State} (hacc : accepted who s = true)
    (hrun : running b s = true) (k : Nat) (f : State → State) :
    within who.wf (pfWrite who false false (whole who k (unlessStopped b f)) s) s = .next (f (discarded who k s)) := by
  rw [(accepted_iff.1 hacc).1, within_true, pfWrite_accepted hacc, whole, unlessStopped_running]
  · rfl
  · exact running_unstage _ _ hrun

/-- A command that its block carries out whenever it runs. -/
theorem whenClocked_running {b : Nat} {s : State} (hrun : running b s = true) (f : State → State) :
    whenClocked (unlessStopped b f) s = f s := by
  rw [whenClocked_of (running_iff.1 hrun).1, unlessStopped_running hrun]

/-! ## Who writes to TIME (R38, R314) -/

section

variable (l name : Nat) (s : State)

@[simp] theorem State.unstage_time : (s.unstage l name).time = s.time := by rw [State.unstage_frame]
@[simp] theorem State.unstage_gal : (s.unstage l name).gal = s.gal := by rw [State.unstage_frame]
@[simp] theorem State.unstage_postings : (s.unstage l name).postings = s.postings := by rw [State.unstage_frame]
@[simp] theorem State.unstage_log : (s.unstage l name).log = s.log := by rw [State.unstage_frame]

@[simp] theorem State.timeSource_unstage : (s.unstage l name).timeSource = s.timeSource := by
  rw [State.timeSource, State.voted_unstage l name s (by decide), State.timeSource]

@[simp] theorem State.refIsPresent_unstage : (s.unstage l name).refIsPresent = s.refIsPresent := by
  rw [State.refIsPresent, State.pllRef, State.voted_unstage l name s (by decide), State.unstage_time,
    State.refIsPresent, State.pllRef]

@[simp] theorem State.stackMember_unstage : (s.unstage l name).stackMember = s.stackMember := by
  rw [State.stackMember, State.reg_unstage_ne l name s (by decide), State.unstage_gal, State.stackMember]

@[simp] theorem State.isTimeWriter_unstage (who : Party) : (s.unstage l name).isTimeWriter who = s.isTimeWriter who := by
  simp [State.isTimeWriter]

end

theorem State.isTimeWriter_eq (who : Party) (s : State) : s.isTimeWriter who =
    decide (s.stackMember = false ∧ (s.timeSource = 2 ∧ who = .cores ∨ s.timeSource = 3 ∧ who = .pf 0)) := by
  cases h : s.stackMember <;> simp [State.isTimeWriter, h]

/-! ## Adjusting frequency and phase (R38, R39, R44, R47) -/

theorem AuditOnly.auditDial {s t : State} (h : AuditOnly s t) (what : Nat) (before : Dial) (old : Word) (after : Dial)
    (new : Word) : AuditOnly s (t.auditDial what before old after new) :=
  (h.audit _).audit _

/-- A frequency is stored and counted; the rest is the audit's. -/
theorem State.storeFreq_auditOnly (v : Nat) (s : State) :
    AuditOnly ((s.setReg Reg.TIME_ADJ_FREQ (word (v % 2 ^ 32))).count Reg.TIME_CNT_ADJ_WRITES) (s.storeFreq v) := by
  unfold State.storeFreq
  dsimp only
  split
  · exact .refl _
  · exact (AuditOnly.refl _).auditDial ..

/-- The state whose slew remainder a phase write has raised. -/
def State.slewBy (v : Int) (s : State) : State := { s with time := { s.time with slew := s.time.slew + v * 2 ^ 24 } }

/-- A phase is added and counted; the rest is the audit's. -/
theorem State.addPhase_auditOnly (v : Int) (s : State) :
    AuditOnly ((s.slewBy v).count Reg.TIME_CNT_ADJ_WRITES) (s.addPhase v) :=
  (AuditOnly.refl _).auditDial ..

theorem State.storeFreq_frame (v : Nat) (s : State) : s.storeFreq v =
    { s with regs := (s.storeFreq v).regs, aud := (s.storeFreq v).aud, log := (s.storeFreq v).log } := by
  have h := s.storeFreq_auditOnly v
  obtain ⟨r, hr⟩ : ∃ r, (s.setReg Reg.TIME_ADJ_FREQ (word (v % 2 ^ 32))).count Reg.TIME_CNT_ADJ_WRITES =
    { s with regs := r } := ⟨_, rfl⟩
  rw [hr] at h
  exact h.frame

theorem State.addPhase_frame (v : Int) (s : State) : s.addPhase v =
    { s.slewBy v with regs := (s.addPhase v).regs, aud := (s.addPhase v).aud, log := (s.addPhase v).log } := by
  have h := s.addPhase_auditOnly v
  obtain ⟨r, hr⟩ : ∃ r, (s.slewBy v).count Reg.TIME_CNT_ADJ_WRITES = { s.slewBy v with regs := r } := ⟨_, rfl⟩
  rw [hr] at h
  exact h.frame

section

variable {who : Party} {v : Word} {s : State}

theorem timeAdjFreq_of_writer (hw : s.isTimeWriter who = true) (hd : s.time.disc ≠ .holdover) :
    timeAdjFreq who v s = s.storeFreq (bits v 31 0) :=
  if_pos ⟨hw, hd⟩

theorem timeAdjFreq_of_other (hw : s.isTimeWriter who = false) :
    timeAdjFreq who v s = s.count Reg.TIME_CNT_ADJ_IGNORED := by
  simp [timeAdjFreq, hw]

theorem timeAdjPhase_of_writer (hw : s.isTimeWriter who = true) (hd : s.time.disc ≠ .holdover) :
    timeAdjPhase who v s = s.addPhase v.toInt :=
  if_pos ⟨hw, hd⟩

theorem timeAdjPhase_of_other (hw : s.isTimeWriter who = false) :
    timeAdjPhase who v s = s.count Reg.TIME_CNT_ADJ_IGNORED := by
  simp [timeAdjPhase, hw]

variable (v) (hacc : accepted who s = true) (hrun : running 0 s = true)
include hacc hrun

theorem exec_timeAdjFreqWrite : exec (.timeAdjFreqWrite who v) s =
    .next (timeAdjFreq who v (discarded who Reg.TIME_ADJ_FREQ s)) :=
  within_pfWrite_whole hacc hrun _ _

theorem exec_timeAdjPhaseWrite : exec (.timeAdjPhaseWrite who v) s =
    .next (timeAdjPhase who v (discarded who Reg.TIME_ADJ_PHASE s)) :=
  within_pfWrite_whole hacc hrun _ _

end

/-- A field is below the power of two that its width gives. -/
theorem bits_lt {w : Nat} (x : BitVec w) (hi lo : Nat) : bits x hi lo < 2 ^ (hi + 1 - lo) :=
  Nat.mod_lt _ (Nat.two_pow_pos _)

/-- Settles O1: the writer's value is stored or added (storeFreq_auditOnly, addPhase_auditOnly), and any other party's
write counts alone. -/
theorem onlyTimeWriterAdjustsDial : Obligations.OnlyTimeWriterAdjustsDial := by
  unfold Obligations.OnlyTimeWriterAdjustsDial
  intro who v s hacc hrun writer
  have hwriter (k : Nat) : (discarded who k s).isTimeWriter who = writer := by
    simp [discarded, writer, State.isTimeWriter_eq]
  have hdisc (k : Nat) : (discarded who k s).time = s.time := by simp [discarded]
  have hcount (k : Nat) :
      (discarded who k s).reg Reg.TIME_CNT_ADJ_WRITES = s.reg Reg.TIME_CNT_ADJ_WRITES := by
    rw [discarded, State.reg_unstage_ne _ _ _ (by decide)]
  refine ⟨fun hw hhold => ⟨⟨_, exec_timeAdjFreqWrite v hacc hrun, ?_⟩, ⟨_, exec_timeAdjPhaseWrite v hacc hrun, ?_⟩⟩,
    fun hw => ⟨⟨_, exec_timeAdjFreqWrite v hacc hrun, ?_⟩, ⟨_, exec_timeAdjPhaseWrite v hacc hrun, ?_⟩⟩⟩
  · rw [timeAdjFreq_of_writer ((hwriter _).trans hw) (by rwa [hdisc])]
    have h := State.storeFreq_auditOnly (bits v 31 0) (discarded who Reg.TIME_ADJ_FREQ s)
    refine ⟨?_, ?_, State.storeFreq_frame .., fun k hk hne => ?_⟩
    · rw [h.reg _ (by decide), State.reg_count_ne (by decide), State.reg_setReg_self, Nat.mod_eq_of_lt (bits_lt v 31 0)]
    · rw [counts_one_iff, h.reg _ (by decide), State.reg_count_self, State.reg_setReg_ne (by decide), hcount]
    · obtain ⟨hfreq, hwrites⟩ : k ≠ Reg.TIME_ADJ_FREQ ∧ k ≠ Reg.TIME_CNT_ADJ_WRITES := by simpa using hne
      rw [h.reg _ hk, State.reg_count_ne hwrites, State.reg_setReg_ne hfreq]
  · rw [timeAdjPhase_of_writer ((hwriter _).trans hw) (by rwa [hdisc])]
    have h := State.addPhase_auditOnly v.toInt (discarded who Reg.TIME_ADJ_PHASE s)
    have hslew : ((discarded who Reg.TIME_ADJ_PHASE s).addPhase v.toInt).time =
        { s.time with slew := s.time.slew + v.toInt * 2 ^ 24 } := by
      rw [State.addPhase_frame, ← hdisc Reg.TIME_ADJ_PHASE]
      rfl
    refine ⟨by rw [hslew], ?_, ?_, fun k hk hne => ?_⟩
    · rw [counts_one_iff, h.reg _ (by decide), State.reg_count_self]
      exact congrArg _ (hcount Reg.TIME_ADJ_PHASE)
    · rw [hslew, ← hdisc Reg.TIME_ADJ_PHASE]
      exact State.addPhase_frame ..
    · rw [h.reg _ hk, State.reg_count_ne (by simpa using hne)]
      rfl
  · rw [timeAdjFreq_of_other ((hwriter _).trans hw)]
    exact ⟨counts_count_discarded (by decide) who _ s, onlyRegs_count _ _⟩
  · rw [timeAdjPhase_of_other ((hwriter _).trans hw)]
    exact ⟨counts_count_discarded (by decide) who _ s, onlyRegs_count _ _⟩

end Sys2Proof.Machine
end

section
namespace Sys2Proof.Machine

open Sys2Proof.Claims

/-! ## What a change of discipline state changes (R39) -/

/-- Only the discipline state, its cause, TIME_DISC and the logbook differ. -/
structure DiscOnly (s t : State) : Prop where
  frame : t = { s with regs := t.regs, log := t.log
                       time := { s.time with disc := t.time.disc, byRefLoss := t.time.byRefLoss } }
  reg : ∀ k, k ≠ Reg.TIME_DISC → k ≠ Reg.LOG_CNT_QUEUE_DROP → t.reg k = s.reg k

namespace DiscOnly

theorem refl (s : State) : DiscOnly s s := ⟨rfl, fun _ _ _ => rfl⟩

theorem trans {s t u : State} (h : DiscOnly s t) (h' : DiscOnly t u) : DiscOnly s u :=
  ⟨by rw [h'.frame, h.frame], fun k hk hq => (h'.reg k hk hq).trans (h.reg k hk hq)⟩

section

variable {s t : State} (h : DiscOnly s t)
include h

theorem time : t.time = { s.time with disc := t.time.disc, byRefLoss := t.time.byRefLoss } := by
  conv_lhs => rw [h.frame]

theorem voted {k : Nat} (hk : k ≠ Reg.TIME_DISC) (hq : k ≠ Reg.LOG_CNT_QUEUE_DROP) : t.voted k = s.voted k := by
  have hb : t.copyB = s.copyB := by rw [h.frame]
  have hc : t.copyC = s.copyC := by rw [h.frame]
  simp [State.voted, State.regB, State.regC, h.reg k hk hq, hb, hc]

theorem refIsPresent : t.refIsPresent = s.refIsPresent := by
  have hr : t.time.refPresent = s.time.refPresent := by rw [h.time]
  have hl : t.time.pllLocked = s.time.pllLocked := by rw [h.time]
  have hv : t.voted Reg.TIME_CFG = s.voted Reg.TIME_CFG := h.voted (by decide) (by decide)
  simp only [State.refIsPresent, State.pllRef, hr, hl, hv]

theorem setDisc (d : Disc) (byLoss : Bool) : DiscOnly s (t.setDisc d byLoss) := by
  refine h.trans ?_
  unfold State.setDisc
  split
  · exact refl t
  · extract_lets _ moved logged
    have hlog : DiscOnly t logged :=
      ⟨by unfold logged; rw [State.logEvent_frame], fun _ _ hq => State.reg_logEvent _ _ _ moved hq⟩
    split
    · exact hlog.trans ⟨rfl, fun _ hk _ => State.reg_setReg_ne hk _ logged⟩
    · exact hlog

theorem relock : DiscOnly s t.relock := (h.setDisc .acquire false).setDisc .locked false

theorem refSettle : DiscOnly s t.refSettle := by
  unfold State.refSettle
  dsimp only
  split
  · exact h
  · split
    · exact h.setDisc _ _
    · split
      · exact h.setDisc _ _
      · exact h

end

end DiscOnly

@[simp] theorem State.logEvent_time (number block : Nat) (params : List Nat) (s : State) :
    (s.logEvent number block params).time = s.time := by
  rw [State.logEvent_frame]

@[simp] theorem State.disc_setDisc (d : Disc) (byLoss : Bool) (s : State) : (s.setDisc d byLoss).time.disc = d := by
  unfold State.setDisc
  split
  · assumption
  · extract_lets _ moved logged
    have hlog : logged.time.disc = d := by simp [logged, moved]
    split
    · exact hlog
    · exact hlog

@[simp] theorem State.disc_relock (s : State) : s.relock.time.disc = .locked := State.disc_setDisc _ _ _

/-! ## The reference's test (R39, R314) -/

section

variable {s : State}

/-- GAL sets the state of a stack member. -/
theorem State.refSettle_of_stackMember (h : s.stackMember = true) : s.refSettle = s := if_pos h

theorem State.disc_refSettle_of_lost (hm : s.stackMember = false) (hs : s.timeSource ≠ 0) (hp : s.pllRef = false)
    (hr : s.time.refPresent = false) (hd : s.time.disc = .acquire ∨ s.time.disc = .locked) :
    s.refSettle.time.disc = .holdover := by
  simp [State.refSettle, hm, hs, hp, hr, hd]

theorem State.disc_refSettle_of_returned (hm : s.stackMember = false) (hr : s.refIsPresent = true)
    (hd : s.time.disc = .holdover) (hb : s.time.byRefLoss = true) : s.refSettle.time.disc = .acquire := by
  simp [State.refSettle, hm, hr, hd, hb]

/-- With the reference there, a state other than HOLDOVER stays. -/
theorem State.refSettle_of_present (hr : s.time.refPresent = true) (hd : s.time.disc ≠ .holdover) : s.refSettle = s := by
  simp [State.refSettle, hr, hd]

end

/-! ## TIME_DISC (R404) -/

section

variable {who : Party} {v : Word} {s : State}

theorem exec_timeDiscWrite (v : Word) (hacc : accepted who s = true) (hrun : running 0 s = true) :
    exec (.timeDiscWrite who v) s = .next (timeDiscWrite who v (discarded who Reg.TIME_DISC s)) :=
  within_pfWrite_whole hacc hrun _ _

theorem timeDiscWrite_of_other (hw : s.isTimeWriter who = false) :
    timeDiscWrite who v s = s.count Reg.TIME_CNT_ADJ_IGNORED := by
  simp [timeDiscWrite, hw]

/-- The discipline after an accepted write of TIME_DISC: the first case that applies (R404). -/
def discAfter (v : Word) (s : State) : Disc :=
  if bit v 0 = true ∧ (s.time.disc = .acquire ∨ s.time.disc = .holdover ∧ s.refIsPresent = true) then .locked
  else if bit v 0 = false ∧ s.time.disc = .locked then .holdover
  else if bit v 1 = true ∧ s.time.disc = .holdover ∧ s.refIsPresent = true then .acquire
  else s.time.disc

/-- An accepted write moves the discipline, then stores LOCKED. -/
theorem timeDiscWrite_of_writer (hw : s.isTimeWriter who = true) :
    ∃ t, DiscOnly s t ∧ t.time.disc = discAfter v s ∧
      timeDiscWrite who v s = t.setReg Reg.TIME_DISC (word (b2n (bit v 0))) := by
  unfold timeDiscWrite
  rw [if_neg (by simp [hw])]
  extract_lets locked t
  refine ⟨t, ?_, ?_, rfl⟩
  · unfold t
    repeat' split
    · exact (DiscOnly.refl s).setDisc _ _
    · exact (DiscOnly.refl s).relock
    · exact (DiscOnly.refl s).setDisc _ _
    · exact (DiscOnly.refl s).setDisc _ _
    · exact .refl s
  · simp only [t, discAfter, locked, apply_ite State.time, apply_ite TimeState.disc, State.disc_setDisc,
      State.disc_relock]
    cases hd : s.time.disc <;> cases bit v 0 <;> simp

end

/-- Settles O2: another party's write counts alone; the writer's moves the discipline (timeDiscWrite_of_writer). -/
theorem disciplineFollowsAcceptedWrites : Obligations.DisciplineFollowsAcceptedWrites := by
  unfold Obligations.DisciplineFollowsAcceptedWrites
  intro who v s hacc hrun writer
  have hwriter : (discarded who Reg.TIME_DISC s).isTimeWriter who = writer := by
    simp [discarded, writer, State.isTimeWriter_eq]
  refine ⟨_, exec_timeDiscWrite v hacc hrun, fun hw => ?_, fun hw => ?_⟩
  · rw [timeDiscWrite_of_other (hwriter.trans hw)]
    exact ⟨counts_count_discarded (by decide) who _ s, onlyRegs_count _ _⟩
  · obtain ⟨t, ht, hdisc, heq⟩ := timeDiscWrite_of_writer (v := v) (hwriter.trans hw)
    rw [heq]
    refine ⟨State.reg_setReg_self _ _ t, ?_, ?_, fun k hk hq => ?_⟩
    · simpa [discAfter, discarded] using hdisc
    · rw [ht.frame]
      rfl
    · rw [State.reg_setReg_ne hk, ht.reg k hk hq]

/-! ## TIME_CFG (R39, R59) -/

section

variable {v : Word} {s : State}

theorem exec_timeCfgWrite {who : Party} (v : Word) (hacc : accepted who s = true) (hrun : running 0 s = true) :
    exec (.timeCfgWrite who v) s = .next (timeCfgWrite v (discarded who Reg.TIME_CFG s)) :=
  within_pfWrite_whole hacc hrun _ _

/-- The mask of TIME_CFG holds SOURCE. -/
theorem bits_timeCfg_source (v : Word) : bits (v &&& 0x0000FFFF0000FF3F) 1 0 = bits v 1 0 := by
  have hmask : (v.toNat &&& 0x0000FFFF0000FF3F) % 2 ^ 2 = v.toNat % 2 ^ 2 := by
    rw [Nat.and_mod_two_pow, show 0x0000FFFF0000FF3F % 2 ^ 2 = 2 ^ 2 - 1 from rfl, Nat.and_two_pow_sub_one_eq_mod,
      Nat.mod_mod]
  simpa [bits] using hmask

/-- TIME_CFG stored, with the counts of the PPS loop cleared where SOURCE changes. -/
def cfgStored (v : Word) (s : State) : State :=
  let t := s.setRv Reg.TIME_CFG (v &&& 0x0000FFFF0000FF3F)
  if t.timeSource = s.timeSource then t
  else { t with time := { t.time with ppsGood := 0, ppsBad := 0, outliers := [], ppsSeen := true } }

/-- The discipline moved with SOURCE, from an old one. -/
def sourceMoved (old : Nat) (s : State) : State :=
  if s.timeSource = old ∨ s.time.disc = .fault ∨ s.stackMember then s
  else if s.timeSource = 0 then s.setDisc .freerun false
  else s.setDisc .acquire false

theorem timeCfgWrite_eq (v : Word) (s : State) :
    timeCfgWrite v s = (sourceMoved s.timeSource (cfgStored v s)).refSettle := rfl

theorem cfgStored_frame (v : Word) (s : State) :
    cfgStored v s = { s.setRv Reg.TIME_CFG (v &&& 0x0000FFFF0000FF3F) with time := (cfgStored v s).time } := by
  unfold cfgStored
  dsimp only
  split <;> rfl

/-- Of Dial's state only the counts of the PPS loop change with the register. -/
theorem cfgStored_time (v : Word) (s : State) :
    (cfgStored v s).time.disc = s.time.disc ∧ (cfgStored v s).time.refPresent = s.time.refPresent := by
  unfold cfgStored
  dsimp only
  split <;> exact ⟨rfl, rfl⟩

theorem timeSource_cfgStored (v : Word) (s : State) : (cfgStored v s).timeSource = bits v 1 0 := by
  rw [cfgStored_frame]
  exact (congrArg (bits · 1 0) (State.voted_setRv_self Reg.TIME_CFG _ s)).trans (bits_timeCfg_source v)

theorem stackMember_cfgStored (v : Word) (s : State) : (cfgStored v s).stackMember = s.stackMember := by
  rw [cfgStored_frame]
  exact congrArg (fun w : Word => w.getLsbD 0 && decide (s.gal.authority ≠ s.gal.devId))
    (State.reg_setRv_ne (by decide) _ s)

theorem sourceMoved_discOnly (old : Nat) (s : State) : DiscOnly s (sourceMoved old s) := by
  unfold sourceMoved
  repeat' split
  · exact .refl s
  · exact (DiscOnly.refl s).setDisc _ _
  · exact (DiscOnly.refl s).setDisc _ _

/-- In FAULT and on a stack member a write of TIME_CFG only stores. -/
theorem timeCfgWrite_stores (hr : s.time.refPresent = true) (h : s.time.disc = .fault ∨ s.stackMember = true) :
    timeCfgWrite v s = cfgStored v s := by
  obtain ⟨hdisc, href⟩ := cfgStored_time v s
  have hmember := stackMember_cfgStored v s
  rw [timeCfgWrite_eq, sourceMoved, if_pos (.inr (by rwa [hdisc, hmember]))]
  obtain hfault | hm := h
  · exact State.refSettle_of_present (href.trans hr) (by simp [hdisc, hfault])
  · exact State.refSettle_of_stackMember (hmember.trans hm)

/-- A changed SOURCE leads to FREERUN or ACQUIRE. -/
theorem timeCfgWrite_moves (hr : s.time.refPresent = true) (hf : s.time.disc ≠ .fault) (hm : s.stackMember = false)
    (hs : bits v 1 0 ≠ s.timeSource) :
    (timeCfgWrite v s).time.disc = if bits v 1 0 = 0 then .freerun else .acquire := by
  obtain ⟨hdisc, href⟩ := cfgStored_time v s
  have hmoved : (sourceMoved s.timeSource (cfgStored v s)).time.disc = if bits v 1 0 = 0 then .freerun else .acquire := by
    rw [sourceMoved, timeSource_cfgStored, hdisc, stackMember_cfgStored, if_neg (by simp [hs, hf, hm])]
    split <;> exact State.disc_setDisc _ _ _
  have hpresent : (sourceMoved s.timeSource (cfgStored v s)).time.refPresent = true := by
    rw [(sourceMoved_discOnly _ _).time]
    exact href.trans hr
  rw [timeCfgWrite_eq, State.refSettle_of_present hpresent, hmoved]
  rw [hmoved]
  split <;> decide

end

/-- Settles O3: the register stands in every copy (cfgStored), and the discipline follows (timeCfgWrite_stores,
timeCfgWrite_moves). -/
theorem sourceWriteMovesDiscipline : Obligations.SourceWriteMovesDiscipline := by
  unfold Obligations.SourceWriteMovesDiscipline
  intro who v s hacc hrun hr
  refine ⟨_, exec_timeCfgWrite v hacc hrun, ?_⟩
  have hdisc : DiscOnly (cfgStored v (discarded who Reg.TIME_CFG s)) (timeCfgWrite v (discarded who Reg.TIME_CFG s)) :=
    (sourceMoved_discOnly _ _).refSettle
  have hframe := hdisc.frame
  rw [cfgStored_frame] at hframe
  refine ⟨?_, ?_, ?_, fun h => ?_, fun hf hm hs => ?_, ?_⟩
  · rw [hdisc.reg _ (by decide) (by decide), cfgStored_frame]
    exact State.reg_setRv_self Reg.TIME_CFG _ _
  · rw [hframe]
    exact State.regB_setRv_self Reg.TIME_CFG _ _
  · rw [hframe]
    exact State.regC_setRv_self Reg.TIME_CFG _ _
  · rw [timeCfgWrite_stores (by simpa [discarded] using hr) (by simpa [discarded] using h), (cfgStored_time _ _).1,
      discarded, State.unstage_time]
  · exact timeCfgWrite_moves (by simpa [discarded] using hr) (by simpa [discarded] using hf)
      (by simpa [discarded] using hm) (by simpa [discarded] using hs)
  · rw [hframe]
    rfl

end Sys2Proof.Machine
end

section
namespace Sys2Proof.Machine

open Sys2Proof.Claims

/-! ## The TIME cycle (R33, R44) -/

/-- Frontiers stand in the domains. -/
theorem State.keepFrontiers_frame (s : State) : s.keepFrontiers = { s with doms := s.keepFrontiers.doms } := by
  unfold State.keepFrontiers
  generalize s.dial = d
  generalize List.range 16 = ds
  induction ds generalizing s with
  | nil => rfl
  | cons x ds ih =>
    rw [List.foldl_cons, ih]
    split <;> rfl

theorem State.ledgerCommit_frame (s : State) :
    s.ledgerCommit = { s with ledger := s.ledgerCommit.ledger, aud := s.ledgerCommit.aud } := by
  unfold State.ledgerCommit
  dsimp only
  generalize s.aud.queue = q
  induction q generalizing s with
  | nil => rfl
  | cons x q ih =>
    rw [List.foldl_cons, ih, State.ledgerWord_frame]

theorem State.sweepBoundary_frame (s : State) : s.sweepBoundary = { s with tbl := s.sweepBoundary.tbl } := by
  unfold State.sweepBoundary
  split <;> rfl

/-- What a TIME cycle ends with, after the Dial has moved. -/
def State.endCycle (s : State) : State :=
  { s with time := { s.time with stepped := none } }.refSettle.ledgerCommit.sweepBoundary

theorem State.endCycle_eq_refSettle (s : State) :
    s.endCycle.time = { s with time := { s.time with stepped := none } }.refSettle.time ∧
      s.endCycle.regs = { s with time := { s.time with stepped := none } }.refSettle.regs := by
  rw [State.endCycle, State.sweepBoundary_frame, State.ledgerCommit_frame]
  exact ⟨rfl, rfl⟩

/-- Of the Dial the end of a cycle changes the discipline alone. -/
theorem State.endCycle_time (s : State) : s.endCycle.time =
    { s.time with stepped := none, disc := s.endCycle.time.disc, byRefLoss := s.endCycle.time.byRefLoss } := by
  rw [s.endCycle_eq_refSettle.1, (DiscOnly.refl _).refSettle.time]

theorem State.reg_endCycle (s : State) {k : Nat} (hk : k ≠ Reg.TIME_DISC) (hq : k ≠ Reg.LOG_CNT_QUEUE_DROP) :
    s.endCycle.reg k = s.reg k :=
  (State.reg_congr s.endCycle_eq_refSettle.2 k).trans ((DiscOnly.refl _).refSettle.reg k hk hq)

/-- The sum of the adjustments that a cycle adds to the Dial, before it is held to its limits. -/
def State.adjustment (s : State) : Int := s.adjFreq + s.slewStep

theorem freqClamp_ne_iff {i : Int} : freqClamp i ≠ i ↔ i < -42949 ∨ 42949 < i := by
  unfold freqClamp clampInt
  omega

theorem State.advance_time (s : State) : s.advance.time =
    { s.time with a := s.time.a + BitVec.ofInt 96 (2 ^ 32 + freqClamp s.adjustment)
                  b := s.time.b + BitVec.ofInt 96 (2 ^ 32 + freqClamp s.adjustment)
                  c := s.time.c + BitVec.ofInt 96 (2 ^ 32 + freqClamp s.adjustment)
                  slew := s.time.slew - s.slewAbsorbed } := by
  unfold State.advance
  dsimp only
  split <;> rfl

/-- A sum beyond the limits is counted. -/
theorem State.reg_advance_clamped {s : State} (h : s.adjustment < -42949 ∨ 42949 < s.adjustment) :
    s.advance.reg Reg.TIME_CNT_FREQ_CLAMPED = counterPlus 1 (s.reg Reg.TIME_CNT_FREQ_CLAMPED) := by
  have hne : freqClamp (s.adjFreq + s.slewStep) ≠ s.adjFreq + s.slewStep := freqClamp_ne_iff.2 h
  unfold State.advance
  dsimp only
  rw [if_neg hne]
  exact State.reg_count_self ..

section

variable {s : State} (hf : s.time.dialFault = false) (hab : s.time.a = s.time.b) (hbc : s.time.b = s.time.c)
include hf hab hbc

/-- While the three copies agree a TIME cycle moves them, and ends. -/
theorem dialTick_of_agreeing : dialTick s = s.keepFrontiers.advance.endCycle := by
  have hvote : s.voteDial = s := by simp [State.voteDial, hab, hbc]
  simp [dialTick, hf, hvote, State.endCycle]

/-- A TIME cycle adds one clamped increment to each copy, counts a clamp, and takes from the slew what it absorbs. -/
theorem dialTick_counts :
    let t := dialTick s
    t.time.a = s.time.a + BitVec.ofInt 96 (2 ^ 32 + freqClamp s.adjustment) ∧ t.time.b = t.time.a ∧
      t.time.c = t.time.a ∧ t.time.slew = s.time.slew - s.slewAbsorbed ∧
      (s.adjustment < -42949 ∨ 42949 < s.adjustment → counts Reg.TIME_CNT_FREQ_CLAMPED 1 s t) := by
  obtain ⟨d, hd⟩ : ∃ d, s.keepFrontiers = { s with doms := d } := ⟨_, s.keepFrontiers_frame⟩
  dsimp only
  rw [dialTick_of_agreeing hf hab hbc, hd, State.endCycle_time, State.advance_time]
  refine ⟨rfl, congrArg (· + _) hab.symm, congrArg (· + _) (hab.trans hbc).symm, rfl, fun hclamp => ?_⟩
  rw [counts_one_iff, State.reg_endCycle _ (by decide) (by decide)]
  exact State.reg_advance_clamped (s := { s with doms := d }) hclamp

end

theorem exec_dialTick {s : State} (hrun : running 0 s = true) : exec .dialTick s = .next (dialTick s.passCycle) := by
  have hrun' : running 0 s.passCycle = true := hrun
  change within true (whenClocked (fun s => unlessStopped 0 dialTick s.passCycle) s) s = _
  rw [within_true, whenClocked_of (running_iff.1 hrun).1, unlessStopped_running hrun']

theorem exec_slewComplete {s : State} (hrun : running 0 s = true) : exec .slewComplete s = .next (slewComplete s) :=
  congrArg _ (whenClocked_running hrun _)

/-- Latching a fraction and answering change the registers and the output alone. -/
theorem State.latchFrac_emit_frame (who : Party) (o : Out) (s : State) :
    (s.latchFrac who).emit o =
      { s with regs := ((s.latchFrac who).emit o).regs, out := ((s.latchFrac who).emit o).out } := by
  obtain ⟨r, hr⟩ : ∃ r, s.latchFrac who = { s with regs := r } := ⟨_, rfl⟩
  rw [hr]
  rfl

/-- A reader that is no VF, and whose request reaches a ready device, gets the Dial and its fraction. -/
theorem exec_timeDialNsRead {who : Party} {s : State} (hacc : accepted who s = true) :
    exec (.timeDialNsRead who) s = .next ((s.latchFrac who).emit (.readData who (word s.dialNs))) := by
  obtain ⟨hwf, hreach, hvf, hpf⟩ := accepted_iff.1 hacc
  have hready : ¬(who.isHost = true ∧ ¬s.ready = true) := by
    rintro ⟨hhost, hnot⟩
    obtain ⟨p, hp⟩ := Option.isSome_iff_exists.1 hhost
    exact hnot (hpf p hp).1
  have hread : dialNsRead who s = (s.latchFrac who).emit (.readData who (word s.dialNs)) := by
    unfold dialNsRead
    split
    · exact absurd rfl (hvf _ _)
    · simp only [hreach, Bool.not_true, Bool.false_eq_true, if_false, if_neg hready]
  change within who.wf (dialNsRead who s) s = _
  rw [hwf, within_true, hread]

/-- Settles O4: dialTick_counts, for the tick and for a slew's last cycle, and a read's two effects. -/
theorem dialCountsAndReads : Obligations.DialCountsAndReads := by
  unfold Obligations.DialCountsAndReads
  constructor
  · intro s hrun hf hab hbc
    obtain ⟨ha, hb, hc, hslew, hclamp⟩ := dialTick_counts (s := s.passCycle) hf hab hbc
    refine ⟨⟨_, exec_dialTick hrun, ha, hb, hc, hclamp⟩, fun hne habs => ⟨_, exec_slewComplete hrun, ?_⟩⟩
    have hgo : s.time.slew ≠ 0 ∧ s.slewAbsorbed = s.time.slew ∧ (!s.time.dialFault) = true := ⟨hne, habs, by rw [hf]; rfl⟩
    rw [slewComplete, if_pos hgo, hslew]
    exact sub_eq_zero.2 habs.symm
  · intro who s hacc
    have hreg (k : Nat) : ((s.latchFrac who).emit (.readData who (word s.dialNs))).reg k = (s.latchFrac who).reg k :=
      State.reg_congr (State.emit_regs ..) k
    refine ⟨_, exec_timeDialNsRead hacc, ?_, ?_, ?_, fun k hk => ?_⟩
    · rw [State.latchFrac, State.emit, State.setReg_out]
    · rw [hreg, State.latchFrac, State.reg_setReg_self]
    · exact State.latchFrac_emit_frame ..
    · rw [hreg, State.latchFrac, State.reg_setReg_ne hk]

end Sys2Proof.Machine
end

section
namespace Sys2Proof.Machine

open Sys2Proof.Claims

/-! ## A step that is asked for (R44, R60) -/

section

variable (absolute : Bool) {s : State}

/-- The code of the first condition that refuses a GO, 0 where none does. -/
def State.stepRefusal (s : State) : Nat :=
  if s.time.pending.isSome then 5 else if s.stackMember then 4 else if s.anyOpen then 2 else if s.anyArmed then 3 else 0

/-- The 72-bit operand of a step or load. -/
def State.stepValue (s : State) : BitVec 72 :=
  BitVec.ofNat 72 ((s.reg Reg.TIME_STEP_LO).toNat + bits (s.reg Reg.TIME_STEP_HI) 7 0 * 2 ^ 64)

theorem bits_stepResult {code : Nat} (h : code < 16) (d : Dial) : bits (stepResult code d) 3 0 = code := by
  have hmod : (code + d.toNat / 2 ^ 16 * 2 ^ 8) % 2 ^ 64 % 16 = code := by omega
  simpa [bits, stepResult, word] using hmod

/-- A GO that nothing refuses leaves its request pending. -/
theorem stepGo_pends (h : s.stepRefusal = 0) : stepGo absolute s =
    { s with time := { s.time with pending := some ⟨absolute, s.stepValue⟩ } }.setReg Reg.TIME_STEP_RESULT
      (stepResult 0 s.dial) := by
  have hlow : bits (s.reg Reg.TIME_STEP_LO) 63 0 = (s.reg Reg.TIME_STEP_LO).toNat := by
    have := (s.reg Reg.TIME_STEP_LO).isLt
    simp only [bits]
    omega
  have hclear : s.time.pending.isSome = false ∧ s.stackMember = false ∧ s.anyOpen = false ∧ s.anyArmed = false := by
    revert h
    unfold State.stepRefusal
    split_ifs <;> simp_all
  obtain ⟨hp, hm, ho, ha⟩ := hclear
  simp only [stepGo, hp, hm, ho, ha, Bool.false_eq_true, if_false, hlow, State.stepValue]
  rfl

/-- A GO that a condition refuses says so, counts, and is logged. -/
theorem stepGo_refused (h : s.stepRefusal ≠ 0) : stepGo absolute s =
    ((s.setReg Reg.TIME_STEP_RESULT (stepResult s.stepRefusal s.dial)).count Reg.TIME_CNT_STEP_REFUSED).logEvent 0x101 1
      [s.stepRefusal] := by
  revert h
  unfold State.stepRefusal stepGo
  split_ifs <;> intro h
  · rfl
  · rfl
  · rfl
  · rfl
  · exact absurd rfl h

end

section

variable (l name : Nat) (s : State)

@[simp] theorem State.anyArmed_unstage : (s.unstage l name).anyArmed = s.anyArmed := by simp [State.anyArmed]

@[simp] theorem State.stepRefusal_unstage : (s.unstage l name).stepRefusal = s.stepRefusal := by
  simp [State.stepRefusal]

@[simp] theorem State.stepValue_unstage : (s.unstage l name).stepValue = s.stepValue := by
  rw [State.stepValue, State.reg_unstage_ne l name s (by decide), State.reg_unstage_ne l name s (by decide),
    State.stepValue]

end

/-- Storing one register changes that one. -/
theorem onlyRegs_setReg (k : Nat) (v : Word) (s : State) : onlyRegs [k] s (s.setReg k v) :=
  ⟨rfl, fun _ hj => State.reg_setReg_ne (by simpa using hj) v s⟩

section

variable {who : Party} {s : State} (hacc : accepted who s = true) (hrun : running 0 s = true)
include hacc hrun

theorem exec_step : exec (.step who) s = .next (stepGo false (discarded who Reg.TIME_STEP_CTL s)) :=
  within_pfWrite_whole hacc hrun _ _

theorem exec_absoluteLoad :
    exec (.absoluteLoad who) s = .next (stepGo true (discarded who Reg.TIME_STEP_CTL s)) :=
  within_pfWrite_whole hacc hrun _ _

end

/-- A GO that nothing refuses, after a staged half has been discarded. -/
theorem stepGo_discarded_pends (absolute : Bool) (who : Party) {s : State} (h : s.stepRefusal = 0) :
    let t := stepGo absolute (discarded who Reg.TIME_STEP_CTL s)
    bits (t.reg Reg.TIME_STEP_RESULT) 3 0 = 0 ∧
      onlyRegs [Reg.TIME_STEP_RESULT] { discarded who Reg.TIME_STEP_CTL s with
        time := { s.time with pending := some ⟨absolute, s.stepValue⟩ } } t := by
  dsimp only
  rw [stepGo_pends absolute (by simpa [discarded] using h), State.reg_setReg_self, bits_stepResult (by decide)]
  have honly := onlyRegs_setReg Reg.TIME_STEP_RESULT (stepResult 0 (discarded who Reg.TIME_STEP_CTL s).dial)
    { discarded who Reg.TIME_STEP_CTL s with time := { s.time with pending := some ⟨absolute, s.stepValue⟩ } }
  simpa [discarded] using honly

/-- A refused GO, after a staged half has been discarded. -/
theorem stepGo_discarded_refused (absolute : Bool) (who : Party) {s : State} (h : s.stepRefusal ≠ 0) :
    let t := stepGo absolute (discarded who Reg.TIME_STEP_CTL s)
    bits (t.reg Reg.TIME_STEP_RESULT) 3 0 = s.stepRefusal ∧ counts Reg.TIME_CNT_STEP_REFUSED 1 s t ∧ t.time = s.time ∧
      t = { discarded who Reg.TIME_STEP_CTL s with regs := t.regs, log := t.log } ∧
      ∀ k, k ∉ [Reg.TIME_STEP_RESULT, Reg.TIME_CNT_STEP_REFUSED, Reg.LOG_CNT_QUEUE_DROP] →
        t.reg k = (discarded who Reg.TIME_STEP_CTL s).reg k := by
  have hcode : (discarded who Reg.TIME_STEP_CTL s).stepRefusal = s.stepRefusal := by simp [discarded]
  have hlt : s.stepRefusal < 16 := by
    unfold State.stepRefusal
    split_ifs <;> decide
  dsimp only
  rw [stepGo_refused absolute (by rwa [hcode]), hcode]
  refine ⟨?_, ?_, ?_, ?_, fun k hk => ?_⟩
  · rw [State.reg_logEvent _ _ _ _ (by decide), State.reg_count_ne (by decide), State.reg_setReg_self,
      bits_stepResult hlt]
  · rw [counts_one_iff, State.reg_logEvent _ _ _ _ (by decide), State.reg_count_self, State.reg_setReg_ne (by decide),
      discarded, State.reg_unstage_ne _ _ _ (by decide)]
  · simp [State.count_eq, discarded]
  · rw [State.logEvent_frame, State.count_eq]
    generalize stepResult s.stepRefusal _ = v
    rfl
  · simp only [List.mem_cons, List.not_mem_nil, or_false, not_or] at hk
    obtain ⟨hresult, hcount, hdrop⟩ := hk
    rw [State.reg_logEvent _ _ _ _ hdrop, State.reg_count_ne hcount, State.reg_setReg_ne hresult]

/-! ## A step that completes (R45, R46) -/

/-- The count that a step or load gives the Dial. -/
def State.loadTarget (s : State) (r : StepReq) : DialCount :=
  if r.absolute then r.value.count else BitVec.ofNat 96 (s.time.voted.toNat + r.value.toNat * 2 ^ 24)

/-- The Dial copies hold one value, the slew is gone, and the step is counted; beyond that the audit, the discipline and
what is kept for later change. -/
structure DialLoaded (r : StepReq) (s t : State) : Prop where
  a : t.time.a = s.loadTarget r
  b : t.time.b = s.loadTarget r
  c : t.time.c = s.loadTarget r
  slew : t.time.slew = 0
  pending : t.time.pending = s.time.pending
  dialFault : r.absolute = true → t.time.dialFault = false
  openWait : t.openWait = s.openWait
  counted : counts Reg.TIME_CNT_STEPS 1 s t

namespace DialLoaded

variable {r : StepReq} {s t u : State} (h : DialLoaded r s t)
include h

theorem keep (htime : u.time = { t.time with disc := u.time.disc, byRefLoss := u.time.byRefLoss })
    (hwait : u.openWait = t.openWait) (hreg : u.reg Reg.TIME_CNT_STEPS = t.reg Reg.TIME_CNT_STEPS) :
    DialLoaded r s u where
  a := by rw [htime]; exact h.a
  b := by rw [htime]; exact h.b
  c := by rw [htime]; exact h.c
  slew := by rw [htime]; exact h.slew
  pending := by rw [htime]; exact h.pending
  dialFault hr := by rw [htime]; exact h.dialFault hr
  openWait := hwait.trans h.openWait
  counted := counts_one_iff.2 (hreg.trans (counts_one_iff.1 h.counted))

theorem discOnly (hd : DiscOnly t u) : DialLoaded r s u :=
  h.keep hd.time (by rw [hd.frame]) (hd.reg _ (by decide) (by decide))

theorem auditOnly (ha : AuditOnly t u) : DialLoaded r s u :=
  h.keep (by rw [ha.frame]) (by rw [ha.frame]) (ha.reg _ (by decide))

end DialLoaded

theorem State.loadDial_loaded (r : StepReq) (s : State) : DialLoaded r s (s.loadDial r) := by
  unfold State.loadDial
  extract_lets before gone c _ loaded _ _ _ _ _ stale t
  have hfault : stale.time.dialFault = (s.time.dialFault && !r.absolute) := rfl
  have hcount : DialLoaded r s (stale.count Reg.TIME_CNT_STEPS) :=
    ⟨rfl, rfl, rfl, rfl, rfl, fun hr => hfault.trans (by simp [hr]), rfl,
      counts_one_iff.2 (State.reg_count_self _ stale)⟩
  have ht : DialLoaded r s t := hcount.auditOnly ((AuditOnly.refl _).auditDial ..)
  split
  · exact ht.discOnly ((DiscOnly.refl t).setDisc _ _).refSettle
  · exact ht

theorem toNat_setBits_low {w hi : Nat} (x : BitVec w) (v : Nat) (h : hi < w) :
    (setBits x hi 0 v).toNat % 2 ^ (hi + 1) = v % 2 ^ (hi + 1) := by
  have hdvd : 2 ^ (hi + 1) ∣ 2 ^ w := Nat.pow_dvd_pow 2 h
  have hrest : x.toNat - x.toNat % 2 ^ (hi + 1) = 2 ^ (hi + 1) * (x.toNat / 2 ^ (hi + 1)) := by
    have := Nat.div_add_mod x.toNat (2 ^ (hi + 1))
    omega
  rw [setBits, BitVec.toNat_ofNat, Nat.mod_mod_of_dvd _ hdvd]
  simp only [bits, pow_zero, Nat.div_one, mul_one, Nat.sub_zero, hrest, Nat.mul_add_mod, Nat.mod_mod]

/-- A low field of a word reads what was put in it. -/
theorem bits_setBits_low {w hi : Nat} (x : BitVec w) (v : Nat) (h : hi < w) :
    bits (setBits x hi 0 v) hi 0 = v % 2 ^ (hi + 1) := by
  simpa [bits] using toNat_setBits_low x v h

/-- The UTC offset stands in two registers. -/
theorem utcApply_onlyRegs (s : State) : onlyRegs [Reg.TIME_UTC_OFFSET, Reg.TIME_UTC_EFFECTIVE] s (utcApply s) := by
  unfold utcApply
  dsimp only
  split
  · refine ⟨rfl, fun k hk => ?_⟩
    obtain ⟨hoffset, heffective⟩ : k ≠ Reg.TIME_UTC_OFFSET ∧ k ≠ Reg.TIME_UTC_EFFECTIVE := by simpa using hk
    rw [State.reg_setReg_ne heffective, State.modReg_eq, State.reg_setReg_ne hoffset]
  · exact ⟨rfl, fun _ _ => rfl⟩

/-- A pending step completes: the Dial is loaded, nothing is pending, and the result reads DONE. -/
theorem stepComplete_loads {r : StepReq} {s : State} (h : s.time.pending = some r) :
    let u := { s with time := { s.time with pending := none } }
    DialLoaded r u (stepComplete s) ∧ bits ((stepComplete s).reg Reg.TIME_STEP_RESULT) 3 0 = 1 := by
  intro u
  have hcomplete : stepComplete s = utcApply ((u.loadDial r).setField Reg.TIME_STEP_RESULT 3 0 1) := by
    simp only [stepComplete, h, u]
  have hload := State.loadDial_loaded r u
  generalize u.loadDial r = w at hload hcomplete
  obtain ⟨hframe, hreg⟩ := utcApply_onlyRegs (w.setField Reg.TIME_STEP_RESULT 3 0 1)
  rw [← hcomplete] at hframe hreg
  have hsteps : (w.setField Reg.TIME_STEP_RESULT 3 0 1).reg Reg.TIME_CNT_STEPS = w.reg Reg.TIME_CNT_STEPS :=
    State.reg_setReg_ne (by decide) _ w
  constructor
  · exact hload.keep (by rw [hframe]; rfl) (by rw [hframe]; rfl) ((hreg _ (by decide)).trans hsteps)
  · rw [hreg _ (by decide), State.setField, State.modReg_eq, State.reg_setReg_self, bits_setBits_low _ _ (by decide)]
    rfl

/-- With nothing waiting for it, a step completes and that is all of Dial's part. -/
theorem stepDone_of_no_wait {r : StepReq} {s : State} (h : s.time.pending = some r) (hwait : s.openWait = []) :
    (stepDone s).time = (stepComplete s).time ∧ (stepDone s).regs = (stepComplete s).regs := by
  have hnone : (stepComplete s).openWait = [] := (stepComplete_loads h).1.openWait.trans hwait
  simp [stepDone, h, hnone, decideWaiting, decideOpens]

theorem exec_stepComplete {s : State} (hrun : running 0 s = true) : exec .stepComplete s = .next (stepDone s) :=
  congrArg _ (whenClocked_running hrun _)

/-- Settles O5: a GO pends (stepGo_discarded_pends) or is refused (stepGo_discarded_refused), and a pending one completes
(stepComplete_loads). -/
theorem stepsRunOrAreRefused : Obligations.StepsRunOrAreRefused := by
  unfold Obligations.StepsRunOrAreRefused
  refine ⟨fun s hrun => ⟨fun who hacc hp hm ho ha => ?_, fun r hp hwait => ?_⟩, fun who s hacc hrun hany c hc => ?_⟩
  · have hfree : s.stepRefusal = 0 := by simp [State.stepRefusal, hp, hm, ho, ha]
    exact ⟨⟨_, exec_step hacc hrun, stepGo_discarded_pends false who hfree⟩,
      ⟨_, exec_absoluteLoad hacc hrun, stepGo_discarded_pends true who hfree⟩⟩
  · obtain ⟨hload, hresult⟩ := stepComplete_loads hp
    obtain ⟨htime, hregs⟩ := stepDone_of_no_wait hp hwait
    refine ⟨_, exec_stepComplete hrun, ?_⟩
    rw [htime, counts_one_iff, State.reg_congr hregs, State.reg_congr hregs]
    exact ⟨hload.pending, hload.slew, counts_one_iff.1 hload.counted, hresult, hload.a, hload.b.trans hload.a.symm,
      hload.c.trans hload.a.symm, hload.dialFault⟩
  · have hrefused : s.stepRefusal ≠ 0 ∧ s.stepRefusal =
        if s.time.pending.isSome then 5 else if s.stackMember then 4 else if s.anyOpen then 2 else 3 := by
      revert hany
      unfold State.stepRefusal
      split_ifs <;> simp_all
    obtain ⟨hne, hcode⟩ := hrefused
    rw [← hcode]
    obtain rfl | rfl : c = .step who ∨ c = .absoluteLoad who := by simpa using hc
    · exact ⟨_, exec_step hacc hrun, stepGo_discarded_refused false who hne⟩
    · exact ⟨_, exec_absoluteLoad hacc hrun, stepGo_discarded_refused true who hne⟩

end Sys2Proof.Machine
end

section
namespace Sys2Proof.Machine

open Sys2Proof.Claims

/-! ## What a voter leaves of Dial's state (R368) -/

theorem State.time_foldl {α : Type} {f : State → α → State} (hf : ∀ s x, (f s x).time = s.time) (xs : List α)
    (s : State) : (xs.foldl f s).time = s.time := by
  induction xs generalizing s with
  | nil => rfl
  | cons x xs ih => exact (ih (f s x)).trans (hf s x)

theorem State.noteHalt_time (s : State) (d : Nat) : (s.noteHalt d).time = s.time := State.logEvent_time ..

@[simp] theorem State.noteHalts_time (s : State) : s.noteHalts.time = s.time := State.time_foldl State.noteHalt_time _ s

@[simp] theorem State.split_time (k i inst : Nat) (s : State) : (s.split k i inst).time = s.time := by
  unfold State.split
  split
  · rfl
  · extract_lets _ marked logged
    have hlog : logged.time = s.time := State.logEvent_time ..
    split
    · exact (State.noteHalts_time logged).trans hlog
    · exact hlog

@[simp] theorem voteScrub_time (k : Nat) (s : State) : (voteScrub k s).time = s.time := by
  unfold voteScrub
  split
  · rfl
  · dsimp only
    repeat' split
    · rfl
    · rfl
    · exact State.split_time ..

@[simp] theorem State.voteBlock_time (i : Nat) (s : State) : (s.voteBlock i).time = s.time :=
  State.time_foldl (fun u k => voteScrub_time k u) _ s

/-- A block's effect happens after its voters have compared its registers, or not at all. -/
theorem whenClocked_unlessStopped_cases (b : Nat) (f : State → State) (s : State) :
    whenClocked (unlessStopped b f) s = s ∨ whenClocked (unlessStopped b f) s = s.voteBlock b ∨
      whenClocked (unlessStopped b f) s = f (s.voteBlock b) := by
  unfold whenClocked unlessStopped
  dsimp only
  repeat' split
  · exact .inl rfl
  · exact .inr (.inl rfl)
  · exact .inr (.inr rfl)
  · exact .inl rfl

/-! ## Counting beside the mode's registers -/

section

variable {k : Nat} (v : Word) (s : State)

theorem State.voted_setReg_ne {j : Nat} (h : j ≠ k) : (s.setReg k v).voted j = s.voted j := by
  simp [State.voted, State.regB, State.regC, State.reg_setReg_ne h]

theorem State.stackMember_setReg (h : Reg.GAL_CFG ≠ k) : (s.setReg k v).stackMember = s.stackMember := by
  rw [State.stackMember, State.reg_setReg_ne h, State.setReg_gal, State.stackMember]

theorem State.timeSource_setReg (h : Reg.TIME_CFG ≠ k) : (s.setReg k v).timeSource = s.timeSource := by
  rw [State.timeSource, State.voted_setReg_ne v s h, State.timeSource]

theorem State.pllRef_setReg (h : Reg.TIME_CFG ≠ k) : (s.setReg k v).pllRef = s.pllRef := by
  rw [State.pllRef, State.voted_setReg_ne v s h, State.pllRef]

end

/-! ## The reference (R39) -/

/-- The reference, and the lock of its PLL, as they are in the Dial's state. -/
def State.reference (s : State) : Bool × Bool := (s.time.refPresent, s.time.pllLocked)

theorem DiscOnly.reference {s t : State} (h : DiscOnly s t) : t.reference = s.reference := by
  rw [State.reference, h.time]
  rfl

/-- What a block does to other things leaves the reference as it is, whether it runs or not. -/
theorem reference_whenClocked {f : State → State} (hf : ∀ s, (f s).reference = s.reference) (b : Nat) (s : State) :
    (whenClocked (unlessStopped b f) s).reference = s.reference := by
  have hvote : (s.voteBlock b).reference = s.reference := by simp [State.reference]
  obtain h | h | h := whenClocked_unlessStopped_cases b f s
  · rw [h]
  · rw [h, hvote]
  · rw [h, hf, hvote]

/-- The reference gone, its PLL unlocked unless it runs without. -/
def State.withoutRef (s : State) : State :=
  { s with time := { s.time with refPresent := false, pllLocked := s.time.pllLocked && s.pllRef } }

/-- The reference there, its PLL locked. -/
def State.withRef (s : State) : State := { s with time := { s.time with refPresent := true, pllLocked := true } }

theorem refLoss_of_present {s : State} (h : s.time.refPresent = true) : refLoss s =
    whenClocked (unlessStopped 0 fun u => (u.count Reg.TIME_CNT_REF_LOSS).refSettle) s.withoutRef := by
  simp only [refLoss, h, Bool.not_true, Bool.false_eq_true, if_false]
  rfl

theorem refReturn_eq (s : State) : refReturn s = whenClocked (unlessStopped 0 State.refSettle) s.withRef := rfl

section

variable {s : State} (hpresent : s.time.refPresent = true)
include hpresent

theorem refPresent_refLoss : (refLoss s).time.refPresent = false := by
  rw [refLoss_of_present hpresent]
  have hkeep (u : State) : (u.count Reg.TIME_CNT_REF_LOSS).refSettle.reference = u.reference :=
    (DiscOnly.refl _).refSettle.reference
  exact congrArg Prod.fst (reference_whenClocked hkeep 0 s.withoutRef)

variable (hrun : running 0 s = true)
include hrun

theorem refLoss_of_running : refLoss s = (s.withoutRef.count Reg.TIME_CNT_REF_LOSS).refSettle := by
  have hrun' : running 0 s.withoutRef = true := hrun
  rw [refLoss_of_present hpresent, whenClocked_running hrun']

theorem counts_refLoss : counts Reg.TIME_CNT_REF_LOSS 1 s (refLoss s) := by
  rw [refLoss_of_running hpresent hrun, counts_one_iff, (DiscOnly.refl _).refSettle.reg _ (by decide) (by decide),
    State.reg_count_self]
  rfl

/-- The loss of the reference that the mode needs ends ACQUIRE and LOCKED. -/
theorem disc_refLoss (hm : s.stackMember = false) (hs : s.timeSource ≠ 0) (hp : s.pllRef = false)
    (hd : s.time.disc = .acquire ∨ s.time.disc = .locked) : (refLoss s).time.disc = .holdover := by
  rw [refLoss_of_running hpresent hrun, State.count_eq]
  exact State.disc_refSettle_of_lost ((State.stackMember_setReg _ _ (by decide)).trans hm)
    ((State.timeSource_setReg _ _ (by decide)).trans_ne hs) ((State.pllRef_setReg _ _ (by decide)).trans hp) rfl hd

theorem disc_refLoss_of_stackMember (hm : s.stackMember = true) : (refLoss s).time.disc = s.time.disc := by
  rw [refLoss_of_running hpresent hrun, State.count_eq, State.refSettle_of_stackMember]
  · rfl
  · exact (State.stackMember_setReg _ _ (by decide)).trans hm

end

theorem reference_refReturn (s : State) : (refReturn s).reference = (true, true) :=
  reference_whenClocked (fun _ => (DiscOnly.refl _).refSettle.reference) 0 s.withRef

theorem refReturn_of_running {s : State} (hrun : running 0 s = true) : refReturn s = s.withRef.refSettle := by
  have hrun' : running 0 s.withRef = true := hrun
  rw [refReturn_eq, whenClocked_running hrun']

/-- The reference's return ends the HOLDOVER that its loss began. -/
theorem disc_refReturn {s : State} (hrun : running 0 s = true) (hm : s.stackMember = false)
    (hd : s.time.disc = .holdover) (hb : s.time.byRefLoss = true) : (refReturn s).time.disc = .acquire := by
  rw [refReturn_of_running hrun]
  exact State.disc_refSettle_of_returned hm (by simp [State.refIsPresent, State.withRef]) hd hb

/-! ## PPS_IN (R40, R41) -/

/-- What an accepted edge leaves in its registers stays: its error, its count, and that it came. -/
structure PpsKept (s t : State) : Prop where
  error : t.reg Reg.TIME_PPS_ERR = s.reg Reg.TIME_PPS_ERR
  edges : t.reg Reg.TIME_CNT_PPS_EDGES = s.reg Reg.TIME_CNT_PPS_EDGES
  seen : t.time.ppsSeen = s.time.ppsSeen

namespace PpsKept

theorem refl (s : State) : PpsKept s s := ⟨rfl, rfl, rfl⟩

section

variable {s t : State} (h : PpsKept s t)
include h

theorem trans {u : State} (h' : PpsKept t u) : PpsKept s u :=
  ⟨h'.error.trans h.error, h'.edges.trans h.edges, h'.seen.trans h.seen⟩

theorem auditOnly {u : State} (ha : AuditOnly t u) : PpsKept s u :=
  h.trans ⟨ha.reg _ (by decide), ha.reg _ (by decide), by rw [ha.frame]⟩

theorem discOnly {u : State} (hd : DiscOnly t u) : PpsKept s u :=
  h.trans ⟨hd.reg _ (by decide) (by decide), hd.reg _ (by decide) (by decide), by rw [hd.time]⟩

theorem setReg {k : Nat} (he : Reg.TIME_PPS_ERR ≠ k) (hc : Reg.TIME_CNT_PPS_EDGES ≠ k) (v : Word) :
    PpsKept s (t.setReg k v) :=
  h.trans ⟨State.reg_setReg_ne he v t, State.reg_setReg_ne hc v t, rfl⟩

theorem count {k : Nat} (he : Reg.TIME_PPS_ERR ≠ k) (hc : Reg.TIME_CNT_PPS_EDGES ≠ k) : PpsKept s (t.count k) :=
  h.setReg he hc _

theorem storeFreq (v : Nat) : PpsKept s (t.storeFreq v) :=
  auditOnly (count (h.setReg (by decide) (by decide) _) (by decide) (by decide)) (t.storeFreq_auditOnly v)

theorem addPhase (v : Int) : PpsKept s (t.addPhase v) :=
  have hslew : PpsKept s (t.slewBy v) := h.trans ⟨rfl, rfl, rfl⟩
  (hslew.count (by decide) (by decide)).auditOnly (t.addPhase_auditOnly v)

/-- The loop steers and locks. -/
theorem ppsSteer (e : Int) : PpsKept s (t.ppsSteer e) := by
  unfold State.ppsSteer
  extract_lets good _ counted f steered
  have hcounted : PpsKept s counted := h.trans ⟨rfl, rfl, rfl⟩
  have hsteered : PpsKept s steered := by
    unfold steered
    split
    · have hdrawn : PpsKept s { counted with free := counted.free + 1 } := hcounted.trans ⟨rfl, rfl, rfl⟩
      exact (hdrawn.storeFreq _).addPhase _
    · exact hcounted
  repeat' split
  · exact hsteered
  · exact hsteered.discOnly ((DiscOnly.refl _).setDisc _ _)
  · exact hsteered.discOnly (DiscOnly.refl _).relock
  · exact hsteered

end

end PpsKept

section

variable {s : State}

/-- An edge's error stored, the edge counted. -/
def State.edgeTaken (e : Int) (s : State) : State :=
  let t := (s.setReg Reg.TIME_PPS_ERR (word (BitVec.ofInt 32 e).toNat)).count Reg.TIME_CNT_PPS_EDGES
  { t with time := { t.time with ppsSeen := true } }

/-- The distance of an edge's instant from the nearest whole second. -/
def State.edgeError (s : State) (strobe : Dial) (code : Byte) : Int :=
  pps_error (((s.strobeDial strobe).toNat + s.tdc 256 code : Nat) - signed 32 (bits (s.reg Reg.TIME_PPS_CAL) 31 0))

/-- A selected edge that is no outlier is taken, and in PPS mode it steers. -/
theorem ppsEdge_taken {falling : Bool} {strobe : Dial} {code : Byte} (hsel : falling = bit (s.voted Reg.TIME_CFG) 4)
    (hnear : s.timeSource = 1 → s.stackMember = false → (s.edgeError strobe code).natAbs ≤ 25600) :
    PpsKept (s.edgeTaken (s.edgeError strobe code)) (ppsEdge falling strobe code s) := by
  have hin : ¬((decide (s.timeSource = 1) && !s.stackMember) = true ∧
      100 * nsUnits < (s.edgeError strobe code).natAbs) := by
    rintro ⟨hloop, hfar⟩
    obtain ⟨hs, hm⟩ : s.timeSource = 1 ∧ s.stackMember = false := by simpa using hloop
    exact absurd (hnear hs hm) (Nat.not_le.2 hfar)
  unfold ppsEdge
  rw [if_neg (by simp [hsel])]
  extract_lets cal e loop stored _ _ taken
  rw [if_neg (show ¬(loop = true ∧ 100 * nsUnits < e.natAbs) from hin)]
  have htaken : PpsKept (s.edgeTaken e) taken := .refl _
  split
  · exact htaken.ppsSteer e
  · exact htaken

theorem State.edgeTaken_regs (e : Int) (s : State) : (s.edgeTaken e).regs =
    ((s.setReg Reg.TIME_PPS_ERR (word (BitVec.ofInt 32 e).toNat)).count Reg.TIME_CNT_PPS_EDGES).regs := rfl

theorem State.reg_edgeTaken_error (e : Int) (s : State) :
    (s.edgeTaken e).reg Reg.TIME_PPS_ERR = word (BitVec.ofInt 32 e).toNat := by
  rw [State.reg_congr (State.edgeTaken_regs e s), State.reg_count_ne (by decide), State.reg_setReg_self]

theorem counts_edgeTaken (e : Int) (s : State) : counts Reg.TIME_CNT_PPS_EDGES 1 s (s.edgeTaken e) := by
  rw [counts_one_iff, State.reg_congr (State.edgeTaken_regs e s), State.reg_count_self,
    State.reg_setReg_ne (by decide)]

/-- The loop's counts after a second that was missing or an outlier. -/
def State.missed (s : State) : State :=
  { s with time := { s.time with ppsBad := s.time.ppsBad + 1, ppsGood := 0, ppsSeen := false } }

/-- The third such second in a row ends LOCKED. -/
theorem State.ppsMiss_eq (s : State) :
    s.ppsMiss = if s.time.disc = .locked ∧ 3 ≤ s.time.ppsBad + 1 then s.missed.setDisc .holdover false else s.missed :=
  rfl

theorem State.ppsMiss_discOnly (s : State) : DiscOnly s.missed s.ppsMiss := by
  rw [State.ppsMiss_eq]
  split
  · exact (DiscOnly.refl _).setDisc _ _
  · exact .refl _

theorem State.ppsBad_ppsMiss (s : State) : s.ppsMiss.time.ppsBad = s.time.ppsBad + 1 := by
  rw [s.ppsMiss_discOnly.time]
  rfl

/-- The consecutive outliers forgotten. -/
def State.noOutliers (s : State) : State := { s with time := { s.time with outliers := [] } }

/-- In PPS mode a Dial second without an edge is counted and missed. -/
theorem ppsMissing_eq (hs : s.timeSource = 1) (hm : s.stackMember = false) :
    ppsMissing s = (s.noOutliers.count Reg.TIME_CNT_PPS_MISSING).ppsMiss := by
  have hcount : (s.noOutliers.count Reg.TIME_CNT_PPS_MISSING).stackMember = false :=
    (State.stackMember_setReg _ _ (by decide)).trans hm
  unfold ppsMissing
  rw [if_pos hs]
  exact if_neg (Bool.eq_false_iff.1 hcount)

theorem ppsOutEdge_of_ne (h : s.ppsOutLevel ≠ s.time.ppsOut) : ppsOutEdge s =
    { s with time := { s.time with ppsOut := s.ppsOutLevel } }.emit (.pin "PPS_OUT" s.ppsOutLevel) :=
  if_neg h

variable (hrun : running 0 s = true)
include hrun

theorem exec_ppsEdge (falling : Bool) (strobe : Dial) (code : Byte) :
    exec (.ppsEdge falling strobe code) s = .next (ppsEdge falling strobe code s) :=
  congrArg _ (whenClocked_running hrun _)

theorem exec_ppsMissing : exec .ppsMissing s = .next (ppsMissing s) := congrArg _ (whenClocked_running hrun _)

theorem exec_ppsOutEdge : exec .ppsOutEdge s = .next (ppsOutEdge s) := congrArg _ (whenClocked_running hrun _)

end

/-- Settles O6: the reference's loss and return (disc_refLoss, disc_refReturn), an edge (ppsEdge_taken), a second without
one (ppsMissing_eq), and the level of PPS_OUT. -/
theorem referenceAndPpsFollowed : Obligations.ReferenceAndPpsFollowed := by
  unfold Obligations.ReferenceAndPpsFollowed
  refine ⟨fun s hr => ⟨_, rfl, refPresent_refLoss hr, fun hrun => ⟨counts_refLoss hr hrun, ?_, ?_⟩⟩,
    fun s => ⟨_, rfl, congrArg Prod.fst (reference_refReturn s), congrArg Prod.snd (reference_refReturn s),
      fun hrun hm hd hb => disc_refReturn hrun hm hd hb⟩, fun s hrun => ⟨?edge, ?missing, ?output⟩⟩
  · exact fun hm hs hp hd => disc_refLoss hr hrun hm hs hp hd
  · exact fun hm => disc_refLoss_of_stackMember hr hrun hm
  case edge =>
    intro falling strobe code hsel e hnear
    obtain ⟨herror, hedges, hseen⟩ := ppsEdge_taken hsel hnear
    refine ⟨_, exec_ppsEdge hrun falling strobe code, herror.trans (s.reg_edgeTaken_error e), ?_, hseen⟩
    exact counts_one_iff.2 (hedges.trans (counts_one_iff.1 (counts_edgeTaken e s)))
  case missing =>
    intro hs hm
    refine ⟨_, exec_ppsMissing hrun, ?_⟩
    rw [ppsMissing_eq hs hm, counts_one_iff]
    refine ⟨?_, State.ppsBad_ppsMiss _, fun hd hbad => ?_⟩
    · rw [(State.ppsMiss_discOnly _).reg _ (by decide) (by decide)]
      exact State.reg_count_self _ s.noOutliers
    · rw [State.ppsMiss_eq, if_pos ⟨hd, Nat.succ_le_succ hbad⟩]
      exact State.disc_setDisc ..
  case output =>
    intro hlevel
    refine ⟨_, exec_ppsOutEdge hrun, ?_⟩
    rw [ppsOutEdge_of_ne hlevel]
    exact ⟨rfl, rfl, rfl⟩

end Sys2Proof.Machine
end

section
namespace Sys2Proof.Machine

open Sys2Proof.Claims

/-! ## Reset (R36) -/

/-- Settles O57: State.reset lists nothing, so that every register and record reads as its default. -/
theorem resetLeavesDeviceClosed : Obligations.ResetLeavesDeviceClosed := by
  unfold Obligations.ResetLeavesDeviceClosed
  have hclosed (d : Nat) : (State.reset.dom d).phase = .closed := rfl
  have hopen : State.reset.anyOpen = false := by simp [State.anyOpen, State.isOpen, hclosed]
  exact ⟨rfl, rfl, rfl, hopen, rfl, fun _ => ⟨rfl, rfl, rfl⟩, hclosed, fun _ => rfl⟩

/-! ## The UTC offset (R48) -/

theorem exec_utcOffsetApply {s : State} (hrun : running 0 s = true) : exec .utcOffsetApply s = .next (utcApply s) :=
  congrArg _ (whenClocked_running hrun _)

/-- An offset in time is copied, and its instant cleared. -/
theorem utcApply_due {s : State} (hset : s.reg Reg.TIME_UTC_EFFECTIVE ≠ 0)
    (hdue : (s.reg Reg.TIME_UTC_EFFECTIVE).toNat ≤ s.dialNs / nsPerSecond) : utcApply s =
      (s.modReg Reg.TIME_UTC_OFFSET fun v => setBits v 15 0 (bits v 31 16)).setReg Reg.TIME_UTC_EFFECTIVE 0 := by
  have hne : (s.reg Reg.TIME_UTC_EFFECTIVE).toNat ≠ 0 := fun h => hset (BitVec.eq_of_toNat_eq h)
  exact if_pos ⟨hne, hdue⟩

theorem bits_utcApply_current {s : State} (hset : s.reg Reg.TIME_UTC_EFFECTIVE ≠ 0)
    (hdue : (s.reg Reg.TIME_UTC_EFFECTIVE).toNat ≤ s.dialNs / nsPerSecond) :
    bits ((utcApply s).reg Reg.TIME_UTC_OFFSET) 15 0 = bits (s.reg Reg.TIME_UTC_OFFSET) 31 16 := by
  rw [utcApply_due hset hdue, State.reg_setReg_ne (by decide), State.modReg_eq, State.reg_setReg_self,
    bits_setBits_low _ _ (by decide), Nat.mod_eq_of_lt (bits_lt _ _ _)]

/-! ## Lane calibration (R55, R56) -/

/-- One lane's part of recalUpdate. -/
def recalLane (octet : Nat) (s : State) (x : Int × Nat) : State :=
  let k := Reg.TIME_LANE_TEMP (8 * octet + x.2)
  (s.setReg k (word (BitVec.ofInt 16 (recalStep (signed 16 (bits (s.reg k) 15 0)) x.1)).toNat)).count
    Reg.TIME_CNT_RECAL_UPDATES

theorem recalUpdate_eq {s : State} (h : s.recalEn = true) (octet : Nat) (target : List Int) :
    recalUpdate octet target s = (target.take 8).zipIdx.foldl (recalLane octet) s := by
  simp only [recalUpdate, h, Bool.not_true, Bool.false_eq_true, if_false]
  rfl

theorem laneTemp_inj {m n : Nat} : Reg.TIME_LANE_TEMP m = Reg.TIME_LANE_TEMP n ↔ m = n := by
  unfold Reg.TIME_LANE_TEMP
  omega

theorem laneTemp_ne_recalCount {n : Nat} (h : n < 256) : Reg.TIME_LANE_TEMP n ≠ Reg.TIME_CNT_RECAL_UPDATES := by
  unfold Reg.TIME_LANE_TEMP Reg.TIME_CNT_RECAL_UPDATES
  omega

/-- The correction that a lane's register holds. -/
def State.laneTemp (s : State) (n : Nat) : Int := signed 16 (bits (s.reg (Reg.TIME_LANE_TEMP n)) 15 0)

theorem State.laneTemp_congr {s t : State} {n : Nat}
    (h : t.reg (Reg.TIME_LANE_TEMP n) = s.reg (Reg.TIME_LANE_TEMP n)) : t.laneTemp n = s.laneTemp n := by
  rw [State.laneTemp, h, State.laneTemp]

/-- A correction within ±2.0 ns is stored whole. -/
theorem signed_word_recalStep (old target : Int) :
    signed 16 (bits (word (BitVec.ofInt 16 (recalStep old target)).toNat) 15 0) = recalStep old target := by
  have hlt := (BitVec.ofInt 16 (recalStep old target)).isLt
  have hbits : bits (word (BitVec.ofInt 16 (recalStep old target)).toNat) 15 0 =
      (BitVec.ofInt 16 (recalStep old target)).toNat := by
    simp only [bits, word, BitVec.toNat_ofNat]
    omega
  have hbounds : -512 ≤ recalStep old target ∧ recalStep old target ≤ 512 := by
    unfold recalStep clampInt
    omega
  rw [hbits, signed, BitVec.ofNat_toNat, BitVec.setWidth_eq, BitVec.toInt_ofInt]
  exact Int.bmod_eq_of_le (by omega) (by omega)

theorem laneTemp_recalLane {octet i : Nat} (hlane : 8 * octet + i < 256) (s : State) (x : Int × Nat) :
    (recalLane octet s x).laneTemp (8 * octet + i) =
      if x.2 = i then recalStep (s.laneTemp (8 * octet + i)) x.1 else s.laneTemp (8 * octet + i) := by
  have hcount (t : State) : (t.count Reg.TIME_CNT_RECAL_UPDATES).laneTemp (8 * octet + i) = t.laneTemp (8 * octet + i) :=
    State.laneTemp_congr (State.reg_count_ne (laneTemp_ne_recalCount hlane) t)
  rw [recalLane, hcount]
  split
  · next h =>
    rw [h, State.laneTemp, State.reg_setReg_self, signed_word_recalStep, State.laneTemp]
  · next h =>
    exact State.laneTemp_congr (State.reg_setReg_ne (by rw [Ne, laneTemp_inj]; omega) _ s)

/-- The lanes from j on leave those below it alone. -/
theorem laneTemp_foldl_recalLane_below {octet i j : Nat} (hlane : 8 * octet + i < 256) (h : i < j) (xs : List Int)
    (s : State) : ((xs.zipIdx j).foldl (recalLane octet) s).laneTemp (8 * octet + i) = s.laneTemp (8 * octet + i) := by
  induction xs generalizing j s with
  | nil => rfl
  | cons x xs ih =>
    rw [List.zipIdx_cons, List.foldl_cons, ih (Nat.lt_succ_of_lt h), laneTemp_recalLane hlane, if_neg (Nat.ne_of_gt h)]

/-- The lanes from j on are corrected, each once. -/
theorem laneTemp_foldl_recalLane {octet j n : Nat} (hlane : 8 * octet + (j + n) < 256) {xs : List Int} {x : Int}
    (hx : xs[n]? = some x) (s : State) : ((xs.zipIdx j).foldl (recalLane octet) s).laneTemp (8 * octet + (j + n)) =
      recalStep (s.laneTemp (8 * octet + (j + n))) x := by
  induction xs generalizing j n s with
  | nil => simp at hx
  | cons y ys ih =>
    rw [List.zipIdx_cons, List.foldl_cons]
    cases n with
    | zero =>
      obtain rfl : y = x := by simpa using hx
      rw [laneTemp_foldl_recalLane_below hlane (Nat.lt_succ_self j), laneTemp_recalLane hlane]
      exact if_pos rfl
    | succ n =>
      have hshift : j + (n + 1) = j + 1 + n := by omega
      rw [hshift] at hlane ⊢
      rw [ih hlane (by simpa using hx), laneTemp_recalLane hlane, if_neg (by omega)]

theorem exec_recalUpdate {octet : Nat} {s : State} (h : octet < 32) (target : List Int) (hrun : running 0 s = true) :
    exec (.recalUpdate octet target) s = .next (recalUpdate octet target s) := by
  change within (decide (octet < 32)) (whenClocked (unlessStopped 0 (recalUpdate octet target)) s) s = _
  rw [decide_eq_true h, within_true, whenClocked_running hrun]

/-- Every lane of the octet that has a measured value moves toward it. -/
theorem laneTemp_recalUpdate {octet i : Nat} {target : List Int} {x : Int} {s : State} (hen : s.recalEn = true)
    (hoctet : octet < 32) (hi : i < 8) (hx : target[i]? = some x) :
    (recalUpdate octet target s).laneTemp (8 * octet + i) = recalStep (s.laneTemp (8 * octet + i)) x := by
  have hfold := laneTemp_foldl_recalLane (octet := octet) (j := 0) (n := i) (by omega)
    (xs := target.take 8) (x := x) (by rwa [List.getElem?_take_of_lt hi]) s
  rwa [recalUpdate_eq hen, ← Nat.zero_add i]

theorem exec_tdcRecal {lane : Nat} {table : List Byte} {s : State} (hen : s.recalEn = true) (h : lane < 257)
    (hrun : running 0 s = true) : exec (.tdcRecal lane table) s =
      .next { s with time := { s.time with tdc := Store.put (fun _ => []) lane table s.time.tdc } } := by
  change within (decide (lane < 257)) (whenClocked (unlessStopped 0 (tdcRecal lane table)) s) s = _
  rw [decide_eq_true h, within_true, whenClocked_running hrun]
  simp only [tdcRecal, hen, Bool.not_true, Bool.false_eq_true, if_false]

/-! ## How a record is produced (R162 to R174) -/

/-- What producing audit records does, step by step: AUD's registers and state change, and events are logged. -/
inductive AuditSteps (s : State) : State → Prop
  | refl : AuditSteps s s
  | setReg {t : State} (h : AuditSteps s t) {k : Nat} (hk : auditReg k = true) (v : Word) : AuditSteps s (t.setReg k v)
  | setAud {t : State} (h : AuditSteps s t) (a : AudState) : AuditSteps s { t with aud := a }
  | logEvent {t : State} (h : AuditSteps s t) (number block : Nat) (params : List Nat) :
      AuditSteps s (t.logEvent number block params)

namespace AuditSteps

section

variable {s t : State} (h : AuditSteps s t)
include h

theorem count {k : Nat} (hk : auditReg k = true) : AuditSteps s (t.count k) := h.setReg hk _

theorem setFill (n : Nat) : AuditSteps s (t.setFill n) := by
  unfold State.setFill
  dsimp only
  split
  · exact (((h.setReg (by decide) _).setAud _).count (by decide)).logEvent _ _ _
  · exact (h.setReg (by decide) _).setAud _

theorem auditWrite (bs : List Byte) : AuditSteps s (t.auditWrite bs) := by
  unfold State.auditWrite
  extract_lets i seg _ marked queued indexed
  have hmarked : AuditSteps s marked := by
    unfold marked
    split
    · exact h.setAud _
    · exact h
  exact (((hmarked.setAud _).setReg (by decide) _).setReg (by decide) _).setFill _

theorem auditSeal (tail reseal : Bool) : AuditSteps s (t.auditSeal tail reseal) := by
  unfold State.auditSeal
  split
  · exact h
  · split
    · exact h
    · have hput (bs : List Byte) : AuditSteps s (t.auditPut bs) := (h.count (by decide)).auditWrite bs
      exact ((((((hput _).setAud _).setAud _).setAud _).setAud _).setReg (by decide) _).setReg (by decide) _
        |>.count (by decide)

theorem sealDue : AuditSteps s t.sealDue := by
  unfold State.sealDue
  split
  · exact h
  · split
    · exact h.auditSeal _ _
    · exact h

theorem auditUnplace (n : Nat) : AuditSteps s (t.auditUnplace n) := by
  unfold State.auditUnplace
  split
  · exact h
  · exact ((h.setReg (by decide) _).setReg (by decide) _).setAud _

theorem auditStands (rs : List AuditRec) : AuditSteps s (rs.foldl State.auditStand t) := by
  induction rs generalizing t with
  | nil => exact h
  | cons r rs ih => exact ih ((h.auditWrite _).setAud _)

theorem auditJoin (r : AuditRec) : AuditSteps s (t.auditJoin r) := by
  have hdue := h.sealDue
  unfold State.auditJoin State.auditPlace
  split
  · exact hdue.count (by decide)
  · exact (((hdue.count (by decide)).auditUnplace _).auditStands _).setAud _

theorem auditGap : AuditSteps s t.auditGap := by
  unfold State.auditGap
  split
  · exact h
  · exact ((h.auditJoin _).setAud _).count (by decide)

/-- Producing a record. -/
theorem audit (r : AuditRec) : AuditSteps s (t.audit r) := by
  unfold State.audit
  split
  · exact h
  · extract_lets u
    have hu : AuditSteps s u := by
      unfold u State.auditReady
      split
      · exact h
      · exact h.sealDue.auditGap.sealDue
    split
    · exact (hu.setAud _).count (by decide)
    · unfold State.auditAppend
      dsimp only
      split
      · exact (hu.auditJoin r).auditSeal _ _
      · exact hu.auditJoin r

end

end AuditSteps

end Sys2Proof.Machine
end

section
namespace Sys2Proof.Machine

open Sys2Proof.Claims

/-! ## A whole Dial second (R79, R80, R115, R385) -/

/-- The second acted on, the audit floor and the suppressed occurrences are as they were. -/
structure SecondKept (s t : State) : Prop where
  time : t.time = s.time
  floorOn : t.floorOn = s.floorOn
  suppressed : t.log.suppressed = s.log.suppressed

namespace SecondKept

theorem refl (s : State) : SecondKept s s := ⟨rfl, rfl, rfl⟩

theorem trans {s t u : State} (h : SecondKept s t) (h' : SecondKept t u) : SecondKept s u :=
  ⟨h'.time.trans h.time, h'.floorOn.trans h.floorOn, h'.suppressed.trans h.suppressed⟩

theorem foldl {α : Type} {f : State → α → State} (hf : ∀ s x, SecondKept s (f s x)) (xs : List α) (s : State) :
    SecondKept s (xs.foldl f s) := by
  induction xs generalizing s with
  | nil => exact refl s
  | cons x xs ih => exact (hf s x).trans (ih (f s x))

section

variable {s t : State} (h : SecondKept s t)
include h

theorem logEvent (number block : Nat) (params : List Nat) : SecondKept s (t.logEvent number block params) := by
  unfold State.logEvent
  split <;> exact h.trans ⟨rfl, rfl, rfl⟩

theorem modDom (d : Nat) (f : DomState → DomState) : SecondKept s (t.modDom d f) := h.trans ⟨rfl, rfl, rfl⟩

theorem modPolicer (n : Nat) (f : Policer → Policer) : SecondKept s (t.modPolicer n f) := h.trans ⟨rfl, rfl, rfl⟩

theorem auditSteps {u : State} (ha : AuditSteps t u) : SecondKept s u := by
  induction ha with
  | refl => exact h
  | setReg _ _ _ ih => exact ih.trans ⟨rfl, rfl, rfl⟩
  | setAud _ _ ih => exact ih.trans ⟨rfl, rfl, rfl⟩
  | logEvent _ number block params ih => exact ih.logEvent number block params

theorem condPoll (d : Nat) : SecondKept s (t.condPoll d) := by
  unfold State.condPoll
  dsimp only
  split
  · exact h
  · exact (h.modDom d _).logEvent ..

theorem condPollAll : SecondKept s t.condPollAll := h.trans (foldl (fun u d => (refl u).condPoll d) _ t)

theorem scheduleRate (n sec : Nat) : SecondKept s (t.scheduleRate n sec) := by
  unfold State.scheduleRate
  dsimp only
  split
  · exact h
  · exact h.modPolicer n _

end

end SecondKept

/-- At most n events have joined the logbook's queue. -/
def logsAtMost (n : Nat) (s t : State) : Prop := t.log.queue.length ≤ s.log.queue.length + n

theorem logsAtMost_logEvent (number block : Nat) (params : List Nat) (s : State) :
    logsAtMost 1 s (s.logEvent number block params) := by
  unfold State.logEvent logsAtMost
  split
  · simp
  · exact Nat.le_succ _

theorem logsAtMost_foldl {α : Type} {f : State → α → State} (hf : ∀ s x, logsAtMost 1 s (f s x)) (xs : List α)
    (s : State) : logsAtMost xs.length s (xs.foldl f s) := by
  induction xs generalizing s with
  | nil => exact Nat.le_refl _
  | cons x xs ih =>
    have hhead := hf s x
    have htail := ih (f s x)
    simp only [logsAtMost, List.foldl_cons, List.length_cons] at hhead htail ⊢
    omega

theorem State.summariseDrops_logs (n : Nat) (s : State) :
    SecondKept s (s.summariseDrops n) ∧ logsAtMost 1 s (s.summariseDrops n) := by
  unfold State.summariseDrops
  split
  · exact ⟨((SecondKept.refl s).modPolicer n _).logEvent .., logsAtMost_logEvent _ _ _ (s.modPolicer n _)⟩
  · exact ⟨.refl s, Nat.le_succ _⟩

theorem State.summariseOutside_logs (d : Nat) (s : State) :
    SecondKept s (s.summariseOutside d) ∧ logsAtMost 1 s (s.summariseOutside d) := by
  unfold State.summariseOutside
  split
  · exact ⟨((SecondKept.refl s).modDom d _).logEvent .., logsAtMost_logEvent _ _ _ (s.modDom d _)⟩
  · exact ⟨.refl s, Nat.le_succ _⟩

/-- The new second noted, with the audit floor that AUDIT_PRESSURE asks for (R80). -/
def State.beginSecond (s : State) : State :=
  { s with time := { s.time with second := s.dialNs / nsPerSecond }, floorOn := s.aud.pressure }

/-- The rates scheduled, and what the second that ends dropped summarised (R79, R80, R115). -/
def State.summarise (sec : Nat) (s : State) : State :=
  let s := (List.range 256).foldl (fun s n => s.scheduleRate n sec) s
  let s := (List.range 256).foldl (fun s n => s.summariseDrops n) s
  (List.range 16).foldl (fun s d => s.summariseOutside d) s

theorem State.queue_scheduleRate (n sec : Nat) (s : State) : (s.scheduleRate n sec).log = s.log := by
  unfold State.scheduleRate
  dsimp only
  split <;> rfl

theorem State.summarise_kept (sec : Nat) (s : State) : SecondKept s (s.summarise sec) :=
  ((SecondKept.foldl (fun u n => (SecondKept.refl u).scheduleRate n sec) _ s).trans
    (.foldl (fun u n => (u.summariseDrops_logs n).1) _ _)).trans (.foldl (fun u d => (u.summariseOutside_logs d).1) _ _)

/-- One event for a slot and one for a domain. -/
theorem State.summarise_logs (sec : Nat) (s : State) : logsAtMost 272 s (s.summarise sec) := by
  have hrates (ns : List Nat) (u : State) : (ns.foldl (fun s n => s.scheduleRate n sec) u).log = u.log := by
    induction ns generalizing u with
    | nil => rfl
    | cons n ns ih => exact (ih _).trans (u.queue_scheduleRate n sec)
  unfold State.summarise
  extract_lets rated dropped
  have hrated : rated.log = s.log := hrates _ s
  have hdropped : logsAtMost (List.range 256).length rated dropped :=
    logsAtMost_foldl (fun u n => (u.summariseDrops_logs n).2) _ rated
  have houtside := logsAtMost_foldl (fun u d => (u.summariseOutside_logs d).2) (List.range 16) dropped
  simp only [logsAtMost, List.length_range, hrated] at hdropped houtside ⊢
  omega

/-- One SUPPRESSED record (R385). -/
def State.stateSuppressed (s : State) (x : Nat × Nat × Dial) : State :=
  let t := s.logEvent 0x002 17 [x.1, min x.2.1 0xFFFFFFFF, x.2.2.toNat / 256 % 2 ^ 32, x.2.2.toNat / 2 ^ 40]
  if 1024 ≤ s.log.queue.length then t
  else { t with log := { t.log with suppressed := Store.put (fun _ => (0, 0)) x.1 (0, 0) t.log.suppressed } }

theorem State.summariseSuppressed_eq (s : State) :
    s.summariseSuppressed = s.log.suppressed.foldl State.stateSuppressed s := by
  unfold State.summariseSuppressed State.stateSuppressed
  simp only [decide_eq_true_eq]

/-- Stating a suppressed number keeps the second and the floor, and logs one event. -/
theorem State.stateSuppressed_keeps (s : State) (x : Nat × Nat × Dial) :
    (s.stateSuppressed x).time = s.time ∧ (s.stateSuppressed x).floorOn = s.floorOn ∧
      logsAtMost 1 s (s.stateSuppressed x) := by
  have hlog (number block : Nat) (params : List Nat) := (SecondKept.refl s).logEvent number block params
  unfold State.stateSuppressed
  extract_lets t
  have hcount : logsAtMost 1 s t := logsAtMost_logEvent ..
  split
  · exact ⟨(hlog ..).time, (hlog ..).floorOn, hcount⟩
  · exact ⟨(hlog ..).time, (hlog ..).floorOn, hcount⟩

/-- While the queue has room a stated number is no longer suppressed. -/
theorem State.suppressed_stateSuppressed {s : State} (hroom : s.log.queue.length < 1024) (x : Nat × Nat × Dial) :
    (s.stateSuppressed x).log.suppressed = Store.erase x.1 s.log.suppressed := by
  unfold State.stateSuppressed
  dsimp only
  rw [if_neg (Nat.not_le.2 hroom), ((SecondKept.refl s).logEvent ..).suppressed]
  rfl

theorem State.foldl_stateSuppressed_keeps (xs : List (Nat × Nat × Dial)) (s : State) :
    (xs.foldl State.stateSuppressed s).time = s.time ∧ (xs.foldl State.stateSuppressed s).floorOn = s.floorOn := by
  induction xs generalizing s with
  | nil => exact ⟨rfl, rfl⟩
  | cons x xs ih =>
    obtain ⟨htime, hfloor, _⟩ := s.stateSuppressed_keeps x
    exact ⟨(ih _).1.trans htime, (ih _).2.trans hfloor⟩

/-- With room for all of them, the stated numbers leave the store. -/
theorem State.suppressed_foldl_stateSuppressed (xs : List (Nat × Nat × Dial)) {s : State}
    (hroom : s.log.queue.length + xs.length ≤ 1024) :
    (xs.foldl State.stateSuppressed s).log.suppressed =
      s.log.suppressed.filter fun e => decide (e.1 ∉ xs.map Prod.fst) := by
  induction xs generalizing s with
  | nil => simp
  | cons x xs ih =>
    have hnext := (s.stateSuppressed_keeps x).2.2
    simp only [logsAtMost, List.length_cons] at hnext hroom
    rw [List.foldl_cons, ih (by omega), State.suppressed_stateSuppressed (by omega), Store.erase, List.filter_filter]
    refine List.filter_congr fun e _ => ?_
    rw [Bool.eq_iff_iff]
    simp [and_comm]

/-- All the suppressed numbers are stated where the queue has room for them. -/
theorem State.suppressed_summariseSuppressed {s : State}
    (hroom : s.log.queue.length + s.log.suppressed.length ≤ 1024) : s.summariseSuppressed.log.suppressed = [] := by
  rw [State.summariseSuppressed_eq, State.suppressed_foldl_stateSuppressed _ hroom, List.filter_eq_nil_iff]
  intro e he
  simpa using List.mem_map_of_mem (f := Prod.fst) he

/-- What a second ends with: its heartbeat, and the conditions followed (R108, R163). -/
def State.closeSecond (sec : Nat) (s : State) : State :=
  (if bit (s.reg Reg.AUD_CFG) 0 then s.audit ⟨.heartbeat, 0, 0, 0, dialOfNs (sec * nsPerSecond), 0, noDigest⟩
    else s).condPollAll

theorem State.closeSecond_kept (sec : Nat) (s : State) : SecondKept s (s.closeSecond sec) := by
  unfold State.closeSecond
  split
  · exact ((SecondKept.refl s).auditSteps (AuditSteps.refl.audit _)).condPollAll
  · exact (SecondKept.refl s).condPollAll

theorem wholeDialSecond_eq {s : State} (h : s.time.second < s.dialNs / nsPerSecond) : wholeDialSecond s =
    (s.beginSecond.summarise (s.dialNs / nsPerSecond)).summariseSuppressed.closeSecond (s.dialNs / nsPerSecond) :=
  if_neg (Nat.not_le.2 h)

/-- A new second is noted once, takes its floor from AUDIT_PRESSURE, and states what was suppressed. -/
theorem wholeDialSecond_acts {s : State} (h : s.time.second < s.dialNs / nsPerSecond) :
    (wholeDialSecond s).time.second = s.dialNs / nsPerSecond ∧ (wholeDialSecond s).floorOn = s.aud.pressure ∧
      (s.log.queue.length + s.log.suppressed.length + 272 ≤ 1024 → (wholeDialSecond s).log.suppressed = []) := by
  rw [wholeDialSecond_eq h]
  have hkept := s.beginSecond.summarise_kept (s.dialNs / nsPerSecond)
  have hlogs := s.beginSecond.summarise_logs (s.dialNs / nsPerSecond)
  generalize s.beginSecond.summarise (s.dialNs / nsPerSecond) = u at hkept hlogs ⊢
  have hclose := u.summariseSuppressed.closeSecond_kept (s.dialNs / nsPerSecond)
  obtain ⟨htime, hfloor⟩ : u.summariseSuppressed.time = u.time ∧ u.summariseSuppressed.floorOn = u.floorOn := by
    rw [State.summariseSuppressed_eq]
    exact State.foldl_stateSuppressed_keeps _ u
  refine ⟨?_, hclose.floorOn.trans (hfloor.trans hkept.floorOn), fun hroom => ?_⟩
  · rw [hclose.time, htime, hkept.time]
    rfl
  · have hlog : s.beginSecond.log = s.log := rfl
    rw [hclose.suppressed, State.suppressed_summariseSuppressed]
    simp only [logsAtMost, hkept.suppressed, hlog] at hlogs ⊢
    omega

theorem exec_wholeDialSecond {b : Nat} {s : State} (hrun : running b s = true) :
    exec .wholeDialSecond s = .next (wholeDialSecond s) :=
  congrArg _ (whenClocked_of (running_iff.1 hrun).1 _)

/-- Settles O7: the offset (utcApply_due), the lanes (laneTemp_recalUpdate), and the second (wholeDialSecond_acts). -/
theorem utcCalibrationAndSeconds : Obligations.UtcCalibrationAndSeconds := by
  unfold Obligations.UtcCalibrationAndSeconds
  intro s hrun
  refine ⟨fun hset hdue => ?_, fun hen => ⟨fun octet target hoctet => ?_, fun lane table hlane => ?_⟩, fun h => ?_⟩
  · refine ⟨_, exec_utcOffsetApply hrun, bits_utcApply_current hset hdue, ?_, utcApply_onlyRegs s⟩
    rw [utcApply_due hset hdue, State.reg_setReg_self]
  · exact ⟨_, exec_recalUpdate hoctet target hrun, fun i x hx hi => laneTemp_recalUpdate hen hoctet hi hx⟩
  · exact ⟨_, exec_tdcRecal hen hlane hrun, Store.get_put_self .., fun l hl => Store.get_put_ne _ hl .., rfl⟩
  · obtain ⟨hsecond, hfloor, hsuppressed⟩ := wholeDialSecond_acts h
    exact ⟨_, exec_wholeDialSecond hrun, hsecond, hfloor, fun _ => hsuppressed⟩

end Sys2Proof.Machine
end

section
namespace Sys2Proof.Machine

open Sys2Proof.Claims

/-! ## Refusing a posting (R121, R129) -/

theorem auditReg_refused {code : Nat} (h : code < 16) : auditReg (Reg.REL_CNT_REFUSED code) = false := by
  simp only [auditReg_eq_false_iff, Reg.REL_CNT_REFUSED, Reg.LOG_CNT_QUEUE_DROP]
  omega

/-- A refusal counts under its code; the rest is the audit's. -/
theorem State.noteRefusal_auditOnly (p : Posting) (code : Nat) (s : State) :
    AuditOnly (s.count (Reg.REL_CNT_REFUSED code)) (s.noteRefusal p code) :=
  (AuditOnly.refl _).audit _

section

variable (p : Posting) {code : Nat} (hcode : code < 16) (s : State)

theorem State.postings_noteRefusal (code : Nat) : (s.noteRefusal p code).postings = s.postings := by
  rw [(s.noteRefusal_auditOnly p code).frame]
  rfl

theorem State.relNext_noteRefusal (code : Nat) : (s.noteRefusal p code).relNext = s.relNext := by
  rw [(s.noteRefusal_auditOnly p code).frame]
  rfl

include hcode in
theorem State.reg_noteRefusal : (s.noteRefusal p code).reg (Reg.REL_CNT_REFUSED code) =
    counterPlus 1 (s.reg (Reg.REL_CNT_REFUSED code)) := by
  rw [(s.noteRefusal_auditOnly p code).reg _ (auditReg_refused hcode), State.reg_count_self]

theorem State.reg_noteRefusal_ne {code k : Nat} (ha : auditReg k = false) (hk : k ≠ Reg.REL_CNT_REFUSED code) :
    (s.noteRefusal p code).reg k = s.reg k := by
  rw [(s.noteRefusal_auditOnly p code).reg _ ha, State.reg_count_ne hk]

end

/-- A posting changed in the list is there as changed. -/
theorem State.mem_modPosting {p : Posting} {s : State} (h : p ∈ s.postings) (f : Posting → Posting) :
    f p ∈ (s.modPosting p f).postings :=
  List.mem_map.2 ⟨p, h, if_pos ⟨rfl, rfl, rfl⟩⟩

section

variable (p : Posting) {code : Nat} (s : State)

theorem State.relNext_refusePosting (code : Nat) : (s.refusePosting p code).relNext = s.relNext :=
  State.relNext_noteRefusal ..

theorem State.reg_refusePosting (hcode : code < 16) : (s.refusePosting p code).reg (Reg.REL_CNT_REFUSED code) =
    counterPlus 1 (s.reg (Reg.REL_CNT_REFUSED code)) :=
  State.reg_noteRefusal p hcode (s.modPosting p _)

theorem State.reg_refusePosting_ne {k : Nat} (ha : auditReg k = false) (hk : k ≠ Reg.REL_CNT_REFUSED code) :
    (s.refusePosting p code).reg k = s.reg k :=
  State.reg_noteRefusal_ne p (s.modPosting p _) ha hk

variable {p s}

/-- A posting that is refused keeps its place, its status the code. -/
theorem State.status_refusePosting (h : p ∈ s.postings) (code : Nat) : ∃ q ∈ (s.refusePosting p code).postings,
    q.ring = p.ring ∧ q.cursor = p.cursor ∧ q.rel = p.rel ∧ q.status = some code := by
  unfold State.refusePosting
  rw [State.postings_noteRefusal]
  exact ⟨_, State.mem_modPosting h _, rfl, rfl, rfl, rfl⟩

end

/-! ## Taking a posting (R45, R122, R124) -/

theorem State.postCheck_lt (s : State) (p : Posting) : s.postCheck p < 16 := by
  unfold State.postCheck
  split_ifs <;> decide

/-- The entry is begun, and its posting joins the others. -/
def State.joinPosting (c : Nat) (x : Taken) (p : Posting) (s : State) : State :=
  { s.startEntry c x.cursor with postings := s.postings ++ [p] }

/-- A posting has its room in the release buffer, whose peak is kept. -/
def State.reserve (c : Nat) (x : Taken) (p : Posting) (s : State) : State :=
  let t := s.joinPosting c x p
  t.modReg Reg.REL_BUF_USED fun v => word (max (bits v 56 32) t.relUsed * 2 ^ 32)

theorem State.reg_joinPosting (c : Nat) (x : Taken) (p : Posting) (s : State) (k : Nat) :
    (s.joinPosting c x p).reg k = s.reg k := rfl

theorem State.reg_reserve {c k : Nat} {x : Taken} {p : Posting} (hk : k ≠ Reg.REL_BUF_USED) (s : State) :
    (s.reserve c x p).reg k = s.reg k := by
  rw [State.reserve, State.modReg_eq, State.reg_setReg_ne hk, State.reg_joinPosting]

theorem State.postings_reserve (c : Nat) (x : Taken) (p : Posting) (s : State) :
    (s.reserve c x p).postings = s.postings ++ [p] := by
  rw [State.reserve, State.modReg_eq, State.setReg_postings]
  rfl

/-- A posting that has no outcome takes its room of the buffer in use. -/
theorem State.relUsed_of_append {s t : State} {p : Posting} (h : t.postings = s.postings ++ [p]) :
    t.relUsed = s.relUsed + p.room := by
  simp [State.relUsed, h]

section

variable {c : Nat} {x : Taken} {s : State} (htype : (s.ring c).type = 3) (hhead : (s.ring c).head = some x)
  (hstep : s.time.pending = none)
include htype hhead hstep

/-- The descriptor at the head of a release ring is refused, abandoned or read. -/
theorem releasePost_eq : releasePost c s =
    if s.postCheck (postingOf c x) ≠ 0 then
      (s.joinPosting c x { postingOf c x with status := some (s.postCheck (postingOf c x)) }).noteRefusal (postingOf c x)
        (s.postCheck (postingOf c x))
    else if x.abandoned then (s.reserve c x (postingOf c x)).refusePosting (postingOf c x) 9
    else (s.reserve c x (postingOf c x)).dma (s.ring c).owner 0 c none
      (.dmaRead (s.ring c).owner c (leField x.desc 0 8) (postingOf c x).length) := by
  have hgo : ¬((s.ring c).type ≠ 3 ∨ s.time.pending.isSome = true) := by simp [htype, hstep]
  unfold releasePost
  simp only [hhead, if_neg hgo]
  rfl

theorem releasePost_refused (hbad : s.postCheck (postingOf c x) ≠ 0) : releasePost c s =
    (s.joinPosting c x { postingOf c x with status := some (s.postCheck (postingOf c x)) }).noteRefusal (postingOf c x)
      (s.postCheck (postingOf c x)) := by
  rw [releasePost_eq htype hhead hstep, if_pos hbad]

theorem releasePost_abandoned (hgood : s.postCheck (postingOf c x) = 0) (hlost : x.abandoned = true) :
    releasePost c s = (s.reserve c x (postingOf c x)).refusePosting (postingOf c x) 9 := by
  rw [releasePost_eq htype hhead hstep, if_neg (not_not.2 hgood), if_pos hlost]

theorem releasePost_reads (hgood : s.postCheck (postingOf c x) = 0) (hkept : x.abandoned = false) :
    releasePost c s = (s.reserve c x (postingOf c x)).dma (s.ring c).owner 0 c none
      (.dmaRead (s.ring c).owner c (leField x.desc 0 8) (postingOf c x).length) := by
  rw [releasePost_eq htype hhead hstep, if_neg (not_not.2 hgood), hkept]
  exact if_neg Bool.false_ne_true

end

theorem exec_releasePost {c : Nat} {s : State} (hc : c < 65536) (hrun : running 3 s = true) :
    exec (.releasePost c) s = .next (releasePost c s) := by
  change within (decide (c < 65536)) (whenClocked (unlessStopped 3 (releasePost c)) s) s = _
  rw [decide_eq_true hc, within_true, whenClocked_running hrun]

/-! ## What the later steps of an acceptance leave of a posting (R122, R128, R129) -/

/-- What a posting is told by, whatever becomes of its copies. -/
def Posting.identity (p : Posting) : Nat × BitVec 32 × Nat × Nat := (p.ring, p.cursor, p.rel, p.acceptNs)

/-- The postings are those that there were, and no other has been accepted. -/
structure PostingsKept (s t : State) : Prop where
  relNext : t.relNext = s.relNext
  accepted : t.reg Reg.REL_CNT_ACCEPTED = s.reg Reg.REL_CNT_ACCEPTED
  postings : t.postings.map Posting.identity = s.postings.map Posting.identity

namespace PostingsKept

theorem refl (s : State) : PostingsKept s s := ⟨rfl, rfl, rfl⟩

theorem trans {s t u : State} (h : PostingsKept s t) (h' : PostingsKept t u) : PostingsKept s u :=
  ⟨h'.relNext.trans h.relNext, h'.accepted.trans h.accepted, h'.postings.trans h.postings⟩

section

variable {s t : State} (h : PostingsKept s t)
include h

theorem foldl {α : Type} {f : State → α → State} (hf : ∀ u x, PostingsKept u (f u x)) (xs : List α) :
    PostingsKept s (xs.foldl f t) := by
  induction xs generalizing t with
  | nil => exact h
  | cons x xs ih => exact ih (h.trans (hf t x))

/-- A posting is still there. -/
theorem mem {q : Posting} (hq : q ∈ s.postings) : ∃ q' ∈ t.postings, q'.identity = q.identity := by
  have hmem : q.identity ∈ t.postings.map Posting.identity := h.postings ▸ List.mem_map_of_mem hq
  exact List.mem_map.1 hmem

theorem count {k : Nat} (hk : Reg.REL_CNT_ACCEPTED ≠ k) : PostingsKept s (t.count k) :=
  h.trans ⟨rfl, State.reg_count_ne hk t, rfl⟩

theorem countSlot {k : Nat} (hk : Reg.REL_CNT_ACCEPTED ≠ k) (n : Nat) : PostingsKept s (t.countSlot n k) := by
  unfold State.countSlot
  split
  · exact h
  · exact h.count hk

theorem audit (r : AuditRec) : PostingsKept s (t.audit r) := by
  have ha := (AuditOnly.refl t).audit r
  exact h.trans ⟨by rw [ha.frame], ha.reg _ (by decide), by rw [ha.frame]⟩

theorem modRel (rel : Nat) {f : Posting → Posting} (hf : ∀ p, (f p).identity = p.identity) :
    PostingsKept s (t.modRel rel f) := by
  refine h.trans ⟨rfl, rfl, ?_⟩
  rw [State.modRel, List.map_map]
  refine List.map_congr_left fun p _ => ?_
  simp only [Function.comp_apply, apply_ite Posting.identity, hf, ite_self]

theorem dropCopy (rel n reason : Nat) : PostingsKept s (t.dropCopy rel n reason) := by
  unfold State.dropCopy
  split
  · exact h
  · refine ((h.modRel rel fun _ => by rfl).countSlot ?_ n).audit _
    unfold copyCounter
    split <;>
      simp only [Reg.REL_CNT_ACCEPTED, Reg.REL_CNT_COPY_DOWN, Reg.REL_CNT_COPY_LONG, Reg.REL_CNT_COPY_COLLIDE,
        Reg.REL_CNT_COPY_LATE_ARM, Reg.REL_CNT_COPY_LAUNCH_FULL, Reg.REL_CNT_COPY_SECURE, Reg.REL_CNT_COPY_DIAL,
        Reg.REL_CNT_COPY_ABORTED] <;>
      omega

theorem armCopy (rel n : Nat) : PostingsKept s (t.armCopy rel n) := by
  unfold State.armCopy
  dsimp only
  repeat' split
  · exact h
  · exact h
  · exact h
  · exact h.dropCopy rel n _

theorem auditRelease (rel : Nat) : PostingsKept s (t.auditRelease rel) := by
  unfold State.auditRelease
  repeat' split
  · exact h
  · exact h
  · exact (h.modRel rel fun _ => by rfl).audit _

theorem settleRelease (rel : Nat) : PostingsKept s (t.settleRelease rel) := by
  have haudit := h.auditRelease rel
  unfold State.settleRelease
  dsimp only
  split
  · exact haudit
  · split
    · exact haudit
    · refine (haudit.modRel rel fun _ => by rfl).count ?_
      split_ifs <;> decide

theorem dropArmed : PostingsKept s t.dropArmed := by
  unfold State.dropArmed
  refine h.foldl (fun u p => ?_) _
  refine settleRelease ((refl u).foldl (fun v c => ?_) _) p.rel
  exact (refl v).dropCopy p.rel c.slot 7

end

end PostingsKept

/-! ## Accepting a posting (R122, R123) -/

theorem exec_releaseAcceptance {c : Nat} {frame : Option (List Byte)} {s : State} (hc : c < 65536)
    (hrun : running 3 s = true) (harr : arrives (s.ring c).owner s = true) :
    exec (.releaseAcceptance c frame) s = .next (releaseAcceptance c frame s) := by
  have hlink (f : State → State) : onLink (s.ring c).owner (.releaseAcceptance c frame) f s = f s := by
    unfold onLink
    split
    · next p hp =>
      have hfrozen : (s.link p).frozen = false := by simpa [arrives, hp] using harr
      simp [hfrozen]
    · rfl
  change within (decide (c < 65536)) (whenClocked (onLink (s.ring c).owner (.releaseAcceptance c frame)
    (unlessStopped 3 (releaseAcceptance c frame))) s) s = _
  rw [decide_eq_true hc, within_true, whenClocked_of (running_iff.1 hrun).1, hlink, unlessStopped_running hrun]

/-- The state in which a posting's group has been looked up. -/
def State.lookedUp (s : State) (p : Posting) : State :=
  if p.single then s else s.meetEntry (entryKey 4 0 p.group) 0

/-- The code of the first check that a posting fails once its frame has been read, 0 where none does. -/
def State.acceptanceCode (s : State) (p : Posting) (frame : Option (List Byte)) : Nat :=
  if frame = none then 9
  else if s.targets p = none then 7
  else if p.tRel.toNat < s.dial.toNat + s.minLead * nsUnits then 3
  else if s.dial.toNat + nsPerSecond * nsUnits < p.tRel.toNat then 4 else 0

/-- An event recorded after register writes touches the registers and the logbook. -/
theorem State.logEvent_frame_of_regs {s u : State} (h : ∃ r, u = { s with regs := r }) (number block : Nat)
    (params : List Nat) : u.logEvent number block params =
      { s with regs := (u.logEvent number block params).regs, log := (u.logEvent number block params).log } := by
  obtain ⟨r, rfl⟩ := h
  rw [State.logEvent_frame]

theorem State.parityReport_frame (t pipe index : Nat) (s : State) : s.parityReport t pipe index =
    { s with regs := (s.parityReport t pipe index).regs, log := (s.parityReport t pipe index).log } :=
  State.logEvent_frame_of_regs ⟨_, rfl⟩ 0x400 6 [t, pipe, index]

/-- Meeting an entry touches the tables, their reports and the logbook. -/
theorem State.lookedUp_frame (s : State) (p : Posting) : s.lookedUp p =
    { s with tables := (s.lookedUp p).tables, regs := (s.lookedUp p).regs, log := (s.lookedUp p).log } := by
  unfold State.lookedUp State.meetEntry
  dsimp only
  split
  · rfl
  · split
    · rw [State.parityReport_frame]
      rfl
    · rfl

/-- The release counters are not among the reports of the tables. -/
theorem State.reg_lookedUp (s : State) (p : Posting) {k : Nat} (hk : k < 0x600000) : (s.lookedUp p).reg k = s.reg k := by
  unfold State.lookedUp State.meetEntry
  dsimp only
  split
  · rfl
  · split
    · have hparity : ∀ t, k ≠ Reg.TBL_CNT_PARITY t := by
        intro t
        unfold Reg.TBL_CNT_PARITY
        omega
      have hlast : k ≠ Reg.TBL_PARITY_LAST := Nat.ne_of_lt (Nat.lt_trans hk (by decide))
      have hdial : k ≠ Reg.TBL_PARITY_DIAL := Nat.ne_of_lt (Nat.lt_trans hk (by decide))
      have hdrop : k ≠ Reg.LOG_CNT_QUEUE_DROP := Nat.ne_of_lt (Nat.lt_trans hk (by decide))
      unfold State.parityReport
      dsimp only
      rw [State.reg_logEvent _ _ _ _ hdrop, State.reg_setReg_ne hdial, State.reg_setReg_ne hlast,
        State.reg_count_ne (hparity _)]
      rfl
    · rfl

section

variable {c : Nat} {p : Posting} {frame : Option (List Byte)} {s : State}

/-- The posting that a ring's frame is read for is there, not accepted yet and without an outcome. -/
theorem State.reading_spec (h : s.reading c = some p) : p ∈ s.postings ∧ p.ring = c ∧ p.rel = 0 ∧ p.status = none :=
  ⟨List.mem_of_find?_eq_some h,
    of_decide_eq_true (List.find?_some (p := fun q : Posting => decide (q.ring = c ∧ q.rel = 0 ∧ q.status = none)) h)⟩

/-- A posting accepted: its number, its copies, and the instant (R122). -/
def State.acceptPosting (p : Posting) (f : List Byte) (ns : List Nat) (s : State) : State :=
  let t := fine p.tRel
  let copies := ns.map fun n => (⟨n, launchPoint (s.portMode n) t - t, .armed⟩ : Copy)
  ({ s with relNext := s.relNext + 1 }.modPosting p fun q =>
    { q with rel := s.relNext, acceptNs := s.dialNs, frame := slice f 0 p.length, copies := copies }).count
      Reg.REL_CNT_ACCEPTED

/-- What an acceptance ends with: copies that cannot be armed drop, and all do under a fault of the Dial (R128). -/
def State.armPosting (rel : Nat) (ns : List Nat) (s : State) : State :=
  let s := ns.foldl (fun s n => s.armCopy rel n) s
  if s.time.dialFault then s.dropArmed.settleRelease rel else s.settleRelease rel

theorem State.armPosting_kept (rel : Nat) (ns : List Nat) (s : State) : PostingsKept s (s.armPosting rel ns) := by
  have harm : PostingsKept s (ns.foldl (fun s n => s.armCopy rel n) s) :=
    (PostingsKept.refl s).foldl (fun u n => (PostingsKept.refl u).armCopy rel n) ns
  unfold State.armPosting
  dsimp only
  split
  · exact harm.dropArmed.settleRelease rel
  · exact harm.settleRelease rel

/-- The checks that follow the reading of the frame, and the acceptance (R122). -/
def State.decidePosting (p : Posting) (f : List Byte) (s : State) : State :=
  match s.targets p with
  | none => s.refusePosting p 7
  | some ns =>
    if p.tRel.toNat < s.dial.toNat + s.minLead * nsUnits then s.refusePosting p 3
    else if s.dial.toNat + nsPerSecond * nsUnits < p.tRel.toNat then s.refusePosting p 4
    else (s.acceptPosting p f ns).armPosting s.relNext ns

theorem releaseAcceptance_failed (hread : s.reading c = some p) :
    releaseAcceptance c none s = s.refusePosting p 9 := by
  unfold releaseAcceptance
  split
  · next h => exact absurd (hread.symm.trans h) nofun
  · next q h =>
    obtain rfl : p = q := Option.some.inj (hread.symm.trans h)
    rfl

theorem releaseAcceptance_read (hread : s.reading c = some p) (f : List Byte) :
    releaseAcceptance c (some f) s = (s.lookedUp p).decidePosting p f := by
  unfold releaseAcceptance
  split
  · next h => exact absurd (hread.symm.trans h) nofun
  · next q h =>
    obtain rfl : p = q := Option.some.inj (hread.symm.trans h)
    rfl

/-- A posting whose frame has been read is refused with the first check's code, or accepted. -/
theorem State.decidePosting_cases (p : Posting) (f : List Byte) (s : State) :
    (s.acceptanceCode p (some f) ≠ 0 ∧
        s.decidePosting p f = s.refusePosting p (s.acceptanceCode p (some f))) ∨
      (s.acceptanceCode p (some f) = 0 ∧
        ∃ ns, s.decidePosting p f = (s.acceptPosting p f ns).armPosting s.relNext ns) := by
  unfold State.decidePosting State.acceptanceCode
  rw [if_neg (nofun : some f ≠ none)]
  cases htargets : s.targets p with
  | none => exact .inl ⟨by simp, rfl⟩
  | some ns =>
    dsimp only
    rw [if_neg (nofun : some ns ≠ none)]
    split_ifs
    · exact .inl ⟨by decide, rfl⟩
    · exact .inl ⟨by decide, rfl⟩
    · exact .inr ⟨rfl, ns, rfl⟩

end

theorem State.acceptanceCode_lt (s : State) (p : Posting) (frame : Option (List Byte)) :
    s.acceptanceCode p frame < 16 := by
  unfold State.acceptanceCode
  split_ifs <;> decide

section

variable (p : Posting) (s : State)

theorem State.postings_lookedUp : (s.lookedUp p).postings = s.postings := by rw [State.lookedUp_frame]
theorem State.relNext_lookedUp : (s.lookedUp p).relNext = s.relNext := by rw [State.lookedUp_frame]

theorem State.acceptPosting_counts (f : List Byte) (ns : List Nat) :
    (s.acceptPosting p f ns).relNext = s.relNext + 1 ∧
      (s.acceptPosting p f ns).reg Reg.REL_CNT_ACCEPTED = counterPlus 1 (s.reg Reg.REL_CNT_ACCEPTED) :=
  ⟨rfl, State.reg_count_self ..⟩

variable {p s}

/-- The accepted posting is among the postings, its number the next and its instant this one. -/
theorem State.mem_acceptPosting (hp : p ∈ s.postings) (f : List Byte) (ns : List Nat) :
    ∃ q ∈ (s.acceptPosting p f ns).postings, q.identity = (p.ring, p.cursor, s.relNext, s.dialNs) :=
  ⟨_, State.mem_modPosting (s := { s with relNext := s.relNext + 1 }) hp _, rfl⟩

end

section

variable {c : Nat} {p : Posting} {frame : Option (List Byte)} {s : State} (hread : s.reading c = some p)
include hread

/-- A posting that is being read, refused in a state that has its releases from this one. -/
theorem refusePosting_of_reading {u : State} (hposts : u.postings = s.postings) (hnext : u.relNext = s.relNext)
    {code : Nat} (hcode : code < 16) (hreg : u.reg (Reg.REL_CNT_REFUSED code) = s.reg (Reg.REL_CNT_REFUSED code)) :
    let t := u.refusePosting p code
    t.relNext = s.relNext ∧ counts (Reg.REL_CNT_REFUSED code) 1 s t ∧
      ∃ q ∈ t.postings, q.ring = c ∧ q.cursor = p.cursor ∧ q.rel = 0 ∧ q.status = some code := by
  obtain ⟨hmem, hring, hrel, _⟩ := State.reading_spec hread
  obtain ⟨q, hq, hqring, hqcursor, hqrel, hstatus⟩ := State.status_refusePosting (hposts ▸ hmem) code
  refine ⟨(u.relNext_refusePosting p code).trans hnext, ?_, q, hq, hqring.trans hring, hqcursor, hqrel.trans hrel,
    hstatus⟩
  rw [counts_one_iff, State.reg_refusePosting _ _ hcode, hreg]

/-- The first check that fails refuses the posting with its code. -/
theorem releaseAcceptance_refused (hbad : (s.lookedUp p).acceptanceCode p frame ≠ 0) :
    let t := releaseAcceptance c frame s
    t.relNext = s.relNext ∧ counts (Reg.REL_CNT_REFUSED ((s.lookedUp p).acceptanceCode p frame)) 1 s t ∧
      ∃ q ∈ t.postings, q.ring = c ∧ q.cursor = p.cursor ∧ q.rel = 0 ∧
        q.status = some ((s.lookedUp p).acceptanceCode p frame) := by
  have hlt := (s.lookedUp p).acceptanceCode_lt p frame
  cases frame with
  | none =>
    rw [releaseAcceptance_failed hread]
    exact refusePosting_of_reading hread rfl rfl hlt rfl
  | some f =>
    obtain ⟨_, heq⟩ | ⟨hgood, _⟩ := (s.lookedUp p).decidePosting_cases p f
    · rw [releaseAcceptance_read hread, heq]
      refine refusePosting_of_reading hread (s.postings_lookedUp p) (s.relNext_lookedUp p) hlt (s.reg_lookedUp p ?_)
      unfold Reg.REL_CNT_REFUSED
      omega
    · exact absurd hgood hbad

/-- A posting that no check fails is accepted under the next release number. -/
theorem releaseAcceptance_accepted (hgood : (s.lookedUp p).acceptanceCode p frame = 0) :
    let t := releaseAcceptance c frame s
    t.relNext = s.relNext + 1 ∧ counts Reg.REL_CNT_ACCEPTED 1 s t ∧
      ∃ q ∈ t.postings, q.ring = c ∧ q.cursor = p.cursor ∧ q.rel = s.relNext ∧ q.acceptNs = (s.lookedUp p).dialNs := by
  obtain ⟨hmem, hring, _, _⟩ := State.reading_spec hread
  cases frame with
  | none => exact absurd hgood (by simp [State.acceptanceCode])
  | some f =>
    obtain ⟨hbad, _⟩ | ⟨_, ns, heq⟩ := (s.lookedUp p).decidePosting_cases p f
    · exact absurd hgood hbad
    · rw [releaseAcceptance_read hread, heq]
      have hkept := ((s.lookedUp p).acceptPosting p f ns).armPosting_kept (s.lookedUp p).relNext ns
      obtain ⟨hnext, hcount⟩ := (s.lookedUp p).acceptPosting_counts p f ns
      obtain ⟨q, hq, hidentity⟩ := State.mem_acceptPosting (s.postings_lookedUp p ▸ hmem) f ns
      obtain ⟨q', hq', hsame⟩ := hkept.mem hq
      rw [s.relNext_lookedUp p] at hnext hidentity
      simp only [Posting.identity, Prod.mk.injEq] at hidentity hsame
      obtain ⟨hqring, hqcursor, hqrel, hqns⟩ := hidentity
      obtain ⟨hring', hcursor', hrel', hns'⟩ := hsame
      refine ⟨hkept.relNext.trans hnext, ?_, q', hq', ?_, ?_, ?_, ?_⟩
      · rw [counts_one_iff, hkept.accepted, hcount, s.reg_lookedUp p (by decide)]
      · exact hring'.trans (hqring.trans hring)
      · exact hcursor'.trans hqcursor
      · exact hrel'.trans hqrel
      · exact hns'.trans hqns

end

/-- Settles O19: the descriptor at the head (releasePost_eq), and the posting whose frame has been read
(releaseAcceptance_refused, releaseAcceptance_accepted). -/
theorem postingsTakenAndAccepted : Obligations.PostingsTakenAndAccepted := by
  unfold Obligations.PostingsTakenAndAccepted
  constructor
  · intro c x s hc hrun htype hhead hstep p
    have hexec := exec_releasePost hc hrun
    refine ⟨fun hgood hkept => ⟨_, hexec, ?_⟩, fun hgood hlost => ⟨_, hexec, ?_⟩, fun hbad => ⟨_, hexec, ?_⟩⟩
    · rw [releasePost_reads htype hhead hstep hgood hkept, State.dma_frame]
      have hposts := s.postings_reserve c x p
      exact ⟨hposts, State.relUsed_of_append hposts, fun k hk => State.reg_reserve hk s⟩
    · rw [releasePost_abandoned htype hhead hstep hgood hlost]
      refine ⟨?_, fun k ha hk => ?_⟩
      · rw [counts_one_iff, State.reg_refusePosting _ _ (by decide), State.reg_reserve (by decide)]
      · obtain ⟨hused, hcode⟩ : k ≠ Reg.REL_BUF_USED ∧ k ≠ Reg.REL_CNT_REFUSED 9 := by simpa using hk
        rw [State.reg_refusePosting_ne _ _ ha hcode, State.reg_reserve hused]
    · rw [releasePost_refused htype hhead hstep hbad]
      refine ⟨State.postings_noteRefusal .., ?_, fun k ha hk => ?_⟩
      · rw [counts_one_iff, State.reg_noteRefusal _ (s.postCheck_lt p), State.reg_joinPosting]
      · rw [State.reg_noteRefusal_ne _ _ ha (by simpa using hk), State.reg_joinPosting]
  · intro c p frame s hc hrun hread harr s' code
    have hexec := exec_releaseAcceptance (frame := frame) hc hrun harr
    refine ⟨fun hbad => ⟨_, hexec, ?_⟩, fun hgood => ⟨_, hexec, ?_⟩⟩
    · exact releaseAcceptance_refused hread hbad
    · exact releaseAcceptance_accepted hread hgood

end Sys2Proof.Machine
end

section
namespace Sys2Proof.Machine

open Sys2Proof.Claims

/-- A high error rate follows from the mode, the codewords and invalid blocks seen, and the time. -/
theorem State.hiSerNow_congr {s t : State} {n : Nat} (hmode : t.portMode n = s.portMode n)
    (hwindow : (t.port n).window = (s.port n).window) (hbadAt : (t.port n).badAt = (s.port n).badAt)
    (hclock : t.clock = s.clock) : t.hiSerNow n = s.hiSerNow n := by
  unfold State.hiSerNow
  dsimp only
  rw [hmode, hwindow, hbadAt, hclock]

/-! ## What stays of a link when its egress side goes on (R64, R137) -/

/-- Of the registers REL's alone differ, and neither a port's record nor TIME nor a voted copy does. -/
structure LinkKept (s t : State) : Prop where
  reg : ∀ k, k / 0x100000 ≠ 5 → t.reg k = s.reg k
  copyB : t.copyB = s.copyB
  copyC : t.copyC = s.copyC
  ports : t.ports = s.ports
  time : t.time = s.time

namespace LinkKept

theorem refl (s : State) : LinkKept s s := ⟨fun _ _ => rfl, rfl, rfl, rfl, rfl⟩

section

variable {s t : State} (h : LinkKept s t)
include h

theorem trans {u : State} (h' : LinkKept t u) : LinkKept s u :=
  ⟨fun k hk => (h'.reg k hk).trans (h.reg k hk), h'.copyB.trans h.copyB, h'.copyC.trans h.copyC,
    h'.ports.trans h.ports, h'.time.trans h.time⟩

theorem foldl {α : Type} {f : State → α → State} (hf : ∀ u x, LinkKept u (f u x)) (xs : List α) :
    LinkKept s (xs.foldl f t) := by
  induction xs generalizing t with
  | nil => exact h
  | cons x xs ih => exact ih (h.trans (hf t x))

theorem modEgr (n : Nat) (f : EgressState → EgressState) : LinkKept s (t.modEgr n f) :=
  h.trans ⟨fun _ _ => rfl, rfl, rfl, rfl, rfl⟩

theorem setFree (v : Nat) : LinkKept s { t with free := v } := h.trans ⟨fun _ _ => rfl, rfl, rfl, rfl, rfl⟩

theorem emit (o : Out) : LinkKept s (t.emit o) := h.trans ⟨fun _ _ => rfl, rfl, rfl, rfl, rfl⟩

theorem count {k : Nat} (hk : k / 0x100000 = 5) : LinkKept s (t.count k) :=
  h.trans ⟨fun j hj => State.reg_count_ne (by rintro rfl; exact hj hk) t, rfl, rfl, rfl, rfl⟩

theorem countSlot {k : Nat} (hk : k / 0x100000 = 5) (n : Nat) : LinkKept s (t.countSlot n k) := by
  unfold State.countSlot
  split
  · exact h
  · exact h.count hk

theorem pfcSettle (n : Nat) : LinkKept s (t.pfcSettle n) := by
  unfold State.pfcSettle
  dsimp only
  split
  · exact h
  · split
    · exact (h.modEgr n _).emit _
    · split
      · exact (h.modEgr n _).emit _
      · exact h

theorem loseFrame (f : QFrame) (status : Nat) : LinkKept s (t.loseFrame f status) := by
  have hdone : LinkKept s (t.txDone f status 0) := by
    unfold State.txDone
    split
    · exact h
    · rw [State.complete_frame]
      exact h.trans ⟨fun _ _ => rfl, rfl, rfl, rfl, rfl⟩
  unfold State.loseFrame State.poolFree
  split
  · exact hdone
  · exact (hdone.modEgr _ _).pfcSettle _

variable {n : Nat} (hn : n < 256)
include hn

theorem flushHeld : LinkKept s (t.flushHeld n) := by
  refine (h.modEgr n _).foldl (fun u f => ((refl u).countSlot ?_ n).loseFrame f 1) _
  simp only [Reg.REL_CNT_HOLD_FLUSH]
  omega

theorem egressUp : LinkKept s (t.egressUp n) := by
  unfold State.egressUp
  split
  · exact h
  · split
    · exact h.flushHeld hn
    · dsimp only
      split
      · refine (h.modEgr n _).count ?_
        simp only [Reg.REL_CNT_HOLD_RESUME]
        omega
      · exact h.modEgr n _

omit hn in
theorem verifyPreempt (n : Nat) : LinkKept s (t.verifyPreempt n) := by
  unfold State.verifyPreempt
  split
  · exact h.modEgr n _
  · split
    · exact h
    · exact (h.setFree _).modEgr n _

omit hn in
theorem port (n : Nat) : t.port n = s.port n := by simp only [State.port, h.ports]

theorem portReg {o : Nat} (ho : o < 0x800) : t.reg (0x200000 + o + 0x800 * n) = s.reg (0x200000 + o + 0x800 * n) :=
  h.reg _ (by omega)

theorem portMode : t.portMode n = s.portMode n := by
  have hreg : t.reg (Reg.PORT_MODE n) = s.reg (Reg.PORT_MODE n) := h.portReg hn (o := 0) (by omega)
  simp only [State.portMode, State.voted, State.regB, State.regC, hreg, h.copyB, h.copyC]

theorem hiSerNow : t.hiSerNow n = s.hiSerNow n :=
  State.hiSerNow_congr (h.portMode hn) (by rw [h.port]) (by rw [h.port]) (by rw [State.clock, h.time, State.clock])

end

end LinkKept

/-! ## A port's way to UP and back (R64, R65) -/

/-- A port with no fault and no high error rate that counts stays as it is. -/
theorem State.portSettle_of_clear {n : Nat} {s : State} (hlocal : (s.port n).localFault = false)
    (hremote : (s.port n).remoteFault = false)
    (hser : s.hiSerNow n = false ∨ bit (s.reg (Reg.PORT_LINK_CFG n)) 0 = false) : s.portSettle n = s := by
  have hno : ¬(s.hiSerNow n = true ∧ bit (s.reg (Reg.PORT_LINK_CFG n)) 0 = true) := by
    rintro ⟨hnow, hcfg⟩
    rcases hser with h | h
    · exact Bool.noConfusion (hnow.symm.trans h)
    · exact Bool.noConfusion (hcfg.symm.trans h)
  simp [State.portSettle, hlocal, hremote, hno]

theorem upHoldExpiry_link {n : Nat} {s : State} (hn : n < 256) (hlink : (s.port n).link = .upHold)
    (hlocal : (s.port n).localFault = false) (hremote : (s.port n).remoteFault = false)
    (hser : s.hiSerNow n = false ∨ bit (s.reg (Reg.PORT_LINK_CFG n)) 0 = false) :
    ((upHoldExpiry n s).port n).link = .up := by
  unfold upHoldExpiry
  rw [if_pos hlink]
  generalize hu : s.modPort n (fun p => { p with link := .up }) = u
  have huport : u.port n = { s.port n with link := .up } := by rw [← hu, State.port_modPort_self]
  have huser : u.hiSerNow n = s.hiSerNow n :=
    State.hiSerNow_congr (by rw [← hu]; rfl) (by rw [huport]) (by rw [huport]) (by rw [← hu]; rfl)
  have hucfg : u.reg (Reg.PORT_LINK_CFG n) = s.reg (Reg.PORT_LINK_CFG n) := by rw [← hu]; rfl
  have hkept : LinkKept u ((u.egressUp n).verifyPreempt n) := ((LinkKept.refl u).egressUp hn).verifyPreempt n
  have hport := hkept.port n
  rw [State.portSettle_of_clear, hport, huport]
  · rw [hport, huport]
    exact hlocal
  · rw [hport, huport]
    exact hremote
  · have hcfg : _ = u.reg (Reg.PORT_LINK_CFG n) := hkept.portReg hn (o := 0x18) (by omega)
    rw [hkept.hiSerNow hn, huser]
    rw [← hucfg, ← hcfg] at hser
    exact hser

/-- A port that goes down retrains; a fault that it has noted stays. -/
theorem State.port_linkDown {n : Nat} (hn : n < 256) (cause : Nat) (cut : Bool) (s : State) :
    (s.linkDown n cause cut).port n = (s.port n).train := by
  unfold State.linkDown
  dsimp only
  rw [State.logEvent_frame]
  have hkept : (s.leaveUp n cut).port n = s.port n := ((KeepsPort.refl n s).leaveUp hn n cut).port
  have hcount (k : Nat) (t : State) : (t.count k).port n = t.port n := rfl
  rw [hcount, State.port_modPort_self, ← hkept]
  rfl

section

variable {n : Nat} {s : State}

/-- A bonded port needs the deskew of its members, and any other none. -/
theorem alignmentAchieved_cases (htrain : (s.port n).link = .training) (deskew : Option (List Nat)) :
    ∃ f : PortState → PortState, alignmentAchieved n deskew s = s.modPort n f ∧ (f (s.port n)).aligned = true ∧
      (lanesOf (speedOf (s.portMode n)) = 1 ∨ deskew.isSome → (f (s.port n)).link = .upHold) ∧
      (lanesOf (speedOf (s.portMode n)) ≠ 1 → deskew = none →
        (f (s.port n)).link = .training ∧ (f (s.port n)).deskewFail = true) := by
  unfold alignmentAchieved
  rw [if_neg (not_not_intro htrain)]
  by_cases hlanes : lanesOf (speedOf (s.portMode n)) = 1
  · rw [if_pos hlanes]
    exact ⟨_, rfl, rfl, fun _ => rfl, fun hne => absurd hlanes hne⟩
  · rw [if_neg hlanes]
    cases deskew with
    | none => exact ⟨_, rfl, rfl, fun h => absurd h (by simp [hlanes]), fun _ _ => ⟨htrain, rfl⟩⟩
    | some ds => exact ⟨_, rfl, rfl, fun _ => rfl, fun _ h => nomatch h⟩

theorem alignmentLost_port (hn : n < 256) (halign : (s.port n).aligned = true) (cut : Bool) :
    (alignmentLost n cut s).port n = (s.port n).train := by
  unfold alignmentLost
  simp only [halign, Bool.not_true, Bool.false_eq_true, if_false]
  split
  · exact State.port_linkDown hn 0 cut _
  · exact State.port_modPort_self n _ _

theorem alignmentLost_of_down (halign : (s.port n).aligned = true) (hdown : (s.port n).link ≠ .up) (cut : Bool) :
    alignmentLost n cut s = (s.count (Reg.PORT_CNT_ALIGN_LOSS n)).modPort n PortState.train := by
  have hup : (s.count (Reg.PORT_CNT_ALIGN_LOSS n)).isUp n = false := decide_eq_false hdown
  simp [alignmentLost, halign, hup]

/-- A fault that is noted takes a port that is UP down, and leaves any other where it is. -/
theorem fault_port (hn : n < 256) (note : PortState → PortState) (hnote : ∀ p, (note p).link = p.link)
    (cause : Nat) (cut : Bool) :
    let t := s.modPort n note
    let u := if t.isUp n then t.linkDown n cause cut else t
    u.port n = if (s.port n).link = .up then (note (s.port n)).train else note (s.port n) := by
  intro t u
  have hport : t.port n = note (s.port n) := State.port_modPort_self n note s
  by_cases hup : (s.port n).link = .up
  · have hisUp : t.isUp n = true := decide_eq_true (by rw [hport, hnote, hup])
    rw [if_pos hup, ← hport]
    unfold u
    rw [if_pos hisUp]
    exact State.port_linkDown hn cause cut t
  · have hisUp : t.isUp n = false := decide_eq_false (by rw [hport, hnote]; exact hup)
    rw [if_neg hup, ← hport]
    unfold u
    rw [hisUp]
    rfl

theorem localFault_port (hn : n < 256) (hon : (s.port n).link ≠ .disabled) (cut : Bool) :
    ((localFault n cut s).port n).localFault = true ∧
      ((localFault n cut s).port n).link = if (s.port n).link = .up then .training else (s.port n).link := by
  unfold localFault
  dsimp only
  rw [if_neg hon, fault_port hn (fun p => { p with localFault := true }) (fun _ => rfl) 2 cut]
  split <;> exact ⟨rfl, rfl⟩

theorem remoteFault_port (hn : n < 256) (hon : (s.port n).link ≠ .disabled) (cut : Bool) :
    ((remoteFault n cut s).port n).remoteFault = true ∧
      ((remoteFault n cut s).port n).link = if (s.port n).link = .up then .training else (s.port n).link := by
  unfold remoteFault
  dsimp only
  rw [if_neg hon, fault_port hn (fun p => { p with remoteFault := true }) (fun _ => rfl) 3 cut]
  split <;> exact ⟨rfl, rfl⟩

theorem trainTimeout_of_training (htrain : (s.port n).link = .training) :
    trainTimeout n s = (s.count (Reg.PORT_CNT_TRAIN_TIMEOUT n)).modPort n PortState.train := if_pos htrain

/-- A count of a port's event beside a change of its record. -/
theorem onlyRegs_count_modPort (k : Nat) (f : PortState → PortState) :
    onlyRegs [k] { s with ports := ((s.count k).modPort n f).ports } ((s.count k).modPort n f) :=
  ⟨rfl, fun _ hj => State.reg_count_ne (by simpa using hj) s⟩

/-- A command about a slot of its own, in a block that runs, has its effect. -/
theorem within_onPort {ok : Bool} (hok : ok = true) (hrun : running 2 s = true) (hown : s.isIdle n = false)
    (f : State → State) : within ok (whenClocked (unlessStopped 2 (onPort n f)) s) s = .next (f s) := by
  rw [hok, within_true, whenClocked_of (running_iff.1 hrun).1, unlessStopped_running hrun, onPort, hown]
  rfl

end

/-- Settles O11: where each command takes the slot's port (alignmentAchieved_cases, upHoldExpiry_link,
alignmentLost_port, fault_port). -/
theorem linkStatesFollowR64 : Obligations.LinkStatesFollowR64 := by
  unfold Obligations.LinkStatesFollowR64
  intro n cut s hn hrun hown
  have hexec (f : State → State) := within_onPort (decide_eq_true hn) hrun hown f
  refine ⟨fun deskew htrain => ⟨_, hexec _, ?_⟩, fun hlink hlocal hremote hser => ⟨_, hexec _, ?_⟩,
    fun halign => ⟨_, hexec _, ?_⟩, fun hon => ⟨⟨_, hexec _, ?_⟩, _, hexec _, ?_⟩, fun htrain => ⟨_, hexec _, ?_⟩⟩
  · obtain ⟨f, heq, haligned, hheld, hfailed⟩ := alignmentAchieved_cases htrain deskew
    rw [heq, State.port_modPort_self]
    exact ⟨haligned, rfl, fun m hm => State.port_modPort_ne hm f s, hheld, hfailed⟩
  · exact upHoldExpiry_link hn hlink hlocal hremote hser
  · rw [alignmentLost_port hn halign]
    refine ⟨rfl, rfl, fun hdown => ?_⟩
    rw [alignmentLost_of_down halign hdown]
    exact ⟨counts_count _ s, onlyRegs_count_modPort _ _⟩
  · exact localFault_port hn hon cut
  · exact remoteFault_port hn hon cut
  · rw [trainTimeout_of_training htrain, State.port_modPort_self]
    exact ⟨counts_count _ s, rfl, rfl, onlyRegs_count_modPort _ _⟩

end Sys2Proof.Machine
end

section
namespace Sys2Proof.Machine

open Sys2Proof.Claims

/-! ## What a lookup leaves as it was (R140, R156) -/

/-- The registers that a parity report of a table may change. -/
def parityKeys (t : Nat) : List Nat :=
  [Reg.TBL_CNT_PARITY t, Reg.TBL_PARITY_LAST, Reg.TBL_PARITY_DIAL, Reg.LOG_CNT_QUEUE_DROP]

theorem State.reg_parityReport {t j : Nat} (h : j ∉ parityKeys t) (pipe index : Nat) (s : State) :
    (s.parityReport t pipe index).reg j = s.reg j := by
  obtain ⟨hcount, hlast, hdial, hdrop⟩ : j ≠ Reg.TBL_CNT_PARITY t ∧ j ≠ Reg.TBL_PARITY_LAST ∧
      j ≠ Reg.TBL_PARITY_DIAL ∧ j ≠ Reg.LOG_CNT_QUEUE_DROP := by simpa [parityKeys] using h
  unfold State.parityReport
  dsimp only
  rw [State.reg_logEvent _ _ _ _ hdrop, State.reg_setReg_ne hdial, State.reg_setReg_ne hlast, State.reg_count_ne hcount]

/-- Meeting an entry touches the tables, their reports and the logbook. -/
theorem State.meetEntry_frame (k pipe : Nat) (s : State) : s.meetEntry k pipe =
    { s with tables := (s.meetEntry k pipe).tables, regs := (s.meetEntry k pipe).regs,
             log := (s.meetEntry k pipe).log } := by
  unfold State.meetEntry
  dsimp only
  split
  · rw [State.parityReport_frame]
    rfl
  · rfl

theorem State.reg_meetEntry {k j : Nat} (h : j ∉ parityKeys (keyTable k)) (pipe : Nat) (s : State) :
    (s.meetEntry k pipe).reg j = s.reg j := by
  unfold State.meetEntry
  dsimp only
  split
  · exact State.reg_parityReport h ..
  · rfl

/-- A message's lookup meets and counts an entry of its table, or finds that there is none. -/
theorem State.riskTouch_cases (table pipe : Nat) (index : Option Nat) (s : State) :
    s.riskTouch table pipe index = s ∨ ∃ i k, i < 65536 ∧ k = entryKey table (lookupInst table pipe) i ∧
      s.riskTouch table pipe index = (s.meetEntry k pipe).countEntry k pipe := by
  cases index with
  | none => exact .inl rfl
  | some i =>
    by_cases hi : 65535 < i
    · exact .inl (if_pos hi)
    · exact .inr ⟨i, _, by omega, rfl, if_neg hi⟩

theorem State.riskTouch_frame (table pipe : Nat) (index : Option Nat) (s : State) : s.riskTouch table pipe index =
    { s with tables := (s.riskTouch table pipe index).tables, regs := (s.riskTouch table pipe index).regs,
             log := (s.riskTouch table pipe index).log } := by
  obtain h | ⟨_, k, _, _, h⟩ := s.riskTouch_cases table pipe index
  · rw [h]
  · rw [h, State.countEntry, State.modEntry, State.meetEntry_frame]

theorem State.reg_riskTouch {table pipe j : Nat}
    (h : ∀ i, i < 65536 → j ∉ parityKeys (keyTable (entryKey table (lookupInst table pipe) i))) (index : Option Nat)
    (s : State) : (s.riskTouch table pipe index).reg j = s.reg j := by
  obtain heq | ⟨i, k, hi, hk, heq⟩ := s.riskTouch_cases table pipe index
  · rw [heq]
  · rw [heq]
    exact State.reg_meetEntry (hk ▸ h i hi) pipe s

/-! ## What the risk checks look at (R81, R83) -/

theorem State.portOfLane_congr {s t : State} {n : Nat} (h : ∀ m, m / 32 = n / 32 → t.portMode m = s.portMode m) :
    t.portOfLane n = s.portOfLane n := by
  have hhead (l : Nat) (hl : l = 8 ∨ l = 4 ∨ l = 2) : t.portMode (n - n % l) = s.portMode (n - n % l) :=
    h _ (by rcases hl with rfl | rfl | rfl <;> omega)
  simp [State.portOfLane, List.find?, State.slotOn, hhead]

/-- A pipeline's margin follows from the modes of its slots. -/
theorem State.marginNow_congr {s t : State} {pipe : Nat} (h : ∀ m, m / 32 = pipe → t.portMode m = s.portMode m) :
    t.marginNow pipe = s.marginNow pipe := by
  have hslots : ∀ m ∈ (List.range 32).map fun j => 32 * pipe + j, t.portMode m = s.portMode m ∧
      (t.slotOn m && !t.isIdle m) = (s.slotOn m && !s.isIdle m) := by
    intro m hm
    obtain ⟨j, hj, rfl⟩ := List.mem_map.1 hm
    have hpipe : (32 * pipe + j) / 32 = pipe := by
      have := List.mem_range.1 hj
      omega
    have hlane := State.portOfLane_congr (s := s) (t := t) (n := 32 * pipe + j) (by rwa [hpipe])
    exact ⟨h _ hpipe, by simp only [State.slotOn, State.isIdle, h _ hpipe, hlane]⟩
  unfold State.marginNow
  rw [List.filter_congr fun m hm => (hslots m hm).2]
  refine List.foldl_ext _ _ _ fun a m hm => ?_
  rw [State.lmax, State.lmax, (hslots m (List.mem_filter.1 hm).1).1]

/-- A lookup for the risk checks sees the tables, the Dial and the modes of the pipeline's slots. -/
theorem State.riskEntry_congr {s t : State} {pipe : Nat} (htables : t.tables = s.tables) (htime : t.time = s.time)
    (hmode : ∀ m, m / 32 = pipe → t.portMode m = s.portMode m) (table : Nat) (stamp : Dial) (index : Option Nat) :
    t.riskEntry table pipe stamp index = s.riskEntry table pipe stamp index := by
  have hentry (k : Nat) : t.entry k = s.entry k := by rw [State.entry, htables, State.entry]
  have hdial : t.dial = s.dial := by rw [State.dial, htime, State.dial]
  have hmargin (o : OldContents) : t.margin o pipe = s.margin o pipe := by
    rw [State.margin, State.margin, State.marginNow_congr hmode]
  have himage (k : Nat) : t.imageAt k pipe stamp = s.imageAt k pipe stamp := by
    simp only [State.imageAt, hentry, hdial, hmargin]
  simp only [State.riskEntry, himage, hentry]

/-- The verdict's state: beside the FIFO's contents, which stay, the tables, their reports, the logbook and the
sessions may change. -/
theorem State.riskCheck_frame (n : Nat) (stamp : Dial) (v : RiskInput) (s : State) :
    (s.riskCheck n stamp v).2 =
      { s with tables := (s.riskCheck n stamp v).2.tables, regs := (s.riskCheck n stamp v).2.regs,
               log := (s.riskCheck n stamp v).2.log, pipes := (s.riskCheck n stamp v).2.pipes } := by
  unfold State.riskCheck
  dsimp only
  rw [State.riskTouch_frame, State.riskTouch_frame 0]
  split <;> rfl

/-- A pipeline's FIFO stays as it was while its messages are judged. -/
theorem State.fifo_riskCheck (n k : Nat) (stamp : Dial) (v : RiskInput) (s : State) :
    ((s.riskCheck n stamp v).2.pipe k).fifo = (s.pipe k).fifo := by
  have htouch : ∀ t : State, t.pipes = s.pipes → (t.pipe k).fifo = (s.pipe k).fifo := fun t ht => by
    rw [State.pipe, ht, State.pipe]
  unfold State.riskCheck
  dsimp only
  rw [State.riskTouch_frame, State.riskTouch_frame 0]
  split
  · exact htouch _ rfl
  · by_cases hk : k = n / 32
    · subst hk
      rw [State.pipe_modPipe_self]
      exact htouch _ rfl
    · rw [State.pipe_modPipe_ne hk]
      exact htouch _ rfl

/-- The count of order-class messages is not among the reports of the tables that the risk checks look at. -/
theorem order_not_mem_parityKeys (n table i : Nat) (htable : table ≤ 1) (hi : i < 65536) :
    Reg.PIPE_CNT_ORDER n ∉ parityKeys (keyTable (entryKey table (lookupInst table (n / 32)) i)) := by
  have hclear (t : Nat) (ht : t = n / 256 ∨ t = 1) : Reg.PIPE_CNT_ORDER n ∉ parityKeys t := by
    simp only [parityKeys, List.mem_cons, List.not_mem_nil, or_false, not_or, Reg.PIPE_CNT_ORDER, Reg.TBL_CNT_PARITY,
      Reg.TBL_PARITY_LAST, Reg.TBL_PARITY_DIAL, Reg.LOG_CNT_QUEUE_DROP]
    have hsplit : n / 32 = 8 * (n / 256) + n / 32 % 8 := by omega
    have hgroup : n / 256 = 0 ∨ 16 ≤ n / 256 ∨ 0 < n / 256 ∧ n / 256 < 16 := by omega
    omega
  obtain rfl | rfl : table = 0 ∨ table = 1 := by omega
  · refine hclear _ (.inl ?_)
    simp only [keyTable, entryKey, lookupInst, true_or, if_true]
    omega
  · refine hclear _ (.inr ?_)
    have hinst : lookupInst 1 (n / 32) = 0 := rfl
    simp only [keyTable, entryKey, hinst]
    omega

theorem State.reg_riskCheck_order (n : Nat) (stamp : Dial) (v : RiskInput) (s : State) :
    (s.riskCheck n stamp v).2.reg (Reg.PIPE_CNT_ORDER n) = s.reg (Reg.PIPE_CNT_ORDER n) := by
  have htouch : ((s.riskTouch 0 (n / 32) v.session).riskTouch 1 (n / 32) v.instrument).reg (Reg.PIPE_CNT_ORDER n) =
      s.reg (Reg.PIPE_CNT_ORDER n) := by
    rw [State.reg_riskTouch fun i => order_not_mem_parityKeys n 1 i (by omega),
      State.reg_riskTouch fun i => order_not_mem_parityKeys n 0 i (by omega)]
  unfold State.riskCheck
  dsimp only
  split
  · exact htouch
  · exact htouch

/-! ## An order-class message's way (R75, R79, R81, R93) -/

/-- An order-class message counted, a long one on an unprotected port in its own counter too. -/
def State.orderCounted (n : Nat) (f : List Byte) (s : State) : State :=
  let long := !s.macsecOn n && decide (1518 < f.length + 4)
  let s := s.count (Reg.PIPE_CNT_ORDER n)
  if long then s.count (Reg.PIPE_CNT_ORDER_LONG n) else s

/-- An admitted message judged, with the counts of a reject. -/
def State.judged (n : Nat) (stamp : Dial) (v : RiskInput) (s : State) : State :=
  let r := s.riskCheck n stamp v
  if r.1.1 = 0 then r.2
  else (r.2.count (Reg.PIPE_CNT_REJECT n)).count (Reg.PIPE_CNT_REJECT_REASON (n / 32) r.1.1)

/-- A message takes its slot's arrival index and joins its pipeline's FIFO. -/
def State.joinFifo (n : Nat) (m : Msg) (s : State) : State :=
  { s with arrivals := Store.put (fun _ => 0) n (m.arrival + 1) s.arrivals }.modPipe (n / 32) fun x =>
    { x with fifo := x.fifo ++ [m] }

section

variable (n : Nat) (f : List Byte) (stamp : Dial) (v : RiskInput) (s : State)

theorem State.orderCounted_frame : s.orderCounted n f = { s with regs := (s.orderCounted n f).regs } := by
  unfold State.orderCounted
  dsimp only
  split <;> rfl

theorem State.reg_orderCounted {k : Nat} (hk : k ≠ Reg.PIPE_CNT_ORDER_LONG n) :
    (s.orderCounted n f).reg k = (s.count (Reg.PIPE_CNT_ORDER n)).reg k := by
  unfold State.orderCounted
  dsimp only
  split
  · exact State.reg_count_ne hk _
  · rfl

/-- The modes of a pipeline's slots stand clear of the counters of its messages. -/
theorem State.portMode_orderCounted {m : Nat} (hm : m / 32 = n / 32) :
    (s.orderCounted n f).portMode m = s.portMode m := by
  have hlong : Reg.PORT_MODE m ≠ Reg.PIPE_CNT_ORDER_LONG n := by
    simp only [Reg.PORT_MODE, Reg.PIPE_CNT_ORDER_LONG]
    omega
  have horder : Reg.PORT_MODE m ≠ Reg.PIPE_CNT_ORDER n := by
    simp only [Reg.PORT_MODE, Reg.PIPE_CNT_ORDER]
    omega
  have hreg := (s.reg_orderCounted n f hlong).trans (State.reg_count_ne horder s)
  have hframe := s.orderCounted_frame n f
  simp only [State.portMode, State.voted, State.regB, State.regC, hreg]
  rw [hframe]

theorem State.dialStopped_orderCounted : (s.orderCounted n f).dialStopped = s.dialStopped := by
  have hlong : Reg.GEN_STATUS ≠ Reg.PIPE_CNT_ORDER_LONG n := by
    simp only [Reg.GEN_STATUS, Reg.PIPE_CNT_ORDER_LONG]
    omega
  have horder : Reg.GEN_STATUS ≠ Reg.PIPE_CNT_ORDER n := by
    simp only [Reg.GEN_STATUS, Reg.PIPE_CNT_ORDER]
    omega
  have hreg := (s.reg_orderCounted n f hlong).trans (State.reg_count_ne horder s)
  simp only [State.dialStopped, State.stopped, hreg]
  rw [State.orderCounted_frame]

/-- What is counted before a token is sought, and the policer's state, leave the rest as it was. -/
theorem State.orderCounted_modPolicer_frame (p : Policer → Policer) : (s.orderCounted n f).modPolicer n p =
    { s with regs := ((s.orderCounted n f).modPolicer n p).regs,
             policers := ((s.orderCounted n f).modPolicer n p).policers } := by
  rw [State.modPolicer, State.orderCounted_frame]

theorem State.reg_orderCounted_modPolicer (p : Policer → Policer) :
    ((s.orderCounted n f).modPolicer n p).reg (Reg.PIPE_CNT_ORDER n) = counterPlus 1 (s.reg (Reg.PIPE_CNT_ORDER n)) := by
  have hlong : Reg.PIPE_CNT_ORDER n ≠ Reg.PIPE_CNT_ORDER_LONG n := by
    simp only [Reg.PIPE_CNT_ORDER, Reg.PIPE_CNT_ORDER_LONG]
    omega
  rw [State.reg_congr (State.modPolicer_regs ..), State.reg_orderCounted n f s hlong, State.reg_count_self]

/-- A lookup for the risk checks does not see them. -/
theorem State.riskEntry_orderCounted (p : Policer → Policer) (table : Nat) (index : Option Nat) :
    ((s.orderCounted n f).modPolicer n p).riskEntry table (n / 32) stamp index =
      s.riskEntry table (n / 32) stamp index := by
  refine State.riskEntry_congr ?_ ?_ (fun m hm => ?_) table stamp index
  · rw [State.orderCounted_modPolicer_frame]
  · rw [State.orderCounted_modPolicer_frame]
  · exact (State.voted_congr (by simp) (by simp) (by simp) _).trans (s.portMode_orderCounted n f hm)

theorem State.judged_frame : s.judged n stamp v =
    { s with tables := (s.judged n stamp v).tables, regs := (s.judged n stamp v).regs,
             log := (s.judged n stamp v).log, pipes := (s.judged n stamp v).pipes } := by
  unfold State.judged
  dsimp only
  rw [State.riskCheck_frame]
  split <;> rfl

theorem State.fifo_judged (k : Nat) : ((s.judged n stamp v).pipe k).fifo = (s.pipe k).fifo := by
  have hcheck := s.fifo_riskCheck n k stamp v
  unfold State.judged
  dsimp only
  split <;> exact hcheck

theorem State.reg_judged_order :
    (s.judged n stamp v).reg (Reg.PIPE_CNT_ORDER n) = s.reg (Reg.PIPE_CNT_ORDER n) := by
  have hreject : Reg.PIPE_CNT_ORDER n ≠ Reg.PIPE_CNT_REJECT n := by
    simp only [Reg.PIPE_CNT_ORDER, Reg.PIPE_CNT_REJECT]
    omega
  have hreason (r : Nat) : Reg.PIPE_CNT_ORDER n ≠ Reg.PIPE_CNT_REJECT_REASON (n / 32) r := by
    simp only [Reg.PIPE_CNT_ORDER, Reg.PIPE_CNT_REJECT_REASON]
    omega
  have hcheck := s.reg_riskCheck_order n stamp v
  unfold State.judged
  dsimp only
  split
  · exact hcheck
  · rw [State.reg_count_ne (hreason _), State.reg_count_ne hreject, hcheck]

end

section

variable {n : Nat} {stamp : Dial} {s : State} (hdial : s.dialStopped = false) (d : Nat) (f : List Byte) (v : RiskInput)
include hdial

/-- Without a token the message is dropped and counted. -/
theorem State.orderMessage_dropped (hspent : (((s.policer n).upTo stamp).bucket.spend stamp).1 = false) :
    ∃ p, s.orderMessage n d stamp f v =
      ((s.orderCounted n f).modPolicer n p).count (Reg.PIPE_CNT_ADMIT_DROP n) := by
  have hstop : ¬(s.orderCounted n f).dialStopped = true := by simp [State.dialStopped_orderCounted, hdial]
  have hpolicer : (s.orderCounted n f).policer n = s.policer n := by rw [State.orderCounted_frame]; rfl
  unfold State.orderMessage
  extract_lets k long t u p
  have hu : s.orderCounted n f = u := rfl
  rw [hu] at hstop hpolicer ⊢
  rw [if_neg hstop]
  rw [← hpolicer] at hspent
  change (p.bucket.spend stamp).1 = false at hspent
  generalize p.bucket.spend stamp = x at hspent
  obtain ⟨ok, b⟩ := x
  simp only at hspent
  subst hspent
  exact ⟨_, rfl⟩

/-- With one it is judged, and joins its pipeline's FIFO under the slot's next arrival index. -/
theorem State.orderMessage_admitted (hspent : (((s.policer n).upTo stamp).bucket.spend stamp).1 = true) :
    ∃ p port, let u := (s.orderCounted n f).modPolicer n p
      let r := (u.riskCheck n stamp v).1
      let m : Msg := ⟨d, port, stamp, Store.get (fun _ => 0) (u.judged n stamp v).arrivals n, BitVec.ofNat 8 r.1,
        BitVec.ofNat 8 r.2, !s.macsecOn n && decide (1518 < f.length + 4), false, f⟩
      s.orderMessage n d stamp f v = (u.judged n stamp v).joinFifo n m := by
  have hstop : ¬(s.orderCounted n f).dialStopped = true := by simp [State.dialStopped_orderCounted, hdial]
  have hpolicer : (s.orderCounted n f).policer n = s.policer n := by rw [State.orderCounted_frame]; rfl
  unfold State.orderMessage
  extract_lets k long t u p
  have hu : s.orderCounted n f = u := rfl
  rw [hu] at hstop hpolicer ⊢
  rw [if_neg hstop]
  rw [← hpolicer] at hspent
  change (p.bucket.spend stamp).1 = true at hspent
  generalize p.bucket.spend stamp = x at hspent
  obtain ⟨ok, b⟩ := x
  simp only at hspent
  subst hspent
  exact ⟨_, _, rfl⟩

/-- Whether it spends a token or not, the message is counted. -/
theorem State.counts_orderMessage : counts (Reg.PIPE_CNT_ORDER n) 1 s (s.orderMessage n d stamp f v) := by
  rw [counts_one_iff]
  cases hspent : (((s.policer n).upTo stamp).bucket.spend stamp).1 with
  | false =>
    obtain ⟨p, heq⟩ := State.orderMessage_dropped hdial d f v hspent
    have hdrop : Reg.PIPE_CNT_ORDER n ≠ Reg.PIPE_CNT_ADMIT_DROP n := by
      simp only [Reg.PIPE_CNT_ORDER, Reg.PIPE_CNT_ADMIT_DROP]
      omega
    rw [heq, State.reg_count_ne hdrop, State.reg_orderCounted_modPolicer]
  | true =>
    obtain ⟨p, port, heq⟩ := State.orderMessage_admitted hdial d f v hspent
    extract_lets u r m at heq
    have hregs : ((u.judged n stamp v).joinFifo n m).regs = (u.judged n stamp v).regs := rfl
    rw [heq, State.reg_congr hregs, State.reg_judged_order, State.reg_orderCounted_modPolicer]

/-- A message without a token is counted as dropped, and takes no place and no arrival index. -/
theorem State.orderMessage_without_token (hspent : (((s.policer n).upTo stamp).bucket.spend stamp).1 = false) :
    let t := s.orderMessage n d stamp f v
    counts (Reg.PIPE_CNT_ADMIT_DROP n) 1 s t ∧ (t.pipe (n / 32)).fifo = (s.pipe (n / 32)).fifo ∧
      t.arrivals = s.arrivals := by
  obtain ⟨p, heq⟩ := State.orderMessage_dropped hdial d f v hspent
  have horder : Reg.PIPE_CNT_ADMIT_DROP n ≠ Reg.PIPE_CNT_ORDER n := by
    simp only [Reg.PIPE_CNT_ORDER, Reg.PIPE_CNT_ADMIT_DROP]
    omega
  have hlong : Reg.PIPE_CNT_ADMIT_DROP n ≠ Reg.PIPE_CNT_ORDER_LONG n := by
    simp only [Reg.PIPE_CNT_ADMIT_DROP, Reg.PIPE_CNT_ORDER_LONG]
    omega
  have hframe := s.orderCounted_modPolicer_frame n f p
  rw [heq]
  refine ⟨?_, ?_, ?_⟩
  · rw [counts_one_iff, State.reg_count_self, State.reg_congr (State.modPolicer_regs ..),
      State.reg_orderCounted n f s hlong, State.reg_count_ne horder]
  · rw [hframe]
    rfl
  · rw [hframe]
    rfl

/-- A message with a token joins the FIFO with the verdict's reason, under the slot's next arrival index. -/
theorem State.orderMessage_with_token (hspent : (((s.policer n).upTo stamp).bucket.spend stamp).1 = true) :
    let t := s.orderMessage n d stamp f v
    let fails := riskFails n v (s.riskEntry 0 (n / 32) stamp v.session) (s.riskEntry 1 (n / 32) stamp v.instrument)
      (s.passedIn (n / 32) (v.session.getD 0) (stamp.ns / 1000000))
    ∃ m : Msg, (t.pipe (n / 32)).fifo = (s.pipe (n / 32)).fifo ++ [m] ∧ m.domain = d ∧ m.stamp = stamp ∧
      m.bytes = f ∧ m.reason = BitVec.ofNat 8 (riskVerdict fails).1 ∧
      m.arrival = Store.get (fun _ => 0) s.arrivals n ∧ Store.get (fun _ => 0) t.arrivals n = m.arrival + 1 := by
  intro t fails
  obtain ⟨p, port, heq⟩ := State.orderMessage_admitted hdial d f v hspent
  extract_lets u r m at heq
  have ht : t = _ := heq
  have hframe : u = _ := s.orderCounted_modPolicer_frame n f p
  have hpipes : u.pipes = s.pipes := by rw [hframe]
  have hpipe (k : Nat) : u.pipe k = s.pipe k := by rw [State.pipe, hpipes, State.pipe]
  have harrivals : (u.judged n stamp v).arrivals = s.arrivals := by
    rw [State.judged_frame, hframe]
  have hverdict : r = riskVerdict fails := by
    have hr : r = riskVerdict (riskFails n v (u.riskEntry 0 (n / 32) stamp v.session)
      (u.riskEntry 1 (n / 32) stamp v.instrument) (u.passedIn (n / 32) (v.session.getD 0) (stamp.ns / 1000000))) := rfl
    rw [hr, State.riskEntry_orderCounted, State.riskEntry_orderCounted, State.passedIn, hpipe]
    rfl
  refine ⟨m, ?_, rfl, rfl, rfl, ?_, ?_, ?_⟩
  · have hfifo := (u.fifo_judged n stamp v (n / 32)).trans (congrArg PipeState.fifo (hpipe _))
    rw [ht, State.joinFifo, State.pipe_modPipe_self, ← hfifo]
    rfl
  · rw [← hverdict]
  · exact congrArg (fun xs => Store.get (fun _ => 0) xs n) harrivals
  · rw [ht]
    exact Store.get_put_self ..

end

/-- Settles O23: the count (State.counts_orderMessage), and by the token the drop (State.orderMessage_without_token) or the
place in the FIFO (State.orderMessage_with_token). -/
theorem orderMessagesAdmitted : Obligations.OrderMessagesAdmitted := by
  unfold Obligations.OrderMessagesAdmitted
  intro n d stamp f v s hdial
  exact ⟨State.counts_orderMessage hdial d f v, State.orderMessage_without_token hdial d f v,
    State.orderMessage_with_token hdial d f v⟩

end Sys2Proof.Machine
end

section
namespace Sys2Proof.Machine

open Sys2Proof.Claims

/-! ## Completing the operation at the head of a table-update ring (R154, R247, R255) -/

/-- What tableAt says of its ring. -/
theorem tableAt_iff {c op : Nat} {x : Taken} {s : State} :
    tableAt c op x s = true ↔ c < 65536 ∧ s.clocked = true ∧ atHead c x s = true ∧ (s.ring c).type = 4 ∧
      s.updHeld c = false ∧ opAllowed (updTable x.desc) op = true ∧ updOp x.desc = op ∧
      indexOk (updTable x.desc) (updTarget x.desc) (updIndex x.desc) = true ∧
      s.updShared (s.ring c).owner (updTable x.desc) (updTarget x.desc) (updIndex x.desc) = true := by
  simp [tableAt, and_assoc]

/-- Completing an operation changes registers, the rings, the links, the functions, the output and the ledger. -/
theorem State.updDone_frame (c : Nat) (x : Taken) (status : Nat) (s : State) : s.updDone c x status =
    { s with regs := (s.updDone c x status).regs, rings := (s.updDone c x status).rings,
             links := (s.updDone c x status).links, funs := (s.updDone c x status).funs,
             out := (s.updDone c x status).out, ledger := (s.updDone c x status).ledger,
             aud := (s.updDone c x status).aud } := by
  unfold State.updDone State.endTally
  dsimp only
  rw [State.complete_frame, State.ledgerWord_frame]
  split <;> rfl

/-- The operation at the head of a ring completes with a status, whatever it has changed beside the rings, the links, the
functions, the ledger and TIME. -/
theorem tableEnds_updDone {c : Nat} {x : Taken} {s t : State} (status : Nat) (hhead : atHead c x s = true)
    (hrings : t.rings = s.rings) (hlinks : t.links = s.links) (hfuns : t.funs = s.funs) (hledger : t.ledger = s.ledger)
    (htime : t.time = s.time) : tableEnds c status x s (t.updDone c x status) := by
  obtain ⟨_, hfind, habandoned, hheld⟩ := atHead_iff.1 hhead
  unfold State.updDone
  extract_lets u
  have hu : u = { t with regs := u.regs } := by
    unfold u
    split <;> rfl
  have hdial : u.dialNs = s.dialNs := by
    rw [hu]
    simp only [State.dialNs, State.dial, htime]
  generalize hdelay : u.dialNs - x.acceptNs = delay
  rw [hdial] at hdelay
  constructor
  · have hring : (u.endTally x.tally status delay c).ring c = s.ring c := by
      rw [State.endTally, State.ledgerWord_frame, hu]
      simp [State.ring, hrings]
    have hopen : (u.endTally x.tally status delay c).dmaOpen (s.ring c).owner = s.dmaOpen (s.ring c).owner := by
      rw [State.endTally, State.ledgerWord_frame, hu]
      simp [State.dmaOpen, State.dmaLost, State.link, State.fn, hlinks, hfuns]
    rw [oneDone, issues_eq_dmaOpen, State.doneCur_complete _ (by rw [hring]; exact hfind) habandoned hheld, hring, hopen]
  · rw [State.complete_frame, hdelay]
    refine State.ledgerWord_ledger_congr ?_ _ _
    rw [hu]
    exact hledger

/-- What a link brings for a function whose link is not frozen is acted on. -/
theorem onLink_of_arrives {o : Party} {s : State} (h : arrives o s = true) (i : Instr) (f : State → State) :
    onLink o i f s = f s := by
  unfold onLink
  split
  · next p hp =>
    have hfrozen : (s.link p).frozen = false := by simpa [arrives, hp] using h
    simp [hfrozen]
  · rfl

section

variable {c op : Nat} {x : Taken} {s : State} (h : tableAt c op x s = true)
include h

/-- The operation at the head of the ring is acted on. -/
theorem onTable_of_tableAt (f : Taken → State → State) : onTable c op f s = f x s := by
  obtain ⟨_, _, hat, htype, hheld, hallow, hop, hindex, hshared⟩ := tableAt_iff.1 h
  obtain ⟨hhead, _⟩ := atHead_iff.1 hat
  simp [onTable, hhead, htype, hheld, hallow, hop, hindex, hshared]

/-- One that its link brings data for. -/
theorem within_onTable (harr : arrives (s.ring c).owner s = true) (i : Instr) (f : Taken → State → State) :
    within (decide (c < 65536)) (whenClocked (onLink (s.ring c).owner i (onTable c op f)) s) s = .next (f x s) := by
  obtain ⟨hc, hclock, _⟩ := tableAt_iff.1 h
  rw [decide_eq_true hc, within_true, whenClocked_of hclock, onLink_of_arrives harr, onTable_of_tableAt h]

/-- An operation on well-formed prefixes is acted on with the address and the length that its image gives. -/
theorem onPrefix_of_tableAt {b : List Byte}
    (hok : prefixOk (decide (updTable x.desc = 7)) (imagePrefix (decide (updTable x.desc = 7)) b).1
      (imagePrefix (decide (updTable x.desc = 7)) b).2 = true) (f : List Byte → Nat → Nat → State → State) :
    onPrefix c (some b) x f s = f b (imagePrefix (decide (updTable x.desc = 7)) b).1
      (imagePrefix (decide (updTable x.desc = 7)) b).2 s := by
  obtain ⟨_, _, hat, _⟩ := tableAt_iff.1 h
  obtain ⟨_, _, habandoned, _⟩ := atHead_iff.1 hat
  unfold onPrefix
  simp [Taken.data, habandoned, hok]

end

/-! ## Prefixes (R148, R149, R153) -/

section

variable {c : Nat} {x : Taken} {s : State} {b : List Byte}

/-- An operation that stores prefixes and rewrites their nodes completes. -/
theorem updDone_prefixes (hhead : atHead c x s = true) (l : List Prefix) (p : Prefix) :
    tableEnds c 0 x s (({ s with lpm := l }.rewriteNodes p).updDone c x 0) ∧
      (({ s with lpm := l }.rewriteNodes p).updDone c x 0).lpm = l :=
  ⟨tableEnds_updDone 0 hhead rfl rfl rfl rfl rfl, by rw [State.updDone_frame]; rfl⟩

/-- A refused one leaves the prefixes as they are. -/
theorem updDone_refused (hhead : atHead c x s = true) (status : Nat) :
    tableEnds c status x s (s.updDone c x status) ∧ (s.updDone c x status).lpm = s.lpm :=
  ⟨tableEnds_updDone status hhead rfl rfl rfl rfl rfl, by rw [State.updDone_frame]⟩

variable (hok : prefixOk (decide (updTable x.desc = 7)) (imagePrefix (decide (updTable x.desc = 7)) b).1
  (imagePrefix (decide (updTable x.desc = 7)) b).2 = true)
include hok

theorem tableInsert_ends (h : tableAt c 4 x s = true) :
    let v6 := decide (updTable x.desc = 7)
    let len := (imagePrefix v6 b).1
    let addr := (imagePrefix v6 b).2
    let pair := updTarget x.desc
    let here := fun (p : Prefix) => p.names pair v6 len addr
    let new : Prefix := ⟨pair, v6, addr / 2 ^ (lpmWidth v6 - len), len, leField b 20 2⟩
    let t := tableInsert c (some b) x s
    (s.lpm.any here = true → tableEnds c 0 x s t ∧
      t.lpm = s.lpm.map fun p => if here p then { p with nexthop := leField b 20 2 } else p) ∧
    (s.lpm.any here = false → maxPrefixes v6 ≤ (s.prefixes pair v6).length → tableEnds c 7 x s t ∧ t.lpm = s.lpm) ∧
    (s.lpm.any here = false → (s.prefixes pair v6).length < maxPrefixes v6 →
      16384 < lpmBlocks (new :: s.prefixes pair v6) → tableEnds c 8 x s t ∧ t.lpm = s.lpm) ∧
    (s.lpm.any here = false → (s.prefixes pair v6).length < maxPrefixes v6 →
      lpmBlocks (new :: s.prefixes pair v6) ≤ 16384 → tableEnds c 0 x s t ∧ t.lpm = s.lpm ++ [new]) := by
  intro v6 len addr pair here new t
  obtain ⟨_, _, hhead, _⟩ := tableAt_iff.1 h
  have ht : t = if s.lpm.any here = true then
        ({ s with lpm := s.lpm.map fun p => if here p then { p with nexthop := leField b 20 2 } else p }.rewriteNodes
          new).updDone c x 0
      else if maxPrefixes v6 ≤ (s.prefixes pair v6).length then s.updDone c x 7
      else if 16384 < lpmBlocks (new :: s.prefixes pair v6) then s.updDone c x 8
      else ({ s with lpm := s.lpm ++ [new] }.rewriteNodes new).updDone c x 0 := by
    unfold t tableInsert
    exact onPrefix_of_tableAt h hok _
  refine ⟨fun hin => ?_, fun hout hfull => ?_, fun hout hroom hblocks => ?_, fun hout hroom hblocks => ?_⟩
  · rw [ht, if_pos hin]
    exact updDone_prefixes hhead _ _
  · rw [ht, if_neg (by simp [hout]), if_pos hfull]
    exact updDone_refused hhead 7
  · rw [ht, if_neg (by simp [hout]), if_neg (by omega), if_pos hblocks]
    exact updDone_refused hhead 8
  · rw [ht, if_neg (by simp [hout]), if_neg (by omega), if_neg (by omega)]
    exact updDone_prefixes hhead _ _

theorem tableDelete_ends (h : tableAt c 5 x s = true) :
    let v6 := decide (updTable x.desc = 7)
    let here := fun (p : Prefix) => p.names (updTarget x.desc) v6 (imagePrefix v6 b).1 (imagePrefix v6 b).2
    let t := tableDelete c (some b) x s
    (s.lpm.any here = true → tableEnds c 0 x s t ∧ t.lpm = s.lpm.filter fun p => !here p) ∧
    (s.lpm.any here = false → tableEnds c 9 x s t ∧ t.lpm = s.lpm) := by
  intro v6 here t
  obtain ⟨_, _, hhead, _⟩ := tableAt_iff.1 h
  have ht : ∃ p, t = if s.lpm.any here = true then
      ({ s with lpm := s.lpm.filter fun p => !here p }.rewriteNodes p).updDone c x 0 else s.updDone c x 9 := by
    unfold t tableDelete
    exact ⟨_, onPrefix_of_tableAt h hok _⟩
  obtain ⟨p, ht⟩ := ht
  refine ⟨fun hin => ?_, fun hout => ?_⟩
  · rw [ht, if_pos hin]
    exact updDone_prefixes hhead _ _
  · rw [ht, if_neg (by simp [hout])]
    exact updDone_refused hhead 9

end

/-! ## Old contents, ageing and the scrubber (R83, R156, R157) -/

theorem State.entry_congr {s t : State} (h : t.tables = s.tables) (k : Nat) : t.entry k = s.entry k := by
  rw [State.entry, h, State.entry]

@[simp] theorem State.entry_modEntry_self (k : Nat) (f : Entry → Entry) (s : State) :
    (s.modEntry k f).entry k = f (s.entry k) := by
  simp [State.entry, State.modEntry, Store.modify]

theorem State.entry_modEntry_ne {j k : Nat} (h : j ≠ k) (f : Entry → Entry) (s : State) :
    (s.modEntry k f).entry j = s.entry j := by
  simp [State.entry, State.modEntry, Store.modify, Store.get_put_ne _ h]

/-- Old contents whose margin has passed, and which no held operation waits for, are given up, and nothing else is. -/
theorem entry_oldContentsRelease {table inst index k : Nat} {o : OldContents} {s : State}
    (hk : entryKey table (tableInst table inst) index = k) (hold : (s.entry k).old = some o)
    (hdone : s.oldDone k o = true) (hwait : ∀ h ∈ s.heldUpd, h.key ≠ k) :
    (oldContentsRelease table inst index s).entry k = { s.entry k with old := none } ∧
      ∀ j, j ≠ k → (oldContentsRelease table inst index s).entry j = s.entry j := by
  have hnone : s.heldUpd.filter (fun h => h.key == k) = [] :=
    List.filter_eq_nil_iff.2 fun h hh => by simpa using hwait h hh
  have htables : (oldContentsRelease table inst index s).tables =
      (s.modEntry k fun e => { e with old := none }).tables := by
    unfold oldContentsRelease
    dsimp only
    rw [hk, hold]
    dsimp only
    rw [hdone, hnone]
    rfl
  exact ⟨(State.entry_congr htables k).trans (State.entry_modEntry_self k _ s),
    fun j hj => (State.entry_congr htables j).trans (State.entry_modEntry_ne hj _ s)⟩

section

variable (pipe : Nat) (s : State)

/-- A pass visits the entries of its pipeline's MAC table but those hit in its cycle. -/
theorem State.tables_sweep : (s.sweep pipe).tables = (s.tables.map fun (j, e) =>
    (j, if keyTable j = 2 ∧ keyInst j = pipe ∧ (s.pipe pipe).hitNow.contains (s.clock, j) = false then e.visit
      else e)).filter (fun x => x.2 != Entry.empty) := by
  unfold State.sweep
  dsimp only
  rw [State.countBy_frame]
  refine congrArg (List.filter _) (List.map_congr_left fun x _ => ?_)
  obtain ⟨j, e⟩ := x
  simp [and_assoc]

theorem State.sweeping_sweep : (s.sweep pipe).sweeping pipe = s.sweeping pipe - 1 := by
  unfold State.sweep State.sweeping
  dsimp only
  rw [State.countBy_frame]
  exact Store.get_put_self ..

theorem State.reg_sweep {k : Nat} (h : k ≠ Reg.TBL_CNT_AGED pipe) : (s.sweep pipe).reg k = s.reg k :=
  State.reg_countBy_ne h _ s

end

/-- The key of an entry names its table. -/
theorem keyTable_entryKey {table inst index : Nat} (hinst : inst < 8) (hindex : index < 0x100000) :
    keyTable (entryKey table inst index) = table := by
  simp only [keyTable, entryKey]
  omega

theorem tableInst_lt {inst : Nat} (h : inst < 8) (table : Nat) : tableInst table inst < 8 := by
  unfold tableInst
  split <;> omega

@[simp] theorem State.parityReport_tables (t pipe index : Nat) (s : State) :
    (s.parityReport t pipe index).tables = s.tables := by
  rw [State.parityReport_frame]

/-- A parity report counts for its table, and latches the Dial. -/
theorem State.parityReport_spec {t : Nat} (ht : t < 6) (pipe index : Nat) (s : State) :
    counts (Reg.TBL_CNT_PARITY t) 1 s (s.parityReport t pipe index) ∧
      (s.parityReport t pipe index).reg Reg.TBL_PARITY_DIAL = word s.dialNs := by
  have hne : Reg.TBL_CNT_PARITY t ≠ Reg.LOG_CNT_QUEUE_DROP ∧ Reg.TBL_CNT_PARITY t ≠ Reg.TBL_PARITY_DIAL ∧
      Reg.TBL_CNT_PARITY t ≠ Reg.TBL_PARITY_LAST := by
    simp only [Reg.TBL_CNT_PARITY, Reg.LOG_CNT_QUEUE_DROP, Reg.TBL_PARITY_DIAL, Reg.TBL_PARITY_LAST]
    omega
  obtain ⟨hdrop, hdial, hlast⟩ := hne
  unfold State.parityReport
  dsimp only
  constructor
  · rw [counts_one_iff, State.reg_logEvent _ _ _ _ hdrop, State.reg_setReg_ne hdial, State.reg_setReg_ne hlast,
      State.reg_count_self]
  · rw [State.reg_logEvent _ _ _ _ (by decide), State.reg_setReg_self]
    rfl

/-- A bad copy that nobody has met is marked as reported, and reported. -/
theorem meetEntry_reports {k pipe : Nat} {s : State} (hk : keyTable k < 6)
    (hbad : (s.entry k).bad (entryCopy k pipe) = true)
    (hnew : (s.entry k).reported.getLsbD (entryCopy k pipe) = false) :
    let t := s.meetEntry k pipe
    t.entry k = { s.entry k with reported := (s.entry k).reported ||| BitVec.ofNat 8 (2 ^ entryCopy k pipe) } ∧
      counts (Reg.TBL_CNT_PARITY (keyTable k)) 1 s t ∧ t.reg Reg.TBL_PARITY_DIAL = word s.dialNs := by
  intro t
  have ht : t = (s.modEntry k fun e => { e with reported := e.reported ||| BitVec.ofNat 8 (2 ^ entryCopy k pipe) }).parityReport
      (keyTable k) (reportPipe k pipe) (keyIndex k) := if_pos (by rw [hbad, hnew]; rfl)
  obtain ⟨hcount, hdial⟩ := State.parityReport_spec hk (reportPipe k pipe) (keyIndex k)
    (s.modEntry k fun e => { e with reported := e.reported ||| BitVec.ofNat 8 (2 ^ entryCopy k pipe) })
  rw [ht]
  exact ⟨(State.entry_congr (State.parityReport_tables ..) k).trans (State.entry_modEntry_self k _ s), hcount, hdial⟩

/-- A command of the tables' own time runs while the clocks do. -/
theorem within_clocked {ok : Bool} {s : State} (hok : ok = true) (hclock : s.clocked = true) (f : State → State) :
    within ok (whenClocked f s) s = .next (f s) := by
  rw [hok, within_true, whenClocked_of hclock]

/-- Settles O26: the insertion and the deletion of prefixes (tableInsert_ends, tableDelete_ends), the release of old contents
(entry_oldContentsRelease), a pass's visits (State.tables_sweep) and the scrubber's report (meetEntry_reports). -/
theorem prefixesAndAgeing : Obligations.PrefixesAndAgeing := by
  unfold Obligations.PrefixesAndAgeing
  constructor
  · intro c x b s v6 len addr pair here new hok harr
    exact ⟨fun h => ⟨_, within_onTable h harr _ _, tableInsert_ends hok h⟩,
      fun h => ⟨_, within_onTable h harr _ _, tableDelete_ends hok h⟩⟩
  · intro table inst index pipe s hclock hpipe hinst hindex k
    refine ⟨fun o hold hdone hwait => ⟨_, within_clocked rfl hclock _, entry_oldContentsRelease rfl hold hdone hwait⟩, ?_, ?_⟩
    · refine ⟨fun hone => ⟨_, within_clocked (decide_eq_true hpipe) hclock _, ?_⟩,
        fun hmany => ⟨_, within_clocked (decide_eq_true hpipe) hclock _, ?_⟩⟩
      · rw [sweepPass, if_pos hone]
        exact ⟨s.tables_sweep pipe, (s.sweeping_sweep pipe).trans (by rw [hone])⟩
      · rw [sweepOverrun, if_pos hmany]
        refine ⟨s.tables_sweep pipe, s.sweeping_sweep pipe, ?_⟩
        have hne : Reg.TBL_CNT_SWEEP_OVERRUN ≠ Reg.TBL_CNT_AGED pipe := by
          simp only [Reg.TBL_CNT_SWEEP_OVERRUN, Reg.TBL_CNT_AGED]
          omega
        rw [counts_one_iff, State.reg_count_self, s.reg_sweep pipe hne]
    · intro i htable hbad hnew
      have hkey : keyTable k < 6 := by
        rw [keyTable_entryKey (tableInst_lt hinst table) hindex]
        exact htable
      refine ⟨_, within_clocked rfl hclock _, ?_⟩
      rw [tableScrub, if_pos htable]
      exact meetEntry_reports hkey hbad hnew

end Sys2Proof.Machine
end

section
namespace Sys2Proof.Machine

open Sys2Proof.Claims

/-! ## The receive filter (R61, R63, R69) -/

/-- A dropped frame counts in its counter and, with its stamp, in the slot's; nothing else changes. -/
theorem rxDrop_spec {n key : Nat} (hkey : key ≠ Reg.PORT_CNT_STAMP_DISCARD n) (s : State) :
    counts key 1 s (s.rxDrop n key) ∧ counts (Reg.PORT_CNT_STAMP_DISCARD n) 1 s (s.rxDrop n key) ∧
      onlyRegs [key, Reg.PORT_CNT_STAMP_DISCARD n] s (s.rxDrop n key) := by
  unfold State.rxDrop
  refine ⟨?_, ?_, rfl, fun k hk => ?_⟩
  · rw [counts_one_iff, State.reg_count_ne hkey, State.reg_count_self]
  · rw [counts_one_iff, State.reg_count_self, State.reg_count_ne hkey.symm]
  · obtain ⟨hk1, hk2⟩ : k ≠ key ∧ k ≠ Reg.PORT_CNT_STAMP_DISCARD n := by simpa using hk
    rw [State.reg_count_ne hk2, State.reg_count_ne hk1]

theorem exec_frameReceived {r : RxFrame} {s : State} (hlane : r.lane < 256) (hrun : running 2 s = true) :
    exec (.frameReceived r) s = .next (frameReceived r s) := by
  change within (decide (r.lane < 256)) (whenClocked (unlessStopped 2 (frameReceived r)) s) s = _
  rw [decide_eq_true hlane, within_true, whenClocked_of (running_iff.1 hrun).1, unlessStopped_running hrun]

section

variable {r : RxFrame} {s : State}

theorem frameReceived_of_down (hdown : s.isUp (s.portOfLane r.lane) = false) : frameReceived r s = s := by
  simp [frameReceived, hdown]

/-- The filters, in their order: the frame's FCS, a runt, MAX_FRAME, and PAUSE and PFC on a port that is no infrastructure
port. -/
theorem frameReceived_filtered (hup : s.isUp (s.portOfLane r.lane) = true) :
    let n := s.portOfLane r.lane
    let f := r.bytes.take (r.bytes.length - 4)
    let len := r.bytes.length - (if s.macsecOn n then secOverhead f else 0)
    let pause := decide (etherType f = 0x8808) && decide (beField f 14 2 = 1 ∨ beField f 14 2 = 0x0101) && !s.isInfra n
    r.bytes.drop f.length ≠ fcsBytes f ∨ r.bytes.length < 64 ∨ s.maxFrame n < len ∨ pause = true →
    frameReceived r s = s.rxDrop n
      (if r.bytes.drop f.length ≠ fcsBytes f then Reg.PORT_CNT_RX_FCS_ERR n
      else if r.bytes.length < 64 then Reg.PORT_CNT_RX_RUNT n
      else if s.maxFrame n < len then Reg.PORT_CNT_RX_OVERSIZE n else Reg.PORT_CNT_PAUSE_IGNORED n) := by
  intro n f len pause hbad
  unfold frameReceived
  dsimp only
  rw [if_neg (by simpa using hup)]
  by_cases hfcs : r.bytes.drop f.length ≠ fcsBytes f
  · rw [if_pos hfcs, if_pos hfcs]
  rw [if_neg hfcs, if_neg hfcs]
  by_cases hrunt : r.bytes.length < 64
  · rw [if_pos hrunt, if_pos hrunt]
  rw [if_neg hrunt, if_neg hrunt]
  by_cases hlong : s.maxFrame n < len
  · rw [if_pos hlong, if_pos hlong]
  rw [if_neg hlong, if_neg hlong]
  have hpause : pause = true := by simpa [hfcs, hrunt, hlong] using hbad
  obtain ⟨⟨htype, hop⟩, hinfra⟩ : (etherType f = 0x8808 ∧ (beField f 14 2 = 1 ∨ beField f 14 2 = 0x0101)) ∧
      s.isInfra n = false := by simpa [pause] using hpause
  rw [if_pos ⟨htype, hop⟩, if_neg (by simp [n, hinfra])]

end

/-! ## A good frame on its way to the pipeline (R63, R69) -/

/-- What receivable says of a frame. -/
theorem receivable_iff {r : RxFrame} {s : State} :
    receivable r s = true ↔
      let n := s.portOfLane r.lane
      let f := r.bytes.take (r.bytes.length - 4)
      r.lane < 256 ∧ running 2 s = true ∧ s.isUp n = true ∧ s.macsecOn n = false ∧ s.isInfra n = false ∧
        r.bytes.drop f.length = fcsBytes f ∧ (64 ≤ r.bytes.length ∧ r.bytes.length ≤ s.maxFrame n) ∧
        ¬(etherType f = 0x8808 ∧ (beField f 14 2 = 1 ∨ beField f 14 2 = 0x0101)) := by
  simp [receivable, RxFrame.wf, and_assoc, -not_and, not_and_or]

section

variable (n : Nat) (f : List Byte) (s : State)

theorem State.rxCount_frame : s.rxCount n f = { s with regs := (s.rxCount n f).regs } := by
  rw [State.rxCount, State.countBy_frame]
  rfl

theorem State.reg_rxCount {k : Nat} (hframes : k ≠ Reg.PORT_CNT_RX_FRAMES n) (hbytes : k ≠ Reg.PORT_CNT_RX_BYTES n) :
    (s.rxCount n f).reg k = s.reg k := by
  rw [State.rxCount, State.reg_countBy_ne hbytes, State.reg_count_ne hframes]

/-- A slot's mode follows from the three copies of its PORT_MODE. -/
theorem State.portMode_congr {n : Nat} {s t : State} (hreg : t.reg (Reg.PORT_MODE n) = s.reg (Reg.PORT_MODE n))
    (hb : t.copyB = s.copyB) (hc : t.copyC = s.copyC) : t.portMode n = s.portMode n := by
  simp only [State.portMode, State.voted, State.regB, State.regC, hreg, hb, hc]

theorem State.isInfra_rxCount : (s.rxCount n f).isInfra n = s.isInfra n := by
  have hreg : (s.rxCount n f).reg (Reg.PORT_MODE n) = s.reg (Reg.PORT_MODE n) :=
    State.reg_rxCount n f s (by simp [Reg.PORT_MODE, Reg.PORT_CNT_RX_FRAMES])
      (by simp [Reg.PORT_MODE, Reg.PORT_CNT_RX_BYTES])
  have hmode : (s.rxCount n f).portMode n = s.portMode n :=
    State.portMode_congr hreg (by rw [State.rxCount_frame]) (by rw [State.rxCount_frame])
  rw [State.isInfra, hmode, State.isInfra]

end

/-- A frame that neither a filter drops nor MAC control takes is counted and enters its pipeline. -/
theorem frameReceived_receivable {r : RxFrame} {s : State} (h : receivable r s = true) :
    let n := s.portOfLane r.lane
    let f := r.bytes.take (r.bytes.length - 4)
    exec (.frameReceived r) s =
      .next ((s.rxCount n f).pipeline n (s.stamp (laneMode (s.portMode n)) n r) false ⟨f, none⟩) := by
  intro n f
  obtain ⟨hlane, hrun, hup, hsec, hinfra, hfcs, ⟨hrunt, hlong⟩, hpause⟩ := receivable_iff.1 h
  have hgood (stamp : Dial) : s.rxGood n stamp false f = (s.rxCount n f).pipeline n stamp false ⟨f, none⟩ := by
    unfold State.rxGood
    dsimp only
    rw [State.isInfra_rxCount, hinfra, Bool.false_and]
    rfl
  rw [exec_frameReceived hlane hrun, ← hgood]
  unfold frameReceived
  dsimp only
  rw [if_neg (by simpa using hup), if_neg (not_not_intro hfcs), if_neg (by omega), hsec, if_neg (by simpa using hlong),
    if_neg hpause]
  rfl

/-! ## The class map (R72, R156) -/

/-- A frame on its way through the class map: of the registers below TBL's the slot's count of fragments may differ, and
beside the registers the tables and the logbook. -/
structure ClassOnly (n : Nat) (s t : State) : Prop where
  frame : t = { s with tables := t.tables, regs := t.regs, log := t.log }
  reg : ∀ k, k < 0x600000 → k ≠ Reg.PIPE_CNT_FRAG n → t.reg k = s.reg k

namespace ClassOnly

theorem refl (n : Nat) (s : State) : ClassOnly n s s := ⟨rfl, fun _ _ _ => rfl⟩

section

variable {n : Nat} {s t : State} (h : ClassOnly n s t)
include h

theorem trans {u : State} (h' : ClassOnly n t u) : ClassOnly n s u :=
  ⟨by rw [h'.frame, h.frame], fun k hk hf => (h'.reg k hk hf).trans (h.reg k hk hf)⟩

theorem foldl {α : Type} {f : State → α → State} (hf : ∀ u x, ClassOnly n u (f u x)) (xs : List α) :
    ClassOnly n s (xs.foldl f t) := by
  induction xs generalizing t with
  | nil => exact h
  | cons x xs ih => exact ih (h.trans (hf t x))

theorem meetEntry (k pipe : Nat) : ClassOnly n s (t.meetEntry k pipe) := by
  refine h.trans ⟨State.meetEntry_frame k pipe t, fun j hj _ => State.reg_meetEntry ?_ pipe t⟩
  simp only [parityKeys, List.mem_cons, List.not_mem_nil, or_false, not_or, Reg.TBL_CNT_PARITY, Reg.TBL_PARITY_LAST,
    Reg.TBL_PARITY_DIAL, Reg.LOG_CNT_QUEUE_DROP]
  omega

theorem countEntry (k pipe : Nat) : ClassOnly n s (t.countEntry k pipe) := h.trans ⟨rfl, fun _ _ _ => rfl⟩

theorem fragment : ClassOnly n s (t.count (Reg.PIPE_CNT_FRAG n)) :=
  h.trans ⟨rfl, fun _ _ hf => State.reg_count_ne hf t⟩

end

end ClassOnly

/-- The lookup, as the tables alone decide it: it counts the winning entry, or reports the bad ones that it meets. -/
theorem State.classLookup_cases (n : Nat) (p : Parsed) (s : State) :
    (∃ cls k, ∀ u : State, u.tables = s.tables → u.classLookup n p = (some cls, u.countEntry k (n / 32))) ∨
      ∃ es : List (Nat × Entry), ∀ u : State, u.tables = s.tables →
        u.classLookup n p = (none, es.foldl (fun u e => u.meetEntry e.1 (n / 32)) u) := by
  let won := (s.classEntries.find? fun (_, e) => !e.bad (n / 32) && classMatches e.img n p).map (·.1)
  let bad := s.classEntries.filter fun (k, e) => e.bad (n / 32) && won.all (fun w => decide (k ≤ w))
  have heq (u : State) (hu : u.tables = s.tables) : u.classLookup n p =
      if bad ≠ [] then (none, bad.foldl (fun u e => u.meetEntry e.1 (n / 32)) u)
      else match won with
        | some k => (some (keyIndex k), u.countEntry k (n / 32))
        | none => (none, u) := by
    have hes : u.classEntries = s.classEntries := by rw [State.classEntries, hu, State.classEntries]
    unfold State.classLookup
    rw [hes] <;> rfl
  by_cases hbad : bad ≠ []
  · exact .inr ⟨bad, fun u hu => by rw [heq u hu, if_pos hbad]⟩
  · cases hwon : won with
    | some k => exact .inl ⟨keyIndex k, k, fun u hu => by rw [heq u hu, if_neg hbad, hwon]⟩
    | none => exact .inr ⟨[], fun u hu => by rw [heq u hu, if_neg hbad, hwon]; rfl⟩

section

variable {n : Nat} {p : Parsed} {s : State}

theorem State.classLookup_hit {cls : Nat} (h : (s.classLookup n p).1 = some cls) :
    ∃ k, ∀ u : State, u.tables = s.tables → u.classLookup n p = (some cls, u.countEntry k (n / 32)) := by
  obtain ⟨cls', k, heq⟩ | ⟨es, heq⟩ := s.classLookup_cases n p
  · rw [heq s rfl] at h
    obtain rfl : cls' = cls := Option.some.inj h
    exact ⟨k, heq⟩
  · rw [heq s rfl] at h
    cases h

theorem State.classLookup_miss (h : (s.classLookup n p).1 = none) {u : State} (hu : u.tables = s.tables) :
    (u.classLookup n p).1 = none ∧ ClassOnly n u (u.classLookup n p).2 := by
  obtain ⟨cls, k, heq⟩ | ⟨es, heq⟩ := s.classLookup_cases n p
  · rw [heq s rfl] at h
    cases h
  · rw [heq u hu]
    exact ⟨rfl, (ClassOnly.refl n u).foldl (fun v e => (ClassOnly.refl n v).meetEntry ..) es⟩

end

/-! ## The exception path (R84, R85) -/

theorem length_leBytes (n v : Nat) : (leBytes n v).length = n := by
  induction n generalizing v with
  | zero => rfl
  | succ n ih => simp [leBytes, ih]

/-- What a slot's exception bucket, under its limit, gives a frame at its stamp. -/
def excSpend (limit : Word) (b : Bucket) (stamp : Dial) : Bool × Bucket :=
  let rate := min 1000000 (bits limit 19 0)
  let burst := bits limit 47 32
  (if b.rate = rate ∧ b.burst = burst then b else b.change stamp rate burst).spend stamp

section

variable {n : Nat} {stamp : Dial} {s : State}

/-- A token follows from the slot's limit and its bucket. Spending is opaque here, so that matching does not evaluate it. -/
theorem State.excToken_eq : s.excToken n stamp =
    let x := excSpend (s.reg (Reg.PIPE_EXC_LIMIT n)) (s.excBucket n) stamp
    (x.1, if x.1 then s.setExcBucket n x.2
      else (s.setExcBucket n x.2).count (Reg.PIPE_CNT_EXC_DROP_LIMIT n)) := by
  obtain ⟨spend, hspend⟩ := exists_eq' (a' := @Bucket.spend)
  generalize hf : @State.excToken = f
  generalize hg : @excSpend = g
  delta State.excToken at hf
  delta excSpend at hg
  rw [hspend] at hf hg
  subst hf hg
  rfl

theorem State.excToken_congr {u : State} (hlimit : u.reg (Reg.PIPE_EXC_LIMIT n) = s.reg (Reg.PIPE_EXC_LIMIT n))
    (hbuckets : u.excBuckets = s.excBuckets) : (u.excToken n stamp).1 = (s.excToken n stamp).1 := by
  have hbucket : u.excBucket n = s.excBucket n := by rw [State.excBucket, hbuckets, State.excBucket]
  rw [State.excToken_eq, State.excToken_eq, hlimit, hbucket]

/-- A token that is there is taken from the slot's bucket, and nothing else changes. -/
theorem State.excToken_spent (h : (s.excToken n stamp).1 = true) :
    ∃ b, s.excToken n stamp = (true, s.setExcBucket n b) := by
  rw [State.excToken_eq] at h ⊢
  generalize excSpend (s.reg (Reg.PIPE_EXC_LIMIT n)) (s.excBucket n) stamp = x at h
  obtain ⟨ok, b⟩ := x
  obtain rfl : ok = true := h
  exact ⟨b, rfl⟩

/-- The header of an exception frame. -/
def excHeader (n reason : Nat) (cls : Option Nat) (stamp : Dial) (f : List Byte) : List Byte :=
  leBytes 16 stamp.toNat ++ [BitVec.ofNat 8 n, BitVec.ofNat 8 reason, BitVec.ofNat 8 (n / 32), 0]
    ++ leBytes 2 f.length ++ leBytes 2 (cls.getD 0xFFFF) ++ zeros 8

theorem length_excHeader (n reason : Nat) (cls : Option Nat) (stamp : Dial) (f : List Byte) :
    (excHeader n reason cls stamp f).length = 32 := by
  simp [excHeader, length_leBytes, zeros]

/-- A frame with a token and room in its pipeline's share goes to the cores, and is counted by its reason. -/
theorem State.exception_sent {reason : Nat} {cls : Option Nat} {f : List Byte}
    (htoken : (s.excToken n stamp).1 = true) (hroom : s.excUsed (n / 32) + 96 + f.length ≤ excShare) :
    let t := s.exception n reason cls stamp f
    ∃ b, t.out = .exception (n / 32) b :: s.out ∧
      (t.pipe (n / 32)).excFrames = (s.pipe (n / 32)).excFrames ++ [b.length] ∧
      ∀ k, t.reg k = ((s.count (Reg.PIPE_CNT_EXC_SENT n)).count (Reg.PIPE_CNT_EXC_REASON (n / 32) reason)).reg k := by
  obtain ⟨bucket, hspent⟩ := State.excToken_spent htoken
  have hfits : ¬excShare < (s.setExcBucket n bucket).excUsed (n / 32) +
      (32 + (f ++ zeros ((64 - f.length % 64) % 64)).length) := by
    have hused : (s.setExcBucket n bucket).excUsed (n / 32) = s.excUsed (n / 32) := rfl
    simp only [hused, List.length_append, zeros, List.length_replicate]
    omega
  obtain ⟨token, htok⟩ := exists_eq' (a' := @State.excToken)
  generalize he : @State.exception = e
  delta State.exception at he
  rw [htok] at he hspent
  subst he
  dsimp only
  rw [hspent]
  dsimp only
  rw [if_neg hfits]
  have hsize : (excHeader n reason cls stamp f ++ (f ++ zeros ((64 - f.length % 64) % 64))).length =
      32 + (f ++ zeros ((64 - f.length % 64) % 64)).length := by
    rw [List.length_append, length_excHeader]
  refine ⟨excHeader n reason cls stamp f ++ (f ++ zeros ((64 - f.length % 64) % 64)), rfl, ?_, fun _ => rfl⟩
  have hput := State.pipe_modPipe_self (n / 32)
    (fun p => { p with excFrames := p.excFrames ++ [32 + (f ++ zeros ((64 - f.length % 64) % 64)).length] })
    (s.setExcBucket n bucket)
  rw [hsize]
  exact congrArg PipeState.excFrames hput

end

/-! ## The pipeline (R70 to R74) -/

section

variable {n : Nat} {stamp : Dial} {secured : Bool} {g : Ingress} {s : State}

theorem State.pipeline_depth (h : parseFrame g.bytes = .depth) :
    s.pipeline n stamp secured g = s.exception n 3 none stamp g.bytes := by
  unfold State.pipeline
  extract_lets f
  have hf : parseFrame f = _ := h
  rw [hf]

theorem State.pipeline_malformed (h : parseFrame g.bytes = .malformed) :
    s.pipeline n stamp secured g = s.exception n 4 none stamp g.bytes := by
  unfold State.pipeline
  extract_lets f
  have hf : parseFrame f = _ := h
  rw [hf]

/-- A frame's fragment counted. -/
def State.fragCounted (n : Nat) (p : Parsed) (s : State) : State :=
  if p.isFrag then s.count (Reg.PIPE_CNT_FRAG n) else s

theorem State.fragCounted_spec (n : Nat) (p : Parsed) (s : State) :
    ClassOnly n s (s.fragCounted n p) ∧ (s.fragCounted n p).tables = s.tables := by
  unfold State.fragCounted
  split
  · exact ⟨(ClassOnly.refl n s).fragment, rfl⟩
  · exact ⟨ClassOnly.refl n s, rfl⟩

section

variable {p : Parsed} (h : parseFrame g.bytes = .ok p) (hptp : p.isPtp = false)
include h hptp

/-- A frame that matches no class map entry is an exception of reason 2. -/
theorem State.pipeline_of_miss {u : State} (hlookup : (s.fragCounted n p).classLookup n p = (none, u)) :
    s.pipeline n stamp secured g = u.exception n 2 none stamp g.bytes := by
  obtain ⟨token, htoken⟩ := exists_eq' (a' := @State.excToken)
  unfold State.fragCounted at hlookup
  unfold State.pipeline
  rw [htoken]
  dsimp only
  rw [h]
  simp only [hlookup, hptp, Bool.false_eq_true, if_false]

/-- A frame whose entry says DROP is counted. -/
theorem State.pipeline_of_drop {u : State} {cls : Nat}
    (hlookup : (s.fragCounted n p).classLookup n p = (some cls, u))
    (hresult : 5 ≤ imgField (u.entry (entryKey 3 0 cls)).img 51 1 % 8) :
    s.pipeline n stamp secured g = u.count (Reg.PIPE_CNT_CLASS_DROP n) := by
  obtain ⟨token, htoken⟩ := exists_eq' (a' := @State.excToken)
  unfold State.fragCounted at hlookup
  unfold State.pipeline
  rw [htoken]
  dsimp only
  rw [h]
  simp only [hlookup, hptp, Bool.false_eq_true, if_false]
  generalize imgField (u.entry (entryKey 3 0 cls)).img 51 1 % 8 = result at hresult
  split
  case h_6 => rfl
  all_goals omega

theorem State.pipeline_unmatched (hmiss : (s.classLookup n p).1 = none) :
    ∃ u, ClassOnly n s u ∧ s.pipeline n stamp secured g = u.exception n 2 none stamp g.bytes := by
  obtain ⟨hfrag, htables⟩ := s.fragCounted_spec n p
  obtain ⟨hnone, honly⟩ := State.classLookup_miss hmiss htables
  exact ⟨_, hfrag.trans honly, State.pipeline_of_miss h hptp (Prod.ext hnone rfl)⟩

theorem State.pipeline_dropped {cls : Nat} (hhit : (s.classLookup n p).1 = some cls)
    (hresult : 5 ≤ imgField ((s.classLookup n p).2.entry (entryKey 3 0 cls)).img 51 1 % 8) :
    ∃ u, ClassOnly n s u ∧ s.pipeline n stamp secured g = u.count (Reg.PIPE_CNT_CLASS_DROP n) := by
  obtain ⟨hfrag, htables⟩ := s.fragCounted_spec n p
  obtain ⟨k, hlookup⟩ := State.classLookup_hit hhit
  have hentry (j : Nat) : ((s.fragCounted n p).countEntry k (n / 32)).entry j = (s.countEntry k (n / 32)).entry j :=
    State.entry_congr (by simp only [State.countEntry, State.modEntry, htables]) j
  rw [hlookup s rfl, ← hentry] at hresult
  exact ⟨_, hfrag.countEntry k (n / 32), State.pipeline_of_drop h hptp (hlookup _ htables) hresult⟩

end

end

/-- The reason for which a frame is an exception before its class says what becomes of it, or 0. -/
def excReason (n : Nat) (f : List Byte) (s : State) : Nat :=
  match parseFrame f with
  | .depth => 3
  | .malformed => 4
  | .ok p => if !p.isPtp && (s.classLookup n p).1 = none then 2 else 0

theorem excReason_lt (n : Nat) (f : List Byte) (s : State) : excReason n f s < 16 := by
  unfold excReason
  split
  · omega
  · omega
  · split <;> omega

/-- A frame with such a reason reaches the exception path with it. -/
theorem State.pipeline_exception {n : Nat} {stamp : Dial} {secured : Bool} {g : Ingress} {s : State}
    (h : excReason n g.bytes s ≠ 0) : ∃ u, ClassOnly n s u ∧
      s.pipeline n stamp secured g = u.exception n (excReason n g.bytes s) none stamp g.bytes := by
  cases hp : parseFrame g.bytes with
  | depth => exact ⟨s, .refl n s, by rw [State.pipeline_depth hp, excReason, hp]⟩
  | malformed => exact ⟨s, .refl n s, by rw [State.pipeline_malformed hp, excReason, hp]⟩
  | ok p =>
    have hreason : excReason n g.bytes s = if !p.isPtp && (s.classLookup n p).1 = none then 2 else 0 := by
      rw [excReason, hp]
    obtain ⟨hptp, hmiss⟩ : p.isPtp = false ∧ (s.classLookup n p).1 = none := by simpa [hreason] using h
    rw [hreason, if_pos (by simp [hptp, hmiss])]
    exact State.pipeline_unmatched hp hptp hmiss

/-- A bonded port's slot is its lowest lane. -/
theorem State.portOfLane_le (lane : Nat) (s : State) : s.portOfLane lane ≤ lane := by
  unfold State.portOfLane
  split
  · exact Nat.sub_le ..
  · exact Nat.le_refl lane

/-- An exception frame with a token and room is counted, leaves for the cores, and joins its share. -/
theorem exception_after_lookup {n reason : Nat} {stamp : Dial} {f : List Byte} {s u : State} (hn : n < 256)
    (hreason : reason < 16) (honly : ClassOnly n (s.rxCount n f) u)
    (htoken : ((s.rxCount n f).excToken n stamp).1 = true)
    (hroom : s.excUsed (n / 32) + 96 + f.length ≤ excShare) :
    let t := u.exception n reason none stamp f
    counts (Reg.PIPE_CNT_EXC_SENT n) 1 s t ∧ counts (Reg.PIPE_CNT_EXC_REASON (n / 32) reason) 1 s t ∧
      ∃ b size, t.out.head? = some (.exception (n / 32) b) ∧ size = b.length ∧
        (t.pipe (n / 32)).excFrames = (s.pipe (n / 32)).excFrames ++ [size] := by
  intro t
  have hframe : u = { s with tables := u.tables, regs := u.regs, log := u.log } := by
    rw [honly.frame, State.rxCount_frame]
  have hreg (k : Nat) (hlow : 0x300000 ≤ k) (hhigh : k < 0x600000) (hfrag : k ≠ Reg.PIPE_CNT_FRAG n) :
      u.reg k = s.reg k := by
    refine (honly.reg k hhigh hfrag).trans (State.reg_rxCount n f s ?_ ?_)
    · simp only [Reg.PORT_CNT_RX_FRAMES]
      omega
    · simp only [Reg.PORT_CNT_RX_BYTES]
      omega
  have htoken' : (u.excToken n stamp).1 = true := by
    rw [← htoken]
    refine State.excToken_congr (honly.reg _ ?_ ?_) (by rw [honly.frame])
    · simp only [Reg.PIPE_EXC_LIMIT]
      omega
    · simp only [Reg.PIPE_EXC_LIMIT, Reg.PIPE_CNT_FRAG]
      omega
  have hpipes : u.pipes = s.pipes := by rw [hframe]
  have hpipe : u.pipe (n / 32) = s.pipe (n / 32) := by rw [State.pipe, hpipes, State.pipe]
  obtain ⟨b, hout, hframes, hcounts⟩ := State.exception_sent (reason := reason) (cls := none) htoken'
    (by rw [State.excUsed, hpipe]; exact hroom)
  have hne : Reg.PIPE_CNT_EXC_SENT n ≠ Reg.PIPE_CNT_EXC_REASON (n / 32) reason := by
    simp only [Reg.PIPE_CNT_EXC_SENT, Reg.PIPE_CNT_EXC_REASON]
    omega
  refine ⟨?_, ?_, b, b.length, congrArg List.head? hout, rfl, hframes.trans (by rw [hpipe])⟩
  · rw [counts_one_iff, hcounts, State.reg_count_ne hne, State.reg_count_self, hreg]
    all_goals
      simp only [Reg.PIPE_CNT_EXC_SENT, Reg.PIPE_CNT_FRAG]
      omega
  · rw [counts_one_iff, hcounts, State.reg_count_self, State.reg_count_ne hne.symm, hreg]
    all_goals
      simp only [Reg.PIPE_CNT_EXC_REASON, Reg.PIPE_CNT_FRAG]
      omega

/-- A frame dropped by its class is counted and leaves nothing. -/
theorem classDrop_after_lookup {n : Nat} {f : List Byte} {s u : State} (hn : n < 256)
    (honly : ClassOnly n (s.rxCount n f) u) :
    let t := u.count (Reg.PIPE_CNT_CLASS_DROP n)
    counts (Reg.PIPE_CNT_CLASS_DROP n) 1 s t ∧ t.out = s.out := by
  intro t
  refine ⟨?_, ?_⟩
  · rw [counts_one_iff, State.reg_count_self, honly.reg, State.reg_rxCount]
    all_goals
      simp only [Reg.PIPE_CNT_CLASS_DROP, Reg.PORT_CNT_RX_FRAMES, Reg.PORT_CNT_RX_BYTES, Reg.PIPE_CNT_FRAG]
      omega
  · change u.out = s.out
    rw [honly.frame, State.rxCount_frame]

/-! ## Codewords (R64, R66, R67) -/

/-- HI_SER stays clear while nothing says that the error rate is high. -/
theorem State.hiSerSettle_of_clear {n : Nat} {s : State} (hnow : s.hiSerNow n = false)
    (hser : (s.port n).hiSer = false) : s.hiSerSettle n = s := by
  unfold State.hiSerSettle
  rw [hnow, hser]
  rfl

/-- With FEC the error rate is high when more than 16 codewords of the window were uncorrectable. -/
theorem State.hiSerNow_of_fec {n : Nat} {s : State} (h : fecOf (s.portMode n) ≠ 0) :
    s.hiSerNow n = decide (16 < ((s.port n).window.filter id).length) := if_pos h

/-- Counting so many events in each of some registers. -/
def State.countAll (ks : List (Nat × Nat)) (s : State) : State := ks.foldl (fun s x => s.countBy x.1 x.2) s

theorem State.countAll_frame (ks : List (Nat × Nat)) (s : State) :
    s.countAll ks = { s with regs := (s.countAll ks).regs } := by
  induction ks generalizing s with
  | nil => rfl
  | cons x ks ih =>
    rw [State.countAll, List.foldl_cons, ← State.countAll, ih, State.countBy_frame]

theorem State.reg_countAll_ne {ks : List (Nat × Nat)} {k : Nat} (h : k ∉ ks.map Prod.fst) (s : State) :
    (s.countAll ks).reg k = s.reg k := by
  induction ks generalizing s with
  | nil => rfl
  | cons x ks ih =>
    obtain ⟨hx, hks⟩ : k ≠ x.1 ∧ k ∉ ks.map Prod.fst := by simpa using h
    exact (ih hks _).trans (State.reg_countBy_ne hx _ s)

/-- Of distinct registers each counts its events. -/
theorem State.counts_countAll {ks : List (Nat × Nat)} (hks : (ks.map Prod.fst).Nodup) {k m : Nat} (h : (k, m) ∈ ks)
    (s : State) : counts k m s (s.countAll ks) := by
  induction ks generalizing s with
  | nil => cases h
  | cons x ks ih =>
    obtain ⟨hx, hks⟩ := List.nodup_cons.1 hks
    rw [counts, State.countAll, List.foldl_cons, ← State.countAll]
    rcases List.mem_cons.1 h with rfl | h
    · rw [State.reg_countAll_ne hx, State.countBy_eq]
      split
      · rfl
      · exact State.reg_setReg_self ..
    · have hk : k ≠ x.1 := by
        rintro rfl
        exact hx (List.mem_map.2 ⟨_, h, rfl⟩)
      rw [← State.reg_countBy_ne hk x.2 s]
      exact ih hks h _

/-- A codeword of a FEC mode on a port that is UP: the port's record of it, and what it counts. -/
def State.codewordCounted (n : Nat) (bad partway : Bool) (ks : List (Nat × Nat)) (s : State) : State :=
  ((s.modPort n fun p => { p with receiving := decide (p.link = .up) && partway }).modPort n fun p =>
    { p with window := (bad :: p.window).take 8192 }).countAll ks

section

variable (n : Nat) (bad partway : Bool) (ks : List (Nat × Nat)) (s : State)

theorem State.port_codewordCounted : (s.codewordCounted n bad partway ks).port n =
    { s.port n with receiving := decide ((s.port n).link = .up) && partway,
                    window := (bad :: (s.port n).window).take 8192 } := by
  have hports (t : State) : (t.countAll ks).port n = t.port n := by
    rw [State.countAll_frame]
    rfl
  rw [State.codewordCounted, hports, State.port_modPort_self, State.port_modPort_self]

theorem State.counts_codewordCounted {k m : Nat} (hks : (ks.map Prod.fst).Nodup) (h : (k, m) ∈ ks) :
    counts k m s (s.codewordCounted n bad partway ks) := State.counts_countAll hks h _

/-- One codeword more does not make the error rate high where fewer than 16 were uncorrectable. -/
theorem noted_window_clear {w : List Bool} (h : (w.filter id).length < 16) :
    ¬16 < (((bad :: w).take 8192).filter id).length := by
  have hle := ((List.take_sublist 8192 (bad :: w)).filter id).length_le
  have hcons : ((bad :: w).filter id).length ≤ (w.filter id).length + 1 := by
    cases bad <;> simp
  omega

theorem State.hiSerSettle_codewordCounted (hmode : Reg.PORT_MODE n ∉ ks.map Prod.fst)
    (hfec : fecOf (s.portMode n) ≠ 0) (hser : (s.port n).hiSer = false)
    (hwindow : ((s.port n).window.filter id).length < 16) :
    (s.codewordCounted n bad partway ks).hiSerSettle n = s.codewordCounted n bad partway ks := by
  have hport := s.port_codewordCounted n bad partway ks
  have hportMode : (s.codewordCounted n bad partway ks).portMode n = s.portMode n := by
    refine State.portMode_congr (State.reg_countAll_ne hmode _) ?_ ?_
    · rw [State.codewordCounted, State.countAll_frame]
      rfl
    · rw [State.codewordCounted, State.countAll_frame]
      rfl
  refine State.hiSerSettle_of_clear ?_ (by rw [hport]; exact hser)
  rw [State.hiSerNow_of_fec (by rw [hportMode]; exact hfec), hport]
  exact decide_eq_false (noted_window_clear bad hwindow)

end

/-- What a codeword within the FEC's capacity counts: itself, and its corrected symbols where it has any. -/
def goodCodewordCounts (n symbols : Nat) : List (Nat × Nat) :=
  [(Reg.PORT_CNT_FEC_CW n, 1), (Reg.PORT_CNT_FEC_CW_CORR n, if symbols = 0 then 0 else 1),
    (Reg.PORT_CNT_FEC_SYM_CORR n, symbols)]

/-- What one beyond it counts: itself, and the frames and stamps that it costs. -/
def badCodewordCounts (n : Nat) (touched : TouchedFrames) : List (Nat × Nat) :=
  [(Reg.PORT_CNT_FEC_CW n, 1), (Reg.PORT_CNT_FEC_CW_UNCORR n, 1), (Reg.PORT_CNT_FEC_FRAME_DROP n, touched.dropped),
    (Reg.PORT_CNT_STAMP_DISCARD n, min touched.stamped touched.dropped)]

/-- They are distinct registers, and PORT_MODE is none of them. -/
theorem goodCodewordCounts_distinct (n symbols : Nat) : ((goodCodewordCounts n symbols).map Prod.fst).Nodup ∧
    Reg.PORT_MODE n ∉ (goodCodewordCounts n symbols).map Prod.fst := by
  simp [goodCodewordCounts, Reg.PORT_MODE, Reg.PORT_CNT_FEC_CW, Reg.PORT_CNT_FEC_CW_CORR, Reg.PORT_CNT_FEC_SYM_CORR]

theorem badCodewordCounts_distinct (n : Nat) (touched : TouchedFrames) :
    ((badCodewordCounts n touched).map Prod.fst).Nodup ∧
      Reg.PORT_MODE n ∉ (badCodewordCounts n touched).map Prod.fst := by
  simp [badCodewordCounts, Reg.PORT_MODE, Reg.PORT_CNT_FEC_CW, Reg.PORT_CNT_FEC_CW_UNCORR,
    Reg.PORT_CNT_FEC_FRAME_DROP, Reg.PORT_CNT_STAMP_DISCARD]

section

variable {lane symbols : Nat} {touched : TouchedFrames} {s : State} (hup : s.isUp (s.portOfLane lane) = true)
  (hfec : fecOf (s.portMode (s.portOfLane lane)) ≠ 0) (hser : (s.port (s.portOfLane lane)).hiSer = false)
  (hwindow : ((s.port (s.portOfLane lane)).window.filter id).length < 16)
include hup hfec hser hwindow

/-- A codeword within the capacity. -/
theorem codewordDecoded_good (hgood : symbols ≤ fecCapacity (fecOf (s.portMode (s.portOfLane lane)))) :
    codewordDecoded lane symbols touched [] [] s = s.codewordCounted (s.portOfLane lane) false touched.partway
      (goodCodewordCounts (s.portOfLane lane) symbols) := by
  rw [← s.hiSerSettle_codewordCounted _ false touched.partway _ (goodCodewordCounts_distinct _ symbols).2 hfec hser
    hwindow]
  generalize hn : s.portOfLane lane = n at hup hfec hgood
  have hlink : (s.port n).link = .up := of_decide_eq_true hup
  unfold codewordDecoded
  dsimp only
  rw [hn, if_neg (by simp [hlink]), if_neg hfec, decide_eq_false (by omega), if_neg Bool.false_ne_true]
  by_cases hzero : symbols = 0
  · subst hzero
    rfl
  · rw [if_neg hzero, goodCodewordCounts, if_neg hzero]
    rfl

/-- One beyond it. -/
theorem codewordDecoded_bad (hbad : fecCapacity (fecOf (s.portMode (s.portOfLane lane))) < symbols) :
    codewordDecoded lane symbols touched [] [] s = s.codewordCounted (s.portOfLane lane) true touched.partway
      (badCodewordCounts (s.portOfLane lane) touched) := by
  rw [← s.hiSerSettle_codewordCounted _ true touched.partway _ (badCodewordCounts_distinct _ touched).2 hfec hser
    hwindow]
  generalize hn : s.portOfLane lane = n at hup hfec hbad
  have hlink : (s.port n).link = .up := of_decide_eq_true hup
  have hstill : (s.codewordCounted n true touched.partway [(Reg.PORT_CNT_FEC_CW n, 1),
      (Reg.PORT_CNT_FEC_CW_UNCORR n, 1)]).isUp n = true := by
    rw [State.isUp, State.port_codewordCounted]
    exact hup
  have hdrop : (s.codewordCounted n true touched.partway [(Reg.PORT_CNT_FEC_CW n, 1),
      (Reg.PORT_CNT_FEC_CW_UNCORR n, 1)]).fecDrop n touched.dropped touched.stamped [] =
        s.codewordCounted n true touched.partway (badCodewordCounts n touched) := by
    unfold State.fecDrop
    rw [if_neg (by simp [hstill])]
    rfl
  unfold codewordDecoded
  dsimp only
  rw [hn, if_neg (by simp [hlink]), if_neg hfec, decide_eq_true hbad, if_pos rfl, ← hdrop]
  rfl

end

theorem exec_codewordDecoded {lane symbols : Nat} {touched : TouchedFrames} {s : State} (hlane : lane < 256)
    (hrun : running 2 s = true) :
    exec (.codewordDecoded lane symbols touched [] []) s = .next (codewordDecoded lane symbols touched [] [] s) := by
  have hwf : Instr.wf (.codewordDecoded lane symbols touched [] []) = true := by
    change (decide (lane < 256) && [].all RxFrame.wf) = true
    simp [hlane]
  change within (Instr.wf (.codewordDecoded lane symbols touched [] []))
    (whenClocked (unlessStopped 2 (codewordDecoded lane symbols touched [] [])) s) s = _
  rw [hwf, within_true, whenClocked_of (running_iff.1 hrun).1, unlessStopped_running hrun]

/-- Settles O22: the filters in their order (frameReceived_filtered), the exception path (State.pipeline_exception,
exception_after_lookup), the class map's DROP (State.pipeline_dropped, classDrop_after_lookup), and a codeword's counts
(codewordDecoded_good, codewordDecoded_bad). -/
theorem framesFilteredAndClassified : Obligations.FramesFilteredAndClassified := by
  unfold Obligations.FramesFilteredAndClassified
  refine ⟨fun r s hlane hrun => ⟨fun hdown => ?_, fun hup hbad => ⟨_, exec_frameReceived hlane hrun, ?_⟩⟩,
    ⟨fun pipe s hpipe hclock => ⟨_, within_clocked (decide_eq_true hpipe) hclock _, ?_⟩, fun r s h => ?_⟩,
    fun lane symbols touched s hlane hrun hup hfec hnow hser =>
      ⟨fun hgood hwindow => ⟨_, exec_codewordDecoded hlane hrun, ?_⟩,
        fun hbad hwindow => ⟨_, exec_codewordDecoded hlane hrun, ?_⟩⟩⟩
  · rw [exec_frameReceived hlane hrun, frameReceived_of_down hdown]
  · rw [frameReceived_filtered hup hbad]
    refine rxDrop_spec ?_ s
    split_ifs <;> simp [Reg.PORT_CNT_RX_FCS_ERR, Reg.PORT_CNT_RX_RUNT, Reg.PORT_CNT_RX_OVERSIZE,
      Reg.PORT_CNT_PAUSE_IGNORED, Reg.PORT_CNT_STAMP_DISCARD]
  · exact ⟨congrArg PipeState.excFrames (State.pipe_modPipe_self pipe _ s), rfl,
      fun k hk => State.pipe_modPipe_ne hk _ s⟩
  · intro n f stamp s1 reason
    have hlane : r.lane < 256 := (receivable_iff.1 h).1
    have hn : n < 256 := (s.portOfLane_le r.lane).trans_lt hlane
    refine ⟨fun hreason htoken hroom => ⟨_, frameReceived_receivable h, ?_⟩,
      fun p cls hp hptp hhit hresult => ⟨_, frameReceived_receivable h, ?_⟩⟩
    · obtain ⟨u, honly, heq⟩ :=
        State.pipeline_exception (n := n) (stamp := stamp) (secured := false) (g := ⟨f, none⟩) (s := s1) hreason
      rw [heq]
      exact exception_after_lookup hn (excReason_lt n f s1) honly htoken hroom
    · obtain ⟨u, honly, heq⟩ :=
        State.pipeline_dropped (stamp := stamp) (secured := false) (g := ⟨f, none⟩) hp hptp hhit hresult
      rw [heq]
      exact classDrop_after_lookup hn honly
  · rw [codewordDecoded_good hup hfec hser hwindow hgood]
    obtain ⟨hdistinct, _⟩ := goodCodewordCounts_distinct (s.portOfLane lane) symbols
    refine ⟨State.counts_codewordCounted _ _ _ _ s hdistinct (by simp [goodCodewordCounts]),
      State.counts_codewordCounted _ _ _ _ s hdistinct (by simp [goodCodewordCounts]), ?_, ?_, ?_⟩
    · rw [State.codewordCounted, State.countAll_frame]
      rfl
    · have hlink : (s.port (s.portOfLane lane)).link = .up := of_decide_eq_true hup
      rw [State.port_codewordCounted, hlink]
      exact Bool.true_and _
    · rw [State.port_codewordCounted]
  · rw [codewordDecoded_bad hup hfec hser hwindow hbad]
    obtain ⟨hdistinct, _⟩ := badCodewordCounts_distinct (s.portOfLane lane) touched
    have hcounts {k m : Nat} :=
      State.counts_codewordCounted (k := k) (m := m) (s.portOfLane lane) true touched.partway _ s hdistinct
    exact ⟨hcounts (by simp [badCodewordCounts]), hcounts (by simp [badCodewordCounts]),
      hcounts (by simp [badCodewordCounts]), hcounts (by simp [badCodewordCounts]), by rw [State.port_codewordCounted]⟩

end Sys2Proof.Machine
end

section
namespace Sys2Proof.Machine

open Sys2Proof.Claims

/-! ## The registers of a domain's configuration (R90, R96, R117, R365) -/

section

variable (l name : Nat) (s : State) (d : Nat)

@[simp] theorem State.dom_unstage : (s.unstage l name).dom d = s.dom d := by
  rw [State.dom, State.unstage_doms, State.dom]

@[simp] theorem State.seqCfg_unstage : (s.unstage l name).seqCfg d = s.seqCfg d :=
  State.voted_unstage l name s (by simp only [Reg.SEQ_DOMAIN_CFG, Reg.GEN_CNT_SPLIT_DISCARD]; omega)

end

@[simp] theorem State.isOpen_discarded (who : Party) (k d : Nat) (s : State) :
    (discarded who k s).isOpen d = s.isOpen d := State.isOpen_unstage ..

section

variable {d : Nat} {v : Word} {s : State}

theorem seqFeedWrite_open (h : s.isOpen d = true) (m : Nat) :
    seqFeedWrite d m v s = s.count (Reg.SEQ_CNT_CFG_REFUSED d) := if_pos h

theorem seqFeedWrite_closed (h : s.isOpen d = false) (m : Nat) :
    seqFeedWrite d m v s = s.setReg (Reg.SEQ_FEED d m) v := if_neg (by simp [h])

theorem seqDomainCfgWrite_open (h : s.isOpen d = true) :
    seqDomainCfgWrite d v s = s.count (Reg.SEQ_CNT_CFG_REFUSED d) := if_pos (by simp [h])

theorem seqDomainCfgWrite_closed (h : s.isOpen d = false) (hv : seqCfgValid v = true) :
    seqDomainCfgWrite d v s = s.setRv (Reg.SEQ_DOMAIN_CFG d) (v &&& seqCfgMask) := if_neg (by simp [h, hv])

theorem seqNextWrite_open (h : s.isOpen d = true) :
    seqNextWrite d v s = s.count (Reg.SEQ_CNT_CFG_REFUSED d) := if_pos (by simp [h])

theorem seqNextWrite_closed (h : s.isOpen d = false) (hv : v ≠ 0) : seqNextWrite d v s = s.setNext d v :=
  if_neg (by simpa [h] using hv)

end

/-- Setting the next number sets the register and the three copies of the counter. -/
theorem State.setNext_spec (d : Nat) (n : Word) (s : State) :
    (s.setNext d n).reg (Reg.SEQ_NEXT d) = n ∧
      (s.setNext d n).dom d = { s.dom d with copyA := n, copyB := n, copyC := n } :=
  ⟨State.reg_setReg_self .., State.dom_modDom_self d (fun x => { x with copyA := n, copyB := n, copyC := n }) s⟩

section

variable {who : Party} {d : Nat} (v : Word) {s : State} (hd : d < 16) (hacc : accepted who s = true)
  (hrun : running 1 s = true)
include hd hacc hrun

/-- A register write that names a domain acts once a half staged for the register has been discarded. -/
theorem within_domainWrite (k : Nat) (f : State → State) :
    within (who.wf && decide (d < 16)) (pfWrite who false false (whole who k (unlessStopped 1 f)) s) s =
      .next (f (discarded who k s)) := by
  rw [decide_eq_true hd, Bool.and_true, within_pfWrite_whole hacc hrun]

theorem exec_seqFeedWrite {m : Nat} (hm : m < 4) : exec (.seqFeedWrite who d m v) s =
    .next (seqFeedWrite d m v (discarded who (Reg.SEQ_FEED d m) s)) := by
  change within (who.wf && decide (d < 16) && decide (m < 4)) _ _ = _
  rw [decide_eq_true hm, Bool.and_true]
  exact within_domainWrite hd hacc hrun _ _

theorem exec_seqDomainCfgWrite : exec (.seqDomainCfgWrite who d v) s =
    .next (seqDomainCfgWrite d v (discarded who (Reg.SEQ_DOMAIN_CFG d) s)) :=
  within_domainWrite hd hacc hrun _ _

theorem exec_seqNextWrite : exec (.seqNextWrite who d v) s =
    .next (seqNextWrite d v (discarded who (Reg.SEQ_NEXT d) s)) :=
  within_domainWrite hd hacc hrun _ _

end

/-- A refused configuration write is counted beside the half discarded, and changes nothing else. -/
theorem cfgRefused_spec (who : Party) (d key : Nat) (s : State) :
    counts (Reg.SEQ_CNT_CFG_REFUSED d) 1 s ((discarded who key s).count (Reg.SEQ_CNT_CFG_REFUSED d)) ∧
      onlyRegs [Reg.SEQ_CNT_CFG_REFUSED d] (discarded who key s)
        ((discarded who key s).count (Reg.SEQ_CNT_CFG_REFUSED d)) := by
  have hne : Reg.SEQ_CNT_CFG_REFUSED d ≠ Reg.GEN_CNT_SPLIT_DISCARD := by
    simp only [Reg.SEQ_CNT_CFG_REFUSED, Reg.GEN_CNT_SPLIT_DISCARD]
    omega
  exact ⟨counts_count_discarded hne who key s, onlyRegs_count _ _⟩

/-! ## SEQ_CFG_SET (R335) -/

/-- Completing an ADMIN entry changes no domain's configuration. -/
theorem State.seqCfg_adminDone (c : Nat) (x : Taken) (status result d : Nat) (s : State) :
    (s.adminDone c x status result).seqCfg d = s.seqCfg d :=
  State.voted_congr (by rw [State.adminDone_frame]) (by rw [State.adminDone_frame]) (by rw [State.adminDone_frame]) _

section

variable {c : Nat} {x : Taken} {s : State} (h : adminAt c 0x21 x s = true)
include h

theorem exec_seqCfgSet (hrun : running 1 s = true) : exec (.seqCfgSet c) s = .next (seqCfgSet c s) := by
  obtain ⟨hc, _⟩ := adminAt_iff.1 h
  change within (decide (c < 65536)) _ _ = _
  rw [decide_eq_true hc, within_true, whenClocked_running hrun]

variable {d : Nat} (hd : bits (adminParam x.desc 0) 3 0 = d)
include hd

theorem seqCfgSet_refused (hbad : s.isOpen d = true ∨ seqCfgValid (adminParam x.desc 1) = false ∨
    s.storeFitsCfg d (adminParam x.desc 1) = false) : seqCfgSet c s = s.adminDone c x configLimit 0 := by
  rw [seqCfgSet, onAdmin_of_adminAt h]
  dsimp only
  rw [hd, if_pos]
  rcases hbad with hopen | hvalid | hfits
  · simp [hopen]
  · simp [hvalid]
  · simp [hfits]

theorem seqCfgSet_stores (hclosed : s.isOpen d = false) (hvalid : seqCfgValid (adminParam x.desc 1) = true)
    (hfits : s.storeFitsCfg d (adminParam x.desc 1) = true) : seqCfgSet c s =
      (s.setRv (Reg.SEQ_DOMAIN_CFG d) (adminParam x.desc 1 &&& seqCfgMask)).adminDone c x 0 0 := by
  rw [seqCfgSet, onAdmin_of_adminAt h]
  dsimp only
  rw [hd, if_neg (by simp [hclosed, hvalid, hfits])]

end

/-- Settles O13: each write on a closed domain is stored (seqFeedWrite_closed, seqDomainCfgWrite_closed,
seqNextWrite_closed), on an open one refused (cfgRefused_spec), and SEQ_CFG_SET is either (seqCfgSet_stores,
seqCfgSet_refused). -/
theorem domainConfigurationStored : Obligations.DomainConfigurationStored := by
  unfold Obligations.DomainConfigurationStored
  intro who d m v s hd hm hacc hrun
  refine ⟨fun hclosed => ⟨⟨_, exec_seqFeedWrite v hd hacc hrun hm, ?feed⟩,
    fun hvalid => ⟨_, exec_seqDomainCfgWrite v hd hacc hrun, ?cfg⟩,
    fun hnext => ⟨_, exec_seqNextWrite v hd hacc hrun, ?next⟩⟩, fun hopen c hc => ?refused, fun c x h hdom => ?set⟩
  case feed =>
    rw [seqFeedWrite_closed (by simpa using hclosed)]
    exact ⟨State.reg_setReg_self .., rfl, fun k hk => State.reg_setReg_ne (by simpa using hk) ..⟩
  case cfg =>
    rw [seqDomainCfgWrite_closed (by simpa using hclosed) hvalid]
    exact ⟨State.voted_setRv_self .., rfl, fun k hk => State.reg_setRv_ne hk ..⟩
  case next =>
    rw [seqNextWrite_closed (by simpa using hclosed) hnext]
    obtain ⟨hreg, hdom⟩ := State.setNext_spec d v (discarded who (Reg.SEQ_NEXT d) s)
    rw [hdom]
    exact ⟨hreg, rfl, rfl, rfl, rfl, fun k hk => State.reg_setReg_ne (by simpa using hk) ..⟩
  case refused =>
    have hopen' (key : Nat) : (discarded who key s).isOpen d = true := by simpa using hopen
    simp only [List.mem_cons, List.not_mem_nil, or_false] at hc
    obtain rfl | rfl | rfl := hc
    · refine ⟨_, exec_seqFeedWrite v hd hacc hrun hm, ?_⟩
      rw [seqFeedWrite_open (hopen' _)]
      exact cfgRefused_spec ..
    · refine ⟨_, exec_seqDomainCfgWrite v hd hacc hrun, ?_⟩
      rw [seqDomainCfgWrite_open (hopen' _)]
      exact cfgRefused_spec ..
    · refine ⟨_, exec_seqNextWrite v hd hacc hrun, ?_⟩
      rw [seqNextWrite_open (hopen' _)]
      exact cfgRefused_spec ..
  case set =>
    obtain ⟨_, _, hhead, _⟩ := adminAt_iff.1 h
    refine ⟨_, exec_seqCfgSet h hrun, fun ⟨hclosed, hvalid, hfits⟩ => ?_, fun hbad => ?_⟩
    · rw [seqCfgSet_stores h hdom hclosed hvalid hfits, State.seqCfg_adminDone]
      exact ⟨adminEnds_adminDone 0 0 hhead rfl rfl rfl rfl, State.voted_setRv_self ..⟩
    · rw [seqCfgSet_refused h hdom hbad, State.seqCfg_adminDone]
      exact ⟨adminEnds_adminDone _ 0 hhead rfl rfl rfl rfl, rfl⟩

end Sys2Proof.Machine
end

section
namespace Sys2Proof.Machine

open Sys2Proof.Claims

/-! ## The registers that a record writes (R162 to R174) -/

/-- The registers that producing an audit record, or logging an event, may change. -/
def recordRegs : List Nat :=
  [Reg.AUD_FILL, Reg.AUD_NEXT_INDEX, Reg.AUD_HEAD, Reg.AUD_LAST_SEAL, Reg.AUD_EPOCH, Reg.AUD_CNT_PRESSURE,
    Reg.AUD_CNT_RECORDS, Reg.AUD_CNT_SEALS, Reg.AUD_CNT_LOST, Reg.AUD_CNT_GAPS, Reg.LOG_CNT_QUEUE_DROP]

theorem State.reg_setAud (s : State) (a : AudState) (k : Nat) : State.reg { s with aud := a } k = s.reg k := rfl

/-- A sequencer register is none of them. -/
theorem not_mem_recordRegs_of_seq {k : Nat} (h : k / 0x100000 = 4) : k ∉ recordRegs := by
  rintro hk
  have hnone : ∀ j ∈ recordRegs, j / 0x100000 ≠ 4 := by decide
  exact hnone k hk h

/-- Nor is a domain's open count. -/
theorem openCount_not_mem_recordRegs {d : Nat} (hd : d < 16) : Reg.AUD_OPEN_COUNT d ∉ recordRegs := by
  have hnone : ∀ d < 16, Reg.AUD_OPEN_COUNT d ∉ recordRegs := by decide
  exact hnone d hd

section

variable {k : Nat} (hk : k ∉ recordRegs) (s : State)
include hk

theorem State.reg_setReg_record {j : Nat} (hj : j ∈ recordRegs) (v : Word) : (s.setReg j v).reg k = s.reg k :=
  State.reg_setReg_ne (ne_of_mem_of_not_mem hj hk).symm v s

theorem State.reg_count_record {j : Nat} (hj : j ∈ recordRegs) : (s.count j).reg k = s.reg k :=
  State.reg_setReg_record hk s hj _

theorem State.reg_logEvent_record (number block : Nat) (params : List Nat) :
    (s.logEvent number block params).reg k = s.reg k :=
  State.reg_logEvent _ _ _ s (ne_of_mem_of_not_mem (by decide) hk).symm

theorem State.reg_setFill (n : Nat) : (s.setFill n).reg k = s.reg k := by
  unfold State.setFill
  dsimp only
  split
  · rw [State.reg_logEvent_record hk, State.reg_count_record hk _ (by decide)]
    exact (State.reg_setAud ..).trans (State.reg_setReg_record hk s (by decide) _)
  · exact (State.reg_setAud ..).trans (State.reg_setReg_record hk s (by decide) _)

theorem State.reg_auditWrite (bs : List Byte) : (s.auditWrite bs).reg k = s.reg k := by
  unfold State.auditWrite
  extract_lets i seg _ marked queued indexed
  have hmarked : marked.reg k = s.reg k := by
    unfold marked
    split <;> rfl
  rw [State.reg_setFill hk, State.reg_setReg_record hk _ (by decide), State.reg_setReg_record hk _ (by decide)]
  exact hmarked

theorem State.reg_auditSeal (tail reseal : Bool) : (s.auditSeal tail reseal).reg k = s.reg k := by
  have hput (bs : List Byte) : (s.auditPut bs).reg k = s.reg k :=
    (State.reg_auditWrite hk _ bs).trans (State.reg_count_record hk s (by decide))
  unfold State.auditSeal
  split
  · rfl
  · split
    · rfl
    · dsimp only
      rw [State.reg_count_record hk _ (by decide), State.reg_setReg_record hk _ (by decide),
        State.reg_setReg_record hk _ (by decide)]
      exact ((State.reg_setAud ..).trans <| (State.reg_setAud ..).trans <| (State.reg_setAud ..).trans <|
        State.reg_setAud ..).trans (hput _)

theorem State.reg_sealDue : s.sealDue.reg k = s.reg k := by
  unfold State.sealDue
  split
  · rfl
  · split
    · exact State.reg_auditSeal hk s _ _
    · rfl

theorem State.reg_auditUnplace (n : Nat) : (s.auditUnplace n).reg k = s.reg k := by
  unfold State.auditUnplace
  split
  · rfl
  · exact (State.reg_setReg_record hk _ (by decide) _).trans (State.reg_setReg_record hk _ (by decide) _)

theorem State.reg_auditStands (rs : List AuditRec) : (rs.foldl State.auditStand s).reg k = s.reg k := by
  induction rs generalizing s with
  | nil => rfl
  | cons r rs ih => exact (ih _).trans (State.reg_auditWrite hk s _)

theorem State.reg_auditJoin (r : AuditRec) : (s.auditJoin r).reg k = s.reg k := by
  have hdue := State.reg_sealDue hk s
  unfold State.auditJoin State.auditPlace
  split
  · rw [State.reg_count_record hk _ (by decide), hdue]
  · refine (State.reg_auditStands hk _ _).trans ?_
    rw [State.reg_auditUnplace hk, State.reg_count_record hk _ (by decide), hdue]

theorem State.reg_auditGap : s.auditGap.reg k = s.reg k := by
  unfold State.auditGap
  split
  · rfl
  · exact (State.reg_count_record hk _ (by decide)).trans (State.reg_auditJoin hk s _)

/-- Producing a record leaves every other register. -/
theorem State.reg_audit (r : AuditRec) : (s.audit r).reg k = s.reg k := by
  have hready : s.auditReady.reg k = s.reg k := by
    unfold State.auditReady
    split
    · rfl
    · rw [State.reg_sealDue hk, State.reg_auditGap hk, State.reg_sealDue hk]
  unfold State.audit
  dsimp only
  split
  · rfl
  · split
    · exact (State.reg_count_record hk _ (by decide)).trans hready
    · have hjoin := (State.reg_auditJoin hk s.auditReady r).trans hready
      unfold State.auditAppend
      dsimp only
      split
      · exact (State.reg_auditSeal hk _ _ _).trans hjoin
      · exact hjoin

end

/-! ## What noting an event of a domain changes (R108, R163) -/

/-- Records and events are produced and the conditions of domain d followed; nothing else changes. -/
structure Noted (d : Nat) (s t : State) : Prop where
  frame : t = { s with regs := t.regs, aud := t.aud, log := t.log, doms := t.doms }
  reg : ∀ k, k ∉ recordRegs → t.reg k = s.reg k
  dom : ∃ b, t.dom d = { s.dom d with condLast := b }
  others : ∀ e, e ≠ d → t.dom e = s.dom e

namespace Noted

theorem refl (d : Nat) (s : State) : Noted d s s := ⟨rfl, fun _ _ => rfl, ⟨_, rfl⟩, fun _ _ => rfl⟩

section

variable {d : Nat} {s t : State} (h : Noted d s t)
include h

theorem trans {u : State} (h' : Noted d t u) : Noted d s u := by
  obtain ⟨b, hb⟩ := h.dom
  obtain ⟨b', hb'⟩ := h'.dom
  exact ⟨by rw [h'.frame, h.frame], fun k hk => (h'.reg k hk).trans (h.reg k hk), ⟨b', by rw [hb', hb]⟩,
    fun e he => (h'.others e he).trans (h.others e he)⟩

theorem audit (r : AuditRec) : Noted d s (t.audit r) := by
  have ha := (AuditOnly.refl t).audit r
  have hdoms : (t.audit r).doms = t.doms := by rw [ha.frame]
  have hdom (e : Nat) : (t.audit r).dom e = t.dom e := by rw [State.dom, hdoms, State.dom]
  exact h.trans ⟨by rw [ha.frame], fun k hk => State.reg_audit hk t r, ⟨_, hdom d⟩, fun e _ => hdom e⟩

theorem logEvent (number block : Nat) (params : List Nat) : Noted d s (t.logEvent number block params) := by
  exact h.trans ⟨by rw [State.logEvent_frame], fun k hk => State.reg_logEvent_record hk t _ _ _,
    ⟨_, State.dom_logEvent ..⟩, fun _ _ => State.dom_logEvent ..⟩

theorem condPoll : Noted d s (t.condPoll d) := by
  unfold State.condPoll
  dsimp only
  split
  · exact h
  · refine (h.trans ?_).logEvent _ _ _
    exact ⟨rfl, fun _ _ => rfl, ⟨_, State.dom_modDom_self ..⟩, fun e he => State.dom_modDom_ne he ..⟩

theorem domainEvent (event : Nat) (stamp : Dial) (seq : Word) (digest : Nat) :
    Noted d s (t.domainEvent d event stamp seq digest) := by
  unfold State.domainEvent
  split
  · exact h
  · exact h.audit _

theorem seqReg {k : Nat} (hk : k / 0x100000 = 4) : t.reg k = s.reg k := h.reg k (not_mem_recordRegs_of_seq hk)

end

end Noted

end Sys2Proof.Machine
end

section
namespace Sys2Proof.Machine

open Sys2Proof.Claims

/-! ## What the checks of an OPEN look at (R116, R316) -/

/-- Nothing that the checks of R116 look at differs: of the registers only the count of discarded halves and the results
of OPENs may. -/
structure SameChecks (s t : State) : Prop where
  reg : ∀ k, k ≠ Reg.GEN_CNT_SPLIT_DISCARD → (∀ e < 16, k ≠ Reg.SEQ_OPEN_RESULT e) → t.reg k = s.reg k
  copyB : t.copyB = s.copyB
  copyC : t.copyC = s.copyC
  time : t.time = s.time
  doms : t.doms = s.doms
  rings : t.rings = s.rings
  gal : t.gal = s.gal

namespace SameChecks

theorem discarded (who : Party) (key : Nat) (s : State) : SameChecks s (discarded who key s) := by
  have hframe := s.unstage_frame (slotLatch who (key / 0x100000)) (barName key)
  refine ⟨fun k hk _ => State.reg_unstage_ne _ _ s hk, ?_, ?_, ?_, ?_, ?_, ?_⟩
  all_goals rw [Claims.discarded, hframe]

theorem setResult {s t : State} (h : SameChecks s t) {d : Nat} (hd : d < 16) (v : Word) :
    SameChecks s (t.setReg (Reg.SEQ_OPEN_RESULT d) v) :=
  ⟨fun k hk he => (State.reg_setReg_ne (he d hd) v t).trans (h.reg k hk he), h.copyB, h.copyC, h.time, h.doms, h.rings,
    h.gal⟩

section

variable {s t : State} (h : SameChecks s t)
include h

theorem dom (d : Nat) : t.dom d = s.dom d := by rw [State.dom, h.doms, State.dom]
theorem isOpen (d : Nat) : t.isOpen d = s.isOpen d := by rw [State.isOpen, h.dom, State.isOpen]
theorem dial : t.dial = s.dial := by rw [State.dial, h.time, State.dial]

theorem voted {k : Nat} (hk : k ≠ Reg.GEN_CNT_SPLIT_DISCARD) (he : ∀ e < 16, k ≠ Reg.SEQ_OPEN_RESULT e) :
    t.voted k = s.voted k := by
  simp only [State.voted, State.regB, State.regC, h.reg k hk he, h.copyB, h.copyC]

/-! ### Registers, by where they lie -/

theorem lowReg {k : Nat} (hlow : k < 0x400000) (hk : k ≠ Reg.GEN_CNT_SPLIT_DISCARD) : t.reg k = s.reg k :=
  h.reg k hk fun e _ => by simp only [Reg.SEQ_OPEN_RESULT]; omega

theorem seqCfg (d : Nat) : t.seqCfg d = s.seqCfg d := by
  refine h.voted ?_ fun e he => ?_
  · simp only [Reg.SEQ_DOMAIN_CFG, Reg.GEN_CNT_SPLIT_DISCARD]
    omega
  · simp only [Reg.SEQ_DOMAIN_CFG, Reg.SEQ_OPEN_RESULT]
    omega

theorem portMode (n : Nat) : t.portMode n = s.portMode n := by
  refine h.voted ?_ fun e he => ?_
  · simp only [Reg.PORT_MODE, Reg.GEN_CNT_SPLIT_DISCARD]
    omega
  · simp only [Reg.PORT_MODE, Reg.SEQ_OPEN_RESULT]
    omega

theorem admitRate {n : Nat} (hn : n < 256) : t.admitRate n = s.admitRate n := by
  rw [State.admitRate, h.lowReg, State.admitRate]
  · simp only [Reg.PIPE_ADMIT]
    omega
  · simp only [Reg.PIPE_ADMIT, Reg.GEN_CNT_SPLIT_DISCARD]
    omega

theorem galDom {d : Nat} (hd : d < 16) : t.reg (Reg.GAL_DOM d) = s.reg (Reg.GAL_DOM d) := by
  refine h.reg _ ?_ fun e he => ?_
  · simp only [Reg.GAL_DOM, Reg.GEN_CNT_SPLIT_DISCARD]
    omega
  · simp only [Reg.GAL_DOM, Reg.SEQ_OPEN_RESULT]
    omega

/-! ### Feeds and rates -/

theorem isIdle (n : Nat) : t.isIdle n = s.isIdle n := by
  rw [State.isIdle, State.portOfLane_congr fun m _ => h.portMode m, State.isIdle]

theorem inFeed {n : Nat} (d : Nat) (hn : n < 256) : t.inFeed d n = s.inFeed d n := by
  rw [State.inFeed, h.isIdle, h.reg, State.inFeed]
  · simp only [Reg.SEQ_FEED, Reg.GEN_CNT_SPLIT_DISCARD]
    omega
  · intro e _
    simp only [Reg.SEQ_FEED, Reg.SEQ_OPEN_RESULT]
    omega

theorem feed (d : Nat) : t.feed d = s.feed d :=
  List.filter_congr fun _ hn => h.inFeed d (List.mem_range.1 hn)

theorem feedAdmits (d : Nat) : (t.feed d).map t.admitRate = (s.feed d).map s.admitRate := by
  rw [h.feed]
  exact List.map_congr_left fun n hn => h.admitRate (List.mem_range.1 (List.mem_filter.1 hn).1)

theorem stacked (d : Nat) : t.stacked d = s.stacked d := by rw [State.stacked, h.seqCfg, State.stacked]

theorem premerge (d : Nat) : t.premerge d = s.premerge d := by
  have hlmax : t.lmax = s.lmax := funext fun n => by rw [State.lmax, h.portMode, State.lmax]
  rw [State.premerge, h.feed, hlmax, State.premerge]

section

variable {d : Nat} (hd : d < 16)
include hd

theorem isFeeder : t.isFeeder d = s.isFeeder d := by rw [State.isFeeder, h.stacked, h.galDom hd, State.isFeeder]
theorem feeders : t.feeders d = s.feeders d := by simp only [State.feeders, h.galDom hd, h.gal]
theorem mergers : t.mergers d = s.mergers d := by simp only [State.mergers, h.galDom hd, h.gal]
theorem peerFeed : t.peerFeed d = s.peerFeed d := by rw [State.peerFeed, h.stacked, h.feeders hd, State.peerFeed]

theorem feedRate : t.feedRate d = s.feedRate d := by
  rw [State.feedRate, h.feedAdmits, h.peerFeed hd, State.feedRate]

theorem musterMin : t.musterMin d = s.musterMin d := by
  rw [State.musterMin, h.stacked, h.feeders hd, h.premerge, State.musterMin]

theorem musterShort : t.musterShort d = s.musterShort d := by
  rw [State.musterShort, State.musterNs, h.seqCfg, h.musterMin hd, State.musterShort, State.musterNs]

theorem seqRing (reject : Bool) : t.seqRing d reject = s.seqRing d reject := by
  rw [State.seqRing, h.reg, State.seqRing]
  · simp only [Reg.SEQ_RINGS, Reg.GEN_CNT_SPLIT_DISCARD]
    omega
  · intro e _
    simp only [Reg.SEQ_RINGS, Reg.SEQ_OPEN_RESULT]
    omega

end

/-! ### Rings, the stack and the hold store -/

theorem dialStopped : t.dialStopped = s.dialStopped := by
  rw [State.dialStopped, State.stopped, h.time, h.lowReg (by decide) (by decide), State.dialStopped, State.stopped]

theorem galReg {k : Nat} (hk : 0x420000 ≤ k) : t.reg k = s.reg k := by
  refine h.reg k ?_ fun e he => ?_
  · simp only [Reg.GEN_CNT_SPLIT_DISCARD]
    omega
  · simp only [Reg.SEQ_OPEN_RESULT]
    omega

theorem galCfg : t.reg Reg.GAL_CFG = s.reg Reg.GAL_CFG := h.galReg (by decide)

theorem ringIs (c type : Nat) : t.ringIs c type = s.ringIs c type := by
  rw [State.ringIs, State.ring, h.rings, State.ringIs, State.ring]

theorem stackPeers : t.stackPeers = s.stackPeers := by simp only [State.stackPeers, h.galCfg, h.gal]

theorem galLink (n : Nat) : t.galLink n = s.galLink n := by rw [State.galLink, h.gal, State.galLink]

theorem directLink (dev : Nat) : t.directLink dev = s.directLink dev := by
  simp only [State.directLink, h.galLink]

theorem stackLock : t.stackLock = s.stackLock := by
  simp only [State.stackLock, h.galCfg, h.stackPeers, h.directLink, h.gal]

theorem carries (dev : Nat) : t.carries dev = s.carries dev := by
  have hcfg (n : Nat) : t.reg (Reg.GAL_LINK_CFG n) = s.reg (Reg.GAL_LINK_CFG n) :=
    h.galReg (by simp only [Reg.GAL_LINK_CFG]; omega)
  have hcarries : t.galCarries = s.galCarries := funext fun n => by simp only [State.galCarries, hcfg, h.galLink]
  simp only [State.carries, h.galLink, hcarries]

theorem carrier (dev : Nat) : t.carrier dev = s.carrier dev := by
  have hreach (r : Nat) : t.reachOf r = s.reachOf r := by rw [State.reachOf, h.gal, State.reachOf]
  have hrelay : t.relayFor dev = s.relayFor dev := by
    simp only [State.relayFor, h.directLink, h.stackPeers, hreach]
  have hcarries : t.carries = s.carries := funext h.carries
  simp only [State.carrier, hcarries, hrelay]

theorem linkLoad (d l : Nat) : t.linkLoad d l = s.linkLoad d l := by
  unfold State.linkLoad
  refine congrArg List.sum (List.map_congr_left fun e he => ?_)
  rw [h.isOpen, h.stacked, h.mergers (List.mem_range.1 he), h.feedAdmits]
  simp only [h.carrier]

omit h in
theorem largestMuster_congr {f g : Nat → Bool} (cfg : Nat → Word) (hfg : ∀ d < 16, f d = g d) :
    largestMuster cfg f = largestMuster cfg g :=
  List.foldl_ext _ _ _ fun a e he => by rw [hfg e (List.mem_range.1 he)]

theorem storeFits (cfg : Nat → Word) : t.storeFits t.admitRate cfg = s.storeFits s.admitRate cfg := by
  unfold State.storeFits
  extract_lets feeders own peers waits feeders' own' peers' waits'
  have hfeeders (e : Nat) (he : e ∈ List.range 16) : feeders e = feeders' e := by
    simp only [feeders, feeders', h.feeders (List.mem_range.1 he)]
  have hown : own = own' := congrArg List.sum <| List.map_congr_left fun n hn => by
    have hn := List.mem_range.1 hn
    rw [h.admitRate hn, largestMuster_congr cfg fun e _ => h.inFeed e hn]
  have hpeers : peers = peers' := by
    have hmember (dev : Nat) : ((List.range 16).any fun e => (feeders e).contains dev) =
        (List.range 16).any fun e => (feeders' e).contains dev := by
      rw [Bool.eq_iff_iff, List.any_eq_true, List.any_eq_true]
      exact exists_congr fun e => and_congr_right fun he => by rw [hfeeders e he]
    have hmuster (dev n : Nat) :
        largestMuster cfg (fun e => (feeders e).contains dev && Config.peerFeed dev e n) =
          largestMuster cfg fun e => (feeders' e).contains dev && Config.peerFeed dev e n :=
      largestMuster_congr cfg fun e he => by rw [hfeeders e (List.mem_range.2 he)]
    simp only [peers, peers', hmember, hmuster]
  have hwaits : waits = waits' := congrArg List.sum <| List.map_congr_left fun e he => by rw [h.feed, hfeeders e he]
  rw [hown, hpeers, hwaits]

theorem storeFitsCfg (d : Nat) (v : Word) : t.storeFitsCfg d v = s.storeFitsCfg d v := by
  simp only [State.storeFitsCfg, h.storeFits, h.seqCfg]

/-- So the same OPENs pass. -/
theorem openResult {d : Nat} (hd : d < 16) : t.openResult d = s.openResult d := by
  have hrates : ((List.range 16).map fun e => if decide (e = d) || s.isOpen e then t.feedRate e else 0) =
      (List.range 16).map fun e => if decide (e = d) || s.isOpen e then s.feedRate e else 0 :=
    List.map_congr_left fun e he => by rw [h.feedRate (List.mem_range.1 he)]
  have htime : t.voted Reg.TIME_CFG = s.voted Reg.TIME_CFG :=
    h.voted (by decide) fun e _ => by simp only [Reg.TIME_CFG, Reg.SEQ_OPEN_RESULT]; omega
  unfold State.openResult
  simp only [h.isOpen, hrates, htime, h.time, h.dialStopped, h.musterShort hd, h.seqCfg, h.feedRate hd, h.feed,
    h.stacked, h.feeders hd, h.isFeeder hd, h.ringIs, h.seqRing hd, h.stackLock, h.linkLoad, h.storeFitsCfg]

end

end SameChecks

end Sys2Proof.Machine
end

section
namespace Sys2Proof.Machine

open Sys2Proof.Claims

/-! ## Counting several events (R372) -/

theorem counts_countBy (k n : Nat) (s : State) : counts k n s (s.countBy k n) := by
  rw [counts, State.countBy_eq]
  split
  · rfl
  · exact State.reg_setReg_self ..

theorem counts_congr {k n : Nat} {s s' t t' : State} (hs : s'.reg k = s.reg k) (ht : t'.reg k = t.reg k)
    (h : counts k n s t) : counts k n s' t' := by
  rw [counts, ht, hs]
  exact h

/-! ## OPEN (R115, R116, R316) -/

/-- The instant that a register names depends on the register and on Dial alone. -/
theorem State.instantOf_congr {s t : State} {k : Nat} (hreg : t.reg k = s.reg k) (hdial : t.dial = s.dial) :
    t.instantOf k = s.instantOf k := by
  rw [State.instantOf, hreg, hdial, State.instantOf]

theorem State.openResult_le (s : State) (d : Nat) : s.openResult d ≤ 10 := by
  unfold State.openResult
  extract_lets total
  split_ifs <;> decide

theorem word_eq_one_iff {n : Nat} (h : n ≤ 10) : word n = 1 ↔ n = 1 := by
  interval_cases n <;> decide

theorem word_toNat_add_one (v : Word) : word (v.toNat + 1) = v + 1 := by
  apply BitVec.eq_of_toNat_eq
  simp [word, BitVec.toNat_add]

/-- The registers of an OPEN that passes: its result, the open count, and nothing halted or waiting. -/
def State.openRegs (d : Nat) (s : State) : State :=
  let s := s.setReg (Reg.SEQ_OPEN_RESULT d) (word 1)
  ((s.setReg (Reg.AUD_OPEN_COUNT d) (word ((s.reg (Reg.AUD_OPEN_COUNT d)).toNat + 1))).setReg
    (Reg.SEQ_HALT_INFO d) 0).setReg (Reg.SEQ_BACKLOG d) 0

/-- The record of an OPEN, and its domain's conditions. -/
theorem noteOpen_noted (d : Nat) (s : State) : Noted d s (noteOpen d s) := by
  unfold noteOpen
  split
  · exact .refl d s
  · exact ((Noted.refl d s).domainEvent ..).condPoll

/-- The record of a domain whose OPEN passes. -/
def DomState.opening (openAt now : Dial) (n : Word) (x : DomState) : DomState :=
  { DomState.reset with phase := .opening, openAt := openAt, frontier := now, copyA := n, copyB := n, copyC := n,
                        outside := x.outside, outsideNew := x.outsideNew, lastStamp := x.lastStamp,
                        condLast := x.condLast, suspect := x.fenced }

section

variable {d : Nat} {s : State}

theorem State.openRegs_spec (hd : d < 16) : (s.openRegs d).reg (Reg.SEQ_OPEN_RESULT d) = 1 ∧
    (s.openRegs d).reg (Reg.SEQ_HALT_INFO d) = 0 ∧
    (s.openRegs d).reg (Reg.AUD_OPEN_COUNT d) = s.reg (Reg.AUD_OPEN_COUNT d) + 1 := by
  have hrc : Reg.SEQ_OPEN_RESULT d ≠ Reg.AUD_OPEN_COUNT d := by
    simp only [Reg.SEQ_OPEN_RESULT, Reg.AUD_OPEN_COUNT]
    omega
  have hrh : Reg.SEQ_OPEN_RESULT d ≠ Reg.SEQ_HALT_INFO d := by
    simp only [Reg.SEQ_OPEN_RESULT, Reg.SEQ_HALT_INFO]
    omega
  have hrb : Reg.SEQ_OPEN_RESULT d ≠ Reg.SEQ_BACKLOG d := by
    simp only [Reg.SEQ_OPEN_RESULT, Reg.SEQ_BACKLOG]
    omega
  have hhb : Reg.SEQ_HALT_INFO d ≠ Reg.SEQ_BACKLOG d := by
    simp only [Reg.SEQ_HALT_INFO, Reg.SEQ_BACKLOG]
    omega
  have hch : Reg.AUD_OPEN_COUNT d ≠ Reg.SEQ_HALT_INFO d := by
    simp only [Reg.AUD_OPEN_COUNT, Reg.SEQ_HALT_INFO]
    omega
  have hcb : Reg.AUD_OPEN_COUNT d ≠ Reg.SEQ_BACKLOG d := by
    simp only [Reg.AUD_OPEN_COUNT, Reg.SEQ_BACKLOG]
    omega
  unfold State.openRegs
  dsimp only
  refine ⟨?_, ?_, ?_⟩
  · rw [State.reg_setReg_ne hrb, State.reg_setReg_ne hrh, State.reg_setReg_ne hrc, State.reg_setReg_self]
    rfl
  · rw [State.reg_setReg_ne hhb, State.reg_setReg_self]
  · rw [State.reg_setReg_ne hcb, State.reg_setReg_ne hch, State.reg_setReg_self, State.reg_setReg_ne hrc.symm,
      word_toNat_add_one]

/-- An OPEN that passes sets those registers. -/
theorem admitOpen_regs (hpass : s.openResult d = 1) : (admitOpen d s).regs = (s.openRegs d).regs := by
  unfold admitOpen
  dsimp only
  rw [if_neg (not_not.2 hpass), hpass]
  simp only [State.openRegs, State.setReg_regs, State.modDom_regs, State.ledgerQueue]

/-- It makes its domain OPENING at its instant. -/
theorem admitOpen_doms (hd : d < 16) (hpass : s.openResult d = 1) : ∃ now n, (admitOpen d s).doms =
    (s.modDom d (DomState.opening (s.instantOf (Reg.SEQ_OPEN_AT d)) now n)).doms := by
  unfold admitOpen
  extract_lets r noted o counted n instant _ opened settled
  have hcounted (k : Nat) : counted.reg k = (noted.setReg (Reg.AUD_OPEN_COUNT d) (word o)).reg k := rfl
  have hinstant : instant = s.instantOf (Reg.SEQ_OPEN_AT d) := by
    refine State.instantOf_congr ?_ rfl
    rw [hcounted, State.reg_setReg_ne, State.reg_setReg_ne]
    · simp only [Reg.SEQ_OPEN_AT, Reg.SEQ_OPEN_RESULT]
      omega
    · simp only [Reg.SEQ_OPEN_AT, Reg.AUD_OPEN_COUNT]
      omega
  have hdoms : counted.doms = s.doms := rfl
  refine ⟨counted.dial, n, ?_⟩
  rw [if_neg (show ¬r ≠ 1 from not_not.2 hpass), ← hinstant]
  simp only [settled, opened, State.setReg_doms, State.modDom_doms, hdoms]
  rfl

theorem State.dom_congr {s t : State} (h : s.doms = t.doms) (d : Nat) : s.dom d = t.dom d := by
  rw [State.dom, h, State.dom]

/-- An OPEN that passes, with its record: the domain's record and the registers it sets. -/
theorem decideOpen_passes (hd : d < 16) (hpass : s.openResult d = 1) :
    let t := decideOpen d s
    (t.dom d).phase = .opening ∧ (t.dom d).openAt = s.instantOf (Reg.SEQ_OPEN_AT d) ∧
      (∀ e, e ≠ d → t.dom e = s.dom e) ∧ ∀ k, k ∉ recordRegs → t.reg k = (s.openRegs d).reg k := by
  intro t
  have hnoted : Noted d (admitOpen d s) t := noteOpen_noted d _
  obtain ⟨now, n, hdoms⟩ := admitOpen_doms hd hpass
  obtain ⟨b, hb⟩ := hnoted.dom
  rw [State.dom_congr hdoms, State.dom_modDom_self] at hb
  refine ⟨by rw [hb]; rfl, by rw [hb]; rfl, fun e he => ?_, fun k hk => ?_⟩
  · rw [hnoted.others e he, State.dom_congr hdoms, State.dom_modDom_ne he]
  · rw [hnoted.reg k hk, State.reg_congr (admitOpen_regs hpass)]

/-- An OPEN that fails a check leaves its code in the result register alone. -/
theorem decideOpen_refused (hfail : s.openResult d ≠ 1) :
    decideOpen d s = s.setReg (Reg.SEQ_OPEN_RESULT d) (word (s.openResult d)) := by
  have hword : word (s.openResult d) ≠ 1 := mt (word_eq_one_iff (s.openResult_le d)).1 hfail
  have hadmit : admitOpen d s = s.setReg (Reg.SEQ_OPEN_RESULT d) (word (s.openResult d)) := if_pos hfail
  rw [decideOpen, hadmit, noteOpen, State.reg_setReg_self, if_pos hword]

theorem openCommand_decides (h : s.time.pending = none) :
    openCommand d s = decideOpen d (s.setReg (Reg.SEQ_OPEN_RESULT d) 0) := if_neg (by simp [h])

theorem openCommand_waits (h : s.time.pending.isSome = true) (hwait : s.openWait.contains d = false) :
    openCommand d s =
      { s.setReg (Reg.SEQ_OPEN_RESULT d) 0 with openWait := s.openWait ++ [d] } :=
  (if_pos h).trans (if_neg (Bool.eq_false_iff.1 hwait))

end

/-! ## Closing (R115 to R117) -/

/-- A domain's record once it is CLOSED: nothing is held, waits or is kept. -/
def DomState.emptied (x : DomState) : DomState :=
  { x with phase := .closed, held := [], treeA := [], treeB := [], treeC := [], backM := [], backR := [], kept := [],
           mirrors := [], mirrorSeq := none, takeover := false }

theorem State.toClosed_eq (d event : Nat) (s : State) : s.toClosed d event =
    ((s.domainEvent d event s.dial (s.reg (Reg.SEQ_LAST_NUMBER d)) 0).modDom d DomState.emptied).condPoll d := rfl

/-- A domain enters CLOSED emptied; the rest is records and its conditions. -/
theorem State.toClosed_spec (d event : Nat) (s : State) :
    let t := s.toClosed d event
    ((t.dom d).phase = .closed ∧ (t.dom d).held = [] ∧ (t.dom d).backlog = 0) ∧
      (∀ e, e ≠ d → t.dom e = s.dom e) ∧ ∀ k, k ∉ recordRegs → t.reg k = s.reg k := by
  intro t
  obtain ⟨u, hu⟩ := exists_eq' (a' := s.domainEvent d event s.dial (s.reg (Reg.SEQ_LAST_NUMBER d)) 0)
  have hnoted : Noted d s u := hu ▸ (Noted.refl d s).domainEvent ..
  have hpoll : Noted d (u.modDom d DomState.emptied) t := by
    rw [show t = _ from State.toClosed_eq d event s, ← hu]
    exact (Noted.refl d _).condPoll
  obtain ⟨b, hb⟩ := hpoll.dom
  rw [State.dom_modDom_self] at hb
  rw [hb]
  refine ⟨⟨rfl, rfl, rfl⟩, fun e he => ?_, fun k hk => ?_⟩
  · rw [hpoll.others e he, State.dom_modDom_ne he, hnoted.others e he]
  · rw [hpoll.reg k hk, State.reg_congr (State.modDom_regs ..), hnoted.reg k hk]

section

variable {d : Nat} {s : State}

theorem closeCommand_opening (h : (s.dom d).phase = .opening) :
    closeCommand d s = (s.setReg (Reg.SEQ_OPEN_RESULT d) 1).toClosed d 1 := by
  unfold closeCommand
  rw [h]

theorem closeCommand_opened (h : (s.dom d).phase = .opened) : closeCommand d s =
    (s.setReg (Reg.SEQ_OPEN_RESULT d) 1).modDom d fun x =>
      { x with phase := .closing, closeAt := s.instantOf (Reg.SEQ_CLOSE_AT d) } := by
  unfold closeCommand
  rw [h]

theorem closeCommand_refused (hopening : (s.dom d).phase ≠ .opening) (hopened : (s.dom d).phase ≠ .opened) :
    closeCommand d s = s.setReg (Reg.SEQ_OPEN_RESULT d) 2 := by
  unfold closeCommand
  cases h : (s.dom d).phase with
  | opening => exact absurd h hopening
  | opened => exact absurd h hopened
  | closed => rfl
  | closing => rfl
  | halted => rfl

theorem forceClose_refused (h : (s.dom d).phase = .closed) :
    forceClose d s = s.setReg (Reg.SEQ_OPEN_RESULT d) 2 := if_pos h

/-- The messages that a FORCE_CLOSE discards. -/
def DomState.discards (x : DomState) : Nat := x.held.length + x.merging + x.backlog

/-- FORCE_CLOSE empties a domain that is not CLOSED and counts what it discards. -/
theorem forceClose_spec (hd : d < 16) (h : (s.dom d).phase ≠ .closed) :
    let t := forceClose d s
    ((t.dom d).phase = .closed ∧ (t.dom d).held = [] ∧ (t.dom d).backlog = 0) ∧ t.reg (Reg.SEQ_OPEN_RESULT d) = 1 ∧
      counts (Reg.SEQ_CNT_CLOSE_DISCARD d) (s.dom d).discards s t := by
  intro t
  have hne : Reg.SEQ_OPEN_RESULT d ≠ Reg.SEQ_CNT_CLOSE_DISCARD d := by
    simp only [Reg.SEQ_OPEN_RESULT, Reg.SEQ_CNT_CLOSE_DISCARD]
    omega
  have hresult : Reg.SEQ_OPEN_RESULT d ∉ recordRegs :=
    not_mem_recordRegs_of_seq (by simp only [Reg.SEQ_OPEN_RESULT]; omega)
  have hcount : Reg.SEQ_CNT_CLOSE_DISCARD d ∉ recordRegs :=
    not_mem_recordRegs_of_seq (by simp only [Reg.SEQ_CNT_CLOSE_DISCARD]; omega)
  let u := (s.setReg (Reg.SEQ_OPEN_RESULT d) 1).countBy (Reg.SEQ_CNT_CLOSE_DISCARD d) (s.dom d).discards
  obtain ⟨v, hv, ht⟩ : ∃ v : State, (∀ k, k ∉ recordRegs → v.reg k = u.reg k) ∧ t = v.toClosed d 3 := by
    refine ⟨_, ?_, if_neg h⟩
    intro k hk
    split
    · rfl
    · exact State.reg_logEvent_record hk ..
  obtain ⟨hclosed, _, hreg⟩ := v.toClosed_spec d 3
  rw [ht]
  refine ⟨hclosed, ?_, ?_⟩
  · rw [hreg _ hresult, hv _ hresult, State.reg_countBy_ne hne, State.reg_setReg_self]
  · exact counts_congr (State.reg_setReg_ne hne.symm ..).symm ((hreg _ hcount).trans (hv _ hcount)) (counts_countBy ..)

theorem domainOpens_due (hphase : (s.dom d).phase = .opening) (hdue : (s.dom d).openAt ≤ s.dial) :
    domainOpens d s = s.modDom d fun x => { x with phase := .opened, frontier := s.dial } := if_pos ⟨hphase, hdue⟩

theorem domainCloses_due (hphase : (s.dom d).phase = .closing) (hheld : (s.dom d).held = [])
    (hback : (s.dom d).backlog = 0)
    (hdue : (s.dom d).closeAt.toNat + max (s.musterNs d) (s.musterMin d) * nsUnits ≤ s.dial.toNat) :
    domainCloses d s = s.toClosed d 1 := if_pos ⟨hphase, hdue, hheld, hback⟩

end

end Sys2Proof.Machine
end

section
namespace Sys2Proof.Machine

open Sys2Proof.Claims

/-! ## Opening and closing, command by command -/

/-- A command of the sequencer that names a domain is carried out while its block runs. -/
theorem within_domain {d : Nat} {s : State} (hd : d < 16) (hrun : running 1 s = true) (f : State → State) :
    within (decide (d < 16)) (whenClocked (unlessStopped 1 f) s) s = .next (f s) := by
  rw [decide_eq_true hd, within_true, whenClocked_running hrun]

theorem exec_domainOpens {d : Nat} {s : State} (hd : d < 16) (hrun : running 1 s = true) :
    exec (.domainOpens d) s = .next (domainOpens d s) := within_domain hd hrun _

theorem exec_domainCloses {d : Nat} {s : State} (hd : d < 16) (hrun : running 1 s = true) :
    exec (.domainCloses d) s = .next (domainCloses d s) := within_domain hd hrun _

section

variable {who : Party} {d : Nat} {s : State} (hd : d < 16) (hacc : accepted who s = true)
  (hrun : running 1 s = true)
include hd hacc hrun

theorem exec_open : exec (.open who d) s = .next (openCommand d (discarded who (Reg.SEQ_DOMAIN_CTL d) s)) :=
  within_domainWrite hd hacc hrun _ _

theorem exec_close : exec (.close who d) s = .next (closeCommand d (discarded who (Reg.SEQ_DOMAIN_CTL d) s)) :=
  within_domainWrite hd hacc hrun _ _

theorem exec_forceClose : exec (.forceClose who d) s = .next (forceClose d (discarded who (Reg.SEQ_DOMAIN_CTL d) s)) :=
  within_domainWrite hd hacc hrun _ _

end

@[simp] theorem State.dom_discarded (who : Party) (k d : Nat) (s : State) : (discarded who k s).dom d = s.dom d :=
  State.dom_unstage ..

section

variable {d : Nat} (hd : d < 16) {s : State} (who : Party) (key : Nat)
include hd

/-- An OPEN that passes, a half staged for its register discarded. -/
theorem openCommand_passes (hpending : s.time.pending = none) (hpass : s.openResult d = 1) :
    let t := openCommand d (discarded who key s)
    (t.dom d).phase = .opening ∧ (t.dom d).openAt = s.instantOf (Reg.SEQ_OPEN_AT d) ∧
      t.reg (Reg.SEQ_OPEN_RESULT d) = 1 ∧ t.reg (Reg.AUD_OPEN_COUNT d) = s.reg (Reg.AUD_OPEN_COUNT d) + 1 ∧
      t.reg (Reg.SEQ_HALT_INFO d) = 0 ∧ ∀ e, e ≠ d → t.dom e = s.dom e := by
  intro t
  have hdisc := SameChecks.discarded who key s
  have hsame := hdisc.setResult hd 0
  have ht : t = decideOpen d _ := openCommand_decides (by rw [hdisc.time, hpending])
  generalize (discarded who key s).setReg (Reg.SEQ_OPEN_RESULT d) 0 = u at hsame ht
  obtain ⟨hphase, hat, hothers, hreg⟩ := decideOpen_passes hd ((hsame.openResult hd).trans hpass)
  obtain ⟨hresult, hhalt, hcount⟩ := State.openRegs_spec (s := u) hd
  have hinstant : u.instantOf (Reg.SEQ_OPEN_AT d) = s.instantOf (Reg.SEQ_OPEN_AT d) := by
    refine State.instantOf_congr (hsame.reg _ ?_ fun e he => ?_) hsame.dial
    · simp only [Reg.SEQ_OPEN_AT, Reg.GEN_CNT_SPLIT_DISCARD]
      omega
    · simp only [Reg.SEQ_OPEN_AT, Reg.SEQ_OPEN_RESULT]
      omega
  have hcount' : u.reg (Reg.AUD_OPEN_COUNT d) = s.reg (Reg.AUD_OPEN_COUNT d) :=
    hsame.galReg (by simp only [Reg.AUD_OPEN_COUNT]; omega)
  rw [ht]
  refine ⟨hphase, hat.trans hinstant, ?_, ?_, ?_, fun e he => (hothers e he).trans (hsame.dom e)⟩
  · rw [hreg _ (not_mem_recordRegs_of_seq (by simp only [Reg.SEQ_OPEN_RESULT]; omega)), hresult]
  · rw [hreg _ (openCount_not_mem_recordRegs hd), hcount, hcount']
  · rw [hreg _ (not_mem_recordRegs_of_seq (by simp only [Reg.SEQ_HALT_INFO]; omega)), hhalt]

/-- One that fails a check sets the result register alone. -/
theorem openCommand_refused (hpending : s.time.pending = none) (hfail : s.openResult d ≠ 1) :
    let t := openCommand d (discarded who key s)
    t.reg (Reg.SEQ_OPEN_RESULT d) = word (s.openResult d) ∧
      onlyRegs [Reg.SEQ_OPEN_RESULT d] (discarded who key s) t := by
  intro t
  have hdisc := SameChecks.discarded who key s
  have hresult := (hdisc.setResult hd 0).openResult hd
  have ht : t = _ := (openCommand_decides (by rw [hdisc.time, hpending])).trans
    (decideOpen_refused (by rwa [hresult]))
  rw [ht, hresult]
  refine ⟨State.reg_setReg_self .., rfl, fun k hk => ?_⟩
  have hk : k ≠ Reg.SEQ_OPEN_RESULT d := by simpa using hk
  rw [State.reg_setReg_ne hk, State.reg_setReg_ne hk]

end

/-- A command that is refused where it stands sets the result register alone. -/
theorem refusedState_spec (d : Nat) (s : State) :
    (s.setReg (Reg.SEQ_OPEN_RESULT d) 2).reg (Reg.SEQ_OPEN_RESULT d) = 2 ∧
      onlyRegs [Reg.SEQ_OPEN_RESULT d] s (s.setReg (Reg.SEQ_OPEN_RESULT d) 2) :=
  ⟨State.reg_setReg_self .., rfl, fun _ hk => State.reg_setReg_ne (by simpa using hk) ..⟩

/-- Settles O14: an OPEN passes, waits or is refused (openCommand_passes, openCommand_waits, openCommand_refused), CLOSE
and FORCE_CLOSE act by the domain's phase (closeCommand_opened, closeCommand_opening, forceClose_spec), and a domain
that closes is emptied (State.toClosed_spec). -/
theorem domainsOpenCloseOrRefuse : Obligations.DomainsOpenCloseOrRefuse := by
  unfold Obligations.DomainsOpenCloseOrRefuse
  refine ⟨fun d s hd hrun => ⟨fun who hacc => ⟨?opens, ?waits, ?closes, ?aborts, ?forced⟩, ?opened, ?closed⟩,
    fun who d s hd hacc hrun => ?refusals⟩
  case opens => exact fun hp hpass => ⟨_, exec_open hd hacc hrun, openCommand_passes hd who _ hp hpass⟩
  case waits =>
    intro hp hwait
    have hframe := s.unstage_frame (slotLatch who (Reg.SEQ_DOMAIN_CTL d / 0x100000)) (barName (Reg.SEQ_DOMAIN_CTL d))
    have hopenWait : (discarded who (Reg.SEQ_DOMAIN_CTL d) s).openWait = s.openWait := by rw [discarded, hframe]
    have hdisc := SameChecks.discarded who (Reg.SEQ_DOMAIN_CTL d) s
    refine ⟨_, exec_open hd hacc hrun, ?_⟩
    rw [openCommand_waits (by rw [hdisc.time, hp]) (by rw [hopenWait, hwait]), hopenWait]
    exact ⟨rfl, hdisc.doms⟩
  case closes =>
    intro hphase
    have hinstant : (discarded who (Reg.SEQ_DOMAIN_CTL d) s).instantOf (Reg.SEQ_CLOSE_AT d) =
        s.instantOf (Reg.SEQ_CLOSE_AT d) := by
      refine State.instantOf_congr (State.reg_unstage_ne _ _ s ?_) (SameChecks.discarded who _ s).dial
      simp only [Reg.SEQ_CLOSE_AT, Reg.GEN_CNT_SPLIT_DISCARD]
      omega
    refine ⟨_, exec_close hd hacc hrun, ?_⟩
    rw [closeCommand_opened (by simpa using hphase), State.dom_modDom_self]
    exact ⟨rfl, hinstant, State.reg_setReg_self .., rfl, fun k hk => State.reg_setReg_ne (by simpa using hk) ..⟩
  case aborts =>
    intro hphase
    refine ⟨_, exec_close hd hacc hrun, ?_⟩
    rw [closeCommand_opening (by simpa using hphase)]
    obtain ⟨⟨hclosed, _⟩, _, hreg⟩ := State.toClosed_spec d 1
      ((discarded who (Reg.SEQ_DOMAIN_CTL d) s).setReg (Reg.SEQ_OPEN_RESULT d) 1)
    refine ⟨hclosed, (hreg _ ?_).trans (State.reg_setReg_self ..)⟩
    exact not_mem_recordRegs_of_seq (by simp only [Reg.SEQ_OPEN_RESULT]; omega)
  case forced =>
    intro hphase
    obtain ⟨⟨hclosed, hheld, hback⟩, hresult, hcount⟩ :=
      forceClose_spec (s := discarded who (Reg.SEQ_DOMAIN_CTL d) s) hd (by simpa using hphase)
    rw [State.dom_discarded] at hcount
    refine ⟨_, exec_forceClose hd hacc hrun, hclosed, hheld, hback, hresult, counts_congr ?_ rfl hcount⟩
    refine (State.reg_unstage_ne _ _ s ?_).symm
    simp only [Reg.SEQ_CNT_CLOSE_DISCARD, Reg.GEN_CNT_SPLIT_DISCARD]
    omega
  case opened =>
    intro hphase hdue
    refine ⟨_, exec_domainOpens hd hrun, ?_⟩
    rw [domainOpens_due hphase hdue, State.dom_modDom_self]
    exact ⟨rfl, rfl, rfl⟩
  case closed =>
    intro hphase hheld hback hdue
    refine ⟨_, exec_domainCloses hd hrun, ?_⟩
    rw [domainCloses_due hphase hheld hback hdue]
    obtain ⟨⟨hclosed, _⟩, hothers, _⟩ := s.toClosed_spec d 1
    exact ⟨hclosed, hothers⟩
  case refusals =>
    intro unlocked total rings crowded code refused
    have hcode : s.openResult d = code := by
      have hlock : (!(decide (s.time.disc = .locked) || decide (s.time.disc = .holdover) ||
          bit (s.voted Reg.TIME_CFG) 3)) = unlocked := by
        simp only [unlocked, Bool.not_or, ne_eq, decide_not]
      have hrings : (!s.isFeeder d && !(s.ringIs (s.seqRing d false) 1 && s.ringIs (s.seqRing d true) 2)) = !rings :=
        (Bool.not_or ..).symm
      unfold State.openResult
      rw [hlock, hrings]
      simp only [code, Bool.not_eq_true', total, crowded]
    refine ⟨fun hp hfail => ?_, fun hopening hopened => ?_, fun hclosed => ?_⟩
    · rw [← hcode] at hfail ⊢
      exact ⟨_, exec_open hd hacc hrun, openCommand_refused hd who _ hp hfail⟩
    · refine ⟨_, exec_close hd hacc hrun, ?_⟩
      rw [closeCommand_refused (by simpa using hopening) (by simpa using hopened)]
      exact refusedState_spec ..
    · refine ⟨_, exec_forceClose hd hacc hrun, ?_⟩
      rw [forceClose_refused (by simpa using hclosed)]
      exact refusedState_spec ..

end Sys2Proof.Machine
end

section
namespace Sys2Proof.Machine

open Sys2Proof.Claims

/-! ## What a message's stream leaves as it was (R309, R312, R317) -/

/-- A register that no link counts its stream in. -/
def offStream (k : Nat) : Prop := ∀ l < 8, k ≠ Reg.GAL_CNT_REPLAY l ∧ k ≠ Reg.GAL_CNT_STREAM_MSGS l

/-- A domain's configuration has its place in a page where no link counts. -/
theorem offStream_domainCfg (d : Nat) : offStream (Reg.SEQ_DOMAIN_CFG d) := by
  intro l hl
  simp only [Reg.SEQ_DOMAIN_CFG, Reg.GAL_CNT_REPLAY, Reg.GAL_CNT_STREAM_MSGS]
  omega

/-- Messages have gone out over links: their counters, the draws and the output differ. -/
structure Streamed (s t : State) : Prop where
  frame : t = { s with free := t.free, regs := t.regs, out := t.out }
  reg : ∀ k, offStream k → t.reg k = s.reg k

namespace Streamed

theorem refl (s : State) : Streamed s s := ⟨rfl, fun _ _ => rfl⟩

theorem trans {s t u : State} (h : Streamed s t) (h' : Streamed t u) : Streamed s u :=
  ⟨by rw [h'.frame, h.frame], fun k hk => (h'.reg k hk).trans (h.reg k hk)⟩

theorem streamOver {l : Nat} (hl : l < 8) (m : StreamMsg) (s : State) : Streamed s (s.streamOver l m) := by
  unfold State.streamOver
  extract_lets flits again drawn
  have hdrawn : drawn = { s with free := drawn.free, regs := drawn.regs } := by
    unfold drawn
    rw [State.count_eq, State.setReg, State.countBy_frame]
  refine ⟨?_, fun k hk => ?_⟩
  · rw [hdrawn]
    rfl
  · obtain ⟨hreplay, hmsgs⟩ := hk l hl
    rw [State.reg_congr (State.emit_regs ..), State.reg_count_ne hmsgs, State.reg_countBy_ne hreplay]
    rfl

theorem carries_lt {s : State} {dev l : Nat} (h : s.carries dev = some l) : l < 8 := by
  unfold State.carries at h
  extract_lets direct at h
  have hdirect : ∀ n ∈ direct, n < 8 := fun n hn => List.mem_range.1 (List.mem_filter.1 hn).1
  split at h
  · next n _ hcarrying =>
    obtain rfl : n = l := Option.some.inj h
    exact hdirect n (List.mem_filter.1 (hcarrying ▸ List.mem_cons_self)).1
  · exact hdirect l (List.mem_of_mem_head? h)

theorem carrier_lt {s : State} {dev l : Nat} (h : s.carrier dev = some l) : l < 8 := by
  unfold State.carrier at h
  split at h
  · next n hn => exact carries_lt (hn.trans h)
  · obtain ⟨r, _, hr⟩ := Option.bind_eq_some_iff.1 h
    exact carries_lt hr

theorem streamOut (d : Nat) (m : Msg) (s : State) : Streamed s (s.streamOut d m) := by
  unfold State.streamOut
  generalize s.mergers d = devs
  induction devs generalizing s with
  | nil => exact refl s
  | cons dev devs ih =>
    rw [List.foldl_cons]
    refine trans ?_ (ih _)
    split
    · exact refl s
    · next l hl => exact streamOver (carrier_lt hl) _ s

section

variable {s t : State} (h : Streamed s t)
include h

theorem dom (d : Nat) : t.dom d = s.dom d := State.dom_congr (by rw [h.frame]) d

theorem seqCfg (d : Nat) : t.seqCfg d = s.seqCfg d := by
  have hb : t.copyB = s.copyB := by rw [h.frame]
  have hc : t.copyC = s.copyC := by rw [h.frame]
  simp only [State.seqCfg, State.voted, State.regB, State.regC, h.reg _ (offStream_domainCfg d), hb, hc]

theorem lateDrops (d : Nat) : t.lateDrops d = s.lateDrops d := by rw [State.lateDrops, h.seqCfg, State.lateDrops]

theorem frontierAt (d : Nat) (dial stamp : Dial) : t.frontierAt d dial stamp = s.frontierAt d dial stamp := by
  rw [State.frontierAt, State.musterNs, h.seqCfg, State.frontierAt, State.musterNs]

end

end Streamed

/-! ## The hold store (R105) -/

/-- A message that arrives at a frontier which has passed its stamp is late, but on a feeder (R105, R317). -/
def State.isLate (s : State) (m : Msg) : Bool :=
  !s.isFeeder m.domain && s.frontierAt m.domain (s.dom m.domain).frontier m.stamp

section

variable {m : Msg} {s : State}

theorem State.isLate_of_inTime (h : s.frontierAt m.domain (s.dom m.domain).frontier m.stamp = false) :
    s.isLate m = false := by
  rw [State.isLate, h, Bool.and_false]

/-- A late message that LATE_POLICY drops is counted; the rest is its record. -/
theorem State.hold_drops (hlate : s.isLate m = true) (hpolicy : s.lateDrops m.domain = true) (streamed : Bool) :
    Noted m.domain (s.count (Reg.SEQ_CNT_LATE_DROP m.domain)) (s.hold m streamed) := by
  unfold State.hold
  extract_lets d late counted flags taken key
  have hdrop : (late && s.lateDrops d) = true := Bool.and_eq_true_iff.2 ⟨hlate, hpolicy⟩
  rw [if_pos hdrop]
  split
  · exact .refl ..
  · exact (Noted.refl ..).audit _

/-- Any other joins the hold store, under its own stamp when it is in time; a late one is counted. -/
theorem State.hold_takes (h : s.isLate m = false ∨ s.lateDrops m.domain = false) (streamed : Bool) :
    ∃ (u : State) (key : Dial), u = { s with regs := u.regs } ∧ (s.isLate m = false → key = m.stamp) ∧
      Noted m.domain (u.modDom m.domain fun x => { x with held := x.held ++ [⟨m, key, s.isLate m, streamed⟩] })
        (s.hold m streamed) := by
  unfold State.hold
  extract_lets d late counted flags taken key
  have hkeep : ¬(late && s.lateDrops d) = true := by
    rw [Bool.and_eq_true_iff]
    rintro ⟨hlate, hpolicy⟩
    exact h.elim (fun hin => Bool.eq_false_iff.1 hin hlate) fun hno => Bool.eq_false_iff.1 hno hpolicy
  rw [if_neg hkeep]
  refine ⟨taken, key, ?_, fun hlate => if_neg (Bool.eq_false_iff.1 hlate), (Noted.refl ..).condPoll⟩
  unfold taken
  split <;> rfl

/-! ## The four tests (R405) -/

variable {fed : Bool}

theorem State.arrive_halted (h : (s.dom m.domain).phase = .halted) :
    s.arrive fed m = s.count (Reg.SEQ_CNT_HALT_DROP m.domain) := if_pos h

theorem State.arrive_closed (h : (s.dom m.domain).phase = .closed) : s.arrive fed m = s.countOutside m.domain := by
  unfold State.arrive
  dsimp only
  rw [if_neg (by simp [h]), if_pos h]

variable (hhalted : (s.dom m.domain).phase ≠ .halted) (hclosed : (s.dom m.domain).phase ≠ .closed)
include hhalted hclosed

theorem State.arrive_unfed : s.arrive false m =
    (s.count (Reg.SEQ_CNT_NOT_FED m.domain)).logEvent 0x300 4 [m.domain, m.port % 256] := by
  unfold State.arrive
  dsimp only
  rw [if_neg hhalted, if_neg hclosed]
  exact if_pos rfl

theorem State.arrive_outside (hout : m.stamp < (s.dom m.domain).openAt ∨
    ((s.dom m.domain).phase = .closing ∧ (s.dom m.domain).closeAt ≤ m.stamp)) :
    s.arrive true m = s.countOutside m.domain := by
  unfold State.arrive
  dsimp only
  rw [if_neg hhalted, if_neg hclosed, if_neg (by simp), if_pos hout]

/-- A message that passes the four tests enters the hold store, once a stream past its stamp has carried it. -/
theorem State.arrive_held (hin : ¬(m.stamp < (s.dom m.domain).openAt ∨
    ((s.dom m.domain).phase = .closing ∧ (s.dom m.domain).closeAt ≤ m.stamp))) :
    ∃ (u : State) (streamed : Bool), Streamed s u ∧ s.arrive true m = u.hold m streamed := by
  unfold State.arrive
  dsimp only
  rw [if_neg hhalted, if_neg hclosed, if_neg (by simp), if_neg hin]
  refine ⟨_, _, ?_, rfl⟩
  split
  · exact .streamOut _ _ s
  · exact .refl s

end

end Sys2Proof.Machine
end

section
namespace Sys2Proof.Machine

open Sys2Proof.Claims

/-! ## What an arrival leaves as it was -/

/-- What a standby compares with its primary's records (R113). -/
def DomState.compared (x : DomState) : List MirrorRec × Option Word × Bool := (x.mirrors, x.mirrorSeq, x.mismatch)

/-- The pipelines, and what a standby d compares, are as they were. -/
structure ArrivalKept (d : Nat) (s t : State) : Prop where
  pipes : t.pipes = s.pipes
  compared : (t.dom d).compared = (s.dom d).compared

namespace ArrivalKept

variable {d : Nat} {s t : State}

theorem of_eq (hp : t.pipes = s.pipes) (hd : t.doms = s.doms) : ArrivalKept d s t :=
  ⟨hp, by rw [State.dom_congr hd]⟩

theorem trans {u : State} (h : ArrivalKept d s t) (h' : ArrivalKept d t u) : ArrivalKept d s u :=
  ⟨h'.pipes.trans h.pipes, h'.compared.trans h.compared⟩

theorem count (k : Nat) (s : State) : ArrivalKept d s (s.count k) := of_eq rfl rfl

theorem modDom {f : DomState → DomState} (hf : ∀ x, (f x).compared = x.compared) (s : State) :
    ArrivalKept d s (s.modDom d f) := ⟨rfl, by rw [State.dom_modDom_self, hf]⟩

theorem noted (h : Noted d s t) : ArrivalKept d s t := by
  obtain ⟨b, hb⟩ := h.dom
  exact ⟨by rw [h.frame], by rw [hb]; rfl⟩

theorem countOutside (d : Nat) (s : State) : ArrivalKept d s (s.countOutside d) :=
  (modDom (fun _ => by rfl) s).trans (count _ _)

theorem hold (m : Msg) (streamed : Bool) (s : State) : ArrivalKept m.domain s (s.hold m streamed) := by
  by_cases h : s.isLate m = true ∧ s.lateDrops m.domain = true
  · exact (count _ s).trans (noted (State.hold_drops h.1 h.2 streamed))
  · obtain ⟨u, key, hu, _, hnoted⟩ := State.hold_takes (m := m) (s := s)
      (by simpa only [not_and_or, Bool.not_eq_true] using h) streamed
    have hsu : ArrivalKept m.domain s u := of_eq (by rw [hu]) (by rw [hu])
    exact (hsu.trans (modDom (fun _ => by rfl) u)).trans (noted hnoted)

theorem arrive (fed : Bool) (m : Msg) (s : State) : ArrivalKept m.domain s (s.arrive fed m) := by
  by_cases hhalted : (s.dom m.domain).phase = .halted
  · rw [State.arrive_halted hhalted]
    exact count _ s
  by_cases hclosed : (s.dom m.domain).phase = .closed
  · rw [State.arrive_closed hclosed]
    exact countOutside _ s
  cases fed with
  | false =>
    rw [State.arrive_unfed hhalted hclosed]
    exact (count _ s).trans (noted ((Noted.refl ..).logEvent ..))
  | true =>
    by_cases hout : m.stamp < (s.dom m.domain).openAt ∨
        ((s.dom m.domain).phase = .closing ∧ (s.dom m.domain).closeAt ≤ m.stamp)
    · rw [State.arrive_outside hhalted hclosed hout]
      exact countOutside _ s
    · obtain ⟨u, streamed, hu, heq⟩ := State.arrive_held hhalted hclosed hout
      rw [heq]
      exact trans (of_eq (by rw [hu.frame]) (by rw [hu.frame])) (hold m streamed u)

end ArrivalKept

/-! ## A message that is dropped, and one that is held -/

/-- A message of domain d is dropped: it is counted in one register, and nothing joins the hold store. -/
structure DroppedIn (key d : Nat) (s t : State) : Prop where
  held : (t.dom d).held = (s.dom d).held
  counts : counts key 1 s t
  others : ∀ k, k ≠ key → k ≠ Reg.LOG_CNT_QUEUE_DROP → t.reg k = s.reg k

theorem droppedIn_count (key d : Nat) (s : State) : DroppedIn key d s (s.count key) :=
  ⟨rfl, counts_count key s, fun _ hk _ => State.reg_count_ne hk s⟩

theorem State.dom_countOutside (d : Nat) (s : State) :
    (s.countOutside d).dom d = { s.dom d with outside := (s.dom d).outside + 1, outsideNew := true } :=
  State.dom_modDom_self d (fun x => { x with outside := x.outside + 1, outsideNew := true }) s

theorem droppedIn_countOutside (d : Nat) (s : State) : DroppedIn (Reg.SEQ_CNT_OUTSIDE d) d s (s.countOutside d) := by
  exact ⟨by rw [State.dom_countOutside], counts_one_iff.2 (State.reg_count_self ..),
    fun _ hk _ => State.reg_count_ne hk _⟩

/-- One from outside the feed is also recorded in the logbook. -/
theorem droppedIn_unfed (d : Nat) (params : List Nat) (s : State) :
    DroppedIn (Reg.SEQ_CNT_NOT_FED d) d s ((s.count (Reg.SEQ_CNT_NOT_FED d)).logEvent 0x300 4 params) := by
  have hne : Reg.SEQ_CNT_NOT_FED d ≠ Reg.LOG_CNT_QUEUE_DROP := by
    simp only [Reg.SEQ_CNT_NOT_FED, Reg.LOG_CNT_QUEUE_DROP]
    omega
  refine ⟨?_, ?_, fun k hk hlog => ?_⟩
  · rw [State.dom_logEvent]
    rfl
  · rw [counts_one_iff, State.reg_logEvent _ _ _ _ hne, State.reg_count_self]
  · rw [State.reg_logEvent _ _ _ _ hlog, State.reg_count_ne hk]

/-- The counter of the first test that drops a message (R405). -/
def dropCounter (d : Nat) (x : DomState) (fed : Bool) : Nat :=
  if x.phase = .halted then Reg.SEQ_CNT_HALT_DROP d else if x.phase = .closed then Reg.SEQ_CNT_OUTSIDE d
  else if fed = false then Reg.SEQ_CNT_NOT_FED d else Reg.SEQ_CNT_OUTSIDE d

/-- The first test that applies drops a message, and counts it in its own counter. -/
theorem State.arrive_drops {m : Msg} {fed : Bool} {s : State}
    (h : (s.dom m.domain).phase = .halted ∨ (s.dom m.domain).phase = .closed ∨ fed = false ∨
      (m.stamp < (s.dom m.domain).openAt ∨
        ((s.dom m.domain).phase = .closing ∧ (s.dom m.domain).closeAt ≤ m.stamp))) :
    DroppedIn (dropCounter m.domain (s.dom m.domain) fed) m.domain s (s.arrive fed m) := by
  unfold dropCounter
  by_cases hhalted : (s.dom m.domain).phase = .halted
  · rw [if_pos hhalted, State.arrive_halted hhalted]
    exact droppedIn_count ..
  rw [if_neg hhalted]
  by_cases hclosed : (s.dom m.domain).phase = .closed
  · rw [if_pos hclosed, State.arrive_closed hclosed]
    exact droppedIn_countOutside ..
  rw [if_neg hclosed]
  cases fed with
  | false =>
    rw [if_pos rfl, State.arrive_unfed hhalted hclosed]
    exact droppedIn_unfed ..
  | true =>
    rw [if_neg (by simp), State.arrive_outside hhalted hclosed (by simpa [hhalted, hclosed] using h)]
    exact droppedIn_countOutside ..

/-- A message that passes the four tests joins the hold store, unless it is late and LATE_POLICY drops it. -/
theorem State.held_arrive {m : Msg} {s : State} (hhalted : (s.dom m.domain).phase ≠ .halted)
    (hclosed : (s.dom m.domain).phase ≠ .closed)
    (hin : ¬(m.stamp < (s.dom m.domain).openAt ∨
      ((s.dom m.domain).phase = .closing ∧ (s.dom m.domain).closeAt ≤ m.stamp)))
    (hkeep : s.lateDrops m.domain = false ∨ s.frontierAt m.domain (s.dom m.domain).frontier m.stamp = false) :
    ∃ h : Held, ((s.arrive true m).dom m.domain).held = (s.dom m.domain).held ++ [h] ∧ h.msg = m ∧
      (s.frontierAt m.domain (s.dom m.domain).frontier m.stamp = false → h.keyStamp = m.stamp ∧ h.late = false) := by
  obtain ⟨u, streamed, hu, heq⟩ := State.arrive_held hhalted hclosed hin
  have hdom := hu.dom m.domain
  have hfrontier : u.frontierAt m.domain (u.dom m.domain).frontier m.stamp =
      s.frontierAt m.domain (s.dom m.domain).frontier m.stamp := by rw [hu.frontierAt, hdom]
  rw [← hu.lateDrops, ← hfrontier] at hkeep
  obtain ⟨v, key, hv, hkey, hnoted⟩ :=
    State.hold_takes (m := m) (s := u) (hkeep.symm.imp_left State.isLate_of_inTime) streamed
  obtain ⟨b, hb⟩ := hnoted.dom
  have hvdom : v.dom m.domain = s.dom m.domain := (State.dom_congr (by rw [hv]) _).trans hdom
  rw [State.dom_modDom_self, hvdom] at hb
  refine ⟨⟨m, key, u.isLate m, streamed⟩, by rw [heq, hb], rfl, fun hfr => ?_⟩
  have hlate : u.isLate m = false := State.isLate_of_inTime (hfrontier.trans hfr)
  exact ⟨hkey hlate, hlate⟩

/-- The message at the front of a pipeline's FIFO leaves it and arrives. -/
theorem exec_holdStoreArrival {pipe : Nat} {m : Msg} {rest : List Msg} {s : State} (hpipe : pipe < 8)
    (hrun : running 1 s = true) (hfifo : (s.pipe pipe).fifo = m :: rest) : exec (.holdStoreArrival pipe) s =
      .next ((s.modPipe pipe fun p => { p with fifo := rest }).arrive (s.inFeed m.domain (m.port % 256)) m) := by
  change within (decide (pipe < 8)) (whenClocked (unlessStopped 1 (holdStoreArrival pipe)) s) s = _
  rw [decide_eq_true hpipe, within_true, whenClocked_running hrun, holdStoreArrival, hfifo]
  rfl

theorem State.fifo_arrive (pipe : Nat) (rest : List Msg) (fed : Bool) (m : Msg) (s : State) :
    (((s.modPipe pipe fun p => { p with fifo := rest }).arrive fed m).pipe pipe).fifo = rest := by
  rw [State.pipe, (ArrivalKept.arrive fed m _).pipes, ← State.pipe, State.pipe_modPipe_self]

/-- Settles O16: the four tests are State.arrive_drops, the record of a slot outside the feed State.arrive_unfed, and
the hold store State.held_arrive. -/
theorem arrivalJudgedByFirstTest : Obligations.ArrivalJudgedByFirstTest := by
  unfold Obligations.ArrivalJudgedByFirstTest
  intro pipe m rest s hpipe hrun hfifo d x fed outside drops key
  refine ⟨_, exec_holdStoreArrival hpipe hrun hfifo, State.fifo_arrive .., ?_⟩
  generalize hu : s.modPipe pipe (fun p => { p with fifo := rest }) = u
  have hdom : u.dom m.domain = x := by rw [← hu]; rfl
  have hreg (k : Nat) : u.reg k = s.reg k := by rw [← hu]; rfl
  refine ⟨fun hdrops => ?dropped, fun hkept hin => ?held⟩
  case dropped =>
    obtain ⟨hheld, hcounts, hothers⟩ := State.arrive_drops (m := m) (fed := fed) (s := u) (by
      rw [hdom]
      simpa [drops, outside, or_assoc] using hdrops)
    rw [hdom] at hheld hcounts hothers
    refine ⟨hheld, counts_congr (hreg _).symm rfl hcounts, fun k hk hlog => (hothers k hk hlog).trans (hreg k),
      fun hhalted hclosed hfed hroom => ?_⟩
    rw [show s.inFeed m.domain (m.port % 256) = false from hfed, State.arrive_unfed (hdom ▸ hhalted) (hdom ▸ hclosed),
      State.logEvent_queued _ _ _ _ (by rw [← hu]; exact hroom), ← hu]
    rfl
  case held =>
    obtain ⟨hhalted, hclosed, hfed, hout⟩ :
        x.phase ≠ .halted ∧ x.phase ≠ .closed ∧ fed = true ∧ outside = false := by
      simpa [drops, and_assoc] using hkept
    rw [show s.inFeed m.domain (m.port % 256) = true from hfed]
    obtain ⟨h, hheld, hmsg, _⟩ := State.held_arrive (s := u) (m := m) (by rwa [hdom]) (by rwa [hdom])
      (by rw [hdom]; exact of_decide_eq_false hout) (by rw [hdom, ← hu]; exact hin)
    exact ⟨h, by rw [hheld, hdom], hmsg⟩

end Sys2Proof.Machine
end

section
namespace Sys2Proof.Machine

open Sys2Proof.Claims

/-! ## An entry of a delivery ring (R101, R237, R246) -/

@[simp] theorem State.hamper_ringIrq (c : Nat) (s : State) : ((s.ringIrq c).ring c).hamper = (s.ring c).hamper := by
  unfold State.ringIrq
  dsimp only
  split
  · rfl
  · split
    · rw [State.msixFor_frame]
      simp [State.ring, State.modRing, Store.modify]
    · simp

@[simp] theorem State.hamper_drainCheck (c : Nat) (s : State) :
    ((s.drainCheck c).ring c).hamper = (s.ring c).hamper := by
  unfold State.drainCheck
  dsimp only
  split
  · simp
  · rfl

/-- Completing an entry takes no other. -/
theorem State.hamper_complete (c : Nat) (cur : BitVec 32) (fields : List (Nat × List Byte)) (s : State) :
    ((s.complete c cur fields).ring c).hamper = (s.ring c).hamper := by
  have hback (x : Taken) : (s.writeBack c x fields).ring c = s.ring c := by simp [State.ring]
  unfold State.complete
  dsimp only
  split
  · rfl
  · split
    · simp
    · split
      · rfl
      · split
        · simp [State.entryDone, hback]
        · simp [hback]

theorem State.hamper_modRing {f : Ring → Ring} (hf : ∀ r, (f r).hamper = r.hamper) (c : Nat) (s : State) :
    ((s.modRing c f).ring c).hamper = (s.ring c).hamper := by
  simp [State.ring, State.modRing, Store.modify, hf]

/-- A ring that takes a domain's messages gives its entries no tally number (R239, R254). -/
theorem State.untallied_of_entryReady {s : State} {d : Nat} {rej : Bool} (h : s.entryReady d rej = true) :
    (s.ring (s.seqRing d rej)).type ≠ 5 ∧ (s.ring (s.seqRing d rej)).type ≠ 4 := by
  unfold State.entryReady at h
  simp only [Bool.and_eq_true, decide_eq_true_eq] at h
  obtain ⟨⟨⟨_, htype, _⟩, _⟩, _⟩ := h
  rw [htype]
  cases rej <;> decide

theorem State.ring_ringWrite (c addr : Nat) (bytes : List Byte) (ro : Bool) (s : State) (e : Nat) :
    (s.ringWrite c addr bytes ro).ring e = s.ring e := by
  rw [State.ringWrite, State.dma_frame]
  rfl

/-- What a delivery leaves as it was: everything but the ring, what goes out, and a VF's counter. -/
structure EntryOnly (s t : State) : Prop where
  frame : t = { s with regs := t.regs, rings := t.rings, links := t.links, funs := t.funs, out := t.out }
  reg : ∀ k, k < 0x40000000 → t.reg k = s.reg k

namespace EntryOnly

theorem refl (s : State) : EntryOnly s s := ⟨rfl, fun _ _ => rfl⟩

variable {s t u : State}

theorem trans (h : EntryOnly s t) (h' : EntryOnly t u) : EntryOnly s u :=
  ⟨by rw [h'.frame, h.frame], fun k hk => (h'.reg k hk).trans (h.reg k hk)⟩

theorem doms (h : EntryOnly s t) : t.doms = s.doms := by rw [h.frame]

theorem modRing (c : Nat) (f : Ring → Ring) (s : State) : EntryOnly s (s.modRing c f) := ⟨rfl, fun _ _ => rfl⟩

theorem count {j : Nat} (hj : 0x40000000 ≤ j) (s : State) : EntryOnly s (s.count j) :=
  ⟨rfl, fun _ hk => State.reg_count_ne (by omega) s⟩

theorem complete (c : Nat) (cur : BitVec 32) (fields : List (Nat × List Byte)) (s : State) :
    EntryOnly s (s.complete c cur fields) :=
  ⟨by rw [State.complete_frame], fun _ _ => State.reg_congr (State.complete_regs ..) _⟩

theorem ringWrite (c addr : Nat) (bytes : List Byte) (ro : Bool) (s : State) :
    EntryOnly s (s.ringWrite c addr bytes ro) := by
  refine ⟨?_, fun _ _ => State.reg_congr (State.dma_regs ..) _⟩
  rw [State.ringWrite, State.dma_frame]

/-- Taking an entry of a ring whose commands get no tally number leaves the other entries. -/
theorem takeWith {c : Nat} (h5 : (s.ring c).type ≠ 5) (h4 : (s.ring c).type ≠ 4) (desc : List Byte)
    (msg : Option (Nat × Numbered)) :
    EntryOnly s (s.takeWith c desc msg) ∧ ((s.takeWith c desc msg).ring c).hamper = (s.ring c).hamper := by
  unfold State.takeWith
  simp only [if_neg h5, if_neg h4]
  have hmod {f : Ring → Ring} (hf : ∀ r, (f r).hamper = r.hamper) :
      EntryOnly s (s.modRing c f) ∧ ((s.modRing c f).ring c).hamper = (s.ring c).hamper :=
    ⟨modRing .., State.hamper_modRing hf c s⟩
  have hcount {u : State} {k : Nat} (hk : 0x40000000 ≤ k)
      (h : EntryOnly s u ∧ (u.ring c).hamper = (s.ring c).hamper) :
      EntryOnly s (u.count k) ∧ ((u.count k).ring c).hamper = (s.ring c).hamper :=
    ⟨h.1.trans (count hk u), h.2⟩
  split
  · split
    · exact hcount (by simp only [Reg.vf]; omega) (hmod fun _ => rfl)
    · exact hmod fun _ => rfl
  · exact hmod fun _ => rfl

/-- A delivery takes the next entry of its ring. -/
theorem deliverInto {c : Nat} (h5 : (s.ring c).type ≠ 5) (h4 : (s.ring c).type ≠ 4) (n : Numbered) :
    EntryOnly s (s.deliverInto c n) ∧ ((s.deliverInto c n).ring c).hamper = (s.ring c).hamper.tail := by
  unfold State.deliverInto
  dsimp only
  split
  · next hnil => exact ⟨refl s, by rw [hnil]; rfl⟩
  · next e rest hcons =>
    generalize hu : s.modRing c (fun r => { r with hamper := rest }) = u
    have hring : u.ring c = { s.ring c with hamper := rest } := by
      rw [← hu]
      simp [State.ring, State.modRing, Store.modify]
    have hsu : EntryOnly s u := hu ▸ modRing c _ s
    obtain ⟨htake, hhamper⟩ := takeWith (s := u) (c := c) (by rw [hring]; exact h5) (by rw [hring]; exact h4) e
      (some (n.msg.domain, n))
    refine ⟨((hsu.trans htake).trans (ringWrite ..)).trans (complete ..), ?_⟩
    rw [State.hamper_complete, State.ring_ringWrite, hhamper, hring, hcons]
    rfl

end EntryOnly

end Sys2Proof.Machine
end

section
namespace Sys2Proof.Machine

open Sys2Proof.Claims

/-! ## What passing a numbered message on leaves as it was (R99, R101, R102, R111) -/

/-- The registers of domain d that a release changes beside its numbers: its counts, the backlog's and a halt's. -/
def releaseRegs (d : Nat) : List Nat :=
  [Reg.SEQ_CNT_MESSAGES d, Reg.SEQ_CNT_REJECTS d, Reg.SEQ_CNT_TIES d, Reg.SEQ_CNT_MIRROR_MISMATCH d,
    Reg.SEQ_CNT_BACKLOG_WAIT d, Reg.SEQ_BACKLOG d, Reg.SEQ_HALT_INFO d, Reg.SEQ_CNT_HALTS d]

/-- They have their places in the domain's page, above its configuration and its numbers. -/
theorem bounds_of_mem_releaseRegs {d k : Nat} (h : k ∈ releaseRegs d) :
    0x400048 + 0x1000 * d ≤ k ∧ k < 0x401000 + 0x1000 * d := by
  simp only [releaseRegs, List.mem_cons, List.not_mem_nil, or_false, Reg.SEQ_CNT_MESSAGES, Reg.SEQ_CNT_REJECTS,
    Reg.SEQ_CNT_TIES, Reg.SEQ_CNT_MIRROR_MISMATCH, Reg.SEQ_CNT_BACKLOG_WAIT, Reg.SEQ_BACKLOG, Reg.SEQ_HALT_INFO,
    Reg.SEQ_CNT_HALTS] at h
  omega

theorem not_mem_releaseRegs_of_lt {d k : Nat} (hk : k < 0x400048 + 0x1000 * d) : k ∉ releaseRegs d :=
  fun h => hk.not_ge (bounds_of_mem_releaseRegs h).1

/-- The registers that all domains share lie above the pages. -/
theorem not_mem_releaseRegs_of_shared {d k : Nat} (hd : d < 16) (hk : 0x410000 ≤ k) : k ∉ releaseRegs d := by
  intro h
  obtain ⟨_, hlt⟩ := bounds_of_mem_releaseRegs h
  omega

/-- The messages of a domain that have no number yet: a halt returns those of the merge to the hold store. -/
def DomState.unnumbered (x : DomState) : List Held := x.held ++ x.unmerged

/-- Numbered messages of domain d have been passed on: the sequencer's other registers and the copies of registers are
as they were, as are the messages that a standby has kept and those without a number. -/
structure Passed (d : Nat) (s t : State) : Prop where
  reg : ∀ k, k / 0x100000 = 4 → k ∉ releaseRegs d → t.reg k = s.reg k
  copyB : t.copyB = s.copyB
  copyC : t.copyC = s.copyC
  kept : (t.dom d).kept = (s.dom d).kept
  unnumbered : (t.dom d).unnumbered = (s.dom d).unnumbered

namespace Passed

theorem refl (d : Nat) (s : State) : Passed d s s := ⟨fun _ _ _ => rfl, rfl, rfl, rfl, rfl⟩

theorem of_doms {d : Nat} {s t : State} (hreg : ∀ k, k / 0x100000 = 4 → k ∉ releaseRegs d → t.reg k = s.reg k)
    (hb : t.copyB = s.copyB) (hc : t.copyC = s.copyC) (hd : t.doms = s.doms) : Passed d s t :=
  ⟨hreg, hb, hc, by rw [State.dom_congr hd], by rw [State.dom_congr hd]⟩

theorem of_entryOnly (d : Nat) {s t : State} (h : EntryOnly s t) : Passed d s t :=
  of_doms (fun k hk _ => h.reg k (by omega)) (by rw [h.frame]) (by rw [h.frame]) h.doms

theorem of_noted {d : Nat} {s t : State} (h : Noted d s t) : Passed d s t := by
  obtain ⟨b, hb⟩ := h.dom
  exact ⟨fun k hk _ => h.seqReg hk, by rw [h.frame], by rw [h.frame], by rw [hb], by rw [hb]; rfl⟩

section

variable {d : Nat} {s t : State} (h : Passed d s t)
include h

theorem trans {u : State} (h' : Passed d t u) : Passed d s u :=
  ⟨fun k hk hn => (h'.reg k hk hn).trans (h.reg k hk hn), h'.copyB.trans h.copyB, h'.copyC.trans h.copyC,
    h'.kept.trans h.kept, h'.unnumbered.trans h.unnumbered⟩

theorem voted {k : Nat} (hk : k / 0x100000 = 4) (hn : k ∉ releaseRegs d) : t.voted k = s.voted k := by
  simp only [State.voted, State.regB, State.regC, h.reg k hk hn, h.copyB, h.copyC]

theorem setReg {j : Nat} (hj : j ∈ releaseRegs d) (v : Word) : Passed d s (t.setReg j v) :=
  h.trans (of_doms (fun _ _ hn => State.reg_setReg_ne (ne_of_mem_of_not_mem hj hn).symm ..) rfl rfl rfl)

theorem count {j : Nat} (hj : j ∈ releaseRegs d) : Passed d s (t.count j) := h.setReg hj _

theorem modDom {f : DomState → DomState} (hk : ∀ x, (f x).kept = x.kept)
    (hu : (f (t.dom d)).unnumbered = (t.dom d).unnumbered) : Passed d s (t.modDom d f) := by
  refine h.trans ⟨fun _ _ _ => rfl, rfl, rfl, ?_, ?_⟩
  · rw [State.dom_modDom_self, hk]
  · rw [State.dom_modDom_self, hu]

theorem logEvent (number block : Nat) (params : List Nat) : Passed d s (t.logEvent number block params) :=
  h.trans (of_noted ((Noted.refl ..).logEvent ..))

theorem haltDomain (cause : Nat) : Passed d s (t.haltDomain d cause) := by
  unfold State.haltDomain
  extract_lets p last halted noted counted
  split
  · exact h
  · have hhalted : Passed d s halted := h.modDom (fun _ => rfl) (by simp [DomState.unnumbered, DomState.unmerged])
    have hcounted : Passed d s counted :=
      ((hhalted.setReg (by simp [releaseRegs]) _).count (by simp [releaseRegs])).logEvent ..
    exact hcounted.trans (of_noted (((Noted.refl ..).domainEvent ..).condPoll))

theorem deliver (n : Numbered) : Passed d s (t.deliver d n) := by
  unfold State.deliver
  extract_lets rej waiting queued counted b noted
  split
  · next hready =>
    obtain ⟨h5, h4⟩ := State.untallied_of_entryReady hready.2
    exact h.trans (of_entryOnly d (EntryOnly.deliverInto h5 h4 n).1)
  · have hqueued : Passed d s queued :=
      h.modDom (fun _ => by cases rej <;> rfl) (by cases rej <;> rfl)
    have hnoted : Passed d s noted :=
      (hqueued.count (by simp [releaseRegs])).setReg (by simp [releaseRegs]) _
    split
    · exact hnoted.haltDomain causeDelivery
    · exact hnoted

theorem sendCopies (record : List Byte) : Passed d s (t.sendCopies d record) := by
  have hrdma (u : State) (r : RdmaState) : Passed d u { u with rdma := r } :=
    of_doms (fun _ _ _ => rfl) rfl rfl rfl
  unfold State.sendCopies
  extract_lets c fits dropped broken
  have hdropped : Passed d t dropped := by
    unfold dropped
    split
    · split
      · exact hrdma ..
      · refine of_doms (fun k hk _ => State.reg_count_ne ?_ _) rfl rfl rfl
        simp only [Reg.RDMA_CNT_COPY_DROP]
        omega
    · exact refl d t
  refine h.trans ?_
  split
  · split
    · exact hdropped.trans (hrdma ..)
    · exact (hdropped.trans (hrdma ..)).logEvent ..
  · exact hdropped

theorem publish (n : Numbered) : Passed d s (t.publish d n) := by
  have haudit (r : AuditRec) : Passed d s (t.audit r) := h.trans (of_noted ((Noted.refl ..).audit r))
  exact ((haudit _).sendCopies _).deliver n

theorem publishAll (ms : List Numbered) : Passed d s (t.publishAll d ms) := by
  induction ms generalizing t with
  | nil => exact h
  | cons n ms ih => exact ih (h.publish n)

theorem mirrorDiffers (n : Word) : Passed d s (t.mirrorDiffers d n) :=
  ((h.modDom (f := fun x => { x with mismatch := true }) (fun _ => rfl) rfl).count (by simp [releaseRegs])).logEvent ..

theorem compareMirror (n : Numbered) : Passed d s (t.compareMirror d n) := by
  unfold State.compareMirror
  split
  · exact h
  · next r _ =>
    have hcompared : Passed d s (t.modDom d fun x =>
        { x with mirrors := x.mirrors.filter fun r => r.seq != n.seq }) := h.modDom (fun _ => rfl) rfl
    dsimp only
    split
    · exact hcompared
    · exact hcompared.mirrorDiffers n.seq

end

end Passed

end Sys2Proof.Machine
end

section
namespace Sys2Proof.Machine

open Sys2Proof.Claims

/-! ## A message leaves the merge (R99) -/

/-- The last message of domain d to leave the merge has number n, and every message has its number. -/
structure Emitted (d : Nat) (n : Word) (s : State) : Prop where
  last : s.reg (Reg.SEQ_LAST_NUMBER d) = n
  next : s.reg (Reg.SEQ_NEXT d) = n + 1
  unnumbered : (s.dom d).unnumbered = []

namespace Emitted

variable {d : Nat} {n : Word} {s : State}

theorem passed {t : State} (hd : d < 16) (h : Emitted d n s) (h' : Passed d s t) : Emitted d n t := by
  have hreg {k : Nat} (hlo : 0x400000 ≤ k) (hhi : k < 0x400048 + 0x1000 * d) : t.reg k = s.reg k :=
    h'.reg k (by omega) (not_mem_releaseRegs_of_lt hhi)
  refine ⟨(hreg ?_ ?_).trans h.last, (hreg ?_ ?_).trans h.next, h'.unnumbered.trans h.unnumbered⟩
  all_goals
    simp only [Reg.SEQ_LAST_NUMBER, Reg.SEQ_NEXT]
    omega

theorem modDom {f : DomState → DomState} (hf : ∀ x, (f x).unnumbered = x.unnumbered) (h : Emitted d n s) :
    Emitted d n (s.modDom d f) :=
  ⟨h.last, h.next, by rw [State.dom_modDom_self, hf, h.unnumbered]⟩

end Emitted

/-- A message that leaves the merge gets the next number. -/
theorem State.emitMsg_emits {d : Nat} {s : State} (hd : d < 16) (hs : (s.dom d).unnumbered = []) (cond : Bool)
    (h : Held) : Emitted d (s.reg (Reg.SEQ_NEXT d)) (s.emitMsg d cond h) := by
  unfold State.emitMsg
  extract_lets seq standby flags n marked numbered counted tied stamped passed
  have hmarked : (marked.dom d).unnumbered = [] := by
    unfold marked
    split <;> exact hs
  have hnumbered : Emitted d seq numbered := by
    obtain ⟨hreg, hdom⟩ := State.setNext_spec d (seq + 1) marked
    refine ⟨State.reg_setReg_self .., ?_, ?_⟩
    · rw [State.reg_setReg_ne (by simp only [Reg.SEQ_NEXT, Reg.SEQ_LAST_NUMBER]; omega), hreg]
    · have hdom' : numbered.dom d = (marked.setNext d (seq + 1)).dom d := rfl
      rw [hdom', hdom, ← hmarked]
      rfl
  have hcounted : Emitted d seq counted :=
    hnumbered.passed hd ((Passed.refl ..).count (by split <;> simp [releaseRegs]))
  have htied : Emitted d seq tied := by
    unfold tied
    split
    · exact hcounted.passed hd ((Passed.refl ..).count (by simp [releaseRegs]))
    · exact hcounted
  have hstamped : Emitted d seq stamped := htied.modDom fun _ => rfl
  have hpassed : Emitted d seq passed := by
    unfold passed
    split
    · have hkept := hstamped.modDom (f := fun x =>
        { x with kept := (x.kept ++ [n]).drop (x.kept.length + 1 - stamped.backlogMax d) }) fun _ => rfl
      exact hkept.passed hd ((Passed.refl ..).compareMirror n)
    · exact (hstamped.modDom (f := fun x => { x with takeover := false }) fun _ => rfl).passed hd
        ((Passed.refl ..).publish n)
  split
  · exact hpassed.passed hd ((Passed.refl ..).haltDomain causeExhausted)
  · exact hpassed

/-- No copy of the merge is fenced, and all three hold the same messages and the same number. -/
structure DomState.Agreed (x : DomState) (n : Word) (tree : List Held) : Prop where
  fenced : x.fenced = 0
  copyA : x.copyA = n
  copyB : x.copyB = n
  copyC : x.copyC = n
  treeA : x.treeA = tree
  treeB : x.treeB = tree
  treeC : x.treeC = tree

namespace DomState.Agreed

variable {x : DomState} {n : Word} {tree : List Held} (h : x.Agreed n tree)
include h

theorem vote : x.vote = some ((tree.head?, n), none) := by
  rw [DomState.vote_unfenced h.fenced, h.copyA, h.copyB, h.copyC, h.treeA, h.treeB, h.treeC]
  simp [voteOf]

theorem treeOf (i : Nat) : x.treeOf i = tree := by
  unfold DomState.treeOf
  split
  · exact h.treeA
  · exact h.treeB
  · exact h.treeC

theorem restored :
    { x with copyA := n, copyB := n, copyC := n, treeA := tree, treeB := tree, treeC := tree, suspect := 0 } =
      { x with suspect := 0 } := by
  obtain ⟨_, hcopyA, hcopyB, hcopyC, htreeA, htreeB, htreeC⟩ := h
  cases x
  dsimp only at *
  subst hcopyA hcopyB hcopyC htreeA htreeB htreeC
  rfl

end DomState.Agreed

section

variable {d : Nat} {s : State} {n : Word} {tree : List Held} (h : (s.dom d).Agreed n tree)
include h

/-- A vote of copies that agree changes no copy. -/
theorem State.voteRelease_agreed :
    s.voteRelease d = ((s.setNext d n).setTree d tree).modDom d fun x => { x with suspect := 0 } := by
  unfold State.voteRelease
  rw [h.vote]
  dsimp only
  rw [h.treeOf]

theorem State.dom_voteRelease_agreed : (s.voteRelease d).dom d = { s.dom d with suspect := 0 } := by
  rw [State.voteRelease_agreed h, State.dom_modDom_self, State.setTree, State.dom_modDom_self,
    (State.setNext_spec d n s).2]
  exact h.restored

theorem State.reg_voteRelease_agreed : (s.voteRelease d).reg (Reg.SEQ_NEXT d) = n := by
  rw [State.voteRelease_agreed h, State.reg_congr (State.modDom_regs ..), State.setTree,
    State.reg_congr (State.modDom_regs ..), (State.setNext_spec d n s).1]

end

/-- One message released to the merge leaves it with the next number. -/
theorem State.emitMsgs_one {d : Nat} {s : State} {n : Word} {m : Held} (hd : d < 16) (h : (s.dom d).Agreed n [m])
    (hphase : (s.dom d).phase ≠ .halted) (hn : n ≠ 0) (hheld : (s.dom d).held = []) (cond : Bool) :
    Emitted d n (s.emitMsgs d cond 1) := by
  have hwaits : ¬((s.dom d).phase = .halted ∨ (s.dom d).drained = true) := by
    have hlive : 0 ∈ (s.dom d).live := by simp [DomState.live, h.fenced]
    rintro (hhalted | hdrained)
    · exact hphase hhalted
    · have hempty := List.all_eq_true.1 hdrained 0 hlive
      rw [h.treeOf] at hempty
      exact absurd hempty (by simp)
  have hdom := State.dom_voteRelease_agreed h
  have hreg := State.reg_voteRelease_agreed h
  rw [State.emitMsgs, if_neg hwaits]
  dsimp only
  generalize s.voteRelease d = v at hdom hreg ⊢
  rw [hdom]
  rw [h.treeA]
  dsimp only
  rw [if_neg (by rw [hreg]; exact hn), State.emitMsgs, ← hreg]
  refine State.emitMsg_emits (s := v.setTree d []) hd ?_ cond m
  rw [State.setTree, State.dom_modDom_self, hdom]
  simp [DomState.unnumbered, DomState.unmerged, hheld]

end Sys2Proof.Machine
end

section
namespace Sys2Proof.Machine

open Sys2Proof.Claims

/-! ## The frontier (R98, R99) -/

section

variable {d : Nat} {s : State}

theorem exec_musterRelease (hd : d < 16) (hrun : running 1 s = true) :
    exec (.musterRelease d) s = .next (musterRelease d s) := within_domain hd hrun _

theorem exec_backlogDelivery (hd : d < 16) (hrun : running 1 s = true) (rej : Bool) :
    exec (.backlogDelivery d rej) s = .next (backlogDelivery d rej s) := within_domain hd hrun _

variable (hdial : s.dialStopped = false) (hphase : (s.dom d).phase = .opened ∨ (s.dom d).phase = .closing)
include hdial hphase

/-- A release with no held message due moves the frontier alone. -/
theorem musterRelease_none (hnone : ∀ h ∈ (s.dom d).held, s.frontierAt d s.dial h.keyStamp = false) :
    musterRelease d s = s.modDom d fun x => { x with frontier := s.dial } := by
  unfold musterRelease
  extract_lets p moved out batch
  rw [if_pos ⟨by simpa using hdial, hphase⟩]
  have hheld : (moved.dom d).held = (s.dom d).held := by rw [State.dom_modDom_self]
  refine if_pos (List.filter_eq_nil_iff.2 fun h hh => ?_)
  have hfr : moved.frontierAt d moved.dial h.keyStamp = false := hnone h (hheld ▸ hh)
  simp [out, hfr]

/-- A release with one held message, which is due, gives it the next number. -/
theorem musterRelease_one {h : Held} {n : Word} (hd : d < 16) (hheld : (s.dom d).held = [h])
    (hdue : s.frontierAt d s.dial h.keyStamp = true) (hfeeder : s.isFeeder d = false) (hcopies : (s.dom d).Agreed n [])
    (hn : n ≠ 0) : Emitted d n (musterRelease d s) := by
  unfold musterRelease
  extract_lets p moved out batch cond toSend unsent taken merged
  rw [if_pos ⟨by simpa using hdial, hphase⟩]
  have hmoved : moved.dom d = { s.dom d with frontier := s.dial } := State.dom_modDom_self ..
  have hfeeder' : moved.isFeeder d = false := hfeeder
  have hout : out h = true := by
    have hfr : moved.frontierAt d moved.dial h.keyStamp = true := hdue
    simp [out, hfr, hfeeder']
  have hbatch : batch = [h] := by simp [batch, hmoved, hheld, hout]
  rw [if_neg (by simp [hbatch]), if_neg (by simp [hfeeder'])]
  have htaken :
      taken.dom d = { s.dom d with frontier := s.dial, held := [], unsent := (s.dom d).unsent ++ unsent } := by
    simp [taken, State.dom_modDom_self, hmoved, hheld, hout]
  have hmerged : merged.dom d = { taken.dom d with treeA := [h], treeB := [h], treeC := [h] } := by
    unfold merged State.intoMerge
    rw [State.dom_modDom_self]
    simp [htaken, hcopies.treeA, hcopies.treeB, hcopies.treeC, hbatch, sortKey, insertKey]
  have hmerging : (merged.dom d).merging = 1 := by simp [hmerged, DomState.merging]
  rw [hmerging]
  have hemitted : Emitted d n (merged.emitMsgs d cond 1) := by
    refine State.emitMsgs_one (m := h) hd ?_ ?_ hn ?_ cond
    · rw [hmerged, htaken]
      exact ⟨hcopies.fenced, hcopies.copyA, hcopies.copyB, hcopies.copyC, rfl, rfl, rfl⟩
    · rw [hmerged, htaken]
      exact fun hhalted => hphase.elim (fun hp => by simp [hp] at hhalted) fun hp => by simp [hp] at hhalted
    · rw [hmerged, htaken]
  exact hemitted.passed hd (.of_noted (Noted.refl ..).condPoll)

end

/-! ## The backlog (R101) -/

/-- A domain with the given messages waiting for one of its rings. -/
def DomState.withWaiting (rej : Bool) (ns : List Numbered) (x : DomState) : DomState :=
  if rej then { x with backR := ns } else { x with backM := ns }

theorem DomState.waiting_withWaiting (rej : Bool) (ns : List Numbered) (x : DomState) :
    (if rej then (x.withWaiting rej ns).backR else (x.withWaiting rej ns).backM) = ns := by
  cases rej <;> rfl

section

variable {d : Nat} {rej : Bool} {n : Numbered} {rest : List Numbered} {s : State}
  (hwait : (if rej then (s.dom d).backR else (s.dom d).backM) = n :: rest) (hready : s.entryReady d rej = true)
include hwait hready

theorem backlogDelivery_ready : backlogDelivery d rej s =
    (s.modDom d (DomState.withWaiting rej rest)).deliverInto (s.seqRing d rej) n := by
  unfold backlogDelivery
  rw [hwait]
  exact if_pos hready

/-- The oldest waiting message goes into the next entry of its ring. -/
theorem backlogDelivery_spec :
    (if rej then ((backlogDelivery d rej s).dom d).backR else ((backlogDelivery d rej s).dom d).backM) = rest ∧
      ((backlogDelivery d rej s).ring (s.seqRing d rej)).hamper = (s.ring (s.seqRing d rej)).hamper.tail := by
  obtain ⟨h5, h4⟩ := State.untallied_of_entryReady hready
  rw [backlogDelivery_ready hwait hready]
  obtain ⟨hentry, hhamper⟩ := EntryOnly.deliverInto (s := s.modDom d (DomState.withWaiting rej rest)) h5 h4 n
  refine ⟨?_, hhamper⟩
  rw [State.dom_congr hentry.doms, State.dom_modDom_self, DomState.waiting_withWaiting]

end

/-- Settles O15: the arrival is State.held_arrive, the release musterRelease_none and musterRelease_one, and the
delivery backlogDelivery_spec. -/
theorem messagesHeldNumberedDelivered : Obligations.MessagesHeldNumberedDelivered := by
  unfold Obligations.MessagesHeldNumberedDelivered
  intro s hrun
  refine ⟨fun pipe m rest hpipe hfifo hopened hfed hopenAt hin => ?arrival, fun d hd hdial hphase =>
    ⟨fun hnone => ?none, fun h hheld hdue hfeeder hfenced hAB hBC hn hA hB hC => ?one⟩,
    fun d rej n rest hd hwait hready => ?backlog⟩
  case arrival =>
    refine ⟨_, exec_holdStoreArrival hpipe hrun hfifo, State.fifo_arrive .., ?_⟩
    rw [hfed]
    obtain ⟨h, hheld, hmsg, hkey⟩ := State.held_arrive (s := s.modPipe pipe fun p => { p with fifo := rest }) (m := m)
      (fun hhalted => nomatch hopened.symm.trans hhalted) (fun hclosed => nomatch hopened.symm.trans hclosed)
      (fun hout => hout.elim (BitVec.not_lt.2 hopenAt) fun hclosing => nomatch hopened.symm.trans hclosing.1) (.inr hin)
    obtain ⟨hstamp, hlate⟩ := hkey hin
    exact ⟨h, hheld, hmsg, hstamp, hlate⟩
  case none =>
    refine ⟨_, exec_musterRelease hd hrun, ?_⟩
    rw [musterRelease_none hdial hphase hnone, State.dom_modDom_self]
    exact ⟨rfl, rfl, rfl⟩
  case one =>
    obtain ⟨hlast, hnext, hnumbered⟩ := musterRelease_one hdial hphase hd hheld hdue hfeeder
      ⟨hfenced, rfl, hAB.symm, (hAB.trans hBC).symm, hA, hB, hC⟩ hn
    exact ⟨_, exec_musterRelease hd hrun, hlast, hnext, (List.append_eq_nil_iff.1 hnumbered).1⟩
  case backlog => exact ⟨_, exec_backlogDelivery hd hrun rej, backlogDelivery_spec hwait hready⟩

end Sys2Proof.Machine
end

section
namespace Sys2Proof.Machine

open Sys2Proof.Claims

/-! ## A standby's comparison with its primary (R113, R288) -/

/-- The record is not that of the message (R113). -/
def RecordDiffers (r : MirrorRec) (n : Numbered) : Prop :=
  r.stamp ≠ n.msg.stamp ∨ r.stackPort ≠ n.msg.port ∨ r.bytes ≠ n.msg.bytes

section

variable (d : Nat) (s : State)

/-- A difference is kept as a mismatch. -/
theorem State.dom_mirrorDiffers (n : Word) :
    ((s.mirrorDiffers d n).dom d).compared = ((s.dom d).mirrors, (s.dom d).mirrorSeq, true) := by
  have hdom : (s.mirrorDiffers d n).dom d = { s.dom d with mismatch := true } := by
    unfold State.mirrorDiffers
    dsimp only
    rw [State.dom_logEvent]
    exact State.dom_modDom_self d (fun x => { x with mismatch := true }) s
  rw [hdom]
  rfl

theorem State.mirrorSeq_compareMirror (n : Numbered) :
    ((s.compareMirror d n).dom d).mirrorSeq = (s.dom d).mirrorSeq := by
  unfold State.compareMirror
  split
  · rfl
  · dsimp only
    split
    · rw [State.dom_modDom_self]
    · refine (congrArg (·.2.1) (State.dom_mirrorDiffers ..)).trans ?_
      dsimp only
      rw [State.dom_modDom_self]

variable {d s}

/-- A message whose record differs from it is a mismatch. -/
theorem State.compareMirror_differs {r : MirrorRec} {n : Numbered}
    (hr : (s.dom d).mirrors.find? (fun r => r.seq == n.seq) = some r) (hdiff : RecordDiffers r n) :
    ((s.compareMirror d n).dom d).mismatch = true := by
  unfold State.compareMirror
  rw [hr]
  dsimp only
  rw [if_neg (by simpa only [RecordDiffers, ne_eq, ← not_and_or] using hdiff)]
  exact congrArg (·.2.2) (State.dom_mirrorDiffers ..)

end

/-- A record joins those of the primary; one whose number does not follow is a difference. -/
def State.recordKept (d : Nat) (r : MirrorRec) (s : State) : State :=
  let gap := !s.streamFed d && ((s.dom d).mirrorSeq.map fun n => n + 1 != r.seq).getD false
  let s := s.modDom d fun x => { x with mirrorSeq := some r.seq, mirrors := x.mirrors ++ [r] }
  if gap then s.mirrorDiffers d r.seq else s

/-- A record kept, with the comparison that is made at once where its number has been assigned already. -/
def State.recordCompared (d : Nat) (r : MirrorRec) (s : State) : State :=
  match (s.dom d).kept.find? fun n => n.seq == r.seq with
  | some n => (s.recordKept d r).compareMirror d n
  | none => s.recordKept d r

section

variable {d : Nat} {r : MirrorRec} {s : State}

theorem State.recordCompared_none (h : ((s.dom d).kept.find? fun n => n.seq == r.seq) = none) :
    s.recordCompared d r = s.recordKept d r := by
  unfold State.recordCompared
  rw [h]

theorem State.recordCompared_some {n : Numbered} (h : ((s.dom d).kept.find? fun n => n.seq == r.seq) = some n) :
    s.recordCompared d r = (s.recordKept d r).compareMirror d n := by
  unfold State.recordCompared
  rw [h]

theorem exec_mirrorRecord (hd : d < 16) (hrun : running 1 s = true) (hr : r.stackPort < 2048) :
    exec (.mirrorRecord d r) s = .next (mirrorRecord d r s) := by
  change within (decide (d < 16) && decide (r.stackPort < 2048)) _ _ = _
  rw [decide_eq_true hr, Bool.and_true]
  exact within_domain hd hrun _

theorem State.recordKept_spec : ((s.recordKept d r).dom d).mirrors = (s.dom d).mirrors ++ [r] ∧
    ((s.recordKept d r).dom d).mirrorSeq = some r.seq := by
  unfold State.recordKept
  extract_lets gap kept
  have hkept : (kept.dom d).mirrors = (s.dom d).mirrors ++ [r] ∧ (kept.dom d).mirrorSeq = some r.seq := by
    rw [State.dom_modDom_self]
    exact ⟨rfl, rfl⟩
  split
  · have hcompared := State.dom_mirrorDiffers d kept r.seq
    obtain ⟨hmirrors, hrest⟩ := Prod.ext_iff.1 hcompared
    exact ⟨hmirrors.trans hkept.1, (congrArg Prod.fst hrest).trans hkept.2⟩
  · exact hkept

/-- The input that a record is to a standby leaves what is compared. -/
theorem mirrorRecord_compared (hrole : s.role d = 2) :
    ((mirrorRecord d r s).dom d).compared = ((s.recordCompared d r).dom d).compared := by
  have hmirror : mirrorRecord d r s = if (s.recordCompared d r).streamFed d then s.recordCompared d r else
      ({ s.recordCompared d r with free := (s.recordCompared d r).free + 2 }).arrive true
        (mirrorMsg r d (s.recordCompared d r).free) := by
    unfold mirrorRecord
    rw [if_neg (by simp [hrole])]
    rfl
  rw [hmirror]
  generalize s.recordCompared d r = u
  split
  · rfl
  · exact (ArrivalKept.arrive true (mirrorMsg r d u.free) { u with free := u.free + 2 }).compared

/-- A standby keeps the record of its primary; where it holds the message of that number already, a record that differs
from it is a mismatch at once. -/
theorem mirrorRecord_spec (hrole : s.role d = 2) : let known := (s.dom d).kept.find? fun n => n.seq == r.seq
    ((mirrorRecord d r s).dom d).mirrorSeq = some r.seq ∧
      (known = none → ((mirrorRecord d r s).dom d).mirrors = (s.dom d).mirrors ++ [r]) ∧
      ∀ n, known = some n → (∀ q ∈ (s.dom d).mirrors, q.seq ≠ r.seq) → RecordDiffers r n →
        ((mirrorRecord d r s).dom d).mismatch = true := by
  intro known
  obtain ⟨hmirrors, hseq⟩ := State.recordKept_spec (d := d) (r := r) (s := s)
  obtain ⟨hmirrors', hrest⟩ := Prod.ext_iff.1 (mirrorRecord_compared (r := r) hrole)
  obtain ⟨hseq', hmismatch⟩ := Prod.ext_iff.1 hrest
  dsimp only [DomState.compared] at hmirrors' hseq' hmismatch
  rw [hseq', hmirrors', hmismatch]
  cases hknown : known with
  | none =>
    rw [State.recordCompared_none hknown]
    exact ⟨hseq, fun _ => hmirrors, fun n hn => nomatch hn⟩
  | some n =>
    rw [State.recordCompared_some hknown]
    refine ⟨(State.mirrorSeq_compareMirror ..).trans hseq, fun hn => (nomatch hn), fun n' hn hnew hdiff => ?_⟩
    obtain rfl : n = n' := Option.some.inj hn
    have hn : n.seq = r.seq := by simpa using List.find?_some hknown
    refine State.compareMirror_differs (r := r) ?_ hdiff
    rw [hmirrors, hn, List.find?_append, List.find?_eq_none.2 (by simpa using hnew)]
    simp

end

end Sys2Proof.Machine
end

section
namespace Sys2Proof.Machine

open Sys2Proof.Claims

/-! ## Takeover (R114) -/

theorem bits_role_cleared (x : Word) : bits (setBits x 22 21 0) 22 21 = 0 := by
  have hx := x.isLt
  simp only [bits, setBits, BitVec.toNat_ofNat]
  omega

/-- A half that a register write discards has no part in a takeover's checks. -/
theorem State.takeoverResult_discarded {d : Nat} (hd : d < 16) (who : Party) (key : Nat) (n : Word) (s : State) :
    (discarded who key s).takeoverResult d n = s.takeoverResult d n := by
  have hlast : (discarded who key s).reg (Reg.SEQ_LAST_NUMBER d) = s.reg (Reg.SEQ_LAST_NUMBER d) :=
    State.reg_unstage_ne _ _ s (by simp only [Reg.SEQ_LAST_NUMBER, Reg.GEN_CNT_SPLIT_DISCARD]; omega)
  have hrole : (discarded who key s).role d = s.role d := by
    rw [State.role, discarded, State.seqCfg_unstage, State.role]
  rw [State.takeoverResult, State.dom_discarded, hrole, hlast, State.takeoverResult]

/-- A domain that is no OPEN standby fails the first check. -/
theorem State.takeoverResult_refused {d : Nat} {s : State} (h : s.role d ≠ 2 ∨ (s.dom d).phase ≠ .opened) (n : Word) :
    s.takeoverResult d n = 2 := if_pos h

section

variable {who : Party} {v : Word} {d : Nat} {s : State}

theorem exec_takeover (hacc : accepted who s = true) (hrun : running 1 s = true) :
    exec (.takeover who v) s = .next (takeoverCommand v (discarded who Reg.SEQ_TAKEOVER s)) :=
  within_pfWrite_whole hacc hrun _ _

variable (hv : bits v 3 0 = d) (hgo : bit v 4 = true)
include hv hgo

/-- A takeover that a check refuses leaves the check's code, and changes nothing else. -/
theorem takeoverCommand_refused {r : Nat} (hr : s.takeoverResult d (s.reg Reg.SEQ_TAKEOVER_AT) = r) (hne : r ≠ 1) :
    takeoverCommand v s = s.setReg Reg.SEQ_TAKEOVER_RESULT (word r) := by
  subst hv hr
  unfold takeoverCommand
  dsimp only
  rw [if_neg (by simp [hgo]), if_pos hne]

/-- A takeover whose checks pass makes the domain a plain one, is counted, and leaves nothing kept. -/
theorem takeoverCommand_taken (hd : d < 16) (hr : s.takeoverResult d (s.reg Reg.SEQ_TAKEOVER_AT) = 1) :
    (takeoverCommand v s).reg Reg.SEQ_TAKEOVER_RESULT = 1 ∧ (takeoverCommand v s).role d = 0 ∧
      counts Reg.SEQ_CNT_TAKEOVERS 1 s (takeoverCommand v s) ∧ ((takeoverCommand v s).dom d).kept = [] := by
  subst hv
  unfold takeoverCommand
  extract_lets d n r result ms plain counted taken
  rw [if_neg (by simp [hgo]), if_neg (not_not.2 hr)]
  have hpassed : Passed d taken ((taken.domainEvent d 4 taken.dial n 0).publishAll d ms) :=
    (Passed.of_noted ((Noted.refl ..).domainEvent ..)).publishAll ms
  generalize (taken.domainEvent d 4 taken.dial n 0).publishAll d ms = t at hpassed ⊢
  have hpage : 0x400000 ≤ Reg.SEQ_DOMAIN_CFG d ∧ Reg.SEQ_DOMAIN_CFG d < 0x410000 ∧
      Reg.SEQ_DOMAIN_CFG d < 0x400048 + 0x1000 * d := by
    simp only [Reg.SEQ_DOMAIN_CFG]
    omega
  have hcfg_ne {k : Nat} (hk : 0x410000 ≤ k) : k ≠ Reg.SEQ_DOMAIN_CFG d := by omega
  have hshared {k : Nat} (hk : 0x410000 ≤ k) (hseq : k / 0x100000 = 4) (hne : k ≠ Reg.SEQ_CNT_TAKEOVERS) :
      t.reg k = result.reg k := by
    rw [hpassed.reg k hseq (not_mem_releaseRegs_of_shared hd hk), State.reg_congr (State.modDom_regs ..),
      State.reg_count_ne hne, State.reg_setRv_ne (hcfg_ne hk)]
  refine ⟨?_, ?_, ?_, ?_⟩
  · rw [hshared (by decide) (by decide) (by decide), State.reg_setReg_self, show r = 1 from hr]
    rfl
  · have hvoted : taken.voted (Reg.SEQ_DOMAIN_CFG d) = setBits (result.seqCfg d) 22 21 0 := by
      have hcounted : counted = plain.setReg _ _ := State.count_eq ..
      rw [State.voted_congr (State.modDom_regs ..) (State.modDom_copyB ..) (State.modDom_copyC ..), hcounted,
        State.voted_setReg_ne _ _ (hcfg_ne (by decide)).symm]
      exact State.voted_setRv_self ..
    have hkept : t.voted (Reg.SEQ_DOMAIN_CFG d) = taken.voted (Reg.SEQ_DOMAIN_CFG d) :=
      hpassed.voted (by omega) (not_mem_releaseRegs_of_lt (by omega))
    rw [State.role, State.seqCfg, hkept, hvoted, bits_role_cleared]
  · rw [counts_one_iff, hpassed.reg _ (by decide) (not_mem_releaseRegs_of_shared hd (by decide)),
      State.reg_congr (State.modDom_regs ..), State.reg_count_self, State.reg_setRv_ne (hcfg_ne (by decide)),
      State.reg_setReg_ne (by decide)]
  · rw [hpassed.kept, State.dom_modDom_self]

end

/-- Settles O17: what a record is compared with is mirrorRecord_spec; a takeover is takeoverCommand_taken or
takeoverCommand_refused. -/
theorem standbyMirrorsAndTakesOver : Obligations.StandbyMirrorsAndTakesOver := by
  unfold Obligations.StandbyMirrorsAndTakesOver
  intro d s hd hrun
  refine ⟨fun r hr hrole => ⟨_, exec_mirrorRecord hd hrun hr, mirrorRecord_spec hrole⟩, fun who v hacc hv hgo => ?_⟩
  have hchecks := State.takeoverResult_discarded hd who Reg.SEQ_TAKEOVER (s.reg Reg.SEQ_TAKEOVER_AT) s
  have hat : (discarded who Reg.SEQ_TAKEOVER s).reg Reg.SEQ_TAKEOVER_AT = s.reg Reg.SEQ_TAKEOVER_AT :=
    State.reg_unstage_ne _ _ s (by decide)
  rw [← hat] at hchecks ⊢
  refine ⟨fun hr => ⟨_, exec_takeover hacc hrun, ?_⟩, fun hno => ⟨_, exec_takeover hacc hrun, ?_⟩⟩
  · obtain ⟨hresult, hrole, hcounts, hkept⟩ := takeoverCommand_taken hv hgo hd (hchecks.trans hr)
    exact ⟨hresult, hrole, counts_congr (State.reg_unstage_ne _ _ s (by decide)).symm rfl hcounts, hkept⟩
  · rw [takeoverCommand_refused hv hgo (hchecks.trans (State.takeoverResult_refused hno _)) (by decide)]
    exact ⟨State.reg_setReg_self .., onlyRegs_setReg ..⟩

end Sys2Proof.Machine
end

section
namespace Sys2Proof.Machine

open Sys2Proof.Claims

/-! ## Items of a list that one of them replaces -/

@[simp] theorem putAt_getD_self {α : Type} (d : α) (l : List α) (n : Nat) (v : α) :
    (putAt d l n v).getD n d = v := by
  simp [List.getD_eq_getElem?_getD]

theorem pauseItem_putAt_self (l : List (Option Dial)) (p : Nat) (v : Option Dial) :
    pauseItem (putAt none l p v) p = v := putAt_getD_self ..

theorem pauseItem_putAt_ne {p q : Nat} (h : q ≠ p) (l : List (Option Dial)) (v : Option Dial) :
    pauseItem (putAt none l p v) q = pauseItem l q := putAt_getD_ne h ..

/-! ## What a lost frame leaves of a port's scheduler (R251, R283) -/

/-- A port's scheduler without its lossless pool and the PFC frames that follow the pool. -/
def EgressState.withoutPool (e : EgressState) : EgressState := { e with pool := [], xoff := false, pfcAt := 0 }

/-- Of every port's scheduler the lossless pool and its PFC frames alone may differ. -/
structure PoolOnly (s t : State) : Prop where
  egr : ∀ n, (t.egr n).withoutPool = (s.egr n).withoutPool

namespace PoolOnly

theorem refl (s : State) : PoolOnly s s := ⟨fun _ => rfl⟩

section

variable {s t : State} (h : PoolOnly s t)
include h

theorem trans {u : State} (h' : PoolOnly t u) : PoolOnly s u := ⟨fun n => (h'.egr n).trans (h.egr n)⟩

/-- An effect that leaves the schedulers alone. -/
theorem of_egress {u : State} (he : u.egress = t.egress) : PoolOnly s u :=
  h.trans ⟨fun n => by rw [State.egr, he, State.egr]⟩

theorem foldl {α : Type} {f : State → α → State} (hf : ∀ u x, PoolOnly u (f u x)) (xs : List α) :
    PoolOnly s (xs.foldl f t) := by
  induction xs generalizing t with
  | nil => exact h
  | cons x xs ih => exact ih (h.trans (hf t x))

theorem modEgr (m : Nat) {f : EgressState → EgressState} (hf : ∀ e, (f e).withoutPool = e.withoutPool) :
    PoolOnly s (t.modEgr m f) := by
  refine h.trans ⟨fun n => ?_⟩
  by_cases hn : n = m
  · rw [hn, State.egr_modEgr_self, hf]
  · rw [State.egr_modEgr_ne hn]

theorem countSlot (n k : Nat) : PoolOnly s (t.countSlot n k) := by
  unfold State.countSlot
  split
  · exact h
  · exact h.of_egress rfl

theorem sendPfc (n quanta : Nat) : PoolOnly s (t.sendPfc n quanta) :=
  (h.modEgr n (f := fun e => { e with xoff := decide (quanta ≠ 0), pfcAt := t.clock }) fun _ => rfl).of_egress rfl

theorem pfcSettle (n : Nat) : PoolOnly s (t.pfcSettle n) := by
  unfold State.pfcSettle
  dsimp only
  repeat' split
  · exact h
  · exact h.sendPfc ..
  · exact h.sendPfc ..
  · exact h

theorem txDone (f : QFrame) (status : Nat) (stamp : Dial) : PoolOnly s (t.txDone f status stamp) := by
  unfold State.txDone
  split
  · exact h
  · exact h.of_egress (by rw [State.complete_frame])

theorem poolFree (f : QFrame) : PoolOnly s (t.poolFree f) := by
  unfold State.poolFree
  split
  · exact h
  · exact (h.modEgr _ fun _ => by rfl).pfcSettle _

theorem loseFrame (f : QFrame) (status : Nat) : PoolOnly s (t.loseFrame f status) := (h.txDone f status 0).poolFree f

theorem logEvent (number block : Nat) (params : List Nat) : PoolOnly s (t.logEvent number block params) :=
  h.of_egress (by rw [State.logEvent_frame])

/-- Every frame of a list counts and is lost. -/
theorem loseFrames (n k status : Nat) (fs : List QFrame) :
    PoolOnly s (fs.foldl (fun u f => (u.countSlot n k).loseFrame f status) t) :=
  h.foldl (fun u f => ((refl u).countSlot n k).loseFrame f status) fs

/-- What does not look at the pool is as it was. -/
theorem same {α : Type} (g : EgressState → α) (hg : ∀ e, g e = g e.withoutPool) (n : Nat) :
    g (t.egr n) = g (s.egr n) := by
  rw [hg, h.egr n, ← hg]

end

end PoolOnly

/-! ## Pauses and holds end (R136, R137, R283, R284) -/

section

variable {n p : Nat} {s : State}

/-- A pause that ends leaves its priority neither paused nor begun. -/
theorem State.egr_setPause_none (n p : Nat) (s : State) : (s.setPause n p none).egr n =
    { s.egr n with pauseEnd := putAt none (s.egr n).pauseEnd p none,
                   pausedAt := putAt none (s.egr n).pausedAt p none } := State.egr_modEgr_self ..

theorem State.egr_sendPfc (n quanta : Nat) (s : State) : (s.sendPfc n quanta).egr n =
    { s.egr n with xoff := decide (quanta ≠ 0), pfcAt := s.clock } :=
  State.egr_modEgr_self n (fun e => { e with xoff := decide (quanta ≠ 0), pfcAt := s.clock }) s

theorem pfcPauseExpiry_due {d : Dial} (hend : pauseItem (s.egr n).pauseEnd p = some d) (hdue : d ≤ s.clock) :
    pfcPauseExpiry n p s = s.setPause n p none := if_pos (by simpa [hend] using hdue)

theorem pfcRefresh_due (hinfra : s.isInfra n = true) (hxoff : (s.egr n).xoff = true)
    (hlevel : s.xonLevel n ≤ s.poolUsed n) (hdue : (s.egr n).pfcAt.toNat + s.quantaTime n 0x7FFF ≤ s.clock.toNat) :
    pfcRefresh n s = s.sendPfc n 0xFFFF := if_pos ⟨hinfra, hxoff, hlevel, hdue⟩

/-- The queue of a priority emptied by the watchdog, its pause ended and its PFC ignored (R284). -/
def State.emptyPaused (n p : Nat) (s : State) : State :=
  let t := s.modEgr n fun e => { e with deferred := e.deferred.filter (· ≠ p) }
  let t := ({ t with free := t.free + 1 }.setQueue n p []).setPause n p none
  t.modEgr n fun e => { e with wdUntil := putAt none e.wdUntil p (some (t.clock.plusNs 100000000)) }

theorem State.egr_emptyPaused (n p : Nat) (s : State) : (s.emptyPaused n p).egr n =
    { s.egr n with deferred := (s.egr n).deferred.filter (· ≠ p), queues := putAt [] (s.egr n).queues p [],
                   pauseEnd := putAt none (s.egr n).pauseEnd p none, pausedAt := putAt none (s.egr n).pausedAt p none,
                   wdUntil := putAt none (s.egr n).wdUntil p (some (s.clock.plusNs 100000000)) } := by
  have hfree (t : State) (v : Nat) : State.egr { t with free := v } n = t.egr n := rfl
  unfold State.emptyPaused
  extract_lets undeferred ended
  have hclock : ended.clock = s.clock := rfl
  rw [State.egr_modEgr_self, hclock, State.egr_setPause_none, State.setQueue, State.egr_modEgr_self, hfree,
    State.egr_modEgr_self]

/-- A watchdog that fires empties its queue; the frames lost touch the lossless pools alone. -/
theorem pfcWatchdog_fires {d : Dial} (hon : bits (s.reg (Reg.RDMA_PORT_PFC n)) 59 48 ≠ 0)
    (hpaused : s.paused n p = true) (hat : pauseItem (s.egr n).pausedAt p = some d)
    (hdue : d.toNat + bits (s.reg (Reg.RDMA_PORT_PFC n)) 59 48 * 1000000 * nsUnits ≤ s.clock.toNat) :
    PoolOnly (s.emptyPaused n p) (pfcWatchdog n p s) := by
  unfold pfcWatchdog
  extract_lets wd fs undeferred status ended emptied lost
  rw [if_pos ⟨hon, hpaused, by rw [hat, Option.any_some, decide_eq_true hdue]⟩]
  exact ((PoolOnly.refl emptied).loseFrames n _ status fs).logEvent ..

/-- The queues of a port whose hold is over, emptied (R137). -/
def EgressState.emptied (e : EgressState) : EgressState :=
  { e with queues := List.replicate 8 [], holdFrom := none, deferred := [], maskHeld := [] }

theorem portHoldExpiry_over (hover : s.holdOver n = true) (hdown : s.isUp n = false) :
    PoolOnly (s.modEgr n EgressState.emptied) (portHoldExpiry n s) := by
  rw [portHoldExpiry, if_pos ⟨hover, by rw [hdown]; rfl⟩]
  exact (PoolOnly.refl _).loseFrames n _ _ _

/-- A command of the release block about what exists has its effect while the block runs. -/
theorem within_release {ok : Bool} (hok : ok = true) (hrun : running 3 s = true) (f : State → State) :
    within ok (whenClocked (unlessStopped 3 f) s) s = .next (f s) := by
  rw [hok, within_true, whenClocked_running hrun]

end

/-- Settles O12: a pause at its end is setPause, a refresh sendPfc, and what a watchdog and a hold empty is emptyPaused
and EgressState.emptied, the frames lost touching the lossless pools alone (PoolOnly). -/
theorem pausesAndHoldsEnd : Obligations.PausesAndHoldsEnd := by
  unfold Obligations.PausesAndHoldsEnd
  intro n p s hn hp hrun
  have hslot (f : State → State) := within_release (decide_eq_true hn) hrun f
  have hprio (f : State → State) :=
    within_release (ok := decide (n < 256) && decide (p < 8)) (by simp [hn, hp]) hrun f
  refine ⟨?expiry, ?refresh, ?watchdog, ?hold⟩
  case expiry =>
    rintro ⟨d, hend, hdue⟩
    refine ⟨_, hprio _, ?_⟩
    rw [pfcPauseExpiry_due hend hdue, State.egr_setPause_none]
    exact ⟨pauseItem_putAt_self .., pauseItem_putAt_self .., fun q hq => pauseItem_putAt_ne hq .., rfl,
      fun m hm => State.egr_modEgr_ne hm ..⟩
  case refresh =>
    intro hinfra hxoff hlevel hdue
    refine ⟨_, hslot _, ?_⟩
    rw [pfcRefresh_due hinfra hxoff hlevel hdue]
    exact ⟨rfl, by rw [State.egr_sendPfc], rfl⟩
  case watchdog =>
    rintro ⟨hon, hpaused, d, hat, hdue⟩
    have hpool := pfcWatchdog_fires hon hpaused hat hdue
    refine ⟨_, hprio _, (hpool.same (·.queues.getD p []) (fun _ => rfl) n).trans ?_,
      (hpool.same (pauseItem ·.pauseEnd p) (fun _ => rfl) n).trans ?_,
      (hpool.same (pauseItem ·.wdUntil p) (fun _ => rfl) n).trans ?_, ?_⟩
    · rw [State.egr_emptyPaused]
      exact putAt_getD_self ..
    · rw [State.egr_emptyPaused]
      exact pauseItem_putAt_self ..
    · rw [State.egr_emptyPaused]
      exact pauseItem_putAt_self ..
    · rw [hpool.same (·.deferred) (fun _ => rfl), State.egr_emptyPaused]
      simp
  case hold =>
    intro hover hdown
    have hpool := portHoldExpiry_over hover hdown
    refine ⟨_, hslot _, (hpool.same (·.holdFrom) (fun _ => rfl) n).trans ?_,
      fun q => (hpool.same (·.queues.getD q []) (fun _ => rfl) n).trans ?_⟩
    · rw [State.egr_modEgr_self]
      rfl
    · rw [State.egr_modEgr_self, List.getD_eq_getElem?_getD]
      exact List.getElem?_getD_replicate_default_eq ..

end Sys2Proof.Machine
end

section
namespace Sys2Proof.Machine

open Sys2Proof.Claims

/-! ## Counters of a slot (R11) -/

theorem State.isIdle_count {k : Nat} (hk : ∀ m, Reg.PORT_MODE m ≠ k) (n : Nat) (s : State) :
    (s.count k).isIdle n = s.isIdle n := by
  have hmode (m : Nat) : (s.count k).portMode m = s.portMode m :=
    State.portMode_congr (State.reg_count_ne (hk m) s) rfl rfl
  rw [State.isIdle, State.portOfLane_congr fun m _ => hmode m, State.isIdle]

section

variable {n : Nat} {s : State} (h : s.isIdle n = false)
include h

theorem State.countSlot_of_own (k : Nat) : s.countSlot n k = s.count k := by
  simp [State.countSlot, h]

end

/-! ## Postings and their copies (R122, R128) -/

/-- What a release number finds after a change of one posting. -/
theorem State.posting_modRel {f : Posting → Posting} (hf : ∀ p, (f p).rel = p.rel) (rel k : Nat) (s : State) :
    (s.modRel rel f).posting k = (s.posting k).map fun p => if p.rel = rel ∧ rel ≠ 0 then f p else p := by
  have hrel (p : Posting) : (if p.rel = rel ∧ rel ≠ 0 then f p else p).rel = p.rel := by
    split
    · exact hf p
    · rfl
  rw [State.posting, State.modRel, List.find?_map]
  refine congrArg (Option.map _) (congrArg (List.find? · s.postings) (funext fun p => ?_))
  rw [Function.comp_apply, hrel]

theorem State.posting_congr {s t : State} (h : t.postings = s.postings) (rel : Nat) :
    t.posting rel = s.posting rel := by
  rw [State.posting, h, State.posting]

section

variable {n rel : Nat} {p : Posting} {c : Copy} {s : State}

theorem State.posting_spec (h : s.posting rel = some p) : p ∈ s.postings ∧ p.rel = rel ∧ rel ≠ 0 :=
  ⟨List.mem_of_find?_eq_some h,
    of_decide_eq_true (List.find?_some (p := fun q : Posting => decide (q.rel = rel ∧ rel ≠ 0)) h)⟩

theorem State.posting_modRel_self (h : s.posting rel = some p) {f : Posting → Posting} (hf : ∀ p, (f p).rel = p.rel) :
    (s.modRel rel f).posting rel = some (f p) := by
  rw [State.posting_modRel hf, h, Option.map_some, if_pos (State.posting_spec h).2]

/-- The copy whose life is replaced. -/
theorem Posting.copyOn_setCopy (h : p.copyOn n = some c) (st : CopyState) :
    (p.setCopy n st).copyOn n = some { c with st := st } := by
  have hslot (x : Copy) : (if x.slot = n then { x with st := st } else x).slot = x.slot := by
    split <;> rfl
  have hfound : c.slot = n := by simpa using List.find?_some h
  have hfind : p.copies.find? ((fun x => x.slot == n) ∘ fun x => if x.slot = n then { x with st := st } else x) =
      some c := by
    rw [← h, Posting.copyOn]
    exact congrArg (List.find? · p.copies) (funext fun x => by rw [Function.comp_apply, hslot])
  rw [Posting.copyOn, Posting.setCopy, List.find?_map, hfind, Option.map_some, if_pos hfound]

theorem State.armedCopy_spec (h : s.armedCopy n rel = some (p, c)) :
    s.posting rel = some p ∧ p.copyOn n = some c ∧ c.st = .armed := by
  unfold State.armedCopy at h
  split at h
  · exact absurd h (by simp)
  · next q hq =>
    obtain ⟨d, hd, hsome⟩ := Option.bind_eq_some_iff.1 h
    split at hsome
    · next hst =>
      obtain ⟨rfl, rfl⟩ : q = p ∧ d = c := by simpa using hsome
      exact ⟨hq, hd, hst⟩
    · exact absurd hsome (by simp)

/-! ## The guard of a copy (R126, R127) -/

/-- The guard interval follows from the mode, MAX_FRAME and what preemption has been agreed. -/
theorem State.guardNow_congr {t : State} (hmode : t.portMode n = s.portMode n)
    (hframe : t.reg (Reg.PORT_FRAME n) = s.reg (Reg.PORT_FRAME n)) (hpre : (t.egr n).preempt = (s.egr n).preempt)
    (hfrag : (t.egr n).addFrag = (s.egr n).addFrag) : t.guardNow n = s.guardNow n := by
  simp only [State.guardNow, State.guardPre, State.guardOf, State.maxFrame, hmode, hframe, hpre, hfrag]

/-- The guard of a copy that has not left is in force from its Dial on. -/
theorem State.guarded_of_live (hp : s.posting rel = some p) (hc : p.copyOn n = some c)
    (hlive : c.st = .armed ∨ c.st = .committed) (hat : copyAt p c ≤ fine s.dial + 25 * s.guardNow n) :
    s.guarded n = true := by
  refine List.any_eq_true.2 ⟨p, (State.posting_spec hp).1, ?_⟩
  rw [hc, Option.any_some]
  rcases hlive with hst | hst
  · rw [hst]
    exact decide_eq_true hat
  · rw [hst]
    exact decide_eq_true hat

theorem guardBegin_of_armed (h : s.armedCopy n rel = some (p, c)) (hat : copyAt p c ≤ fine s.dial + 25 * s.guardNow n) :
    guardBegin n rel s = s.preemptWire n := by
  obtain ⟨hp, hc, hst⟩ := State.armedCopy_spec h
  have hlive : s.liveCopy n rel = some (p, c) := by simp [State.liveCopy, hp, hc, hst]
  rw [guardBegin, hlive]
  exact if_pos hat

/-- A frame in flight leaves the wire for a guard, its rest to come later. -/
def EgressState.cut (f : QFrame) (left : Nat) (end_ : Dial) (e : EgressState) : EgressState :=
  { e with wire := none, resume := some (f, left), wireEnd := end_ }

/-- What preempting does: nothing, or a cut that is counted. -/
theorem State.preemptWire_cases (n : Nat) (s : State) : s.preemptWire n = s ∨ ∃ f left end_,
    s.preemptWire n = (s.modEgr n (EgressState.cut f left end_)).count (Reg.REL_CNT_PREEMPT n) := by
  unfold State.preemptWire
  dsimp only
  split
  · exact .inl rfl
  · split
    · exact .inr ⟨_, _, _, rfl⟩
    · exact .inl rfl

/-- A frame in flight that has a permitted point is cut there. -/
theorem State.preemptWire_cuts {f : QFrame} (hwire : (s.egr n).wire = some f) (hpre : (s.egr n).preempt = true)
    (hsent : s.wireSent n = false)
    (hpoint : max (s.wireSentBytes n) (64 * (1 + (s.egr n).addFrag) - 4) + 64 ≤ (s.egr n).wireBytes) :
    ∃ left end_, s.preemptWire n = (s.modEgr n (EgressState.cut f left end_)).count (Reg.REL_CNT_PREEMPT n) := by
  unfold State.preemptWire
  simp only [hwire]
  rw [if_pos ⟨hpre, by rw [hsent]; rfl, hpoint⟩]
  exact ⟨_, _, rfl⟩

/-- Preempting leaves the postings, the Dial and the guard interval. -/
theorem State.preemptWire_kept (n : Nat) (s : State) : (s.preemptWire n).postings = s.postings ∧
    (s.preemptWire n).dial = s.dial ∧ (s.preemptWire n).guardNow n = s.guardNow n := by
  obtain heq | ⟨f, left, end_, heq⟩ := s.preemptWire_cases n
  · rw [heq]
    exact ⟨rfl, rfl, rfl⟩
  · have hegr : ((s.modEgr n (EgressState.cut f left end_)).count (Reg.REL_CNT_PREEMPT n)).egr n =
        (s.egr n).cut f left end_ := State.egr_modEgr_self ..
    rw [heq]
    refine ⟨rfl, rfl, State.guardNow_congr (State.portMode_congr ?_ rfl rfl) ?_ (by rw [hegr]; rfl) (by rw [hegr]; rfl)⟩
    · exact State.reg_count_ne (by simp only [Reg.PORT_MODE, Reg.REL_CNT_PREEMPT]; omega) _
    · exact State.reg_count_ne (by simp only [Reg.PORT_FRAME, Reg.REL_CNT_PREEMPT]; omega) _

end

/-! ## What a frame's protection changes (R194 to R197) -/

/-- LAMP's registers, the logbook and what leaves the device alone may differ. -/
structure SecuredOnly (s t : State) : Prop where
  frame : t = { s with regs := t.regs, log := t.log, out := t.out }
  reg : ∀ k, k < 0x880000 → t.reg k = s.reg k

namespace SecuredOnly

theorem refl (s : State) : SecuredOnly s s := ⟨rfl, fun _ _ => rfl⟩

section

variable {s t : State} (h : SecuredOnly s t)
include h

theorem trans {u : State} (h' : SecuredOnly t u) : SecuredOnly s u :=
  ⟨by rw [h'.frame, h.frame], fun k hk => (h'.reg k hk).trans (h.reg k hk)⟩

theorem setReg {k : Nat} (hk : 0x880000 ≤ k) (v : Word) : SecuredOnly s (t.setReg k v) :=
  h.trans ⟨rfl, fun _ hj => State.reg_setReg_ne (by omega) v t⟩

theorem emit (o : Out) : SecuredOnly s (t.emit o) := h.trans ⟨rfl, fun _ _ => rfl⟩

theorem logEvent (number block : Nat) (params : List Nat) : SecuredOnly s (t.logEvent number block params) :=
  h.trans ⟨by rw [State.logEvent_frame], fun _ hk =>
    State.reg_logEvent _ _ _ t (by simp only [Reg.LOG_CNT_QUEUE_DROP]; omega)⟩

theorem takePn (n : Nat) : SecuredOnly s (t.takePn n) := by
  have hpn : 0x880000 ≤ Reg.LAMP_TX_PN n (t.encodingAn n) := by
    simp only [Reg.LAMP_TX_PN]
    omega
  have hsa : 0x880000 ≤ Reg.LAMP_TX_SA n (t.encodingAn n) := by
    simp only [Reg.LAMP_TX_SA]
    omega
  unfold State.takePn
  extract_lets an k pn last near taken noted
  have hnoted : SecuredOnly s noted := by
    unfold noted
    split
    · exact ((h.setReg hpn _).emit _).logEvent ..
    · exact h.setReg hpn _
  split
  · exact hnoted.setReg hsa _
  · exact hnoted

theorem wireFrame (n : Nat) (f : List Byte) : SecuredOnly s (t.wireFrame n f).2 := by
  by_cases hprotects : t.protects n f = true
  · rw [State.wireFrame, if_pos hprotects]
    refine (h.takePn n).setReg ?_ _
    simp only [Reg.LAMP_CNT_TX_PROTECTED]
    omega
  · rw [State.wireFrame, if_neg hprotects]
    exact h

theorem egr (n : Nat) : t.egr n = s.egr n := by rw [h.frame]; rfl

theorem guardNow {n : Nat} (hn : n < 256) : t.guardNow n = s.guardNow n := by
  refine State.guardNow_congr (State.portMode_congr (h.reg _ ?_) (by rw [h.frame]) (by rw [h.frame])) (h.reg _ ?_)
    (by rw [h.egr]) (by rw [h.egr])
  · simp only [Reg.PORT_MODE]
    omega
  · simp only [Reg.PORT_FRAME]
    omega

end

end SecuredOnly

end Sys2Proof.Machine
end

section
namespace Sys2Proof.Machine

open Sys2Proof.Claims

/-! ## What a posting's record and outcome change (R129, R163) -/

/-- The counters of the outcomes. -/
def outcomeRegs : List Nat := [Reg.REL_CNT_ALL_SENT, Reg.REL_CNT_PARTIAL, Reg.REL_CNT_NONE_SENT]

/-- What the launchers of a posting go by: T_rel and its copies. -/
def Posting.plan (p : Posting) : Dial × List Copy := (p.tRel, p.copies)

/-- Records and outcomes alone: AUD, the logbook and the counters of outcomes may differ, and no posting's plan does. -/
structure SettledOnly (s t : State) : Prop where
  frame : t = { s with regs := t.regs, aud := t.aud, log := t.log, postings := t.postings }
  reg : ∀ k, auditReg k = false → k ∉ outcomeRegs → t.reg k = s.reg k
  plan : ∀ rel, (t.posting rel).map Posting.plan = (s.posting rel).map Posting.plan

namespace SettledOnly

theorem refl (s : State) : SettledOnly s s := ⟨rfl, fun _ _ _ => rfl, fun _ => rfl⟩

section

variable {s t : State} (h : SettledOnly s t)
include h

theorem trans {u : State} (h' : SettledOnly t u) : SettledOnly s u :=
  ⟨by rw [h'.frame, h.frame], fun k hk ho => (h'.reg k hk ho).trans (h.reg k hk ho),
    fun rel => (h'.plan rel).trans (h.plan rel)⟩

theorem audit (r : AuditRec) : SettledOnly s (t.audit r) := by
  have ha := (AuditOnly.refl t).audit r
  have hpostings : (t.audit r).postings = t.postings := by rw [ha.frame]
  exact h.trans ⟨by rw [ha.frame], fun k hk _ => ha.reg k hk, fun rel => by rw [State.posting_congr hpostings]⟩

theorem count {k : Nat} (hk : k ∈ outcomeRegs) : SettledOnly s (t.count k) :=
  h.trans ⟨rfl, fun _ _ ho => State.reg_count_ne (ne_of_mem_of_not_mem hk ho).symm t, fun _ => rfl⟩

theorem modRel (rel : Nat) {f : Posting → Posting} (hrel : ∀ p, (f p).rel = p.rel) (hplan : ∀ p, (f p).plan = p.plan) :
    SettledOnly s (t.modRel rel f) := by
  refine h.trans ⟨rfl, fun _ _ _ => rfl, fun k => ?_⟩
  rw [State.posting_modRel hrel, Option.map_map]
  refine congrArg (Option.map · (t.posting k)) (funext fun p => ?_)
  rw [Function.comp_apply, apply_ite Posting.plan, hplan, ite_self]

theorem auditRelease (rel : Nat) : SettledOnly s (t.auditRelease rel) := by
  unfold State.auditRelease
  repeat' split
  · exact h
  · exact h
  · exact (h.modRel rel (fun _ => by rfl) fun _ => by rfl).audit _

theorem settleRelease (rel : Nat) : SettledOnly s (t.settleRelease rel) := by
  have haudit := h.auditRelease rel
  unfold State.settleRelease
  dsimp only
  split
  · exact haudit
  · split
    · exact haudit
    · refine (haudit.modRel rel (fun _ => by rfl) fun _ => by rfl).count ?_
      split_ifs <;> simp [outcomeRegs]

theorem out : t.out = s.out := by rw [h.frame]

theorem egr (n : Nat) : t.egr n = s.egr n := by rw [h.frame]; rfl

theorem dial : t.dial = s.dial := by rw [h.frame]; rfl

/-- A register of a port slot, of PORT or REL, is as it was. -/
theorem slotReg {k : Nat} (hk : k < 0x500000 ∨ 0x510000 ≤ k ∧ k < 0x700000) : t.reg k = s.reg k := by
  refine h.reg k (auditReg_eq_false_iff.2 ?_) ?_
  · simp only [Reg.LOG_CNT_QUEUE_DROP]
    omega
  · simp only [outcomeRegs, Reg.REL_CNT_ALL_SENT, Reg.REL_CNT_PARTIAL, Reg.REL_CNT_NONE_SENT, List.mem_cons,
      List.not_mem_nil, or_false]
    omega

theorem guardNow {n : Nat} (hn : n < 256) : t.guardNow n = s.guardNow n := by
  refine State.guardNow_congr (State.portMode_congr (h.slotReg ?_) (by rw [h.frame]) (by rw [h.frame])) (h.slotReg ?_)
    (by rw [h.egr]) (by rw [h.egr])
  · simp only [Reg.PORT_MODE]
    omega
  · simp only [Reg.PORT_FRAME]
    omega

/-- A posting is still there, with its plan. -/
theorem posting {rel : Nat} {p : Posting} (hp : s.posting rel = some p) :
    ∃ q, t.posting rel = some q ∧ q.tRel = p.tRel ∧ q.copies = p.copies := by
  have hplan := h.plan rel
  rw [hp] at hplan
  obtain ⟨q, hq, heq⟩ := Option.map_eq_some_iff.1 hplan
  obtain ⟨htRel, hcopies⟩ := Prod.mk.inj heq
  exact ⟨q, hq, htRel, hcopies⟩

end

end SettledOnly

/-! ## A launcher commits its copy, or drops it (R125, R128) -/

section

variable {n rel : Nat} {p : Posting} {c : Copy} {s : State}

/-- A drop's counter is one of its slot's. -/
theorem copyCounter_bounds (hn : n < 256) (reason : Nat) :
    0x510000 ≤ copyCounter n reason ∧ copyCounter n reason < 0x700000 := by
  unfold copyCounter
  split <;>
    simp only [Reg.REL_CNT_COPY_DOWN, Reg.REL_CNT_COPY_LONG, Reg.REL_CNT_COPY_COLLIDE, Reg.REL_CNT_COPY_LATE_ARM,
      Reg.REL_CNT_COPY_LAUNCH_FULL, Reg.REL_CNT_COPY_SECURE, Reg.REL_CNT_COPY_DIAL, Reg.REL_CNT_COPY_ABORTED] <;>
    omega

/-- A copy that is dropped counts under its reason, and nothing leaves the device for it. -/
theorem State.endCopy_drops (hn : n < 256) (hown : s.isIdle n = false) (hp : s.posting rel = some p) (reason : Nat) :
    counts (copyCounter n reason) 1 s (s.endCopy rel n reason) ∧ (s.endCopy rel n reason).out = s.out := by
  have hdrop : s.endCopy rel n reason = ((s.modRel rel fun q => q.setCopy n (.dropped (p.droppedAs n reason))).noteDrop
      p n reason).settleRelease rel := by
    rw [State.endCopy, State.dropCopy, hp]
  rw [hdrop]
  generalize hu : (s.modRel rel fun q => q.setCopy n (.dropped (p.droppedAs n reason))) = u
  have hreg (k : Nat) : u.reg k = s.reg k := by rw [← hu]; rfl
  have hout : u.out = s.out := by rw [← hu]; rfl
  have hownU : u.isIdle n = false := by rw [← hown, ← hu]; rfl
  have hsettled : SettledOnly (u.count (copyCounter n reason)) ((u.noteDrop p n reason).settleRelease rel) := by
    rw [State.noteDrop, State.countSlot_of_own hownU]
    exact ((SettledOnly.refl _).audit _).settleRelease rel
  refine ⟨counts_one_iff.2 ?_, hsettled.out.trans hout⟩
  rw [hsettled.slotReg (.inr (copyCounter_bounds hn reason)), State.reg_count_self, hreg]

/-- The copy committed, and its frame on the wire. -/
def State.launch (s : State) (n rel : Nat) (p : Posting) : State :=
  let t := (s.modRel rel fun q => q.setCopy n .committed).wireFrame n p.frame
  t.2.emit (.copy n rel t.1)

theorem State.launch_kept (n rel : Nat) (p : Posting) (s : State) :
    SecuredOnly (s.modRel rel fun q => q.setCopy n .committed) (s.launch n rel p) :=
  ((SecuredOnly.refl _).wireFrame n p.frame).emit _

section

variable (harmed : s.armedCopy n rel = some (p, c)) (hdial : s.dialStopped = false)
  (hdue : copyAt p c ≤ fine s.dial + s.copyCal p c)
include harmed hdial hdue

/-- A launcher whose copy is due drops it where its port is down or cannot protect it, and commits it elsewhere. -/
theorem launcherCommit_due : launcherCommit n rel s =
    if !s.isUp n then s.endCopy rel n 1
    else if s.notSecure n p.frame then s.endCopy rel n 6
    else (s.launch n rel p).auditRelease rel := by
  have hgo : ¬(s.dialStopped = true ∨ fine s.dial + s.copyCal p c < copyAt p c) := by
    rw [hdial]
    exact not_or.2 ⟨Bool.false_ne_true, Nat.not_lt.2 hdue⟩
  rw [launcherCommit, harmed]
  exact if_neg hgo

theorem launcherCommit_down (hdown : s.isUp n = false) : launcherCommit n rel s = s.endCopy rel n 1 := by
  rw [launcherCommit_due harmed hdial hdue, hdown]
  rfl

theorem launcherCommit_insecure (hup : s.isUp n = true) (hopen : s.notSecure n p.frame = true) :
    launcherCommit n rel s = s.endCopy rel n 6 := by
  rw [launcherCommit_due harmed hdial hdue, hup, hopen]
  rfl

theorem launcherCommit_commits (hup : s.isUp n = true) (hsecure : s.notSecure n p.frame = false) :
    launcherCommit n rel s = (s.launch n rel p).auditRelease rel := by
  rw [launcherCommit_due harmed hdial hdue, hup, hsecure]
  rfl

end

/-- A copy that is launched leaves first, is committed, and keeps its guard in force. -/
theorem State.launch_commits (hn : n < 256) (hp : s.posting rel = some p) (hc : p.copyOn n = some c) :
    let t := (s.launch n rel p).auditRelease rel
    ∃ b q, t.out.head? = some (.copy n rel b) ∧ t.posting rel = some q ∧
      q.copyOn n = some { c with st := .committed } ∧
      (copyAt p c ≤ fine s.dial + 25 * s.guardNow n → t.guarded n = true) := by
  intro t
  have hlaunched := s.launch_kept n rel p
  have hsettled : SettledOnly (s.launch n rel p) t := (SettledOnly.refl _).auditRelease rel
  have hplanned : (s.launch n rel p).posting rel = some (p.setCopy n .committed) := by
    rw [State.posting_congr (by rw [hlaunched.frame])]
    exact State.posting_modRel_self hp fun _ => rfl
  obtain ⟨q, hq, htRel, hcopies⟩ := hsettled.posting hplanned
  have hcopy : q.copyOn n = some { c with st := .committed } := by
    rw [Posting.copyOn, hcopies]
    exact Posting.copyOn_setCopy hc _
  refine ⟨_, q, by rw [hsettled.out]; rfl, hq, hcopy, fun hat => ?_⟩
  have hdial : t.dial = s.dial := by
    rw [hsettled.dial, State.dial, hlaunched.frame]
    rfl
  have hguard : t.guardNow n = s.guardNow n := (hsettled.guardNow hn).trans (hlaunched.guardNow hn)
  refine State.guarded_of_live hq hcopy (.inr rfl) ?_
  rw [hdial, hguard, copyAt, htRel]
  exact hat

/-! ## A copy's last bit leaves (R126, R128, R129) -/

/-- A copy that has left is counted, with its frame and its bytes. -/
def State.countSent (n bytes : Nat) (s : State) : State :=
  ((s.count (Reg.REL_CNT_COPY_SENT n)).count (Reg.PORT_CNT_TX_FRAMES n)).countSlotBy n (Reg.PORT_CNT_TX_BYTES n) bytes

theorem State.countSent_spec (n bytes : Nat) (s : State) : (s.countSent n bytes).postings = s.postings ∧
    counts (Reg.REL_CNT_COPY_SENT n) 1 s (s.countSent n bytes) ∧
    counts (Reg.PORT_CNT_TX_FRAMES n) 1 s (s.countSent n bytes) := by
  obtain ⟨hframes, hsentBytes, hbytes⟩ : Reg.REL_CNT_COPY_SENT n ≠ Reg.PORT_CNT_TX_FRAMES n ∧
      Reg.REL_CNT_COPY_SENT n ≠ Reg.PORT_CNT_TX_BYTES n ∧ Reg.PORT_CNT_TX_FRAMES n ≠ Reg.PORT_CNT_TX_BYTES n := by
    simp only [Reg.REL_CNT_COPY_SENT, Reg.PORT_CNT_TX_FRAMES, Reg.PORT_CNT_TX_BYTES]
    omega
  unfold State.countSent
  generalize hu : (s.count (Reg.REL_CNT_COPY_SENT n)).count (Reg.PORT_CNT_TX_FRAMES n) = u
  have hpostings : (u.countSlotBy n (Reg.PORT_CNT_TX_BYTES n) bytes).postings = u.postings := by
    rw [State.countSlotBy, State.countBy_frame]
    split <;> rfl
  have hreg {k : Nat} (hk : k ≠ Reg.PORT_CNT_TX_BYTES n) :
      (u.countSlotBy n (Reg.PORT_CNT_TX_BYTES n) bytes).reg k = u.reg k := by
    rw [State.countSlotBy]
    split
    · rfl
    · exact State.reg_countBy_ne hk ..
  refine ⟨hpostings.trans (by rw [← hu]; rfl), counts_one_iff.2 ?_, counts_one_iff.2 ?_⟩
  · rw [hreg hsentBytes, ← hu, State.reg_count_ne hframes, State.reg_count_self]
  · rw [hreg hbytes, ← hu, State.reg_count_self, State.reg_count_ne hframes.symm]

/-- On a slot of its own a copy that has left is sent and counted, and its posting settled. -/
theorem State.copySent_eq (hown : s.isIdle n = false) (hp : s.posting rel = some p) (hc : p.copyOn n = some c) :
    ∃ bytes, s.copySent rel n = ((s.modRel rel fun q => q.setCopy n .sent).countSent n bytes).settleRelease rel := by
  generalize hu : (s.modRel rel fun q => q.setCopy n .sent) = u
  have hownU : u.isIdle n = false := by rw [← hown, ← hu]; rfl
  have hownSent : (u.count (Reg.REL_CNT_COPY_SENT n)).isIdle n = false := by
    rw [State.isIdle_count fun m => by simp only [Reg.PORT_MODE, Reg.REL_CNT_COPY_SENT]; omega, hownU]
  simp only [State.copySent, hp, hc, hu]
  rw [State.countSlot_of_own hownU, State.countSlot_of_own hownSent]
  exact ⟨_, rfl⟩

theorem State.copySent_sends (hn : n < 256) (hown : s.isIdle n = false) (hp : s.posting rel = some p)
    (hc : p.copyOn n = some c) :
    counts (Reg.REL_CNT_COPY_SENT n) 1 s (s.copySent rel n) ∧
      counts (Reg.PORT_CNT_TX_FRAMES n) 1 s (s.copySent rel n) ∧
      ∃ q, (s.copySent rel n).posting rel = some q ∧ q.copyOn n = some { c with st := .sent } := by
  obtain ⟨bytes, hsent⟩ := State.copySent_eq hown hp hc
  have hcopied : (s.modRel rel fun q => q.setCopy n .sent).posting rel = some (p.setCopy n .sent) :=
    State.posting_modRel_self hp fun _ => rfl
  rw [hsent]
  obtain ⟨hpostings, hcopies, hframes⟩ := (s.modRel rel fun q => q.setCopy n .sent).countSent_spec n bytes
  generalize (s.modRel rel fun q => q.setCopy n .sent).countSent n bytes = u at hpostings hcopies hframes ⊢
  have hsettled := (SettledOnly.refl u).settleRelease rel
  obtain ⟨q, hq, _, hlives⟩ := hsettled.posting ((State.posting_congr hpostings rel).trans hcopied)
  refine ⟨counts_congr rfl (hsettled.slotReg ?_) hcopies, counts_congr rfl (hsettled.slotReg ?_) hframes, q, hq, ?_⟩
  · simp only [Reg.REL_CNT_COPY_SENT]
    omega
  · simp only [Reg.PORT_CNT_TX_FRAMES]
    omega
  · rw [Posting.copyOn, hlives]
    exact Posting.copyOn_setCopy hc _

theorem copyEnd_past (hp : s.posting rel = some p) (hc : p.copyOn n = some c) (hst : c.st = .committed)
    (hlast : s.copyLast p c ≤ fine s.dial) : copyEnd n rel s = s.copySent rel n := by
  rw [copyEnd, hp]
  dsimp only
  rw [hc]
  exact if_pos ⟨hst, hlast⟩

/-! ## The RELEASE record (R129, R163) -/

/-- A posting whose copies have all committed or been dropped is recorded from T_rel on. -/
theorem State.auditRelease_records (hp : s.posting rel = some p) (hnew : p.audited = false)
    (hdecided : ∀ x ∈ p.copies, x.st ≠ .armed) (hdial : p.tRel ≤ s.dial) :
    ∃ r : AuditRec, r.kind = .release ∧ r.stamp = p.tRel ∧
      256 * r.domain + r.slot = (p.copies.filter Copy.launched).length ∧
      s.auditRelease rel = (s.modRel rel fun q => { q with audited := true }).audit r := by
  have harmed : p.copies.any (fun c => decide (c.st = .armed)) = false := by simpa using hdecided
  have hdue : decide (s.dial < p.tRel) = false := decide_eq_false (BitVec.not_lt.2 hdial)
  have hgo : ¬((p.audited || p.copies.any (fun c => decide (c.st = .armed)) || decide (s.dial < p.tRel)) = true) := by
    rw [hnew, harmed, hdue]
    exact Bool.false_ne_true
  rw [State.auditRelease, hp]
  dsimp only
  rw [if_neg hgo]
  exact ⟨_, rfl, rfl, Nat.div_add_mod _ 256, rfl⟩

theorem State.reg_setFill_ne {k : Nat} (hfill : k ≠ Reg.AUD_FILL) (hpressure : k ≠ Reg.AUD_CNT_PRESSURE)
    (hlog : k ≠ Reg.LOG_CNT_QUEUE_DROP) (n : Nat) (s : State) : (s.setFill n).reg k = s.reg k := by
  unfold State.setFill
  dsimp only
  split
  · rw [State.reg_logEvent _ _ _ _ hlog, State.reg_count_ne hpressure]
    exact (State.reg_setAud ..).trans (State.reg_setReg_ne hfill _ s)
  · exact (State.reg_setAud ..).trans (State.reg_setReg_ne hfill _ s)

/-- A record written takes the next index. -/
theorem State.auditWrite_index (bs : List Byte) (s : State) :
    (s.auditWrite bs).reg Reg.AUD_NEXT_INDEX = s.reg Reg.AUD_NEXT_INDEX + 1 := by
  unfold State.auditWrite
  extract_lets i seg _ marked queued indexed
  rw [State.reg_setFill_ne (by decide) (by decide) (by decide), State.reg_setReg_ne (by decide), State.reg_setReg_self,
    word, BitVec.ofNat_add]
  exact congrArg (· + 1) (BitVec.ofNat_toNat ..)

section

variable (hepoch : s.aud.epoch = none)
include hepoch

theorem State.sealDue_of_none : s.sealDue = s := by simp [State.sealDue, hepoch]

/-- A record that finds no epoch open stands before no other. -/
theorem State.auditJoin_first (hslot : s.auditNoSlot = false) (r : AuditRec) :
    ∃ rs at_, s.auditJoin r = { (s.count Reg.AUD_CNT_RECORDS).auditStand r with
      aud := { ((s.count Reg.AUD_CNT_RECORDS).auditStand r).aud with cycle := rs, cycleAt := at_ } } := by
  have hlater : s.auditLater r = [] := by simp [State.auditLater, hepoch]
  have hunplace (t : State) : t.auditUnplace 0 = t := if_pos rfl
  rw [State.auditJoin, State.sealDue_of_none hepoch, State.auditPlace, hslot, if_neg Bool.false_ne_true]
  dsimp only
  rw [hlater, List.length_nil, hunplace, List.foldl_cons, List.foldl_nil]
  exact ⟨_, _, rfl⟩

/-- It opens one, takes the next index, and is the epoch's only record. -/
theorem State.audit_first (hpower : s.aud.pwrFail = false) (hfull : s.aud.full = false) (hlost : s.aud.lost = 0)
    (hslot : s.auditNoSlot = false) (r : AuditRec) :
    (s.audit r).reg Reg.AUD_NEXT_INDEX = s.reg Reg.AUD_NEXT_INDEX + 1 ∧
      (s.audit r).aud.epoch = some ⟨s.dial, [r.bytes s.auditIndex]⟩ := by
  obtain ⟨rs, at_, hjoin⟩ := State.auditJoin_first hepoch hslot r
  have hindex : (s.count Reg.AUD_CNT_RECORDS).auditIndex = s.auditIndex :=
    congrArg BitVec.toNat (State.reg_count_ne (by decide) s)
  have hopened : (s.auditJoin r).aud.epoch = some ⟨s.dial, [r.bytes s.auditIndex]⟩ := by
    have hnone : (s.count Reg.AUD_CNT_RECORDS).aud.epoch = none := hepoch
    rw [hjoin, State.auditStand]
    dsimp only
    rw [hnone, hindex]
    rfl
  have haudit : s.audit r = s.auditJoin r := by
    have hdue := State.sealDue_of_none hepoch
    have hready : s.auditReady = s := by simp [State.auditReady, hpower, hfull, hdue, State.auditGap, hlost]
    have hroom : ((s.auditJoin r).aud.epoch.any fun e => decide (4096 ≤ e.records.length)) = false := by
      rw [hopened]
      rfl
    rw [State.audit, hpower, if_neg Bool.false_ne_true, hready]
    dsimp only
    rw [hfull, if_neg Bool.false_ne_true, State.auditAppend, hroom, if_neg Bool.false_ne_true]
  rw [haudit]
  refine ⟨?_, hopened⟩
  rw [hjoin, State.reg_setAud, State.auditStand]
  dsimp only
  rw [State.reg_setAud, State.auditWrite_index, State.reg_count_ne (by decide)]

end

/-! ## A posting's completion (R121, R129) -/

/-- A decided posting whose completion has not been written is completed, and is written from then on. -/
theorem releaseCompletion_completes {k : Nat}
    (hfind : s.postings.find? (fun q => decide (q.ring = k) && !q.written) = some p)
    (hdecided : p.status.isSome = true) :
    releaseCompletion k s =
      ((s.modPosting p fun q => { q with written := true }).complete k p.cursor [(40, p.fields)]).prunePostings := by
  have hstatus : ¬p.status.isNone = true := by simpa [Option.isSome_iff_ne_none] using hdecided
  rw [releaseCompletion, hfind]
  exact if_neg hstatus

/-- A posting of the completed entry is written. -/
theorem State.written_of_mem_completed {fields : List (Nat × List Byte)} {cur : BitVec 32} {k : Nat} {q : Posting}
    (hq : q ∈ ((s.modPosting p fun q => { q with written := true }).complete k cur fields).prunePostings.postings)
    (hring : q.ring = p.ring) (hcursor : q.cursor = p.cursor) (hrel : q.rel = p.rel) : q.written = true := by
  have hmem := (List.mem_filter.1 hq).1
  rw [State.complete_frame] at hmem
  obtain ⟨x, _, rfl⟩ := List.mem_map.1 hmem
  split at hring
  · next hx => rw [if_pos hx]
  · next hx =>
    rw [if_neg hx] at hcursor hrel
    exact absurd ⟨hring, hcursor, hrel⟩ hx

end

/-- Settles O20: a guard is guardBegin_of_armed and what preempting keeps, a launch launcherCommit_due, an end
copySent_sends, a record State.audit_first, and a completion releaseCompletion_completes. -/
theorem copiesGuardedLaunchedCompleted : Obligations.CopiesGuardedLaunchedCompleted := by
  unfold Obligations.CopiesGuardedLaunchedCompleted
  intro n rel p c s hn hrel hrun hown
  have hcopy (f : State → State) :=
    within_release (ok := decide (n < 256) && decide (0 < rel)) (by simp [hn, hrel]) hrun f
  refine ⟨fun harmed => ⟨fun hat => ?guard, fun hdial hdue => ⟨fun hup hsecure => ?commits, fun hdown => ?down,
    fun hup hopen => ?insecure⟩⟩, fun hp => ⟨fun hc hst hlast => ?ends,
    fun hnew hdecided hdial hfull hlost hepoch hpower hslot => ?recorded⟩,
    fun k x hk hfind hdecided htaken habandoned hheld => ?completed⟩
  case guard =>
    obtain ⟨hp, hc, hst⟩ := State.armedCopy_spec harmed
    obtain ⟨hpostings, hdial, hguard⟩ := s.preemptWire_kept n
    refine ⟨_, hcopy _, ?_⟩
    rw [guardBegin_of_armed harmed hat]
    refine ⟨State.guarded_of_live ((State.posting_congr hpostings rel).trans hp) hc (.inl hst) (by rwa [hdial, hguard]),
      hpostings, fun f hwire hpre hsent hpoint => ?_⟩
    obtain ⟨left, end_, hcut⟩ := State.preemptWire_cuts hwire hpre hsent hpoint
    have hegr : (s.preemptWire n).egr n = (s.egr n).cut f left end_ := by
      rw [hcut]
      exact State.egr_modEgr_self ..
    rw [hegr, hcut]
    exact ⟨rfl, rfl, counts_count ..⟩
  case commits =>
    obtain ⟨hp, hc, _⟩ := State.armedCopy_spec harmed
    obtain ⟨b, q, hlaunch⟩ := State.launch_commits hn hp hc
    refine ⟨_, b, q, hcopy _, ?_⟩
    rwa [launcherCommit_commits harmed hdial hdue hup hsecure]
  case down =>
    refine ⟨_, hcopy _, ?_⟩
    rw [launcherCommit_down harmed hdial hdue hdown]
    exact State.endCopy_drops hn hown (State.armedCopy_spec harmed).1 1
  case insecure =>
    refine ⟨_, hcopy _, ?_⟩
    rw [launcherCommit_insecure harmed hdial hdue hup hopen]
    exact State.endCopy_drops hn hown (State.armedCopy_spec harmed).1 6
  case ends =>
    refine ⟨_, hcopy _, ?_⟩
    rw [copyEnd_past hp hc hst hlast]
    exact State.copySent_sends hn hown hp hc
  case recorded =>
    obtain ⟨r, hkind, hstamp, hlaunched, haudit⟩ := State.auditRelease_records hp hnew hdecided hdial
    obtain ⟨hindex, hopened⟩ := State.audit_first (s := s.modRel rel fun q => { q with audited := true }) hepoch hpower
      hfull hlost hslot r
    rw [← haudit] at hindex hopened
    exact ⟨_, within_release (decide_eq_true hrel) hrun _, hindex, r, hkind, hstamp, hlaunched, hopened⟩
  case completed =>
    have hring : p.ring = k := by
      have hfound := List.find?_some hfind
      simp only [Bool.and_eq_true, decide_eq_true_eq] at hfound
      exact hfound.1
    have hcursor : x.cursor = p.cursor := by simpa using List.find?_some htaken
    refine ⟨_, within_release (decide_eq_true hk) hrun _, ?_⟩
    rw [releaseCompletion_completes hfind hdecided]
    refine ⟨?_, fun q hq hqring => State.written_of_mem_completed hq (hqring.trans hring.symm)⟩
    rw [oneDone, issues_eq_dmaOpen, ← hcursor]
    exact State.doneCur_complete _ (by rw [hcursor]; exact htaken) habandoned hheld

end Sys2Proof.Machine
end

section
namespace Sys2Proof.Machine

open Sys2Proof.Claims

/-! ## The scheduler of a free wire (R126, R131, R132) -/

theorem State.egr_count (k n : Nat) (s : State) : (s.count k).egr n = s.egr n := rfl

theorem State.egr_emit (o : Out) (n : Nat) (s : State) : (s.emit o).egr n = s.egr n := rfl

section

variable {n q : Nat} {f : QFrame} {rest : List QFrame} {s : State}

theorem State.pick_seventh (h : s.maySend n 7 = true) : (s.pick n).1 = some 7 := by
  simp [State.pick, h]

theorem State.pick_sixth (h7 : s.maySend n 7 = false) (h6 : s.maySend n 6 = true) : (s.pick n).1 = some 6 := by
  simp [State.pick, h7, h6]

/-- On a free wire nothing has left, and while no MACsec frame is stopped none is counted. -/
theorem State.settled_of_free (hwire : (s.egr n).wire = none) (hmask : s.maskStop = false) :
    (s.wireDone n).countMaskHeld n = s := by
  have hdone : s.wireDone n = s := by simp [State.wireDone, hwire]
  rw [hdone]
  simp [State.countMaskHeld, hmask]

/-- The head of the queue picked is taken from it, and the round robin stands where the pick left it. -/
def State.takeTurn (n q : Nat) (rest : List QFrame) (r : Robin) (s : State) : State :=
  let ends := decide (q < 6) && rest.isEmpty
  (s.setQueue n q rest).modEgr n fun e =>
    { e with deficit := if ends then r.1.set q 0 else r.1, turn := if ends then (r.2.1 + 1) % 6 else r.2.1
             inTurn := r.2.2 && !ends }

theorem State.queue_takeTurn (n q : Nat) (rest : List QFrame) (r : Robin) (s : State) :
    (s.takeTurn n q rest r).queue n q = rest := by
  rw [State.takeTurn, State.queue, State.egr_modEgr_self]
  exact State.queue_setQueue_self ..

/-- Counting what a guard holds back leaves the wire, the queues and what has left the device. -/
theorem State.countDeferred_kept (n : Nat) (s : State) : (s.countDeferred n).out = s.out ∧
    ((s.countDeferred n).egr n).wire = (s.egr n).wire ∧ ((s.countDeferred n).egr n).queues = (s.egr n).queues := by
  unfold State.countDeferred
  generalize List.range 8 = qs
  induction qs generalizing s with
  | nil => exact ⟨rfl, rfl, rfl⟩
  | cons q qs ih =>
    rw [List.foldl_cons]
    obtain ⟨hout, hwire, hqueues⟩ := ih (if !s.maySend n q ∨ (s.egr n).deferred.contains q then s
      else (s.modEgr n fun e => { e with deferred := e.deferred ++ [q] }).count (Reg.REL_CNT_GUARD_DEFER n))
    rw [hout, hwire, hqueues]
    split
    · exact ⟨rfl, rfl, rfl⟩
    · rw [State.egr_count, State.egr_modEgr_self]
      exact ⟨rfl, rfl, rfl⟩

section

variable (hup : s.isUp n = true) (hend : (s.egr n).wireEnd ≤ s.clock) (hwire : (s.egr n).wire = none)
  (hmask : s.maskStop = false)
include hup hend hwire hmask

/-- A guard in force lets nothing start. -/
theorem txSchedule_guarded (hguard : s.guarded n = true) :
    txSchedule n s = s ∨ txSchedule n s = s.countDeferred n := by
  unfold txSchedule
  rw [if_neg (by simp [hup]), if_neg (BitVec.not_lt.2 hend), State.settled_of_free hwire hmask]
  dsimp only
  rw [if_pos hguard]
  split
  · exact .inr rfl
  · exact .inl rfl

/-- With no guard in force and the port's shaper permitting, the frame picked starts. -/
theorem txSchedule_starts (hguard : s.guarded n = false) (hresume : (s.egr n).resume = none)
    (hshaper : shaperOn (s.reg (Reg.REL_PORT_SHAPER n)) = false ∨ 0 ≤ (s.egr n).tokens)
    (hpick : (s.pick n).1 = some q) (hqueue : s.queue n q = f :: rest) :
    txSchedule n s = (s.takeTurn n q rest (s.pick n).2).startFrame n f := by
  have hpermits : (!shaperOn (s.reg (Reg.REL_PORT_SHAPER n)) || decide (0 ≤ (s.egr n).tokens)) = true := by
    simpa using hshaper
  obtain ⟨r, hr⟩ : ∃ r, s.pick n = (some q, r) := ⟨(s.pick n).2, Prod.ext hpick rfl⟩
  unfold txSchedule
  rw [if_neg (by simp [hup]), if_neg (BitVec.not_lt.2 hend), State.settled_of_free hwire hmask]
  dsimp only
  rw [hguard, if_neg Bool.false_ne_true, hresume]
  dsimp only
  rw [hpermits, if_neg (by simp), hr]
  dsimp only
  rw [hqueue]
  rfl

end

/-- A frame takes its length from its queue's shaper and the port's, and is held back no more. -/
def State.spendTokens (n : Nat) (f : QFrame) (s : State) : State :=
  let len : Int := (256 * s.shaperLen n f : Nat)
  let port := shaperOn (s.reg (Reg.REL_PORT_SHAPER n))
  s.modEgr n fun e =>
    { e with qTokens := if shaperOn (e.qShaper.getD f.queue 0) then
                          putAt 0 e.qTokens f.queue (e.qTokens.getD f.queue 0 - len)
                        else e.qTokens
             tokens := if port then e.tokens - len else e.tokens
             deferred := e.deferred.filter (· ≠ f.queue), maskHeld := e.maskHeld.filter (· ≠ f.queue) }

theorem State.queues_spendTokens (n : Nat) (f : QFrame) (s : State) :
    ((s.spendTokens n f).egr n).queues = (s.egr n).queues := by
  rw [State.spendTokens, State.egr_modEgr_self]

/-- A frame on the wire, with what of it there is to send, its stamp, and when it has left. -/
def EgressState.sending (f : QFrame) (bytes : Nat) (at_ end_ : Dial) (e : EgressState) : EgressState :=
  { e with wire := some f, wireBytes := bytes, wireAt := at_, wireEnd := end_ }

/-- A frame within MAX_FRAME starts on the wire; it touches no queue. -/
theorem State.startFrame_whole (h : f.size ≤ s.maxFrame n) : ∃ b, (s.startFrame n f).out.head? = some (.frame n b) ∧
    ((s.startFrame n f).egr n).wire = some f ∧ ((s.startFrame n f).egr n).queues = (s.egr n).queues := by
  have hsecured := (SecuredOnly.refl (s.spendTokens n f)).wireFrame n f.bytes
  obtain ⟨bytes, at_, end_, hstart⟩ : ∃ bytes at_ end_, s.startFrame n f =
      (((s.spendTokens n f).wireFrame n f.bytes).2.modEgr n (EgressState.sending f bytes at_ end_)).emit
        (.frame n ((s.spendTokens n f).wireFrame n f.bytes).1) := ⟨_, _, _, if_neg (Nat.not_lt.2 h)⟩
  have hegr : (s.startFrame n f).egr n = ((s.spendTokens n f).egr n).sending f bytes at_ end_ := by
    rw [hstart, State.egr_emit, State.egr_modEgr_self, hsecured.egr]
  rw [hegr, hstart]
  exact ⟨_, rfl, rfl, s.queues_spendTokens n f⟩

/-- A longer one is stomped there, and counted. -/
theorem State.startFrame_long (h : s.maxFrame n < f.size) : (s.startFrame n f).out = .stomped n :: s.out ∧
    ((s.startFrame n f).egr n).wire = some f ∧ ((s.startFrame n f).egr n).stomped = true ∧
    ((s.startFrame n f).egr n).queues = (s.egr n).queues ∧
    counts (Reg.PORT_CNT_TX_STOMPED n) 1 s (s.startFrame n f) := by
  obtain ⟨bytes, at_, end_, hstart⟩ : ∃ bytes at_ end_, s.startFrame n f = (((s.spendTokens n f).modEgr n fun e =>
      { e.sending f bytes at_ end_ with stomped := true }).emit (.stomped n)).count (Reg.PORT_CNT_TX_STOMPED n) :=
    ⟨_, _, _, if_pos h⟩
  have hegr : (s.startFrame n f).egr n =
      { ((s.spendTokens n f).egr n).sending f bytes at_ end_ with stomped := true } := by
    rw [hstart, State.egr_count, State.egr_emit, State.egr_modEgr_self]
  rw [hegr, hstart]
  refine ⟨rfl, rfl, rfl, s.queues_spendTokens n f, counts_one_iff.2 ?_⟩
  rw [State.reg_count_self, State.reg_congr (State.emit_regs ..), State.reg_congr (State.modEgr_regs ..),
    State.spendTokens, State.reg_congr (State.modEgr_regs ..)]

end

/-! ## FRAME_TX (R132, R251) -/

section

variable {c : Nat} {x : Taken} {frame : Option (List Byte)} {s : State}

theorem exec_frameTxPost (hc : c < 65536) (hclock : s.clocked = true) (harr : arrives (s.ring c).owner s = true) :
    exec (.frameTxPost c frame) s = .next (frameTxPost c frame s) := by
  change within (decide (c < 65536)) (whenClocked (onLink (s.ring c).owner (.frameTxPost c frame)
    (frameTxPost c frame)) s) s = _
  rw [decide_eq_true hc, within_true, whenClocked_of hclock, onLink_of_arrives harr]

/-- The frame that an entry of ring c asks to be sent. -/
def txFrame (c : Nat) (x : Taken) (frame : Option (List Byte)) : QFrame :=
  ⟨(frame.getD []).take (leField x.desc 8 2 % 16384), leField x.desc 11 1 % 8,
    some (c, x.cursor, (leField x.desc 11 1).testBit 3), none, none⟩

/-- An entry that is begun is found where it was. -/
theorem State.find_startEntry {c : Nat} {x : Taken} {s : State}
    (h : (s.ring c).taken.find? (fun y => y.cursor == x.cursor) = some x) :
    ((s.startEntry c x.cursor).ring c).taken.find? (fun y => y.cursor == x.cursor) =
      some { x with started := true } := by
  have hcursor (y : Taken) : (if y.cursor = x.cursor then { y with started := true } else y).cursor = y.cursor := by
    split <;> rfl
  have hsame : (s.ring c).taken.find? ((fun y => y.cursor == x.cursor) ∘ fun y =>
      if y.cursor = x.cursor then { y with started := true } else y) = some x := by
    rw [← h]
    exact congrArg (List.find? · (s.ring c).taken) (funext fun y => by rw [Function.comp_apply, hcursor])
  rw [State.startEntry, State.ring_modRing_self, List.find?_map, hsame, Option.map_some, if_pos rfl]

variable (hat : atHead c x s = true) (htype : (s.ring c).type = 9)
include hat

/-- An entry that has been begun completes. -/
theorem oneDone_txDone (frame : Option (List Byte)) (status : Nat) :
    oneDone c s ((s.startEntry c x.cursor).txDone (txFrame c x frame) status 0) ∧
      ((s.startEntry c x.cursor).txDone (txFrame c x frame) status 0).egress = s.egress := by
  obtain ⟨_, hfind, habandoned, hheld⟩ := atHead_iff.1 hat
  constructor
  · rw [oneDone, issues_eq_dmaOpen]
    have hbegun := State.find_startEntry hfind
    refine (State.doneCur_complete (x := { x with started := true }) _ hbegun habandoned hheld).trans ?_
    rw [State.startEntry, State.ring_modRing_self]
    rfl
  · show (State.complete ..).egress = _
    rw [State.complete_frame]
    rfl

include htype

/-- The entry at the head of a FRAME_TX ring: completed for its length, its slot or its owner, or for a frame that could
not be read, or its frame queued. -/
theorem frameTxPost_eq : frameTxPost c frame s =
    if leField x.desc 8 2 % 16384 < 60 ∨ 9212 < leField x.desc 8 2 % 16384 then
      (s.startEntry c x.cursor).txDone (txFrame c x frame) 3 0
    else if s.isIdle (leField x.desc 10 1) ∨ (!x.granted ∧ !s.ownsSlot (s.ring c).owner (leField x.desc 10 1)) then
      (s.startEntry c x.cursor).txDone (txFrame c x frame) 5 0
    else if frame.isNone then (s.startEntry c x.cursor).txDone (txFrame c x frame) 4 0
    else (s.startEntry c x.cursor).enqueue (leField x.desc 10 1) (txFrame c x frame) := by
  obtain ⟨hhead, _⟩ := atHead_iff.1 hat
  unfold frameTxPost
  dsimp only
  rw [hhead]
  dsimp only
  rw [if_neg (not_not_intro htype)]
  rfl

theorem frameTxPost_refused (hbad : leField x.desc 8 2 % 16384 < 60 ∨ 9212 < leField x.desc 8 2 % 16384 ∨
      s.isIdle (leField x.desc 10 1) = true ∨
        (x.granted = false ∧ s.ownsSlot (s.ring c).owner (leField x.desc 10 1) = false) ∨ frame = none) :
    oneDone c s (frameTxPost c frame s) ∧ (frameTxPost c frame s).egress = s.egress := by
  rw [frameTxPost_eq hat htype]
  split
  · exact oneDone_txDone hat frame 3
  · next hlen =>
    split
    · exact oneDone_txDone hat frame 5
    · next hslot =>
      have hnone : frame = none := by
        rcases hbad with h | h | h | h | h
        · exact absurd (.inl h) hlen
        · exact absurd (.inr h) hlen
        · exact absurd (.inl h) hslot
        · exact absurd (.inr (by simpa using h)) hslot
        · exact h
      rw [hnone]
      exact oneDone_txDone hat none 4

end

/-- A frame for which its port, its queue and the forwarding buffer have room joins its queue. -/
theorem State.enqueue_joins {n : Nat} {f : QFrame} {s : State} (hown : s.isIdle n = false) (hup : s.isUp n = true)
    (hroom : ((s.queue n f.queue).map QFrame.size).sum + f.size ≤ bits (s.reg (Reg.REL_Q_CFG n f.queue)) 55 32)
    (hfits : bufferFits (f :: s.waitingFrames) = true) :
    s.enqueue n f = s.setQueue n f.queue (s.queue n f.queue ++ [f]) := by
  unfold State.enqueue
  dsimp only
  rw [hown, if_neg Bool.false_ne_true, hup, hfits, if_neg (by simp), if_neg (by simpa using hroom)]

/-! ## The shapers (R134, R135) -/

/-- What a refill does to a port follows from its shapers and its buckets. -/
theorem State.egr_refill_congr {n : Nat} {s t : State} (hregs : t.regs = s.regs) (hegr : t.egr n = s.egr n) :
    (t.refill n).egr n = (s.refill n).egr n := by
  have hreg (k : Nat) : t.reg k = s.reg k := State.reg_congr hregs k
  simp only [State.refill, State.egr_modEgr_self, hreg, hegr]

/-- The ports below m refilled: each once, and nothing else changes. -/
theorem State.refill_below (m : Nat) (s : State) :
    let t := (List.range m).foldl (fun s n => s.refill n) s
    t = { s with egress := t.egress } ∧ ∀ n, t.egr n = if n < m then (s.refill n).egr n else s.egr n := by
  induction m with
  | zero => exact ⟨rfl, fun _ => rfl⟩
  | succ m ih =>
    obtain ⟨hframe, hegr⟩ := ih
    rw [List.range_succ, List.foldl_append]
    generalize (List.range m).foldl (fun s n => s.refill n) s = u at hframe hegr
    refine ⟨?_, fun n => ?_⟩
    · show u.refill m = { s with egress := (u.refill m).egress }
      rw [State.refill, State.modEgr, hframe]
    · show (u.refill m).egr n = _
      by_cases hn : n = m
      · rw [hn, if_pos (Nat.lt_succ_self m)]
        refine State.egr_refill_congr (by rw [hframe]) ?_
        rw [hegr, if_neg (Nat.lt_irrefl m)]
      · rw [State.refill, State.egr_modEgr_ne hn, hegr]
        exact if_congr (by omega) rfl rfl

/-- What a masked write makes of a register (R7, R8). -/
def State.masked (s : State) (k : Nat) (v : Word) : Word := (s.reg k &&& ~~~(writableBits k)) ||| (v &&& writableBits k)

section

variable {n : Nat} {v : Word} {s : State}

theorem relPortShaperWrite_same
    (h : bits (s.reg (Reg.REL_PORT_SHAPER n)) 55 0 = bits (s.masked (Reg.REL_PORT_SHAPER n) v) 55 0 ∧
      shaperOn (s.reg (Reg.REL_PORT_SHAPER n)) = shaperOn (s.masked (Reg.REL_PORT_SHAPER n) v)) :
    relPortShaperWrite n v s = s.storeMasked (Reg.REL_PORT_SHAPER n) v := by
  unfold relPortShaperWrite
  dsimp only
  rw [State.reg_storeMasked_self]
  exact if_pos h

/-- A shaper that changes starts anew. -/
theorem relPortShaperWrite_resets
    (h : ¬(bits (s.reg (Reg.REL_PORT_SHAPER n)) 55 0 = bits (s.masked (Reg.REL_PORT_SHAPER n) v) 55 0 ∧
      shaperOn (s.reg (Reg.REL_PORT_SHAPER n)) = shaperOn (s.masked (Reg.REL_PORT_SHAPER n) v))) :
    relPortShaperWrite n v s = ((s.storeMasked (Reg.REL_PORT_SHAPER n) v).modEgr n fun e => { e with
      tokens := if bit (s.masked (Reg.REL_PORT_SHAPER n) v) 56 then shaperDepth (s.masked (Reg.REL_PORT_SHAPER n) v)
        else 0 }).count (Reg.REL_CNT_SHAPER_RESET n) := by
  unfold relPortShaperWrite
  dsimp only
  rw [State.reg_storeMasked_self]
  exact if_neg h

theorem reg_relPortShaperWrite : (relPortShaperWrite n v s).reg (Reg.REL_PORT_SHAPER n) =
    s.masked (Reg.REL_PORT_SHAPER n) v := by
  by_cases h : bits (s.reg (Reg.REL_PORT_SHAPER n)) 55 0 = bits (s.masked (Reg.REL_PORT_SHAPER n) v) 55 0 ∧
      shaperOn (s.reg (Reg.REL_PORT_SHAPER n)) = shaperOn (s.masked (Reg.REL_PORT_SHAPER n) v)
  · rw [relPortShaperWrite_same h]
    exact State.reg_storeMasked_self ..
  · rw [relPortShaperWrite_resets h,
      State.reg_count_ne (by simp only [Reg.REL_PORT_SHAPER, Reg.REL_CNT_SHAPER_RESET]; omega),
      State.reg_congr (State.modEgr_regs ..)]
    exact State.reg_storeMasked_self ..

/-- A half staged for another register leaves what a write makes of this one. -/
theorem State.masked_discarded {k : Nat} (hk : k ≠ Reg.GEN_CNT_SPLIT_DISCARD) (who : Party) (v : Word) (s : State) :
    (discarded who k s).reg k = s.reg k ∧ (discarded who k s).masked k v = s.masked k v := by
  have hreg : (discarded who k s).reg k = s.reg k := State.reg_unstage_ne _ _ s hk
  exact ⟨hreg, by rw [State.masked, hreg, State.masked]⟩

/-- A register write that names a slot of its own acts once a half staged for the register has been discarded. -/
theorem within_slotWrite {who : Party} {ok : Bool} (hok : ok = who.wf) (hacc : accepted who s = true)
    (hrun : running 3 s = true) (hown : s.isIdle n = false) (k : Nat) (f : State → State) :
    within ok (pfWrite who false false (whole who k (unlessStopped 3 (onSlot n f))) s) s =
      .next (f (discarded who k s)) := by
  rw [hok, within_pfWrite_whole hacc hrun, onSlot_of_own]
  rwa [discarded, State.isIdle_unstage]

end

/-- Settles O21: what a free wire does is txSchedule_guarded and txSchedule_starts, an entry frameTxPost_eq, a refill
State.refill_below, and a shaper's write relPortShaperWrite_same and relPortShaperWrite_resets. -/
theorem framesQueuedScheduledShaped : Obligations.FramesQueuedScheduledShaped := by
  unfold Obligations.FramesQueuedScheduledShaped
  refine ⟨fun n s hn hrun hup hend hwire hmask => ⟨State.pick_seventh, State.pick_sixth, fun hguard => ?guarded,
    fun hguard hresume hshaper q f rest hpick hqueue => ⟨fun hfits => ?whole, fun hlong => ?long⟩⟩,
    fun c x f s hc hclock hat htype harr => ⟨fun hmin hmax hown hshare hup hroom hfits => ?queued, fun hbad => ?refused,
      ?unread⟩,
    fun who n q v s hn hq => ⟨fun hrun => ?refill, fun hacc hrun hown => ⟨?portShaper, ?queueShaper⟩⟩⟩
  case guarded =>
    refine ⟨_, within_release (decide_eq_true hn) hrun _, ?_⟩
    obtain ⟨hout, hkept, hqueues⟩ := s.countDeferred_kept n
    obtain h | h := txSchedule_guarded hup hend hwire hmask hguard
    · rw [h]
      exact ⟨rfl, hwire, rfl⟩
    · rw [h]
      exact ⟨hout, hkept.trans hwire, hqueues⟩
  case whole =>
    obtain ⟨b, hout, hsent, hqueues⟩ := State.startFrame_whole (s := s.takeTurn n q rest (s.pick n).2) hfits
    refine ⟨_, b, within_release (decide_eq_true hn) hrun _, ?_⟩
    rw [txSchedule_starts hup hend hwire hmask hguard hresume hshaper hpick hqueue]
    refine ⟨?_, hsent, hout⟩
    rw [State.queue, hqueues]
    exact State.queue_takeTurn ..
  case long =>
    obtain ⟨hout, hsent, hstomped, hqueues, hcounts⟩ :=
      State.startFrame_long (s := s.takeTurn n q rest (s.pick n).2) hlong
    refine ⟨_, within_release (decide_eq_true hn) hrun _, ?_⟩
    rw [txSchedule_starts hup hend hwire hmask hguard hresume hshaper hpick hqueue]
    refine ⟨?_, hsent, hstomped, hout, hcounts⟩
    rw [State.queue, hqueues]
    exact State.queue_takeTurn ..
  case queued =>
    refine ⟨_, exec_frameTxPost hc hclock harr, ?_⟩
    rw [frameTxPost_eq hat htype, if_neg (by omega), if_neg (by simp [hown, hshare]), if_neg (by simp),
      State.enqueue_joins (s := s.startEntry c x.cursor) (f := txFrame c x (some f)) hown hup hroom hfits]
    exact ⟨State.queue_setQueue_self .., rfl, rfl⟩
  case refused =>
    refine ⟨_, exec_frameTxPost hc hclock harr, frameTxPost_refused hat htype ?_⟩
    tauto
  case unread =>
    exact ⟨_, exec_frameTxPost hc hclock harr, frameTxPost_refused hat htype (by simp)⟩
  case refill =>
    obtain ⟨hframe, hegr⟩ := s.refill_below 256
    refine ⟨_, within_release rfl hrun _, hframe, ?_⟩
    rw [shaperRefill, hegr, if_pos hn, State.refill, State.egr_modEgr_self]
    exact ⟨rfl, rfl⟩
  case portShaper =>
    intro k new
    have hk : k ≠ Reg.GEN_CNT_SPLIT_DISCARD := by
      simp only [k, Reg.REL_PORT_SHAPER, Reg.GEN_CNT_SPLIT_DISCARD]
      omega
    obtain ⟨hreg, hmasked⟩ := s.masked_discarded hk who v
    refine ⟨_, within_slotWrite (ok := who.wf && decide (n < 256)) (by simp [hn]) hacc hrun hown _ _,
      reg_relPortShaperWrite.trans hmasked, fun hsame => ?_, fun hnew => ?_⟩
    · rw [relPortShaperWrite_same (by rw [hreg, hmasked]; exact hsame)]
      exact onlyRegs_setReg ..
    · rw [relPortShaperWrite_resets (by rw [hreg, hmasked]; exact hnew), hmasked]
      refine ⟨by rw [State.egr_count, State.egr_modEgr_self]; rfl, counts_one_iff.2 ?_⟩
      have hne : Reg.REL_CNT_SHAPER_RESET n ≠ Reg.GEN_CNT_SPLIT_DISCARD ∧ Reg.REL_CNT_SHAPER_RESET n ≠ k := by
        simp only [k, Reg.REL_PORT_SHAPER, Reg.REL_CNT_SHAPER_RESET, Reg.GEN_CNT_SPLIT_DISCARD]
        omega
      rw [State.reg_count_self, State.reg_congr (State.modEgr_regs ..), State.reg_storeMasked_ne hne.2, discarded,
        State.reg_unstage_ne _ _ s hne.1]
  case queueShaper =>
    intro k
    have hk : k ≠ Reg.GEN_CNT_SPLIT_DISCARD := by
      simp only [k, Reg.REL_Q_SHAPER, Reg.GEN_CNT_SPLIT_DISCARD]
      omega
    have hexec := within_slotWrite (ok := who.wf && decide (n < 256) && decide (q < 8)) (by simp [hn, hq]) hacc hrun
      hown
    refine ⟨_, hexec _ _, onlyRegs_setReg .., ?_⟩
    exact (State.reg_storeMasked_self ..).trans (s.masked_discarded hk who v).2

end Sys2Proof.Machine
end

section
namespace Sys2Proof.Machine

open Sys2Proof.Claims

/-! ## What leaves the device while an operation completes (R233, R237, R252) -/

section

variable (c : Nat) (s : State)

/-- What a function sends joins the output, or leaves it as it is. -/
theorem State.out_dma (fn : Party) (cls ring : Nat) (cur : Option (BitVec 32)) (o : Out) :
    s.out <:+ (s.dma fn cls ring cur o).out := by
  unfold State.dma
  split
  · exact List.suffix_cons _ _
  · split <;> exact List.suffix_rfl

theorem State.out_msixFor (fn : Party) (cls ring v : Nat) : s.out <:+ (s.msixFor fn cls ring v).out := by
  unfold State.msixFor
  split
  · exact (s.modFn fn _).out_dma ..
  · split <;> exact List.suffix_rfl

theorem State.out_ringIrq : s.out <:+ (s.ringIrq c).out := by
  unfold State.ringIrq
  dsimp only
  split
  · exact List.suffix_rfl
  · split
    · exact State.out_msixFor (s.modRing c _) ..
    · exact List.suffix_rfl

theorem State.out_writeBack (x : Taken) (fields : List (Nat × List Byte)) :
    s.out <:+ (s.writeBack c x fields).out := by
  have hfields (a : Nat) (u : State) :
      u.out <:+ (fields.foldl (fun u (o, bs) => u.ringWrite c (a + o) bs false) u).out := by
    induction fields generalizing u with
    | nil => exact List.suffix_rfl
    | cons e es ih => exact (u.out_dma ..).trans (ih _)
  exact (hfields _ s).trans (State.out_dma ..)

theorem State.out_entryDone (cur : BitVec 32) : s.out <:+ (s.entryDone c cur).out := by
  unfold State.entryDone
  dsimp only
  rw [State.drainCheck_frame]
  exact State.out_ringIrq c (s.modRing c _)

theorem State.out_complete (cur : BitVec 32) (fields : List (Nat × List Byte)) :
    s.out <:+ (s.complete c cur fields).out := by
  unfold State.complete
  dsimp only
  split
  · exact List.suffix_rfl
  · next x _ =>
    have hback := s.out_writeBack c x fields
    repeat' split
    · exact List.suffix_rfl
    · exact List.suffix_rfl
    · exact hback.trans (State.out_entryDone ..)
    · exact hback

/-- Completing an operation takes back nothing that has left the device. -/
theorem State.out_updDone (x : Taken) (status : Nat) : s.out <:+ (s.updDone c x status).out := by
  unfold State.updDone
  extract_lets counted
  have hcounted : counted.out = s.out := by
    unfold counted
    split <;> rfl
  refine hcounted ▸ List.IsSuffix.trans ?_ (State.out_complete ..)
  rw [State.endTally, State.ledgerWord_frame]

/-- A function that sends something may send as before. -/
theorem State.dmaOpen_dma (fn : Party) (cls ring : Nat) (cur : Option (BitVec 32)) (o : Out) :
    (s.dma fn cls ring cur o).dmaOpen fn = s.dmaOpen fn := by
  unfold State.dma
  repeat' split
  · rfl
  · rfl
  · cases hp : fn.pfIndex with
    | none => simp [State.dmaOpen, hp]
    | some p => simp [State.dmaOpen, State.dmaLost, hp, State.fn, HostLink.carries]

end

/-! ## The commands of a table-update ring (R150, R154, R406) -/

/-- The six commands by the OP they act on (R150). -/
def tableCommands (c : Nat) (b : Option (List Byte)) : List Instr :=
  [.tableRead c b, .tableLock c, .tableWrite c b, .tableUnlock c, .tableInsert c b, .tableDelete c b]

section

variable {c op : Nat} {x : Taken} {s : State}

/-- Each command acts through onTable, under its own OP. -/
theorem exec_tableCommand {b : Option (List Byte)} {i : Instr} (hc : c < 65536) (hclock : s.clocked = true)
    (harr : arrives (s.ring c).owner s = true) (hi : (tableCommands c b)[op]? = some i) :
    ∃ f, exec i s = .next (onTable c op f s) := by
  have hown (f : State → State) : within (decide (c < 65536)) (whenClocked f s) s = .next (f s) :=
    within_clocked (decide_eq_true hc) hclock f
  have hlink (i : Instr) (f : State → State) :
      within (decide (c < 65536)) (whenClocked (onLink (s.ring c).owner i f) s) s = .next (f s) := by
    rw [hown, onLink_of_arrives harr]
  match op, hi with
  | 0, rfl => exact ⟨_, hlink _ _⟩
  | 1, rfl => exact ⟨_, hown _⟩
  | 2, rfl => exact ⟨_, hlink _ _⟩
  | 3, rfl => exact ⟨_, hown _⟩
  | 4, rfl => exact ⟨_, hlink _ _⟩
  | 5, rfl => exact ⟨_, hlink _ _⟩

section

variable (hat : atHead c x s = true) (htype : (s.ring c).type = 4) (hheld : s.updHeld c = false)
include hat htype hheld

theorem onTable_not_allowed (h : opAllowed (updTable x.desc) (updOp x.desc) = false) (f : Taken → State → State) :
    onTable c op f s = s.updDone c x 1 := by
  obtain ⟨hhead, _⟩ := atHead_iff.1 hat
  simp [onTable, hhead, htype, hheld, h]

theorem onTable_outside (hallow : opAllowed (updTable x.desc) (updOp x.desc) = true)
    (h : indexOk (updTable x.desc) (updTarget x.desc) (updIndex x.desc) = false ∨
      s.updShared (s.ring c).owner (updTable x.desc) (updTarget x.desc) (updIndex x.desc) = false)
    (f : Taken → State → State) : onTable c (updOp x.desc) f s = s.updDone c x 2 := by
  obtain ⟨hhead, _⟩ := atHead_iff.1 hat
  obtain h | h := h
  · simp [onTable, hhead, htype, hheld, hallow, h]
  · simp [onTable, hhead, htype, hheld, hallow, h]

end

/-- A command that its link brings no data for is acted on. -/
theorem within_clocked_onTable (h : tableAt c op x s = true) (f : Taken → State → State) :
    within (decide (c < 65536)) (whenClocked (onTable c op f) s) s = .next (f x s) := by
  obtain ⟨hc, hclock, _⟩ := tableAt_iff.1 h
  rw [within_clocked (decide_eq_true hc) hclock, onTable_of_tableAt h]

/-- A refused operation counts under its STATUS. -/
theorem counts_updDone {status : Nat} (h : status ≠ 0) (c : Nat) (x : Taken) (s : State) :
    counts (Reg.TBL_CNT_UPD_REFUSED status) 1 s (s.updDone c x status) := by
  rw [counts_one_iff, State.updDone, if_neg h, State.reg_congr (State.complete_regs ..), State.endTally,
    State.reg_congr (State.ledgerWord_regs ..), State.reg_count_self]

/-! ## Operations that change entries alone -/

theorem State.updDone_tables (c : Nat) (x : Taken) (status : Nat) (s : State) :
    (s.updDone c x status).tables = s.tables := by
  rw [State.updDone_frame]

/-- An operation that changes one entry, and beside it registers alone, completes. -/
theorem updDone_modEntry {k : Nat} {f : Entry → Entry} {u : State} (hhead : atHead c x s = true)
    (hu : u = { s.modEntry k f with regs := u.regs }) :
    tableEnds c 0 x s (u.updDone c x 0) ∧ (u.updDone c x 0).entry k = f (s.entry k) ∧
      ∀ j, j ≠ k → (u.updDone c x 0).entry j = s.entry j := by
  have hentry (j : Nat) : (u.updDone c x 0).entry j = (s.modEntry k f).entry j :=
    State.entry_congr ((State.updDone_tables ..).trans (by rw [hu])) j
  refine ⟨?_, (hentry k).trans (State.entry_modEntry_self ..),
    fun j hj => (hentry j).trans (State.entry_modEntry_ne hj ..)⟩
  rw [hu]
  exact tableEnds_updDone 0 hhead rfl rfl rfl rfl rfl

/-- Steps that change registers alone do so together. -/
theorem State.foldl_regs_frame {α : Type} {f : State → α → State}
    (hf : ∀ s x, f s x = { s with regs := (f s x).regs }) (xs : List α) (s : State) :
    xs.foldl f s = { s with regs := (xs.foldl f s).regs } := by
  induction xs generalizing s with
  | nil => rfl
  | cons x xs ih => rw [List.foldl_cons, ih, hf]

theorem State.noteSide_frame (k : Nat) (s : State) : s.noteSide k = { s with regs := (s.noteSide k).regs } :=
  State.foldl_regs_frame (fun _ _ => rfl) _ _

theorem State.countLate_frame (k : Nat) (s : State) : s.countLate k = { s with regs := (s.countLate k).regs } :=
  State.foldl_regs_frame (fun _ _ => rfl) _ _

/-- The data that an entry at the head of its ring was brought is acted on. -/
theorem Taken.data_of_atHead {α : Type} (hhead : atHead c x s = true) (d : Option α) : x.data d = d := by
  obtain ⟨_, _, habandoned, _⟩ := atHead_iff.1 hhead
  simp [Taken.data, habandoned]

/-! ## READ (R143, R150) -/

/-- An entry's completion speaks of the ring's function, its DONE_CUR, the ledger and TIME before it. -/
theorem tableEnds_congr {status : Nat} {u t : State} (hring : u.ring c = s.ring c)
    (hissues : issues (s.ring c).owner u = issues (s.ring c).owner s) (hledger : u.ledger = s.ledger)
    (htime : u.time = s.time) (h : tableEnds c status x u t) : tableEnds c status x s t := by
  obtain ⟨hdone, hend⟩ := h
  have hdial : u.dialNs = s.dialNs := by simp only [State.dialNs, State.dial, htime]
  refine ⟨?_, hend.trans ?_⟩
  · rw [oneDone, hring, hissues] at hdone
    exact hdone
  · rw [hdial]
    exact State.ledgerWord_ledger_congr hledger _ _

/-- The image of an entry goes to the owner's buffer, where it may send, and the READ completes. -/
theorem tableRead_ends (h : tableAt c 0 x s = true) (htable : updTable x.desc < 6) (d : Option (List Byte)) :
    let t := tableRead c d x s
    tableEnds c 0 x s t ∧ t.tables = s.tables ∧
      (issues (s.ring c).owner s = true → .dmaWrite (s.ring c).owner (leField x.desc 0 8)
        (((s.entry (updKey x.desc)).asOf s.dial).readImage (updTable x.desc)) false ∈ t.out) := by
  intro t
  obtain ⟨_, _, hhead, _⟩ := tableAt_iff.1 h
  obtain ⟨_, _, habandoned, _⟩ := atHead_iff.1 hhead
  generalize hb : ((s.entry (updKey x.desc)).asOf s.dial).readImage (updTable x.desc) = b
  generalize ho : Out.dmaWrite (s.ring c).owner (leField x.desc 0 8) b false = o
  generalize hu : s.dma (s.ring c).owner (s.ring c).urgency c none o = u
  have ht : t = u.updDone c x 0 := by
    rw [← hu, ← ho, ← hb]
    unfold t tableRead
    simp only [if_pos htable]
    rw [State.writeImage, State.entryWrite, habandoned, if_neg Bool.false_ne_true]
    rfl
  have hframe : u = { s with links := u.links, out := u.out } := by
    rw [← hu]
    exact State.dma_frame ..
  have hring : u.ring c = s.ring c := by rw [hframe]; rfl
  have hheadU : atHead c x u = true := by rw [atHead, hring]; exact hhead
  rw [ht]
  refine ⟨tableEnds_congr hring ?_ (by rw [hframe]) (by rw [hframe]) (tableEnds_updDone 0 hheadU rfl rfl rfl rfl rfl),
    (State.updDone_tables ..).trans (by rw [hframe]), fun hopen => (State.out_updDone c u x 0).subset ?_⟩
  · rw [issues_eq_dmaOpen, issues_eq_dmaOpen, ← hu, State.dmaOpen_dma]
  · rw [issues_eq_dmaOpen] at hopen
    rw [← hu, State.dma_open hopen]
    exact List.mem_cons_self

/-! ## LOCK and UNLOCK (R151, R152) -/

/-- An entry that a LOCK has taken: its side counters start anew. -/
def Entry.lockTaken (e : Entry) : Entry := { e with lock := true, side := [], sideHit := false }

/-- An entry that an UNLOCK has merged with its side counters and freed. -/
def Entry.lockMerged (e : Entry) : Entry :=
  { e with counts := addCounts e.counts e.side, hit := e.hit || e.sideHit, lock := false, side := [], sideHit := false }

/-- LOCK and UNLOCK change their entry, and show the side counters then in use. -/
theorem updDone_noteSide (hhead : atHead c x s = true) (k : Nat) (f : Entry → Entry) :
    let t := ((s.modEntry k f).noteSide k).updDone c x 0
    tableEnds c 0 x s t ∧ t.entry k = f (s.entry k) ∧ ∀ j, j ≠ k → t.entry j = s.entry j :=
  updDone_modEntry hhead (State.noteSide_frame k _)

theorem tableLock_ends (h : tableAt c 1 x s = true) (hfree : (s.entry (updKey x.desc)).lock = false) :
    let k := updKey x.desc
    let t := tableLock c x s
    ((∀ p ∈ sidePools k, s.sideUsed p < 256) → tableEnds c 0 x s t ∧ (t.entry k).lock = true ∧
      (t.entry k).img = (s.entry k).img ∧ ∀ j, j ≠ k → t.entry j = s.entry j) ∧
    ((∃ p ∈ sidePools k, 256 ≤ s.sideUsed p) → tableEnds c 4 x s t ∧ t.tables = s.tables) := by
  intro k t
  obtain ⟨_, _, hhead, _⟩ := tableAt_iff.1 h
  have ht : t = if (sidePools k).any (fun p => decide (256 ≤ s.sideUsed p)) = true then s.updDone c x 4
      else ((s.modEntry k Entry.lockTaken).noteSide k).updDone c x 0 := if_neg (by simp [hfree])
  simp only [List.any_eq_true, decide_eq_true_eq] at ht
  constructor
  · intro hroom
    obtain ⟨hends, hself, hothers⟩ := updDone_noteSide hhead k Entry.lockTaken
    rw [ht, if_neg fun ⟨p, hp, hfull⟩ => absurd (hroom p hp) (by omega)]
    exact ⟨hends, by rw [hself, Entry.lockTaken], by rw [hself, Entry.lockTaken], hothers⟩
  · intro hfull
    rw [ht, if_pos hfull]
    exact ⟨tableEnds_updDone 4 hhead rfl rfl rfl rfl rfl, State.updDone_tables ..⟩

theorem tableUnlock_ends (h : tableAt c 3 x s = true) (hlock : (s.entry (updKey x.desc)).lock = true)
    (hold : (s.entry (updKey x.desc)).old = none) :
    let k := updKey x.desc
    let t := tableUnlock c x s
    tableEnds c 0 x s t ∧ (t.entry k).lock = false ∧
      (t.entry k).counts = addCounts (s.entry k).counts (s.entry k).side ∧ (t.entry k).img = (s.entry k).img ∧
      ∀ j, j ≠ k → t.entry j = s.entry j := by
  intro k t
  obtain ⟨_, _, hhead, _⟩ := tableAt_iff.1 h
  have ht : t = ((s.modEntry k Entry.lockMerged).noteSide k).updDone c x 0 := by
    unfold t tableUnlock
    simp only [hlock, hold]
    rfl
  obtain ⟨hends, hself, hothers⟩ := updDone_noteSide hhead k Entry.lockMerged
  rw [ht]
  simp only [hself, Entry.lockMerged]
  exact ⟨hends, trivial, trivial, trivial, hothers⟩

/-! ## WRITE (R83, R143, R152, R153) -/

/-- An entry whose image a WRITE has replaced, with the contents it keeps beside it. -/
def Entry.written (tab : Nat) (x : BitVec 512) (old : Option OldContents) (e : Entry) : Entry :=
  { e with img := storedImage tab x, counts := writtenCounts tab x, parity := 0, reported := 0, old := old }

/-- A WRITE replaces its entry, and changes registers beside it. -/
theorem State.storeImage_eq (k e : Nat) (x : BitVec 512) (s : State) : ∃ old, s.storeImage k e x =
    { s.modEntry k (Entry.written (keyTable k) x old) with regs := (s.storeImage k e x).regs } := by
  unfold State.storeImage
  dsimp only
  split
  · split
    · exact ⟨_, rfl⟩
    · rw [State.countLate_frame]
      exact ⟨_, rfl⟩
  · exact ⟨_, rfl⟩

/-- Only a locked entry passes the checks of a WRITE. -/
theorem lock_of_writeCheck {o : Party} {tab k : Nat} {img : BitVec 512} (h : s.writeCheck o tab k img = 0) :
    (s.entry k).lock = true := by
  by_contra hlock
  simp only [State.writeCheck, Bool.not_eq_true] at h hlock
  simp only [hlock] at h
  split at h <;> simp at h

/-- A WRITE that fails a check is refused with that check's code. -/
theorem State.actWrite_refused {b : List Byte} {st : Nat}
    (hst : s.writeCheck (s.ring c).owner (keyTable (updKey x.desc)) (updKey x.desc) (imageOf b) = st) (h : st ≠ 0) :
    s.actWrite c x b = s.updDone c x st := by
  subst hst
  exact if_pos h

/-- A WRITE that passes its checks stores its image. -/
theorem State.actWrite_passes {b : List Byte}
    (h : s.writeCheck (s.ring c).owner (keyTable (updKey x.desc)) (updKey x.desc) (imageOf b) = 0) :
    s.actWrite c x b = (s.storeImage (updKey x.desc) (updEffective x.desc) (imageOf b)).updDone c x 0 :=
  if_neg (not_not.2 h)

/-- A WRITE to a locked entry that passes its checks completes with the entry replaced. -/
theorem storeImage_ends (hhead : atHead c x s = true) {k : Nat} (hlock : (s.entry k).lock = true) (e : Nat)
    (img : BitVec 512) :
    let t := (s.storeImage k e img).updDone c x 0
    tableEnds c 0 x s t ∧ (t.entry k).img = storedImage (keyTable k) img ∧ (t.entry k).lock = true ∧
      ∀ j, j ≠ k → t.entry j = s.entry j := by
  obtain ⟨old, hstored⟩ := s.storeImage_eq k e img
  obtain ⟨hends, hself, hothers⟩ := updDone_modEntry hhead hstored
  exact ⟨hends, by rw [hself, Entry.written], by rw [hself, Entry.written]; exact hlock, hothers⟩

theorem actWrite_ends (hhead : atHead c x s = true) (b : List Byte) :
    let k := updKey x.desc
    let st := s.writeCheck (s.ring c).owner (keyTable k) k (imageOf b)
    let t := s.actWrite c x b
    tableEnds c st x s t ∧
      (st = 0 → (t.entry k).img = storedImage (keyTable k) (imageOf b) ∧ (t.entry k).lock = true ∧
        ∀ j, j ≠ k → t.entry j = s.entry j) ∧
      (st ≠ 0 → t.tables = s.tables) := by
  intro k st t
  by_cases h : st = 0
  · obtain ⟨hends, hstored⟩ := storeImage_ends hhead (lock_of_writeCheck h) (updEffective x.desc) (imageOf b)
    have ht : t = (s.storeImage k (updEffective x.desc) (imageOf b)).updDone c x 0 := State.actWrite_passes h
    rw [ht, h]
    exact ⟨hends, fun _ => hstored, fun hne => absurd rfl hne⟩
  · have ht : t = s.updDone c x st := State.actWrite_refused rfl h
    rw [ht]
    exact ⟨tableEnds_updDone st hhead rfl rfl rfl rfl rfl, fun h0 => absurd h0 h, fun _ => State.updDone_tables ..⟩

/-- A WRITE whose image was read is acted on, or held while old contents of its entry are kept. -/
theorem tableWrite_of_atHead (hhead : atHead c x s = true) (b : List Byte) : tableWrite c (some b) x s =
    if (s.entry (updKey x.desc)).old.isSome then s.holdUpdate c x false (some b) else s.actWrite c x b := by
  rw [tableWrite, Taken.data_of_atHead hhead]

end

/-- Settles O25: every command refuses what R150 does not allow (onTable_not_allowed) and what lies outside the table or
the share (onTable_outside), and acts by its own lemma otherwise (tableRead_ends, tableLock_ends, actWrite_ends,
tableWrite_of_atHead, tableUnlock_ends). -/
theorem tableEntriesReadAndWritten : Obligations.TableEntriesReadAndWritten := by
  unfold Obligations.TableEntriesReadAndWritten
  constructor
  · intro c x b s hc hclock hat htype hheld harr
    refine ⟨fun hop i hi => ?notAllowed, fun hop hbad i hi => ?outside⟩
    case notAllowed =>
      obtain ⟨op, hi⟩ := List.mem_iff_getElem?.1 hi
      obtain ⟨f, hexec⟩ := exec_tableCommand (b := b) hc hclock harr hi
      obtain ⟨hends, hlpm⟩ := updDone_refused hat 1
      rw [onTable_not_allowed hat htype hheld hop] at hexec
      exact ⟨_, hexec, hends, counts_updDone Nat.one_ne_zero c x s, State.updDone_tables .., hlpm⟩
    case outside =>
      obtain ⟨f, hexec⟩ := exec_tableCommand (b := b) hc hclock harr hi
      obtain ⟨hends, hlpm⟩ := updDone_refused hat 2
      rw [onTable_outside hat htype hheld hop hbad] at hexec
      exact ⟨_, hexec, hends, State.updDone_tables .., hlpm⟩
  · intro c x s k tab
    refine ⟨fun h htable harr => ?read, fun h hfree => ?lock, fun b h harr hold => ?write, fun b h harr hold => ?held,
      fun h hlock hold => ?unlock⟩
    case read => exact ⟨_, within_onTable h harr _ _, tableRead_ends h htable none⟩
    case lock => exact ⟨_, within_clocked_onTable h _, tableLock_ends h hfree⟩
    case write =>
      obtain ⟨_, _, hhead, _⟩ := tableAt_iff.1 h
      have hact : tableWrite c (some b) x s = s.actWrite c x b := by
        rw [tableWrite_of_atHead hhead, hold, Option.isSome_none, if_neg Bool.false_ne_true]
      exact ⟨_, within_onTable h harr _ _, hact ▸ actWrite_ends hhead b⟩
    case held =>
      obtain ⟨_, _, hhead, _⟩ := tableAt_iff.1 h
      refine ⟨_, within_onTable h harr _ _, ?_⟩
      rw [tableWrite_of_atHead hhead, if_pos hold]
      rfl
    case unlock => exact ⟨_, within_clocked_onTable h _, tableUnlock_ends h hlock hold⟩

end Sys2Proof.Machine
end

section
namespace Sys2Proof.Machine

open Sys2Proof.Claims

/-! ## What each operation leaves of the canonical form of the stores

One lemma per state operation that a command runs, in the order of the lemmas on the queue and the Dial copies. To keep
the canonical form is one-sided, since an operation may also mend a store; each lemma is an equivalence all the same,
with the mended case beside the kept one, so that simp peels one operation after another as it does with an equation. -/

theorem sound_iff {s : State} : sound s = true ↔
    memWf s.ledger = true ∧ memWf s.retention = true ∧ Store.wf resetOf s.regs = true := by
  simp [sound, and_assoc]

/-- With u sound, these are a ledger, a retention SRAM and a register file in canonical form. -/
def StoresKept (u : State) (regs : Store Word) (ledger retention : List Host.Cell) : Prop :=
  sound u = true → memWf ledger = true ∧ memWf retention = true ∧ Store.wf resetOf regs = true

/-- StoresKept, for a reason that simp does not look for. -/
def StoresMended (u : State) (regs : Store Word) (ledger retention : List Host.Cell) : Prop :=
  StoresKept u regs ledger retention

/-- If u is sound, so is t. -/
def Kept (u t : State) : Prop := StoresKept u t.regs t.ledger t.retention

/-- Kept, for a reason that simp does not look for. -/
def Mended (u t : State) : Prop := Kept u t

/-- The way from s to t keeps the canonical form: whatever leads to s with it leads to t with it. -/
abbrev Keeps (s t : State) : Prop := ∀ u, Kept u t ↔ Kept u s ∨ Mended u t

theorem kept_iff {u t : State} : Kept u t ↔ (sound u = true → sound t = true) :=
  imp_congr_right fun _ => sound_iff.symm

@[simp] theorem Kept.refl (s : State) : Kept s s := sound_iff.1

theorem Kept.trans {s t u : State} (h : Kept s t) (g : Kept t u) : Kept s u := fun hs => g (kept_iff.1 h hs)

theorem Kept.next {s t u : State} (h : Kept s t) (g : Kept s u ↔ Kept s t ∨ Mended s u) : Kept s u := g.2 (.inl h)

theorem Keeps.of {s t : State} (h : Kept s t) : Keeps s t := fun _ => ⟨.inr, fun g => g.elim (·.trans h) id⟩

/-! ### Updates and combinators -/

@[simp] theorem kept_mk (u : State)
    {pending phase regs copyB copyC latches staged free time ports policers excBuckets arrivals pipes floorOn openWait
    doms postings relNext egress tables lpm heldUpd tbl aud ledger retention lamp links funs rings ctrls spaces pieces
    pieceNext drives rdma vfs gal boot power log pmu life out} :
    Kept u
    ⟨pending, phase, regs, copyB, copyC, latches, staged, free, time, ports, policers, excBuckets, arrivals, pipes,
      floorOn, openWait, doms, postings, relNext, egress, tables, lpm, heldUpd, tbl, aud, ledger, retention, lamp,
      links, funs, rings, ctrls, spaces, pieces, pieceNext, drives, rdma, vfs, gal, boot, power, log, pmu, life, out⟩ ↔
      StoresKept u regs ledger retention := Iff.rfl

section

variable (u s : State) (regs : Store Word) (ledger retention : List Host.Cell)

@[simp] theorem storesKept_of_state : StoresKept u s.regs s.ledger s.retention ↔ Kept u s := Iff.rfl

@[simp] theorem storesKept_put (k : Nat) (v : Word) : StoresKept u (Store.put resetOf k v regs) ledger retention ↔
    StoresKept u regs ledger retention ∨ StoresMended u (Store.put resetOf k v regs) ledger retention := by
  refine ⟨.inr, fun h => h.elim (fun h hu => ?_) id⟩
  obtain ⟨hl, hr, hg⟩ := h hu
  exact ⟨hl, hr, Store.wf_put resetOf k v hg⟩

@[simp] theorem storesKept_filter (keep : Nat × Word → Bool) : StoresKept u (regs.filter keep) ledger retention ↔
    StoresKept u regs ledger retention ∨ StoresMended u (regs.filter keep) ledger retention := by
  refine ⟨.inr, fun h => h.elim (fun h hu => ?_) id⟩
  obtain ⟨hl, hr, hg⟩ := h hu
  exact ⟨hl, hr, Store.wf_filter resetOf keep hg⟩

@[simp] theorem storesKept_memWrite (a : Nat) (bs : List Byte) :
    StoresKept u regs (memWrite a bs ledger) retention ↔
      StoresKept u regs ledger retention ∨ StoresMended u regs (memWrite a bs ledger) retention := by
  refine ⟨.inr, fun h => h.elim (fun h hu => ?_) id⟩
  obtain ⟨hl, hr, hg⟩ := h hu
  exact ⟨memWrite_wf a bs hl, hr, hg⟩

@[simp] theorem storesKept_nil :
    StoresKept u s.regs s.ledger [] ↔ Kept u s ∨ StoresMended u s.regs s.ledger [] := by
  refine ⟨.inr, fun h => h.elim (fun h hu => ?_) id⟩
  obtain ⟨hl, -, hg⟩ := h hu
  exact ⟨hl, memWf_nil, hg⟩

@[simp] theorem kept_ite (p : Prop) [Decidable p] (t : State) :
    Kept u (if p then s else t) ↔ (Kept u s ∧ Kept u t) ∨ Mended u (if p then s else t) := by
  refine ⟨.inr, fun h => h.elim (fun ⟨hs, ht⟩ => ?_) id⟩
  split
  · exact hs
  · exact ht

end

section

variable {α : Type}

@[simp] theorem keeps_foldl {f : State → α → State} (h : ∀ s x, Kept s (f s x)) (xs : List α) (s : State) :
    Keeps s (xs.foldl f s) := .of <| by
  induction xs generalizing s with
  | nil => exact .refl s
  | cons x xs ih => exact (h s x).trans (ih _)

@[simp] theorem keeps_foldr {f : α → State → State} (h : ∀ x s, Kept s (f x s)) (xs : List α) (s : State) :
    Keeps s (xs.foldr f s) := .of <| by
  induction xs with
  | nil => exact .refl s
  | cons x xs ih => exact ih.trans (h x _)

end

section

variable (s u : State)
  (who f o fn : Party)
  (n c k p q i d a rel ring qpn psn core cls cause op w m x status block index lane pipe slot inst number table
    value reason l name dev b e : Nat)
  (v : Word)
  (t : Taken)
  (cmd : NvmeCmd)
  (stamp : Dial)
  (inp : StartInputs)
  (r : AuditRec)
  (image body payload bytes bs : List Byte)

/-! ### Machine/Ops.lean -/

@[simp] theorem State.keeps_setReg : Keeps s (s.setReg k v) := .of <| by unfold State.setReg; simp
@[simp] theorem State.keeps_storeMasked : Keeps s (s.storeMasked k v) := .of <| by unfold State.storeMasked; simp
@[simp] theorem State.keeps_modReg (f : Word → Word) : Keeps s (s.modReg k f) := .of <| by unfold State.modReg; simp
@[simp] theorem State.keeps_setField (hi lo v : Nat) : Keeps s (s.setField k hi lo v) := .of <| by
  unfold State.setField
  simp
@[simp] theorem State.keeps_setRv : Keeps s (s.setRv k v) := .of <| by unfold State.setRv; simp
@[simp] theorem State.keeps_countBy : Keeps s (s.countBy k n) := .of <| by unfold State.countBy; simp
@[simp] theorem State.keeps_count : Keeps s (s.count k) := .of <| by unfold State.count; simp
@[simp] theorem State.keeps_ignored : Keeps s s.ignored := .of <| by unfold State.ignored; simp
@[simp] theorem State.keeps_modPort (f : PortState → PortState) : Keeps s (s.modPort n f) := .of <| by
  unfold State.modPort
  simp
@[simp] theorem State.keeps_modPolicer (f : Policer → Policer) : Keeps s (s.modPolicer n f) := .of <| by
  unfold State.modPolicer
  simp
@[simp] theorem State.keeps_modPipe (f : PipeState → PipeState) : Keeps s (s.modPipe k f) := .of <| by
  unfold State.modPipe
  simp
@[simp] theorem State.keeps_modDom (f : DomState → DomState) : Keeps s (s.modDom d f) := .of <| by
  unfold State.modDom
  simp
@[simp] theorem State.keeps_modEgr (f : EgressState → EgressState) : Keeps s (s.modEgr n f) := .of <| by
  unfold State.modEgr
  simp
@[simp] theorem State.keeps_modLink (f : HostLink → HostLink) : Keeps s (s.modLink p f) := .of <| by
  unfold State.modLink
  simp
@[simp] theorem State.keeps_modRing (f : Ring → Ring) : Keeps s (s.modRing c f) := .of <| by unfold State.modRing; simp
@[simp] theorem State.keeps_modKeySlot (f : KeySlot → KeySlot) : Keeps s (s.modKeySlot i f) := .of <| by
  unfold State.modKeySlot
  simp
@[simp] theorem State.keeps_modVf (v : Nat) (f : VfState → VfState) : Keeps s (s.modVf p v f) := .of <| by
  unfold State.modVf
  simp
@[simp] theorem State.keeps_modQp (f : Qp → Qp) : Keeps s (s.modQp n f) := .of <| by unfold State.modQp; simp
@[simp] theorem State.keeps_modMr (f : Mr → Mr) : Keeps s (s.modMr n f) := .of <| by unfold State.modMr; simp
@[simp] theorem State.keeps_modDrive (f : Drive → Drive) : Keeps s (s.modDrive n f) := .of <| by
  unfold State.modDrive
  simp
@[simp] theorem State.keeps_setSpace (x : Option Namespace) : Keeps s (s.setSpace n x) := .of <| by
  unfold State.setSpace
  simp
@[simp] theorem State.keeps_modFn (g : Function → Function) : Keeps s (s.modFn f g) := .of <| by
  unfold State.modFn
  simp
@[simp] theorem State.keeps_modCtrl (g : Ctrl → Ctrl) : Keeps s (s.modCtrl f g) := .of <| by unfold State.modCtrl; simp
@[simp] theorem State.keeps_passCycle : Keeps s s.passCycle := .of <| by unfold State.passCycle; simp
@[simp] theorem State.keeps_emit (o : Out) : Keeps s (s.emit o) := .of <| by unfold State.emit; simp
@[simp] theorem State.keeps_dma (entry : Option (BitVec 32)) (o : Out) :
    Keeps s (s.dma fn cls ring entry o) := .of <| by unfold State.dma; simp
@[simp] theorem State.keeps_dmaWrite (addr : Nat) (ro : Bool) : Keeps s (s.dmaWrite fn addr bytes ro) := .of <| by
  unfold State.dmaWrite
  simp
@[simp] theorem State.keeps_msixSend (v : Nat) : Keeps s (s.msixSend fn cls ring v) := .of <| by
  unfold State.msixSend
  simp
@[simp] theorem State.keeps_msixFor (v : Nat) : Keeps s (s.msixFor fn cls ring v) := .of <| by
  unfold State.msixFor
  simp
@[simp] theorem State.keeps_msix (v : Nat) : Keeps s (s.msix fn v) := .of <| by unfold State.msix; simp
@[simp] theorem State.keeps_msixSettle : Keeps s (s.msixSettle fn) := .of <| by unfold State.msixSettle; simp
@[simp] theorem State.keeps_logEvent (params : List Nat) : Keeps s (s.logEvent number block params) := .of <| by
  unfold State.logEvent
  simp
@[simp] theorem State.keeps_msixTableWrite : Keeps s (s.msixTableWrite fn i v) := .of <| by
  unfold State.msixTableWrite
  simp
@[simp] theorem State.keeps_noteHalts : Keeps s s.noteHalts := .of <| by unfold State.noteHalts; simp
@[simp] theorem State.keeps_split : Keeps s (s.split k i inst) := .of <| by unfold State.split; simp
@[simp] theorem keeps_voteScrub : Keeps s (voteScrub k s) := .of <| by
  unfold voteScrub
  split <;> simp
@[simp] theorem State.keeps_voteBlock : Keeps s (s.voteBlock i) := .of <| by unfold State.voteBlock; simp
@[simp] theorem kept_unlessStopped (f : State → State) : Kept u (unlessStopped k f s) ↔
    Kept u (if s.stopped k then s else if (s.voteBlock k).stopped k then s.voteBlock k else f (s.voteBlock k)) :=
  Iff.rfl
@[simp] theorem State.keeps_ledgerWord : Keeps s (s.ledgerWord a v) := .of <| by unfold State.ledgerWord; simp
@[simp] theorem State.keeps_ledgerWords (ws : List Word) : Keeps s (s.ledgerWords a ws) := .of <| by
  induction ws generalizing a s with
  | nil => exact .refl s
  | cons v ws ih => exact (Kept.refl s |>.next (State.keeps_ledgerWord ..)).trans (ih _ _)
@[simp] theorem State.keeps_randomBytes : Keeps s (s.randomBytes n).2 := .of <| by unfold State.randomBytes; simp
@[simp] theorem State.keeps_errorSource (error : Nat) (corr masked froze : Bool) (fn : Nat) :
    Keeps s (s.errorSource p error corr masked froze block fn ring) := .of <| by unfold State.errorSource; simp
@[simp] theorem State.keeps_freeze (error : Nat) : Keeps s (s.freeze p error) := .of <| by unfold State.freeze; simp
@[simp] theorem State.keeps_errorMessage : Keeps s (s.errorMessage f cls) := .of <| by unfold State.errorMessage; simp
@[simp] theorem State.keeps_noteError (e : BusError) (masked froze : Bool) :
    Keeps s (s.noteError f p block ring e masked froze) := .of <| by unfold State.noteError; simp
@[simp] theorem State.keeps_logHeader : Keeps s (s.logHeader f p block ring) := .of <| by unfold State.logHeader; simp
@[simp] theorem State.keeps_report (e : BusError) : Keeps s (s.report f block ring e) := .of <| by
  unfold State.report
  split <;> simp
@[simp] theorem kept_whenClocked (f : State → State) :
    Kept u (whenClocked f s) ↔ Kept u (if s.clocked then f s else s) := Iff.rfl
@[simp] theorem State.keeps_unreached : Keeps s (s.unreached who) := .of <| by unfold State.unreached; simp
@[simp] theorem keeps_busWrite (early unfrozen : Bool) {f : State → State} (h : ∀ s, Kept s (f s)) :
    Keeps s (busWrite who early unfrozen f s) := .of <| by
  unfold busWrite
  split
  · simp
  · split <;> simp [Keeps.of (h _)]
@[simp] theorem keeps_pfWrite (early unfrozen : Bool) {f : State → State} (h : ∀ s, Kept s (f s)) :
    Keeps s (pfWrite who early unfrozen f s) := .of <| by
  unfold pfWrite
  split
  · simp
  · simp [h]
@[simp] theorem State.keeps_setLatch (x : Nat × BitVec 32) : Keeps s (s.setLatch k x) := .of <| by
  unfold State.setLatch
  simp
@[simp] theorem State.keeps_unstage (latch : Nat) : Keeps s (s.unstage latch name) := .of <| by
  unfold State.unstage
  simp
@[simp] theorem kept_whole (f : State → State) : Kept u (whole who k f s) ↔
    Kept u (f (s.unstage (slotLatch who (k / 0x100000)) (barName k))) := Iff.rfl
@[simp] theorem kept_wholeVf (f : State → State) : Kept u (wholeVf who n f s) ↔
    Kept u (f (s.unstage (slotLatch who (if n < 0x20 then 0 else 13)) (offsetName n))) := Iff.rfl
@[simp] theorem keeps_wholeAt {f : State → State} (h : ∀ s, Kept s (f s)) : Keeps s (wholeAt who k n f s) := .of <| by
  unfold wholeAt
  split <;> simp [Keeps.of (h _)]

/-! ### Machine/Audit.lean -/

@[simp] theorem State.keeps_setFill : Keeps s (s.setFill n) := .of <| by
  unfold State.setFill
  simp only [kept_ite, State.keeps_logEvent, State.keeps_count, kept_mk, storesKept_of_state, State.keeps_setReg,
    Kept.refl, true_or, and_self]
@[simp] theorem State.keeps_ledgerQueue (ws : List Word) : Keeps s (s.ledgerQueue a ws) := .of <| by
  unfold State.ledgerQueue
  simp
@[simp] theorem State.keeps_ledgerCommit : Keeps s s.ledgerCommit := .of <| by unfold State.ledgerCommit; simp
@[simp] theorem State.keeps_auditWrite : Keeps s (s.auditWrite bs) := .of <| by unfold State.auditWrite; simp
@[simp] theorem State.keeps_auditPut : Keeps s (s.auditPut bs) := .of <| by unfold State.auditPut; simp
@[simp] theorem State.keeps_auditSeal (tail reseal : Bool) : Keeps s (s.auditSeal tail reseal) := .of <| by
  unfold State.auditSeal
  split <;> simp
@[simp] theorem State.keeps_sealDue : Keeps s s.sealDue := .of <| by
  unfold State.sealDue
  split <;> simp
@[simp] theorem State.keeps_auditUnplace : Keeps s (s.auditUnplace n) := .of <| by unfold State.auditUnplace; simp
@[simp] theorem State.keeps_auditStand : Keeps s (s.auditStand r) := .of <| by unfold State.auditStand; simp
@[simp] theorem State.keeps_auditPlace : Keeps s (s.auditPlace r) := .of <| by unfold State.auditPlace; simp
@[simp] theorem State.keeps_auditJoin : Keeps s (s.auditJoin r) := .of <| by unfold State.auditJoin; simp
@[simp] theorem State.keeps_auditAppend : Keeps s (s.auditAppend r) := .of <| by unfold State.auditAppend; simp
@[simp] theorem State.keeps_auditGap : Keeps s s.auditGap := .of <| by unfold State.auditGap; simp
@[simp] theorem State.keeps_auditLose : Keeps s s.auditLose := .of <| by unfold State.auditLose; simp
@[simp] theorem State.keeps_auditReady : Keeps s s.auditReady := .of <| by unfold State.auditReady; simp
@[simp] theorem State.keeps_audit : Keeps s (s.audit r) := .of <| by unfold State.audit; simp
@[simp] theorem State.keeps_auditDial (what : Nat) (before : Dial) (old : Word) (after : Dial) (new : Word) :
    Keeps s (s.auditDial what before old after new) := .of <| by unfold State.auditDial; simp
@[simp] theorem State.keeps_auditDomain (event : Nat) (seq : Word) (digest : Nat) :
    Keeps s (s.auditDomain d event stamp seq digest) := .of <| by unfold State.auditDomain; simp
@[simp] theorem State.keeps_auditStart : Keeps s s.auditStart := .of <| by unfold State.auditStart; simp
@[simp] theorem State.keeps_auditGenesis : Keeps s s.auditGenesis := .of <| by unfold State.auditGenesis; simp

/-! ### Machine/RingOps.lean -/

@[simp] theorem kept_onLink (i : Instr) (f : State → State) : Kept u (onLink o i f s) ↔
    (Kept u s ∧ Kept u (f s)) ∨ Mended u (onLink o i f s) := by
  refine ⟨.inr, fun h => h.elim (fun ⟨hs, hf⟩ => ?_) id⟩
  unfold onLink
  split <;> simp [hs, hf]
@[simp] theorem State.keeps_ringCount (pfKey : Nat → Nat) (vfOff : Nat) :
    Keeps s (s.ringCount o pfKey vfOff n) := .of <| by
  unfold State.ringCount
  split <;> simp
@[simp] theorem State.keeps_newTally (kind opcode : Nat) (covered : List Byte) :
    Keeps s (s.newTally ring o kind opcode covered).2 := .of <| by unfold State.newTally; simp
@[simp] theorem State.keeps_endTally (t : Word) (delay : Nat) : Keeps s (s.endTally t status delay ring) := .of <| by
  unfold State.endTally
  simp
@[simp] theorem State.keeps_ringIrq : Keeps s (s.ringIrq c) := .of <| by unfold State.ringIrq; simp
@[simp] theorem keeps_irqHoldoff : Keeps s (irqHoldoff c s) := .of <| by
  unfold irqHoldoff
  dsimp only
  split <;> simp
@[simp] theorem State.keeps_takeWith (desc : List Byte) (msg : Option (Nat × Numbered)) :
    Keeps s (s.takeWith c desc msg) := .of <| by
  unfold State.takeWith
  dsimp only
  repeat' split
  all_goals simp
@[simp] theorem State.keeps_take (desc : List Byte) : Keeps s (s.take c desc) := .of <| by unfold State.take; simp
@[simp] theorem State.keeps_drainCheck : Keeps s (s.drainCheck c) := .of <| by unfold State.drainCheck; simp
@[simp] theorem State.keeps_ringWrite (addr : Nat) (ro : Bool) : Keeps s (s.ringWrite c addr bytes ro) := .of <| by
  unfold State.ringWrite
  simp
@[simp] theorem State.keeps_writeBack (fields : List (Nat × List Byte)) : Keeps s (s.writeBack c t fields) := .of <| by
  unfold State.writeBack
  simp
@[simp] theorem State.keeps_entryDone (cur : BitVec 32) : Keeps s (s.entryDone c cur) := .of <| by
  unfold State.entryDone
  simp
@[simp] theorem State.keeps_complete (cur : BitVec 32) (fields : List (Nat × List Byte)) :
    Keeps s (s.complete c cur fields) := .of <| by
  unfold State.complete
  dsimp only
  split <;> simp
@[simp] theorem State.keeps_entryWrite (addr : Nat) (ro : Bool) : Keeps s (s.entryWrite c t addr bytes ro) := .of <| by
  unfold State.entryWrite
  simp
@[simp] theorem State.keeps_startEntry (cur : BitVec 32) : Keeps s (s.startEntry c cur) := .of <| by
  unfold State.startEntry
  simp
@[simp] theorem State.keeps_adminDone (result : Nat) : Keeps s (s.adminDone c t status result) := .of <| by
  unfold State.adminDone
  simp
@[simp] theorem keeps_onAdmin {f : Taken → Party → State → State} (h : ∀ x y s, Kept s (f x y s)) :
    Keeps s (onAdmin c op f s) := .of <| by
  unfold onAdmin
  dsimp only
  split <;> simp [Keeps.of (h _ _ _)]
@[simp] theorem State.keeps_hostLost : Keeps s (s.hostLost c) := .of <| by unfold State.hostLost; simp
@[simp] theorem keeps_forAll {α : Type} (xs : List α) {f : α → State → State} (h : ∀ x s, Kept s (f x s)) :
    Keeps s (forAll xs f s) := .of <| by
  unfold forAll
  simp [h]
@[simp] theorem State.keeps_returnMessages (ms : List (Nat × Numbered)) : Keeps s (s.returnMessages ms) := .of <| by
  unfold State.returnMessages
  simp
@[simp] theorem State.keeps_disableRing : Keeps s (s.disableRing c) := .of <| by
  unfold State.disableRing
  dsimp only
  split <;> simp

/-! ### Machine/Time.lean -/

@[simp] theorem State.keeps_setDisc (d : Disc) (byLoss : Bool) : Keeps s (s.setDisc d byLoss) := .of <| by
  unfold State.setDisc
  simp
@[simp] theorem State.keeps_relock : Keeps s s.relock := .of <| by unfold State.relock; simp
@[simp] theorem State.keeps_refSettle : Keeps s s.refSettle := .of <| by unfold State.refSettle; simp
@[simp] theorem State.keeps_storeFreq (v : Nat) : Keeps s (s.storeFreq v) := .of <| by unfold State.storeFreq; simp
@[simp] theorem State.keeps_addPhase (v : Int) : Keeps s (s.addPhase v) := .of <| by unfold State.addPhase; simp
@[simp] theorem keeps_timeAdjFreq : Keeps s (timeAdjFreq who v s) := .of <| by unfold timeAdjFreq; simp
@[simp] theorem keeps_timeAdjPhase : Keeps s (timeAdjPhase who v s) := .of <| by unfold timeAdjPhase; simp
@[simp] theorem keeps_timeCfgWrite : Keeps s (timeCfgWrite v s) := .of <| by
  unfold timeCfgWrite
  dsimp only
  repeat' split
  all_goals simp
@[simp] theorem keeps_timeDiscWrite : Keeps s (timeDiscWrite who v s) := .of <| by unfold timeDiscWrite; simp
@[simp] theorem keeps_stepGo (absolute : Bool) : Keeps s (stepGo absolute s) := .of <| by unfold stepGo; simp
@[simp] theorem keeps_utcApply : Keeps s (utcApply s) := .of <| by unfold utcApply; simp
@[simp] theorem keeps_refLoss : Keeps s (refLoss s) := .of <| by unfold refLoss; simp
@[simp] theorem keeps_refReturn : Keeps s (refReturn s) := .of <| by unfold refReturn; simp
@[simp] theorem State.keeps_ppsMiss : Keeps s s.ppsMiss := .of <| by unfold State.ppsMiss; simp
@[simp] theorem State.keeps_ppsOutlier (e : Int) : Keeps s (s.ppsOutlier e) := .of <| by unfold State.ppsOutlier; simp
@[simp] theorem State.keeps_ppsSteer (e : Int) : Keeps s (s.ppsSteer e) := .of <| by unfold State.ppsSteer; simp
@[simp] theorem keeps_ppsEdge (falling : Bool) (strobe : Dial) (code : Byte) :
    Keeps s (ppsEdge falling strobe code s) := .of <| by unfold ppsEdge; simp
@[simp] theorem keeps_ppsMissing : Keeps s (ppsMissing s) := .of <| by unfold ppsMissing; simp
@[simp] theorem keeps_ppsOutEdge : Keeps s (ppsOutEdge s) := .of <| by unfold ppsOutEdge; simp
@[simp] theorem keeps_recalUpdate (octet : Nat) (target : List Int) : Keeps s (recalUpdate octet target s) := .of <| by
  unfold recalUpdate
  simp
@[simp] theorem keeps_tdcRecal (table : List Byte) : Keeps s (tdcRecal lane table s) := .of <| by unfold tdcRecal; simp
@[simp] theorem State.keeps_latchFrac : Keeps s (s.latchFrac who) := .of <| by unfold State.latchFrac; simp
@[simp] theorem keeps_dialNsRead : Keeps s (dialNsRead who s) := .of <| by
  unfold dialNsRead
  split <;> simp

/-! ### Machine/PortOps.lean -/

@[simp] theorem State.keeps_countSlot : Keeps s (s.countSlot n k) := .of <| by unfold State.countSlot; simp
@[simp] theorem State.keeps_countSlotBy : Keeps s (s.countSlotBy n k m) := .of <| by unfold State.countSlotBy; simp
@[simp] theorem kept_onSlot (f : State → State) : Kept u (onSlot n f s) ↔
    Kept u (if s.isIdle n then s.count Reg.PORT_CNT_IDLE_SLOT_WRITES else f s) := Iff.rfl

/-! ### Machine/SeqOps.lean -/

@[simp] theorem State.keeps_condPoll : Keeps s (s.condPoll d) := .of <| by unfold State.condPoll; simp
@[simp] theorem State.keeps_condPollAll : Keeps s s.condPollAll := .of <| by unfold State.condPollAll; simp
@[simp] theorem State.keeps_domainEvent (event : Nat) (seq : Word) (digest : Nat) :
    Keeps s (s.domainEvent d event stamp seq digest) := .of <| by unfold State.domainEvent; simp
@[simp] theorem State.keeps_haltDomain : Keeps s (s.haltDomain d cause) := .of <| by unfold State.haltDomain; simp
@[simp] theorem State.keeps_deliverInto (n : Numbered) : Keeps s (s.deliverInto c n) := .of <| by
  unfold State.deliverInto
  dsimp only
  split <;> simp
@[simp] theorem State.keeps_deliver (n : Numbered) : Keeps s (s.deliver d n) := .of <| by unfold State.deliver; simp
@[simp] theorem keeps_backlogDelivery (rej : Bool) : Keeps s (backlogDelivery d rej s) := .of <| by
  unfold backlogDelivery
  split <;> simp
@[simp] theorem State.keeps_queueCopy : Keeps s (s.queueCopy k bs) := .of <| by unfold State.queueCopy; simp
@[simp] theorem State.keeps_sendCopies (record : List Byte) : Keeps s (s.sendCopies d record) := .of <| by
  unfold State.sendCopies
  simp
@[simp] theorem State.keeps_mirrorDiffers (n : Word) : Keeps s (s.mirrorDiffers d n) := .of <| by
  unfold State.mirrorDiffers
  simp
@[simp] theorem State.keeps_compareMirror (n : Numbered) : Keeps s (s.compareMirror d n) := .of <| by
  unfold State.compareMirror
  split <;> simp
@[simp] theorem State.keeps_setNext (n : Word) : Keeps s (s.setNext d n) := .of <| by unfold State.setNext; simp
@[simp] theorem State.keeps_setTree (t : List Held) : Keeps s (s.setTree d t) := .of <| by unfold State.setTree; simp
@[simp] theorem State.keeps_fenceCopy : Keeps s (s.fenceCopy d i) := .of <| by unfold State.fenceCopy; simp
@[simp] theorem State.keeps_outvoted : Keeps s (s.outvoted d i) := .of <| by unfold State.outvoted; simp
@[simp] theorem State.keeps_voteRelease : Keeps s (s.voteRelease d) := .of <| by
  unfold State.voteRelease
  repeat' split
  all_goals simp
@[simp] theorem State.keeps_publish (n : Numbered) : Keeps s (s.publish d n) := .of <| by unfold State.publish; simp
@[simp] theorem State.keeps_keepStandby (n : Numbered) : Keeps s (s.keepStandby d n) := .of <| by
  unfold State.keepStandby
  simp
@[simp] theorem State.keeps_emitMsg (cond : Bool) (h : Held) : Keeps s (s.emitMsg d cond h) := .of <| by
  unfold State.emitMsg
  simp
@[simp] theorem State.keeps_emitMsgs (cond : Bool) : Keeps s (s.emitMsgs d cond n) := .of <| by
  induction n generalizing s with
  | zero => exact .refl s
  | succ n ih =>
    unfold State.emitMsgs
    dsimp only
    repeat' split
    all_goals simp [Keeps.of (ih _)]
@[simp] theorem State.keeps_intoMerge (batch : List Held) : Keeps s (s.intoMerge d batch) := .of <| by
  unfold State.intoMerge
  simp
@[simp] theorem keeps_musterRelease : Keeps s (musterRelease d s) := .of <| by unfold musterRelease; simp
@[simp] theorem State.keeps_streamOver (m : StreamMsg) : Keeps s (s.streamOver l m) := .of <| by
  unfold State.streamOver
  simp
@[simp] theorem State.keeps_streamOut (m : Msg) : Keeps s (s.streamOut d m) := by
  refine keeps_foldl (fun s dev => ?_) _ s
  split <;> simp
@[simp] theorem State.keeps_countOutside : Keeps s (s.countOutside d) := .of <| by unfold State.countOutside; simp
@[simp] theorem State.keeps_hold (m : Msg) (streamed : Bool) : Keeps s (s.hold m streamed) := .of <| by
  unfold State.hold
  simp
@[simp] theorem State.keeps_arrive (fed : Bool) (m : Msg) : Keeps s (s.arrive fed m) := .of <| by
  unfold State.arrive
  simp

/-! ### Machine/Gallery.lean -/

@[simp] theorem State.keeps_setGal (f : GalState → GalState) : Keeps s (s.setGal f) := .of <| by
  unfold State.setGal
  simp
@[simp] theorem State.keeps_modGalLink (f : GalLink → GalLink) : Keeps s (s.modGalLink n f) := .of <| by
  unfold State.modGalLink
  simp
@[simp] theorem State.keeps_routeStack : Keeps s s.routeStack := .of <| by unfold State.routeStack; simp
@[simp] theorem State.keeps_joining : Keeps s s.joining := .of <| by unfold State.joining; simp
@[simp] theorem keeps_hello (h : Hello) : Keeps s (hello n h s) := .of <| by unfold hello; simp
@[simp] theorem keeps_galTrainRetry : Keeps s (galTrainRetry n s) := .of <| by unfold galTrainRetry; simp
@[simp] theorem State.keeps_unheard : Keeps s (s.unheard dev) := .of <| by unfold State.unheard; simp
@[simp] theorem keeps_galLinkLoss : Keeps s (galLinkLoss n s) := .of <| by unfold galLinkLoss; simp
@[simp] theorem keeps_dialSampleSend : Keeps s (dialSampleSend n s) := .of <| by unfold dialSampleSend; simp
@[simp] theorem State.keeps_loseLock : Keeps s s.loseLock := .of <| by unfold State.loseLock; simp
@[simp] theorem State.keeps_galSteer (offset : Int) : Keeps s (s.galSteer offset) := .of <| by
  unfold State.galSteer
  simp
@[simp] theorem State.keeps_galDisc (d : Disc) : Keeps s (s.galDisc d) := .of <| by unfold State.galDisc; simp
@[simp] theorem State.keeps_judgeSample (offset : Int) : Keeps s (s.judgeSample offset) := .of <| by
  unfold State.judgeSample
  simp
@[simp] theorem State.keeps_heard (x : DialSample) : Keeps s (s.heard dev x) := .of <| by unfold State.heard; simp
@[simp] theorem State.keeps_holdDial : Keeps s s.holdDial := .of <| by unfold State.holdDial; simp
@[simp] theorem keeps_sampleTimeout : Keeps s (sampleTimeout s) := .of <| by unfold sampleTimeout; simp
@[simp] theorem keeps_peerLost : Keeps s (peerLost dev s) := .of <| by unfold peerLost; simp
@[simp] theorem keeps_galSucceed : Keeps s (galSucceed s) := .of <| by unfold galSucceed; simp
@[simp] theorem keeps_streamSend : Keeps s (streamSend d s) := .of <| by
  unfold streamSend
  repeat' split
  all_goals simp
@[simp] theorem State.keeps_relayMessage (m : StreamMsg) : Keeps s (s.relayMessage m) := .of <| by
  unfold State.relayMessage
  split <;> simp
@[simp] theorem keeps_streamMessage (m : StreamMsg) : Keeps s (streamMessage m s) := .of <| by
  unfold streamMessage
  simp

/-! ### Machine/Lamp.lean -/

@[simp] theorem State.keeps_drbg : Keeps s (s.drbg n).2 := .of <| by unfold State.drbg; simp
@[simp] theorem State.keeps_setSource (y : Source) : Keeps s (s.setSource x y) := .of <| by unfold State.setSource; simp
@[simp] theorem State.keeps_canaryDown : Keeps s s.canaryDown := .of <| by unfold State.canaryDown; simp
@[simp] theorem keeps_noiseSample (v : Byte) : Keeps s (noiseSample x v s) := .of <| by unfold noiseSample; simp
@[simp] theorem keeps_sourceRetest (vs : List Byte) : Keeps s (sourceRetest x vs s) := .of <| by
  unfold sourceRetest
  simp
@[simp] theorem keeps_graceSpent : Keeps s (graceSpent s) := .of <| by unfold graceSpent; simp
@[simp] theorem keeps_drbgReseed : Keeps s (drbgReseed s) := .of <| by unfold drbgReseed; simp
@[simp] theorem keeps_maskReseed (datapath : Nat) : Keeps s (maskReseed datapath s) := .of <| by unfold maskReseed; simp
@[simp] theorem State.keeps_writeBlobs (place : Nat) (mark : Word) (plain : List Byte) (seals : List (List Byte)) :
    Keeps s (s.writeBlobs i place mark plain seals) := .of <| by unfold State.writeBlobs; simp
@[simp] theorem State.keeps_emptyKey : Keeps s (s.emptyKey i) := .of <| by unfold State.emptyKey; simp
@[simp] theorem State.keeps_fillKey (x : KeySlot) : Keeps s (s.fillKey i x) := .of <| by unfold State.fillKey; simp
@[simp] theorem State.keeps_keyDone (result : Nat) : Keeps s (s.keyDone c t o status result) := .of <| by
  unfold State.keyDone
  dsimp only
  split <;> simp
@[simp] theorem keeps_keyLoad (blob : Option (List Byte)) : Keeps s (keyLoad c blob t o s) := .of <| by
  unfold keyLoad
  dsimp only
  repeat' split
  all_goals simp
@[simp] theorem State.keeps_redraw (type : Nat) (key : List Byte) : Keeps s (s.redraw type key).2 := .of <| by
  unfold State.redraw
  dsimp only
  split <;> simp
@[simp] theorem keeps_keyGenerate : Keeps s (keyGenerate c t o s) := .of <| by
  unfold keyGenerate
  dsimp only
  repeat' split
  all_goals simp
@[simp] theorem keeps_keyEcdhGen : Keeps s (keyEcdhGen c t o s) := .of <| by unfold keyEcdhGen; simp
@[simp] theorem keeps_keyAgree (point info : Option (List Byte)) : Keeps s (keyAgree c point info t o s) := .of <| by
  unfold keyAgree
  dsimp only
  repeat' split
  all_goals simp
@[simp] theorem keeps_keyDeriveMka (ckn : Option (List Byte)) : Keeps s (keyDeriveMka c ckn t o s) := .of <| by
  unfold keyDeriveMka
  split <;> simp
@[simp] theorem keeps_keyExport : Keeps s (keyExport c t o s) := .of <| by unfold keyExport; simp
@[simp] theorem keeps_keySeal (m1 m2 : Option (List Byte)) : Keeps s (keySeal c m1 m2 t o s) := .of <| by
  unfold keySeal
  simp
@[simp] theorem keeps_keyDestroy : Keeps s (keyDestroy c t o s) := .of <| by unfold keyDestroy; simp
@[simp] theorem State.keeps_settleDestroy : Keeps s (s.settleDestroy i) := .of <| by
  unfold State.settleDestroy
  repeat' split
  · exact .refl s
  · exact .refl s
  · rw [keeps_foldl fun s w => by split <;> simp]
    simp
@[simp] theorem State.keeps_settleKeys : Keeps s s.settleKeys := .of <| by unfold State.settleKeys; simp
@[simp] theorem keeps_keyQuery : Keeps s (keyQuery c t o s) := .of <| by unfold keyQuery; simp
@[simp] theorem State.keeps_reopenKeys : Keeps s s.reopenKeys := .of <| by unfold State.reopenKeys; simp
@[simp] theorem State.keeps_pnNearEnd : Keeps s (s.pnNearEnd n) := .of <| by unfold State.pnNearEnd; simp
@[simp] theorem keeps_lampSaWrite (off : Nat) : Keeps s (lampSaWrite who n off v s) := .of <| by
  unfold lampSaWrite
  simp
@[simp] theorem keeps_encodingAnWrite : Keeps s (encodingAnWrite who n v s) := .of <| by unfold encodingAnWrite; simp

/-! ### Machine/Jobs.lean -/

@[simp] theorem keeps_jobIv (d aux : List Byte) (k : KeySlot) : Keeps s (jobIv d aux k s).2 := .of <| by
  unfold jobIv
  repeat' split
  all_goals simp
@[simp] theorem State.keeps_useCounter : Keeps s (s.useCounter i) := .of <| by unfold State.useCounter; simp
@[simp] theorem keeps_runKeyed (f : List Byte → List Byte → List Byte → List Byte → List Byte → ModeOut)
    (d src aux : List Byte) (k : KeySlot) :
    Keeps s (runKeyed f d src aux i k s).2 := .of <| by
  unfold runKeyed
  dsimp only
  split <;> simp
@[simp] theorem keeps_startJob (f : List Byte → List Byte → List Byte → List Byte → List Byte → ModeOut) (j : Job) :
    Keeps s (startJob f j s).2 := .of <| by
  unfold startJob
  dsimp only
  repeat' split
  all_goals simp only [State.keeps_drbg, keeps_runKeyed, Kept.refl, true_or]
@[simp] theorem State.keeps_placeJob (j : Job) : Keeps s (s.placeJob e j) := .of <| by
  unfold State.placeJob
  dsimp only
  split <;> simp
@[simp] theorem State.keeps_fillEngines : Keeps s s.fillEngines := by
  refine keeps_foldl (fun s _ => ?_) _ s
  split <;> simp
@[simp] theorem keeps_arriveJob (mode : Nat) (src aux : Option (List Byte)) :
    Keeps s (arriveJob mode ring src aux s) := .of <| by
  unfold arriveJob
  dsimp only
  split <;> simp
@[simp] theorem State.keeps_endJob (j : Job) : Keeps s (s.endJob j) := .of <| by unfold State.endJob; simp
@[simp] theorem keeps_jobPreempt : Keeps s (jobPreempt e s) := .of <| by
  unfold jobPreempt
  repeat' split
  all_goals simp
@[simp] theorem State.keeps_countJob : Keeps s (s.countJob o status) := .of <| by
  unfold State.countJob
  dsimp only
  split <;> simp
@[simp] theorem State.keeps_refuseJob : Keeps s (s.refuseJob c t status) := .of <| by unfold State.refuseJob; simp
@[simp] theorem keeps_jobCompletion (written : Bool) : Keeps s (jobCompletion e written s) := .of <| by
  unfold jobCompletion
  split <;> simp

/-! ### Machine/Macsec.lean -/

@[simp] theorem State.keeps_takePn : Keeps s (s.takePn n) := .of <| by unfold State.takePn; simp
@[simp] theorem State.keeps_protect (f : List Byte) : Keeps s (s.protect n f).2 := .of <| by unfold State.protect; simp
@[simp] theorem State.keeps_wireFrame (f : List Byte) : Keeps s (s.wireFrame n f).2 := .of <| by
  unfold State.wireFrame
  dsimp only
  split <;> simp
@[simp] theorem State.keeps_macsecRx : Keeps s (s.macsecRx n bytes).2 := .of <| by
  unfold State.macsecRx
  dsimp only
  repeat' split
  all_goals simp only [State.keeps_count, State.keeps_setReg, Kept.refl, true_or]

/-! ### Machine/TableOps.lean -/

@[simp] theorem State.keeps_modEntry (f : Entry → Entry) : Keeps s (s.modEntry k f) := .of <| by
  unfold State.modEntry
  simp
@[simp] theorem State.keeps_countEntry : Keeps s (s.countEntry k pipe) := .of <| by unfold State.countEntry; simp
@[simp] theorem State.keeps_captureMargins : Keeps s s.captureMargins := .of <| by unfold State.captureMargins; simp
@[simp] theorem State.keeps_parityReport (t : Nat) : Keeps s (s.parityReport t pipe index) := .of <| by
  unfold State.parityReport
  simp
@[simp] theorem State.keeps_meetEntry : Keeps s (s.meetEntry k pipe) := .of <| by unfold State.meetEntry; simp
@[simp] theorem State.keeps_rewriteNodes (p : Prefix) : Keeps s (s.rewriteNodes p) := .of <| by
  unfold State.rewriteNodes
  simp

/-! ### Machine/RelOps.lean -/

@[simp] theorem State.keeps_modRel (f : Posting → Posting) : Keeps s (s.modRel rel f) := .of <| by
  unfold State.modRel
  simp
@[simp] theorem State.keeps_noteDrop (p : Posting) : Keeps s (s.noteDrop p n reason) := .of <| by
  unfold State.noteDrop
  simp
@[simp] theorem State.keeps_dropCopy : Keeps s (s.dropCopy rel n reason) := .of <| by
  unfold State.dropCopy
  split <;> simp
@[simp] theorem State.keeps_auditRelease : Keeps s (s.auditRelease rel) := .of <| by
  unfold State.auditRelease
  split <;> simp
@[simp] theorem State.keeps_settleRelease : Keeps s (s.settleRelease rel) := .of <| by
  unfold State.settleRelease
  dsimp only
  split <;> simp
@[simp] theorem State.keeps_endCopy : Keeps s (s.endCopy rel n reason) := .of <| by unfold State.endCopy; simp
@[simp] theorem State.keeps_dropArmed : Keeps s s.dropArmed := .of <| by unfold State.dropArmed; simp
@[simp] theorem State.keeps_prunePostings : Keeps s s.prunePostings := .of <| by unfold State.prunePostings; simp

/-! ### Machine/EgressOps.lean -/

@[simp] theorem State.keeps_sendPfc (quanta : Nat) : Keeps s (s.sendPfc n quanta) := .of <| by
  unfold State.sendPfc
  simp
@[simp] theorem State.keeps_pfcSettle : Keeps s (s.pfcSettle n) := .of <| by unfold State.pfcSettle; simp
@[simp] theorem State.keeps_poolTake (id bytes copies : Nat) : Keeps s (s.poolTake n id bytes copies) := .of <| by
  unfold State.poolTake
  simp
@[simp] theorem State.keeps_poolFree (f : QFrame) : Keeps s (s.poolFree f) := .of <| by
  unfold State.poolFree
  split <;> simp
@[simp] theorem State.keeps_txDone (f : QFrame) : Keeps s (s.txDone f status stamp) := .of <| by
  unfold State.txDone
  split <;> simp
@[simp] theorem State.keeps_loseFrame (f : QFrame) : Keeps s (s.loseFrame f status) := .of <| by
  unfold State.loseFrame
  simp
@[simp] theorem State.keeps_setQueue (fs : List QFrame) : Keeps s (s.setQueue n q fs) := .of <| by
  unfold State.setQueue
  simp
@[simp] theorem State.keeps_enqueue (f : QFrame) : Keeps s (s.enqueue n f) := .of <| by unfold State.enqueue; simp
@[simp] theorem State.keeps_pfcEnd : Keeps s (s.pfcEnd n) := .of <| by unfold State.pfcEnd; simp
@[simp] theorem State.keeps_setPause (until_ : Option Dial) : Keeps s (s.setPause n p until_) := .of <| by
  unfold State.setPause
  simp
@[simp] theorem State.keeps_pfcReceived (f : List Byte) : Keeps s (s.pfcReceived n f) := .of <| by
  unfold State.pfcReceived
  simp
@[simp] theorem keeps_pfcPauseExpiry : Keeps s (pfcPauseExpiry n p s) := .of <| by unfold pfcPauseExpiry; simp
@[simp] theorem keeps_pfcRefresh : Keeps s (pfcRefresh n s) := .of <| by unfold pfcRefresh; simp
@[simp] theorem keeps_pfcWatchdog : Keeps s (pfcWatchdog n p s) := .of <| by unfold pfcWatchdog; simp
@[simp] theorem State.keeps_wireDone : Keeps s (s.wireDone n) := .of <| by
  unfold State.wireDone
  split <;> simp
@[simp] theorem State.keeps_cutWire : Keeps s (s.cutWire n) := .of <| by
  unfold State.cutWire
  have hlose (s : State) (f : QFrame) :
    Kept s (((s.emit (.stomped n)).countSlot n (Reg.REL_CNT_TX_ABORTED n)).loseFrame f 1) := by simp
  simp only [keeps_foldl hlose, State.keeps_modEgr, Kept.refl, true_or]
@[simp] theorem State.keeps_copySent : Keeps s (s.copySent rel n) := .of <| by
  unfold State.copySent
  split <;> simp
@[simp] theorem State.keeps_abortCopies : Keeps s (s.abortCopies n) := by
  refine keeps_foldl (fun s p => ?_) _ s
  split <;> simp
@[simp] theorem State.keeps_egressDown : Keeps s (s.egressDown n) := .of <| by unfold State.egressDown; simp
@[simp] theorem State.keeps_flushHeld : Keeps s (s.flushHeld n) := .of <| by unfold State.flushHeld; simp
@[simp] theorem keeps_portHoldExpiry : Keeps s (portHoldExpiry n s) := .of <| by unfold portHoldExpiry; simp
@[simp] theorem State.keeps_verifyPreempt : Keeps s (s.verifyPreempt n) := .of <| by unfold State.verifyPreempt; simp
@[simp] theorem State.keeps_egressUp : Keeps s (s.egressUp n) := .of <| by unfold State.egressUp; simp

/-! ### Machine/RdmaOps.lean -/

@[simp] theorem State.keeps_frameRx (f : List Byte) : Keeps s (s.frameRx c n cls stamp f) := .of <| by
  unfold State.frameRx
  dsimp only
  split <;> simp
@[simp] theorem State.keeps_sendPacket (opcode : Nat) (ackReq fence : Bool) (ext : List Byte) :
    Keeps s (s.sendPacket qpn opcode psn ackReq fence ext payload) := .of <| by unfold State.sendPacket; simp
@[simp] theorem State.keeps_countWr : Keeps s (s.countWr o status) := .of <| by
  unfold State.countWr
  repeat' split
  all_goals simp
@[simp] theorem State.keeps_wqWrite (base log2 : Nat) (cur : BitVec 32) (entry : List Byte)
    (fields : List (Nat × List Byte)) :
    Keeps s (s.wqWrite o base log2 cur entry fields) := .of <| by unfold State.wqWrite; simp
@[simp] theorem State.keeps_sqDone (w : Wqe) : Keeps s (s.sqDone qpn w status) := .of <| by unfold State.sqDone; simp
@[simp] theorem State.keeps_rqDone (bytes : Nat) (imm : Option (List Byte)) (opcode : Nat) :
    Keeps s (s.rqDone qpn bytes imm status opcode) := .of <| by
  unfold State.rqDone
  dsimp only
  split <;> simp
@[simp] theorem State.keeps_mrSettle : Keeps s s.mrSettle := by
  refine keeps_foldl (fun s x => ?_) _ s
  dsimp only
  repeat' split
  all_goals simp
@[simp] theorem State.keeps_flushQp : Keeps s (s.flushQp qpn) := .of <| by unfold State.flushQp; simp
@[simp] theorem State.keeps_breakWaits : Keeps s (s.breakWaits qpn) := .of <| by unfold State.breakWaits; simp
@[simp] theorem State.keeps_settleQp (fuel : Nat) : Keeps s (s.settleQp fuel qpn) := .of <| by
  induction fuel generalizing s qpn with
  | zero => exact .refl s
  | succ fuel ih =>
    unfold State.settleQp
    repeat' split
    all_goals simp [Keeps.of (ih _ _)]
@[simp] theorem State.keeps_settle : Keeps s (s.settle qpn) := .of <| by unfold State.settle; simp
@[simp] theorem State.keeps_qpError : Keeps s (s.qpError qpn) := .of <| by unfold State.qpError; simp
@[simp] theorem State.keeps_failOldest : Keeps s (s.failOldest qpn status) := .of <| by unfold State.failOldest; simp
@[simp] theorem State.keeps_sendEntry (w : Wqe) : Keeps s (s.sendEntry qpn w k) := .of <| by
  unfold State.sendEntry
  simp
@[simp] theorem State.keeps_startReady (fuel : Nat) : Keeps s (s.startReady fuel qpn) := .of <| by
  induction fuel generalizing s with
  | zero => exact .refl s
  | succ fuel ih =>
    unfold State.startReady
    dsimp only
    split <;> simp [Keeps.of (ih _)]
@[simp] theorem State.keeps_pumpQp : Keeps s (s.pumpQp qpn) := .of <| by unfold State.pumpQp; simp
@[simp] theorem State.keeps_resendFrom : Keeps s (s.resendFrom qpn psn) := .of <| by unfold State.resendFrom; simp
@[simp] theorem State.keeps_goBack : Keeps s (s.goBack qpn psn) := .of <| by unfold State.goBack; simp
@[simp] theorem State.keeps_ackBefore : Keeps s (s.ackBefore qpn psn) := .of <| by unfold State.ackBefore; simp
@[simp] theorem State.keeps_ackReceived (syndrome : Nat) : Keeps s (s.ackReceived qpn psn syndrome) := .of <| by
  unfold State.ackReceived
  simp
@[simp] theorem State.keeps_readResponse : Keeps s (s.readResponse qpn op psn payload) := .of <| by
  unfold State.readResponse
  dsimp only
  split <;> simp
@[simp] theorem State.keeps_sendRead (len msn : Nat) : Keeps s (s.sendRead qpn psn len msn) := .of <| by
  unfold State.sendRead
  simp
@[simp] theorem State.keeps_sendReply (r : QpReply) : Keeps s (s.sendReply qpn r) := .of <| by
  unfold State.sendReply
  split <;> simp
@[simp] theorem State.keeps_reply (r : QpReply) : Keeps s (s.reply qpn r) := .of <| by unfold State.reply; simp
@[simp] theorem State.keeps_flushReplies : Keeps s (s.flushReplies p) := .of <| by unfold State.flushReplies; simp
@[simp] theorem State.keeps_sendAck (syndrome : Nat) : Keeps s (s.sendAck qpn psn syndrome) := .of <| by
  unfold State.sendAck
  simp
@[simp] theorem State.keeps_refuse (code : Nat) : Keeps s (s.refuse qpn psn code) := .of <| by unfold State.refuse; simp
@[simp] theorem State.keeps_answerRead (len : Nat) : Keeps s (s.answerRead qpn psn len) := .of <| by
  unfold State.answerRead
  simp
@[simp] theorem State.keeps_accept (ack ends : Bool) : Keeps s (s.accept qpn psn ack ends) := .of <| by
  unfold State.accept
  simp
@[simp] theorem State.keeps_sendReceived (ack : Bool) : Keeps s (s.sendReceived qpn op psn ack body) := .of <| by
  unfold State.sendReceived
  dsimp only
  split <;> simp
@[simp] theorem State.keeps_writeReceived (ack : Bool) : Keeps s (s.writeReceived qpn op psn ack body) := .of <| by
  unfold State.writeReceived
  simp
@[simp] theorem State.keeps_requestInOrder (ack : Bool) : Keeps s (s.requestInOrder qpn op psn ack body) := .of <| by
  unfold State.requestInOrder
  simp
@[simp] theorem State.keeps_duplicate : Keeps s (s.duplicate qpn op psn body) := .of <| by
  unfold State.duplicate
  extract_lets
  repeat' split
  · exact Kept.refl s |>.next (State.keeps_sendAck ..)
  · exact Kept.refl s |>.next (State.keeps_refuse ..)
  · exact Kept.refl s |>.next (State.keeps_answerRead ..)
@[simp] theorem State.keeps_touchQp : Keeps s s.touchQp := .of <| by unfold State.touchQp; simp
@[simp] theorem State.keeps_rdmaReceived (f : List Byte) (l3 l4 : Nat) (v6 : Bool) :
    Keeps s (s.rdmaReceived n stamp cls f l3 l4 v6) := .of <| by unfold State.rdmaReceived; simp

/-! ### Machine/Rdma.lean -/

@[simp] theorem State.keeps_noteQps : Keeps s s.noteQps := .of <| by unfold State.noteQps; simp
@[simp] theorem keeps_qpCreate : Keeps s (qpCreate c s) := .of <| by unfold qpCreate; simp
@[simp] theorem State.keeps_moveQp (goal : QpPhase) (b : List Byte) : Keeps s (s.moveQp n goal b) := .of <| by
  unfold State.moveQp
  split <;> simp
@[simp] theorem keeps_qpModify (attr : Option (List Byte)) : Keeps s (qpModify c attr s) := by
  apply keeps_onAdmin
  intro t o s
  dsimp only
  repeat' split
  all_goals simp
@[simp] theorem keeps_qpQuery : Keeps s (qpQuery c s) := .of <| by unfold qpQuery; simp
@[simp] theorem keeps_qpDestroy : Keeps s (qpDestroy c s) := .of <| by unfold qpDestroy; simp
@[simp] theorem keeps_mrReg : Keeps s (mrReg c s) := .of <| by unfold mrReg; simp
@[simp] theorem keeps_mrDereg : Keeps s (mrDereg c s) := .of <| by unfold mrDereg; simp
@[simp] theorem State.keeps_takeRecvs (entries : List (List Byte)) : Keeps s (s.takeRecvs n entries) := .of <| by
  unfold State.takeRecvs
  simp
@[simp] theorem keeps_rdmaDoorbell (rq : Bool) : Keeps s (rdmaDoorbell who n rq s) := .of <| by
  unfold rdmaDoorbell
  simp
@[simp] theorem State.keeps_takeSends (es : List (List Byte)) : Keeps s (s.takeSends n es) := .of <| by
  unfold State.takeSends
  simp
@[simp] theorem State.keeps_wqError (k : Nat → Nat) (vfOff : Nat) : Keeps s (s.wqError n k vfOff) := .of <| by
  unfold State.wqError
  simp
@[simp] theorem keeps_wqFetch (rq : Bool) (pi : Option (BitVec 32)) (entries : List (Option (List Byte))) :
    Keeps s (wqFetch n rq pi entries s) := .of <| by
  unfold wqFetch
  dsimp only
  repeat' split
  all_goals simp
@[simp] theorem State.keeps_takeSend (entry data : List Byte) : Keeps s (s.takeSend n entry data) := .of <| by
  unfold State.takeSend
  simp
@[simp] theorem State.keeps_failQueueRead (entry : Option (BitVec 32)) : Keeps s (s.failQueueRead c entry) := .of <| by
  obtain ⟨sub, hsub⟩ := exists_eq' (a' := @HSub.hSub Nat Nat Nat _)
  unfold State.failQueueRead
  rw [hsub]
  dsimp only
  repeat' split
  all_goals simp
@[simp] theorem keeps_sendWork (at_ : BitVec 32) (op : Nat → Bool) (data : List Byte) :
    Keeps s (sendWork n at_ op data s) := .of <| by
  unfold sendWork
  split <;> simp
@[simp] theorem keeps_sendCommand (at_ : BitVec 32) (data : List Byte) : Keeps s (sendCommand n at_ data s) := .of <| by
  unfold sendCommand
  split <;> simp
@[simp] theorem keeps_ackTimeout : Keeps s (ackTimeout n s) := .of <| by
  unfold ackTimeout
  dsimp only
  split <;> simp
@[simp] theorem keeps_rnrDelayExpiry : Keeps s (rnrDelayExpiry n s) := .of <| by unfold rnrDelayExpiry; simp
@[simp] theorem keeps_triggeredStart : Keeps s (triggeredStart n s) := .of <| by
  unfold triggeredStart
  split <;> simp
@[simp] theorem State.keeps_drainRdma : Keeps s (s.drainRdma o) := .of <| by unfold State.drainRdma; simp

/-! ### Machine/Tables.lean -/

@[simp] theorem State.keeps_updDone : Keeps s (s.updDone c t status) := .of <| by unfold State.updDone; simp
@[simp] theorem keeps_onTable {f : Taken → State → State} (h : ∀ x s, Kept s (f x s)) :
    Keeps s (onTable c op f s) := .of <| by
  unfold onTable
  dsimp only
  split <;> simp [Keeps.of (h _ _)]
@[simp] theorem State.keeps_writeImage (b : List Byte) : Keeps s (s.writeImage c t b) := .of <| by
  unfold State.writeImage
  simp
@[simp] theorem keeps_tableRead (buf : Option (List Byte)) : Keeps s (tableRead c buf t s) := .of <| by
  unfold tableRead
  dsimp only
  repeat' split
  all_goals simp
@[simp] theorem State.keeps_noteSide : Keeps s (s.noteSide k) := .of <| by unfold State.noteSide; simp
@[simp] theorem keeps_tableLock : Keeps s (tableLock c t s) := .of <| by unfold tableLock; simp
@[simp] theorem State.keeps_countLate : Keeps s (s.countLate k) := .of <| by unfold State.countLate; simp
@[simp] theorem State.keeps_storeImage (x : BitVec 512) : Keeps s (s.storeImage k e x) := .of <| by
  unfold State.storeImage
  simp
@[simp] theorem State.keeps_actWrite (img : List Byte) : Keeps s (s.actWrite c t img) := .of <| by
  unfold State.actWrite
  simp
@[simp] theorem State.keeps_holdUpdate (unlock : Bool) (img : Option (List Byte)) :
    Keeps s (s.holdUpdate c t unlock img) := .of <| by unfold State.holdUpdate; simp
@[simp] theorem keeps_tableWrite (image : Option (List Byte)) : Keeps s (tableWrite c image t s) := .of <| by
  unfold tableWrite
  split <;> simp
@[simp] theorem State.keeps_actUnlock : Keeps s (s.actUnlock c t) := .of <| by unfold State.actUnlock; simp
@[simp] theorem keeps_tableUnlock : Keeps s (tableUnlock c t s) := .of <| by unfold tableUnlock; simp
@[simp] theorem keeps_onPrefix (image : Option (List Byte)) {f : List Byte → Nat → Nat → State → State}
    (h : ∀ x y z s, Kept s (f x y z s)) :
    Keeps s (onPrefix c image t f s) := .of <| by
  unfold onPrefix
  dsimp only
  split <;> simp [Keeps.of (h _ _ _ _)]
@[simp] theorem keeps_tableInsert (image : Option (List Byte)) : Keeps s (tableInsert c image t s) := .of <| by
  unfold tableInsert
  simp
@[simp] theorem keeps_tableDelete (image : Option (List Byte)) : Keeps s (tableDelete c image t s) := .of <| by
  unfold tableDelete
  simp
@[simp] theorem State.keeps_actHeld (h : HeldUpdate) : Keeps s (s.actHeld h) := .of <| by
  unfold State.actHeld
  split <;> simp
@[simp] theorem keeps_oldContentsRelease : Keeps s (oldContentsRelease table inst index s) := .of <| by
  unfold oldContentsRelease
  dsimp only
  split <;> simp
@[simp] theorem State.keeps_sweep : Keeps s (s.sweep pipe) := .of <| by unfold State.sweep; simp
@[simp] theorem keeps_sweepPass : Keeps s (sweepPass pipe s) := .of <| by unfold sweepPass; simp
@[simp] theorem keeps_sweepOverrun : Keeps s (sweepOverrun pipe s) := .of <| by unfold sweepOverrun; simp
@[simp] theorem State.keeps_meetNode (b : BadNode) : Keeps s (s.meetNode b) := .of <| by unfold State.meetNode; simp
@[simp] theorem keeps_tableScrub : Keeps s (tableScrub table inst index s) := .of <| by
  unfold tableScrub
  repeat' split
  all_goals simp

/-! ### Machine/Rings.lean -/

@[simp] theorem State.keeps_countPf (k : Nat → Nat) : Keeps s (s.countPf who k) := .of <| by unfold State.countPf; simp
@[simp] theorem State.keeps_ringRefused : Keeps s (s.ringRefused who) := .of <| by unfold State.ringRefused; simp
@[simp] theorem keeps_onWindow {f : Party → State → State} (h : ∀ x s, Kept s (f x s)) :
    Keeps s (onWindow who c f s) := .of <| by
  unfold onWindow
  split <;> simp [Keeps.of (h _ _)]
@[simp] theorem State.keeps_beginFetch : Keeps s (s.beginFetch c) := .of <| by unfold State.beginFetch; simp
@[simp] theorem State.keeps_wakeRing : Keeps s (s.wakeRing c) := .of <| by unfold State.wakeRing; simp
@[simp] theorem keeps_ringDoorbell : Keeps s (ringDoorbell who c s) := .of <| by unfold ringDoorbell; simp
@[simp] theorem keeps_periodicScan : Keeps s (periodicScan c s) := .of <| by unfold periodicScan; simp
@[simp] theorem State.keeps_endFetch : Keeps s (s.endFetch c) := .of <| by unfold State.endFetch; simp
@[simp] theorem State.keeps_ringError : Keeps s (s.ringError c cause) := .of <| by unfold State.ringError; simp
@[simp] theorem State.keeps_fetchFail : Keeps s (s.fetchFail c) := .of <| by unfold State.fetchFail; simp
@[simp] theorem State.keeps_takeEntry (d : List Byte) : Keeps s (s.takeEntry c d) := .of <| by
  unfold State.takeEntry
  dsimp only
  split <;> simp
@[simp] theorem keeps_descriptorFetch (entries : List (Option (List Byte))) :
    Keeps s (descriptorFetch c entries s) := .of <| by unfold descriptorFetch; simp
@[simp] theorem State.keeps_noteJobs : Keeps s s.noteJobs := .of <| by unfold State.noteJobs; simp
@[simp] theorem keeps_ringPiRead (pi : Option (BitVec 32)) (entries : List (Option (List Byte))) :
    Keeps s (ringPiRead c pi entries s) := .of <| by
  unfold ringPiRead
  dsimp only
  repeat' split
  all_goals simp
@[simp] theorem keeps_piRead (pi : Option (BitVec 32)) (entries : List (Option (List Byte))) :
    Keeps s (piRead c pi entries s) := .of <| by
  unfold piRead
  split <;> simp
@[simp] theorem keeps_ringEnable : Keeps s (ringEnable who c s) := .of <| by unfold ringEnable; simp
@[simp] theorem keeps_ringDisable : Keeps s (ringDisable who c s) := .of <| by unfold ringDisable; simp
@[simp] theorem keeps_ringConfigWrite (reg : Nat) : Keeps s (ringConfigWrite who c reg v s) := .of <| by
  unfold ringConfigWrite
  simp
@[simp] theorem keeps_ringSnapshot : Keeps s (ringSnapshot c s) := .of <| by unfold ringSnapshot; simp

/-! ### Machine/Ledger.lean -/

@[simp] theorem keeps_epochTimeout : Keeps s (epochTimeout s) := .of <| by
  unfold epochTimeout
  split <;> simp
@[simp] theorem keeps_sealNow : Keeps s (sealNow s) := .of <| by unfold sealNow; simp
@[simp] theorem keeps_decideChain : Keeps s (decideChain s) := .of <| by unfold decideChain; simp
@[simp] theorem keeps_newChain : Keeps s (newChain s) := .of <| by unfold newChain; simp
@[simp] theorem keeps_drainResume : Keeps s (drainResume s) := .of <| by unfold drainResume; simp
@[simp] theorem State.keeps_issueDrain : Keeps s (s.issueDrain k m) := .of <| by unfold State.issueDrain; simp
@[simp] theorem keeps_drainWrite : Keeps s (drainWrite s) := .of <| by unfold drainWrite; simp
@[simp] theorem State.keeps_drainAdvance : Keeps s s.drainAdvance := .of <| by unfold State.drainAdvance; simp
@[simp] theorem State.keeps_drainSettle (d : Drain) : Keeps s (s.drainSettle d) := .of <| by
  unfold State.drainSettle
  simp
@[simp] theorem keeps_drainWriteComplete (ok : Bool) : Keeps s (drainWriteComplete m ok s) := .of <| by
  unfold drainWriteComplete
  split <;> simp
@[simp] theorem keeps_drainRetry : Keeps s (drainRetry m s) := .of <| by
  unfold drainRetry
  split <;> simp
@[simp] theorem keeps_drainTgtWrite : Keeps s (drainTgtWrite m v s) := .of <| by
  unfold drainTgtWrite
  dsimp only
  split <;> simp
@[simp] theorem keeps_drainAckWrite : Keeps s (drainAckWrite v s) := .of <| by unfold drainAckWrite; simp
@[simp] theorem keeps_audCtlWrite : Keeps s (audCtlWrite v s) := .of <| by
  unfold audCtlWrite
  split <;> simp
@[simp] theorem State.keeps_chainAt (epoch drainNext : Nat) : Keeps s (s.chainAt index epoch drainNext) := .of <| by
  unfold State.chainAt
  simp
@[simp] theorem State.keeps_audRestart : Keeps s s.audRestart := .of <| by unfold State.audRestart; simp
@[simp] theorem State.keeps_recoverChain : Keeps s s.recoverChain := .of <| by
  obtain ⟨pick, hpick⟩ := exists_eq' (a' := @ite (Bool × Nat))
  unfold State.recoverChain
  rw [hpick]
  extract_lets -underBinder u check wi we wd slot low ahead i
  have hu : Kept s u := by simp [u]
  clear_value u check wi we wd slot low ahead i
  split
  extract_lets -underBinder v b prev next emptied unkeyed _ flags walk rested placed _ sealed torn walked _ opened
    recovered resealed
  have hv : Kept s v := hu.next (State.keeps_setReg ..)
  have hunkeyed : Kept s unkeyed :=
    hv.next (State.keeps_chainAt ..) |>.next (State.keeps_ledgerQueue ..) |>.next (State.keeps_setReg ..)
  have hsealed : Kept s sealed := (kept_mk s).2 <| (storesKept_of_state s placed).2 <| hv.next (State.keeps_chainAt ..)
  have hopened : Kept s opened := (kept_mk s).2 <| (storesKept_of_state s walked).2 <| hv.next (State.keeps_chainAt ..)
  have hrecovered : Kept s recovered := by
    unfold recovered
    split
    · exact hopened.next (State.keeps_auditLose ..)
    · exact hopened.next (State.keeps_auditPlace ..)
  repeat' split
  · exact hunkeyed.next (State.keeps_auditStart ..)
  · exact hunkeyed.next (State.keeps_auditGenesis ..)
  · exact hsealed.next (State.keeps_setReg ..) |>.next (State.keeps_auditStart ..)
  · exact hrecovered.next (State.keeps_auditSeal ..) |>.next (State.keeps_setReg ..) |>.next (State.keeps_auditStart ..)
@[simp] theorem State.keeps_auditPowerFail (armed : Nat) : Keeps s (s.auditPowerFail cause armed) := .of <| by
  unfold State.auditPowerFail
  simp
@[simp] theorem State.keeps_collapse : Keeps s (s.collapse n) := .of <| by unfold State.collapse; simp

/-! ### Machine/StorageOps.lean -/

@[simp] theorem State.keeps_prpWrite (total off : Nat) : Keeps s (s.prpWrite cmd total off bytes) := .of <| by
  unfold State.prpWrite
  simp
@[simp] theorem State.keeps_nvmePost (x : NvPost) : Keeps s (s.nvmePost f x) := .of <| by
  unfold State.nvmePost
  dsimp only
  split <;> simp
@[simp] theorem State.keeps_nvmeDone (result : Nat) : Keeps s (s.nvmeDone cmd result status) := .of <| by
  unfold State.nvmeDone
  split <;> simp
@[simp] theorem State.keeps_nvmeFlushPosts : Keeps s (s.nvmeFlushPosts f) := .of <| by unfold State.nvmeFlushPosts; simp
@[simp] theorem State.keeps_ioDone (readBytes writeBytes : Nat) :
    Keeps s (s.ioDone cmd status readBytes writeBytes) := .of <| by
  unfold State.ioDone
  split <;> simp
@[simp] theorem State.keeps_modPiece (f : Piece → Piece) : Keeps s (s.modPiece i f) := .of <| by
  unfold State.modPiece
  simp
@[simp] theorem State.keeps_noteJournal : Keeps s s.noteJournal := .of <| by unfold State.noteJournal; simp
@[simp] theorem State.keeps_journalCommit (p : Piece) : Keeps s (s.journalCommit p) := .of <| by
  unfold State.journalCommit
  dsimp only
  split <;> simp
@[simp] theorem State.keeps_journalBefore (p : Piece) : Keeps s (s.journalBefore p) := .of <| by
  unfold State.journalBefore
  dsimp only
  split <;> simp
@[simp] theorem State.keeps_journalRetire (p : Piece) : Keeps s (s.journalRetire p) := .of <| by
  unfold State.journalRetire
  split <;> simp
@[simp] theorem State.keeps_sqe (op : Option Nat) (nsid lba blocks bytes : Nat) :
    Keeps s (s.sqe op nsid lba blocks bytes).2 := .of <| by unfold State.sqe; simp
@[simp] theorem State.keeps_issuePart : Keeps s (s.issuePart i k) := .of <| by
  unfold State.issuePart
  repeat' split
  all_goals simp
@[simp] theorem State.keeps_issueParts (pick : Part → Bool) : Keeps s (s.issueParts i pick) := .of <| by
  unfold State.issueParts
  split <;> simp
@[simp] theorem State.keeps_commitPiece : Keeps s (s.commitPiece i) := .of <| by
  unfold State.commitPiece
  split <;> simp
@[simp] theorem State.keeps_slotPiece (slots : List Nat) : Keeps s (s.slotPiece i slots) := .of <| by
  unfold State.slotPiece
  simp
@[simp] theorem State.keeps_beginPiece : Keeps s (s.beginPiece i) := .of <| by
  unfold State.beginPiece
  split <;> simp
@[simp] theorem State.keeps_placeRead (p : Piece) (bytes : Nat) : Keeps s (s.placeRead p bytes) := .of <| by
  unfold State.placeRead
  simp
@[simp] theorem State.keeps_endPiece (status : Option Nat) : Keeps s (s.endPiece i status) := .of <| by
  unfold State.endPiece
  split <;> simp
@[simp] theorem State.keeps_advancePiece : Keeps s (s.advancePiece i) := .of <| by
  unfold State.advancePiece
  repeat' split
  all_goals simp
@[simp] theorem State.keeps_finishGroup (g : Nat) : Keeps s (s.finishGroup g) := .of <| by
  unfold State.finishGroup
  dsimp only
  split <;> simp
@[simp] theorem State.keeps_releasePiece : Keeps s (s.releasePiece i) := .of <| by
  unfold State.releasePiece
  split <;> simp
@[simp] theorem keeps_withDrives {f : State → State} (h : ∀ s, Kept s (f s)) : Keeps s (withDrives f s) := .of <| by
  unfold withDrives
  dsimp only
  simp [Keeps.of (h _)]
@[simp] theorem State.keeps_finishDetach : Keeps s (s.finishDetach i) := .of <| by
  unfold State.finishDetach
  repeat' split
  · exact .refl s
  · exact .refl s
  · exact .refl s
  · rw [keeps_forAll _ _ fun w s => by split <;> simp]
    simp
@[simp] theorem State.keeps_storageRound : Keeps s s.storageRound := .of <| by unfold State.storageRound; simp
@[simp] theorem State.keeps_storageRounds : Keeps s (s.storageRounds n) := .of <| by
  induction n generalizing s with
  | zero => exact .refl s
  | succ n ih => unfold State.storageRounds; simp [Keeps.of (ih _)]
@[simp] theorem State.keeps_readyCtrls : Keeps s s.readyCtrls := .of <| by unfold State.readyCtrls; simp
@[simp] theorem State.keeps_storageSettle : Keeps s s.storageSettle := .of <| by unfold State.storageSettle; simp
@[simp] theorem State.keeps_addPieces (mk : Nat → Nat → List Piece) : Keeps s (s.addPieces mk) := .of <| by
  unfold State.addPieces
  simp
@[simp] theorem State.keeps_dropPieces (keep : Piece → Bool) : Keeps s (s.dropPieces f keep) := .of <| by
  unfold State.dropPieces
  simp
@[simp] theorem State.keeps_retryKept : Keeps s (s.retryKept i) := .of <| by
  unfold State.retryKept
  split <;> simp
@[simp] theorem State.keeps_resolveSlot : Keeps s (s.resolveSlot i) := .of <| by
  unfold State.resolveSlot
  dsimp only
  repeat' split
  all_goals simp
@[simp] theorem State.keeps_resolveJournal : Keeps s s.resolveJournal := .of <| by unfold State.resolveJournal; simp

/-! ### Machine/Storage.lean -/

@[simp] theorem State.keeps_setPs (ps : Nat) : Keeps s (s.setPs f ps) := .of <| by unfold State.setPs; simp
@[simp] theorem State.keeps_claimRing (type base : Nat) : Keeps s (s.claimRing f c type base) := .of <| by
  unfold State.claimRing
  simp
@[simp] theorem State.keeps_freeNvRing (q : NvQueue) : Keeps s (s.freeNvRing q) := .of <| by
  unfold State.freeNvRing
  simp
@[simp] theorem State.keeps_createCq : Keeps s (s.createCq cmd) := .of <| by
  unfold State.createCq
  dsimp only
  repeat' split
  all_goals simp
@[simp] theorem State.keeps_createSq : Keeps s (s.createSq cmd) := .of <| by
  unfold State.createSq
  dsimp only
  repeat' split
  all_goals simp
@[simp] theorem State.keeps_dropSq (qid : Nat) : Keeps s (s.dropSq f qid) := .of <| by
  unfold State.dropSq
  split <;> simp
@[simp] theorem State.keeps_dropCq (qid : Nat) : Keeps s (s.dropCq f qid) := .of <| by
  unfold State.dropCq
  split <;> simp
@[simp] theorem State.keeps_deleteSq : Keeps s (s.deleteSq cmd) := .of <| by unfold State.deleteSq; simp
@[simp] theorem State.keeps_deleteCq : Keeps s (s.deleteCq cmd) := .of <| by unfold State.deleteCq; simp
@[simp] theorem State.keeps_identifyCtrl : Keeps s (s.identifyCtrl f).2 := .of <| by unfold State.identifyCtrl; simp
@[simp] theorem State.keeps_identify : Keeps s (s.identify cmd) := .of <| by
  unfold State.identify
  dsimp only
  repeat' split
  all_goals simp
@[simp] theorem State.keeps_getFeatures : Keeps s (s.getFeatures cmd) := .of <| by unfold State.getFeatures; simp
@[simp] theorem State.keeps_setFeatures : Keeps s (s.setFeatures cmd) := .of <| by unfold State.setFeatures; simp
@[simp] theorem State.keeps_getLogPage : Keeps s (s.getLogPage cmd) := .of <| by
  unfold State.getLogPage
  split <;> simp
@[simp] theorem State.keeps_asyncError (info : Nat) : Keeps s (s.asyncError f info) := .of <| by
  unfold State.asyncError
  split <;> simp
@[simp] theorem State.keeps_abortCmd : Keeps s (s.abortCmd cmd) := .of <| by
  unfold State.abortCmd
  dsimp only
  repeat' split
  all_goals simp
@[simp] theorem State.keeps_asyncEvent : Keeps s (s.asyncEvent cmd) := .of <| by unfold State.asyncEvent; simp
@[simp] theorem State.keeps_onNamespace {f : Nat → Namespace → State → State} (h : ∀ x y s, Kept s (f x y s)) :
    Keeps s (s.onNamespace cmd f) := .of <| by
  unfold State.onNamespace
  split <;> simp [Keeps.of (h _ _ _)]
@[simp] theorem State.keeps_transfer (kind : PieceKind) (data : Option (List Byte)) :
    Keeps s (s.transfer cmd kind data) := .of <| by unfold State.transfer; simp
@[simp] theorem State.keeps_deallocate (ranges : Option (List (Nat × Nat))) :
    Keeps s (s.deallocate cmd ranges) := .of <| by unfold State.deallocate; simp
@[simp] theorem State.keeps_flushCmd : Keeps s (s.flushCmd cmd) := .of <| by unfold State.flushCmd; simp
@[simp] theorem State.keeps_runNvme (op : NvmeOp) : Keeps s (s.runNvme op cmd) := .of <| by
  unfold State.runNvme
  repeat' split
  all_goals simp
@[simp] theorem State.keeps_takeHead (qid : Nat) : Keeps s (s.takeHead f qid) := .of <| by unfold State.takeHead; simp
@[simp] theorem State.keeps_fetchNvme (op : NvmeOp) : Keeps s (s.fetchNvme op cmd) := .of <| by
  unfold State.fetchNvme
  dsimp only
  split <;> simp
@[simp] theorem State.keeps_failNvme (entry : Option (BitVec 32)) : Keeps s (s.failNvme f ring entry) := .of <| by
  unfold State.failNvme
  dsimp only
  split <;> simp
@[simp] theorem keeps_psEntryDone : Keeps s (psEntryDone f s) := .of <| by
  unfold psEntryDone
  dsimp only
  split <;> simp
@[simp] theorem keeps_ccEnSet : Keeps s (ccEnSet f s) := .of <| by
  unfold ccEnSet
  dsimp only
  repeat' split
  all_goals simp
@[simp] theorem State.keeps_ctrlReset (apply : Bool) : Keeps s (s.ctrlReset f apply) := .of <| by
  unfold State.ctrlReset
  simp
@[simp] theorem keeps_ccEnClear : Keeps s (ccEnClear f s) := .of <| by unfold ccEnClear; simp
@[simp] theorem keeps_nvmeDoorbell (cq : Bool) (v : BitVec 32) : Keeps s (nvmeDoorbell who q cq v s) := .of <| by
  unfold nvmeDoorbell
  dsimp only
  repeat' split
  all_goals simp
@[simp] theorem keeps_nsCreate (list : Option (List Byte)) : Keeps s (nsCreate c list s) := .of <| by
  unfold nsCreate
  split <;> simp
@[simp] theorem keeps_nsDelete : Keeps s (nsDelete c s) := .of <| by unfold nsDelete; simp
@[simp] theorem keeps_nsAttach : Keeps s (nsAttach c s) := by
  apply keeps_onAdmin
  intro t o s
  dsimp only
  split <;> simp
@[simp] theorem keeps_nsDetach : Keeps s (nsDetach c s) := by
  apply keeps_onAdmin
  intro t o s
  dsimp only
  split <;> simp
@[simp] theorem keeps_journalSlotTaken : Keeps s (journalSlotTaken s) := .of <| by
  unfold journalSlotTaken
  split <;> simp
@[simp] theorem State.keeps_countPortErr (x : Part) : Keeps s (s.countPortErr x) := .of <| by
  unfold State.countPortErr
  simp
@[simp] theorem keeps_partComplete (r : PartResult) : Keeps s (partComplete i k r s) := .of <| by
  unfold partComplete
  repeat' split
  all_goals simp
@[simp] theorem keeps_partTimeout : Keeps s (partTimeout i k s) := .of <| by unfold partTimeout; simp
@[simp] theorem keeps_partRetry : Keeps s (partRetry i k s) := .of <| by
  unfold partRetry
  split <;> simp
@[simp] theorem keeps_nsReadyRetry (ok : Bool) : Keeps s (nsReadyRetry i ok s) := .of <| by
  unfold nsReadyRetry
  split <;> simp
@[simp] theorem keeps_driveRemoved : Keeps s (driveRemoved n s) := .of <| by unfold driveRemoved; simp
@[simp] theorem keeps_driveReturned (nsid lbas : Nat) (fmt4k : Bool) :
    Keeps s (driveReturned n nsid lbas fmt4k s) := .of <| by unfold driveReturned; simp
@[simp] theorem keeps_nvmeFetch (i : Instr) (op : NvmeOp) : Keeps s (nvmeFetch i op cmd s) := .of <| by
  unfold nvmeFetch
  simp

/-! ### Machine/Functions.lean -/

@[simp] theorem State.keeps_setShare (v : Nat) (ws : List Word) : Keeps s (s.setShare p v ws) := .of <| by
  unfold State.setShare
  simp
@[simp] theorem keeps_vfShareSet (block : Option (List Byte)) : Keeps s (vfShareSet c block s) := by
  apply keeps_onAdmin
  intro t o s
  dsimp only
  split <;> simp
@[simp] theorem State.keeps_vfMboxIrq (v : Nat) : Keeps s (s.vfMboxIrq p v) := .of <| by unfold State.vfMboxIrq; simp
@[simp] theorem State.keeps_mboxIgnored : Keeps s s.mboxIgnored := .of <| by unfold State.mboxIgnored; simp
@[simp] theorem State.keeps_placeShrink (v : Nat) (ws : List Word) (late : Bool) :
    Keeps s (s.placeShrink p v ws late) := .of <| by unfold State.placeShrink; simp
@[simp] theorem keeps_shrink (v : Nat) : Keeps s (shrink p v s) := .of <| by
  unfold shrink
  dsimp only
  repeat' split
  all_goals simp
@[simp] theorem State.keeps_trimQps : Keeps s (s.trimQps o n) := .of <| by unfold State.trimQps; simp
@[simp] theorem State.keeps_trimQueues : Keeps s (s.trimQueues o n) := .of <| by unfold State.trimQueues; simp
@[simp] theorem State.keeps_trimSpaces : Keeps s (s.trimSpaces o n) := .of <| by unfold State.trimSpaces; simp
@[simp] theorem State.keeps_zeroiseKey : Keeps s (s.zeroiseKey i) := .of <| by unfold State.zeroiseKey; simp
@[simp] theorem State.keeps_grantTaken : Keeps s (s.grantTaken o) := .of <| by unfold State.grantTaken; simp
@[simp] theorem State.keeps_enforceShrink (v : Nat) : Keeps s (s.enforceShrink p v) := .of <| by
  unfold State.enforceShrink
  split <;> simp
@[simp] theorem keeps_graceExpired (v : Nat) : Keeps s (graceExpired p v s) := .of <| by
  unfold graceExpired
  split <;> simp
@[simp] theorem State.keeps_shrinkAcked (v : Nat) : Keeps s (s.shrinkAcked p v) := .of <| by
  unfold State.shrinkAcked
  split <;> simp
@[simp] theorem keeps_shrinkComplete (v : Nat) : Keeps s (shrinkComplete p v s) := .of <| by
  unfold shrinkComplete
  dsimp only
  repeat' split
  all_goals simp
@[simp] theorem keeps_vfMboxDoorbell (v : Nat) : Keeps s (vfMboxDoorbell p v s) := .of <| by unfold vfMboxDoorbell; simp
@[simp] theorem keeps_vfMboxAck (v : Nat) : Keeps s (vfMboxAck p v s) := .of <| by unfold vfMboxAck; simp
@[simp] theorem keeps_vfmMboxDoorbell : Keeps s (vfmMboxDoorbell p s) := .of <| by unfold vfmMboxDoorbell; simp
@[simp] theorem keeps_vfmMboxAck : Keeps s (vfmMboxAck p s) := .of <| by unfold vfmMboxAck; simp
@[simp] theorem keeps_vfmResWrite (x : Word) : Keeps s (vfmResWrite p w x s) := .of <| by unfold vfmResWrite; simp
@[simp] theorem State.keeps_abandonJobs : Keeps s (s.abandonJobs o) := .of <| by unfold State.abandonJobs; simp
@[simp] theorem State.keeps_dropWork : Keeps s (s.dropWork o) := .of <| by
  unfold State.dropWork
  split <;> simp
@[simp] theorem State.keeps_vfReset (v : Nat) : Keeps s (s.vfReset p v) := .of <| by
  unfold State.vfReset
  dsimp only
  simp
@[simp] theorem State.keeps_vfRingsReset (v : Nat) : Keeps s (s.vfRingsReset p v) := .of <| by
  unfold State.vfRingsReset
  simp
@[simp] theorem keeps_genAbiOfferWrite : Keeps s (genAbiOfferWrite who v s) := .of <| by
  unfold genAbiOfferWrite
  split <;> simp

/-! ### Machine/PortLink.lean -/

@[simp] theorem State.keeps_leaveUp (cut : Bool) : Keeps s (s.leaveUp n cut) := .of <| by unfold State.leaveUp; simp
@[simp] theorem State.keeps_linkDown (cut : Bool) : Keeps s (s.linkDown n cause cut) := .of <| by
  unfold State.linkDown
  simp
@[simp] theorem State.keeps_linkOff : Keeps s (s.linkOff n) := .of <| by unfold State.linkOff; simp
@[simp] theorem State.keeps_setExcBucket (b : Bucket) : Keeps s (s.setExcBucket n b) := .of <| by
  unfold State.setExcBucket
  simp
@[simp] theorem State.keeps_linkOn : Keeps s (s.linkOn n) := .of <| by unfold State.linkOn; simp
@[simp] theorem keeps_portModeWrite : Keeps s (portModeWrite n v s) := .of <| by unfold portModeWrite; simp
@[simp] theorem kept_onPort (f : State → State) :
    Kept u (onPort n f s) ↔ Kept u (if s.isIdle n then s else f s) := Iff.rfl
@[simp] theorem keeps_alignmentAchieved (deskew : Option (List Nat)) :
    Keeps s (alignmentAchieved n deskew s) := .of <| by
  unfold alignmentAchieved
  repeat' split
  all_goals simp
@[simp] theorem State.keeps_portSettle : Keeps s (s.portSettle n) := .of <| by unfold State.portSettle; simp
@[simp] theorem keeps_upHoldExpiry : Keeps s (upHoldExpiry n s) := .of <| by unfold upHoldExpiry; simp
@[simp] theorem keeps_alignmentLost (cut : Bool) : Keeps s (alignmentLost n cut s) := .of <| by
  unfold alignmentLost
  simp
@[simp] theorem keeps_localFault (cut : Bool) : Keeps s (localFault n cut s) := .of <| by unfold localFault; simp
@[simp] theorem keeps_remoteFault (cut : Bool) : Keeps s (remoteFault n cut s) := .of <| by unfold remoteFault; simp
@[simp] theorem keeps_trainTimeout : Keeps s (trainTimeout n s) := .of <| by unfold trainTimeout; simp

/-! ### Machine/Ingress.lean -/

@[simp] theorem State.keeps_excToken : Keeps s (s.excToken n stamp).2 := .of <| by
  obtain ⟨spend, hspend⟩ := exists_eq' (a' := @Bucket.spend)
  generalize hf : @State.excToken = f
  delta State.excToken at hf
  rw [hspend] at hf
  subst hf
  simp
@[simp] theorem State.keeps_exception (cls : Option Nat) : Keeps s (s.exception n reason cls stamp bytes) := .of <| by
  have h := State.keeps_excToken s n stamp
  obtain ⟨token, htoken⟩ := exists_eq' (a' := @State.excToken)
  generalize hf : @State.exception = f
  delta State.exception at hf
  rw [htoken] at hf h
  subst hf
  simp [h]
@[simp] theorem keeps_exceptionFrameConsumed : Keeps s (exceptionFrameConsumed pipe s) := .of <| by
  unfold exceptionFrameConsumed
  simp
@[simp] theorem State.keeps_classLookup (p : Parsed) : Keeps s (s.classLookup n p).2 := .of <| by
  unfold State.classLookup
  dsimp only
  repeat' split
  all_goals simp
@[simp] theorem State.keeps_hitEntry (e : Entry) : Keeps s (s.hitEntry k w e) := .of <| by unfold State.hitEntry; simp
@[simp] theorem State.keeps_learnInto (e : Entry) (counter : Nat) : Keeps s (s.learnInto n w e counter) := .of <| by
  unfold State.learnInto
  simp
@[simp] theorem State.keeps_learn (vid : Nat) (mac : List Byte) : Keeps s (s.learn n vid mac) := .of <| by
  obtain ⟨way, hway⟩ := exists_eq' (a' := @State.macWay)
  obtain ⟨find, hfind⟩ := exists_eq' (a' := @List.find? Nat)
  unfold State.learn
  rw [hway, hfind]
  dsimp only
  repeat' split
  all_goals simp
@[simp] theorem State.keeps_forwardTo (g : Ingress) (queue : Nat) (slots : List Nat) :
    Keeps s (s.forwardTo n g queue slots bytes) := .of <| by
  unfold State.forwardTo
  split <;> simp
@[simp] theorem State.keeps_bridge (g : Ingress) (p : Parsed) (queue group : Nat) :
    Keeps s (s.bridge n g p queue group) := .of <| by
  obtain ⟨way, hway⟩ := exists_eq' (a' := @State.macWay)
  obtain ⟨mask, hmask⟩ := exists_eq' (a' := @State.groupMask)
  unfold State.bridge
  rw [hway, hmask]
  dsimp only
  repeat' split
  all_goals simp
@[simp] theorem State.keeps_route (g : Ingress) (p : Parsed) (queue : Nat) :
    Keeps s (s.route n g p cls queue stamp) := .of <| by
  unfold State.route
  dsimp only
  repeat' split
  all_goals simp
@[simp] theorem State.keeps_riskTouch (index : Option Nat) : Keeps s (s.riskTouch table pipe index) := .of <| by
  unfold State.riskTouch
  split <;> simp
@[simp] theorem State.keeps_riskCheck (v : RiskInput) : Keeps s (s.riskCheck n stamp v).2 := .of <| by
  unfold State.riskCheck
  simp
@[simp] theorem State.keeps_orderMessage (v : RiskInput) : Keeps s (s.orderMessage n d stamp bytes v) := .of <| by
  obtain ⟨spend, hspend⟩ := exists_eq' (a' := @Bucket.spend)
  unfold State.orderMessage
  rw [hspend]
  dsimp only
  repeat' split
  all_goals simp
@[simp] theorem State.keeps_order (form secured : Bool) (f : List Byte) (p : Parsed) :
    Keeps s (s.order n cls d form secured stamp f p) := .of <| by
  unfold State.order
  dsimp only
  repeat' split
  all_goals simp
@[simp] theorem State.keeps_pipeline (secured : Bool) (g : Ingress) :
    Keeps s (s.pipeline n stamp secured g) := .of <| by
  have htok := State.keeps_excToken
  have hcls := State.keeps_classLookup
  obtain ⟨token, htoken⟩ := exists_eq' (a' := @State.excToken)
  obtain ⟨lookup, hlookup⟩ := exists_eq' (a' := @State.classLookup)
  rw [htoken] at htok
  rw [hlookup] at hcls
  unfold State.pipeline
  rw [htoken, hlookup]
  dsimp only
  repeat' split
  all_goals simp [htok, hcls]
@[simp] theorem State.keeps_rxDrop (key : Nat) : Keeps s (s.rxDrop n key) := .of <| by unfold State.rxDrop; simp
@[simp] theorem State.keeps_rxCount (f : List Byte) : Keeps s (s.rxCount n f) := .of <| by unfold State.rxCount; simp
@[simp] theorem State.keeps_rxGood (secured : Bool) (f : List Byte) : Keeps s (s.rxGood n stamp secured f) := .of <| by
  unfold State.rxGood
  simp
@[simp] theorem keeps_frameReceived (r : RxFrame) : Keeps s (frameReceived r s) := .of <| by
  have hrx : Kept s (s.macsecRx (s.portOfLane r.lane) (r.bytes.take (r.bytes.length - 4))).2 := by simp
  unfold frameReceived
  dsimp only
  repeat' split
  all_goals simp_all
@[simp] theorem State.keeps_hiSerSettle : Keeps s (s.hiSerSettle n) := .of <| by unfold State.hiSerSettle; simp
@[simp] theorem State.keeps_fecDrop (touched stamped : Nat) (stomped : List Nat) :
    Keeps s (s.fecDrop n touched stamped stomped) := .of <| by unfold State.fecDrop; simp
@[simp] theorem keeps_codewordDecoded (symbols : Nat) (touched : TouchedFrames) (frames : List RxFrame)
    (stomped : List Nat) :
    Keeps s (codewordDecoded lane symbols touched frames stomped s) := .of <| by unfold codewordDecoded; simp
@[simp] theorem keeps_admitSet : Keeps s (admitSet c s) := .of <| by unfold admitSet; simp
@[simp] theorem keeps_pipeTmplW0Write : Keeps s (pipeTmplW0Write i v s) := .of <| by unfold pipeTmplW0Write; simp
@[simp] theorem keeps_frameTxPost (frame : Option (List Byte)) : Keeps s (frameTxPost c frame s) := .of <| by
  unfold frameTxPost
  dsimp only
  split <;> simp

/-! ### Machine/Release.lean -/

@[simp] theorem State.keeps_noteRefusal (p : Posting) : Keeps s (s.noteRefusal p status) := .of <| by
  unfold State.noteRefusal
  simp
@[simp] theorem State.keeps_modPosting (p : Posting) (f : Posting → Posting) : Keeps s (s.modPosting p f) := .of <| by
  unfold State.modPosting
  simp
@[simp] theorem State.keeps_refusePosting (p : Posting) : Keeps s (s.refusePosting p status) := .of <| by
  unfold State.refusePosting
  simp
@[simp] theorem keeps_releasePost : Keeps s (releasePost c s) := .of <| by
  unfold releasePost
  dsimp only
  split <;> simp
@[simp] theorem State.keeps_armCopy : Keeps s (s.armCopy rel n) := .of <| by
  unfold State.armCopy
  repeat' split
  all_goals simp
@[simp] theorem keeps_releaseAcceptance (frame : Option (List Byte)) :
    Keeps s (releaseAcceptance c frame s) := .of <| by
  unfold releaseAcceptance
  dsimp only
  repeat' split
  all_goals simp
@[simp] theorem State.keeps_preemptWire : Keeps s (s.preemptWire n) := .of <| by
  unfold State.preemptWire
  dsimp only
  split <;> simp
@[simp] theorem keeps_guardBegin : Keeps s (guardBegin n rel s) := .of <| by
  unfold guardBegin
  split <;> simp
@[simp] theorem keeps_launcherCommit : Keeps s (launcherCommit n rel s) := .of <| by
  unfold launcherCommit
  split <;> simp
@[simp] theorem keeps_copyEnd : Keeps s (copyEnd n rel s) := .of <| by
  unfold copyEnd
  repeat' split
  all_goals simp
@[simp] theorem keeps_releaseInstant : Keeps s (releaseInstant rel s) := .of <| by unfold releaseInstant; simp
@[simp] theorem keeps_releaseCompletion : Keeps s (releaseCompletion c s) := .of <| by
  unfold releaseCompletion
  split <;> simp
@[simp] theorem State.keeps_refill : Keeps s (s.refill n) := .of <| by unfold State.refill; simp
@[simp] theorem keeps_shaperRefill : Keeps s (shaperRefill s) := .of <| by unfold shaperRefill; simp
@[simp] theorem keeps_relPortShaperWrite : Keeps s (relPortShaperWrite n v s) := .of <| by
  unfold relPortShaperWrite
  simp
@[simp] theorem keeps_relQShaperWrite : Keeps s (relQShaperWrite n q v s) := .of <| by unfold relQShaperWrite; simp
@[simp] theorem State.keeps_startFrame (f : QFrame) : Keeps s (s.startFrame n f) := .of <| by
  unfold State.startFrame
  simp
@[simp] theorem State.keeps_countMaskHeld : Keeps s (s.countMaskHeld n) := .of <| by unfold State.countMaskHeld; simp
@[simp] theorem State.keeps_countDeferred : Keeps s (s.countDeferred n) := .of <| by unfold State.countDeferred; simp
@[simp] theorem keeps_txSchedule : Keeps s (txSchedule n s) := .of <| by
  unfold txSchedule
  dsimp only
  repeat' split
  all_goals simp

/-! ### Machine/HostPort.lean -/

@[simp] theorem State.keeps_clearLatches : Keeps s (s.clearLatches f) := .of <| by unfold State.clearLatches; simp
@[simp] theorem State.keeps_fnReset (sticky : Bool) : Keeps s (s.fnReset f sticky) := .of <| by
  unfold State.fnReset
  simp
@[simp] theorem State.keeps_ringsLost (f : Party → Bool) : Keeps s (s.ringsLost f) := .of <| by
  unfold State.ringsLost
  simp
@[simp] theorem State.keeps_dumpWritten : Keeps s (s.dumpWritten d) := .of <| by unfold State.dumpWritten; simp
@[simp] theorem State.keeps_sendHeld (h : HeldOut) : Keeps s (s.sendHeld h) := .of <| by
  unfold State.sendHeld
  split <;> simp
@[simp] theorem State.keeps_flushHeldOut : Keeps s (s.flushHeldOut p) := .of <| by unfold State.flushHeldOut; simp
@[simp] theorem State.keeps_failRead (entry : Option (BitVec 32)) : Keeps s (s.failRead c entry) := .of <| by
  unfold State.failRead
  dsimp only
  repeat' split
  all_goals simp
@[simp] theorem State.keeps_dropWaiting (f : Party → Bool) : Keeps s (s.dropWaiting p f) := .of <| by
  unfold State.dropWaiting
  simp
@[simp] theorem State.keeps_dropVfs (rings : Bool) : Keeps s (s.dropVfs p rings) := .of <| by unfold State.dropVfs; simp
@[simp] theorem keeps_hostLinkUp (rate width : Nat) (flit : Bool) :
    Keeps s (hostLinkUp p rate width flit s) := .of <| by unfold hostLinkUp; simp
@[simp] theorem State.keeps_linkLost : Keeps s (s.linkLost p) := .of <| by unfold State.linkLost; simp
@[simp] theorem keeps_hostLinkDown : Keeps s (hostLinkDown p s) := .of <| by unfold hostLinkDown; simp
@[simp] theorem keeps_perstAssert : Keeps s (perstAssert n s) := .of <| by unfold perstAssert; simp
@[simp] theorem keeps_perstDeassert : Keeps s (perstDeassert n s) := .of <| by unfold perstDeassert; simp
@[simp] theorem keeps_vfEnable : Keeps s (vfEnable p n s) := .of <| by unfold vfEnable; simp
@[simp] theorem keeps_vfDisable : Keeps s (vfDisable p s) := .of <| by unfold vfDisable; simp
@[simp] theorem keeps_flr : Keeps s (flr f s) := .of <| by
  unfold flr
  split
  · exact .refl s
  · split
    · exact .refl s
    · dsimp only
      rw [keeps_forAll _ _ fun g s => by split <;> simp]
      simp
@[simp] theorem keeps_flrComplete : Keeps s (flrComplete f s) := .of <| by
  unfold flrComplete
  split
  · exact .refl s
  · split
    · exact .refl s
    · simp only [kept_ite, State.keeps_modFn]
      rw [keeps_forAll _ _ fun g s => by split <;> simp]
      simp
@[simp] theorem keeps_busMasterDisable (d3 : Bool) : Keeps s (busMasterDisable f d3 s) := .of <| by
  unfold busMasterDisable
  simp
@[simp] theorem keeps_busMasterEnable : Keeps s (busMasterEnable f s) := .of <| by unfold busMasterEnable; simp
@[simp] theorem keeps_dmaCompletion (r : HostRead) (err : Option BusError) :
    Keeps s (dmaCompletion r err s) := .of <| by
  unfold dmaCompletion
  dsimp only
  split <;> simp
@[simp] theorem keeps_completionTimeout (r : HostRead) : Keeps s (completionTimeout r s) := .of <| by
  unfold completionTimeout
  simp
theorem kept_after_within {s u : State} (h : Kept s u) (ok : Bool) : Kept s ((within ok u s).after s) := by
  cases ok
  · exact .refl s
  · exact h
@[simp] theorem State.keeps_heldCommand (i : Instr) : Keeps u (((s.heldCommand i).2 u).after u) := .of <| by
  unfold State.heldCommand
  split
  case h_48 => unfold Answer.after; simp
  case h_49 => exact .refl u
  all_goals
    apply kept_after_within
    simp
@[simp] theorem keeps_hostFreezeRelease : Keeps s (hostFreezeRelease p s) := .of <| by unfold hostFreezeRelease; simp
@[simp] theorem keeps_aerStatusWrite (reg : CfgReg) (v : BitVec 32) : Keeps s (aerStatusWrite f reg v s) := .of <| by
  unfold aerStatusWrite
  simp

/-! ### Machine/Boot.lean -/

@[simp] theorem keeps_provStore (r : RegRow) (idx : List Nat) (key : Nat) :
    Keeps s (provStore r idx key v s) := .of <| by
  unfold provStore
  split <;> simp
theorem kept_provSet (type key : Nat) (h : provSet type key v s = some u) : Kept s u := by
  unfold provSet at h
  repeat' split at h
  all_goals cases h
  · simp
  · simp
theorem kept_provSets (type : Nat) (xs : List (Nat × BitVec 64)) (h : provSets type xs s = some u) : Kept s u := by
  induction xs generalizing s with
  | nil => cases h; exact .refl _
  | cons x xs ih =>
    obtain ⟨w, hw, hu⟩ := Option.bind_eq_some_iff.1 h
    exact (kept_provSet s w _ _ _ hw).trans (ih w hu)
theorem kept_provEntry (img : BitVec 512) (h : provEntry k img s = some u) : Kept s u := by
  obtain ⟨_, h⟩ := Option.ite_none_right_eq_some.1 h
  rw [← Option.some.inj h]
  simp
theorem kept_provPrefix (pair : Nat) (v6 : Bool) (len value nexthop : Nat)
    (h : provPrefix pair v6 len value nexthop s = some u) : Kept s u := by
  obtain ⟨_, h⟩ := Option.ite_none_left_eq_some.1 h
  obtain ⟨_, h⟩ := Option.ite_none_left_eq_some.1 h
  rw [← Option.some.inj h]
  simp
theorem kept_foldl_bind {α : Type} {f : α → State → Option State}
    (hf : ∀ x s u, f x s = some u → Kept s u) {xs : List α} {y : Option State} {u : State}
    (h : xs.foldl (fun y x => y.bind (f x)) y = some u) : ∃ w, y = some w ∧ Kept w u := by
  induction xs generalizing y with
  | nil => exact ⟨u, h, .refl u⟩
  | cons x xs ih =>
    obtain ⟨w, hw, hu⟩ := ih h
    obtain ⟨y, rfl, hy⟩ := Option.bind_eq_some_iff.1 hw
    exact ⟨y, rfl, (hf x y w hy).trans hu⟩
theorem kept_provTables (h : provTables bytes s = some u) : Kept s u := by
  obtain ⟨w, hw, hu⟩ := kept_foldl_bind (fun _ s u => kept_provPrefix s u _ _ _ _ _) h
  obtain ⟨s, ⟨⟩, hs⟩ := kept_foldl_bind (fun _ s u => kept_provEntry s u _ _) hw
  exact hs.trans hu
theorem kept_provRecord (r : ProvRecord) (h : provRecord r s = some u) : Kept s u := by
  obtain ⟨w, hw, hu⟩ := Option.bind_eq_some_iff.1 h
  refine .trans ?_ (kept_provSets w u _ _ hu)
  split at hw
  · exact kept_provTables _ _ _ hw
  · rw [Option.some.inj hw]
    exact .refl w
@[simp] theorem keeps_provApply (rs : List ProvRecord) : Keeps s (provApply rs s).2 := .of <| by
  induction rs generalizing s with
  | nil => exact .refl s
  | cons r rs ih =>
    unfold provApply
    repeat' split
    · exact .refl s
    · simp [Keeps.of (ih _)]
    · exact .refl s
    · next w hw => exact (kept_provRecord s w r hw).trans (ih w)
@[simp] theorem State.keeps_noteSkips (t : State) : Keeps s (s.noteSkips t) := .of <| by unfold State.noteSkips; simp
@[simp] theorem State.keeps_loadCalibration : Keeps s s.loadCalibration := .of <| by unfold State.loadCalibration; simp
@[simp] theorem State.keeps_provisioned (m : Image) : Keeps s (s.provisioned m).2 := .of <| by
  unfold State.provisioned
  dsimp only
  repeat' split
  all_goals simp
@[simp] theorem State.keeps_recoverTally : Keeps s s.recoverTally := .of <| by unfold State.recoverTally; simp
@[simp] theorem State.keeps_startFail (ok : Bool) : Keeps s (s.startFail x ok) := .of <| by unfold State.startFail; simp
@[simp] theorem State.keeps_startSources : Keeps s (s.startSources inp) := .of <| by unfold State.startSources; simp
@[simp] theorem State.keeps_startPorts : Keeps s s.startPorts := .of <| by unfold State.startPorts; simp
@[simp] theorem State.keeps_startGallery : Keeps s s.startGallery := .of <| by unfold State.startGallery; simp
@[simp] theorem State.keeps_startClusters : Keeps s s.startClusters := .of <| by unfold State.startClusters; simp
@[simp] theorem State.keeps_startPolicers : Keeps s s.startPolicers := .of <| by unfold State.startPolicers; simp
@[simp] theorem State.keeps_repair : Keeps s (s.repair inp) := .of <| by unfold State.repair; simp
@[simp] theorem State.keeps_runImage (m : Image) (source : Nat) : Keeps s (s.runImage m source inp) := .of <| by
  obtain ⟨add, hadd⟩ := exists_eq' (a' := @HAdd.hAdd Nat Nat Nat _)
  obtain ⟨mul, hmul⟩ := exists_eq' (a' := @HMul.hMul Nat Nat Nat _)
  unfold State.runImage
  rw [hadd, hmul]
  simp
@[simp] theorem State.keeps_tryImage (m : Image) : Keeps s (s.tryImage m).2.2 := .of <| by
  unfold State.tryImage
  dsimp only
  split <;> simp
@[simp] theorem State.keeps_tryBanks (bs : List Nat) : Keeps s (s.tryBanks inp bs) := .of <| by
  induction bs generalizing s with
  | nil => unfold State.tryBanks; simp
  | cons b bs ih =>
    unfold State.tryBanks
    dsimp only
    split <;> simp [Keeps.of (ih _)]
@[simp] theorem State.keeps_fullStart : Keeps s (s.fullStart inp) := .of <| by unfold State.fullStart; simp
@[simp] theorem State.keeps_blowFuse (blown : Bool) : Keeps s (s.blowFuse n blown) := .of <| by
  unfold State.blowFuse
  simp
@[simp] theorem State.keeps_settleFuse : Keeps s s.settleFuse := .of <| by
  unfold State.settleFuse
  split <;> simp
@[simp] theorem State.keeps_cutProgram : Keeps s s.cutProgram := .of <| by
  unfold State.cutProgram
  split <;> simp
@[simp] theorem State.keeps_settleLedger : Keeps s s.settleLedger := .of <| by unfold State.settleLedger; simp
@[simp] theorem State.keeps_loadPolicy : Keeps s s.loadPolicy := .of <| by unfold State.loadPolicy; simp
@[simp] theorem State.keeps_noteTrip : Keeps s s.noteTrip := .of <| by
  unfold State.noteTrip
  split <;> simp
@[simp] theorem State.keeps_findFlash : Keeps s (s.findFlash inp) := .of <| by unfold State.findFlash; simp
@[simp] theorem State.keeps_setStraps (devId : Nat) (master : Bool) : Keeps s (s.setStraps devId master) := .of <| by
  unfold State.setStraps
  simp
@[simp] theorem State.keeps_sampleStraps : Keeps s (s.sampleStraps inp) := .of <| by unfold State.sampleStraps; simp
@[simp] theorem State.keeps_loseRetention : Keeps s s.loseRetention := .of <| by
  unfold State.loseRetention
  simp
/-- The staging area is in canonical form: an image's cells are written from the empty memory up (R332). -/
theorem staging_wf {s : State} (h : sound s = true) : memWf s.staging = true := by
  have hcells (xs : List (Nat × List Byte)) {m : List Host.Cell} (h : memWf m = true) :
      memWf (xs.foldl (fun c x => memWrite x.1 x.2 c) m) = true := by
    induction xs generalizing m with
    | nil => exact h
    | cons x xs ih => exact ih (memWrite_wf _ _ h)
  obtain ⟨-, hr, -⟩ := sound_iff.1 h
  unfold State.staging
  split
  · exact hcells _ (memWrite_wf _ _ (memWrite_wf _ _ memWf_nil))
  · exact hr

@[simp] theorem State.keeps_dropDigest : Keeps s s.dropDigest := .of fun h => by
  obtain ⟨hl, -, hg⟩ := sound_iff.1 h
  exact ⟨hl, staging_wf h, hg⟩
@[simp] theorem keeps_bootRecWinWrite (off : Nat) : Keeps s (bootRecWinWrite off v s) := .of <| by
  unfold bootRecWinWrite
  dsimp only
  split
  · simp
  · intro h
    obtain ⟨hl, -, hg⟩ := sound_iff.1 h
    exact ⟨hl, memWrite_wf _ _ (staging_wf h), hg⟩
@[simp] theorem keeps_recAction : Keeps s (recAction a s) := .of <| by
  unfold recAction
  dsimp only
  repeat' split
  all_goals simp
@[simp] theorem State.keeps_bootFromRecovery (m : Image) (source : Nat) :
    Keeps s (s.bootFromRecovery m source) := .of <| by unfold State.bootFromRecovery; simp
@[simp] theorem keeps_recActionComplete (readBackOk : Bool) : Keeps s (recActionComplete readBackOk s) := .of <| by
  unfold recActionComplete
  dsimp only
  repeat' split
  all_goals simp
@[simp] theorem keeps_fuseRaise : Keeps s (fuseRaise c s) := .of <| by unfold fuseRaise; simp
@[simp] theorem State.keeps_fuseDone (f : FuseCmd) : Keeps s (s.fuseDone f status) := .of <| by
  unfold State.fuseDone
  dsimp only
  split <;> simp
@[simp] theorem keeps_bootFuseConfirm : Keeps s (bootFuseConfirm who v s) := .of <| by
  unfold bootFuseConfirm
  dsimp only
  repeat' split
  all_goals simp
@[simp] theorem keeps_noConfirm : Keeps s (noConfirm s) := .of <| by
  unfold noConfirm
  split <;> simp
@[simp] theorem keeps_fuseProgramDone (blown : Bool) : Keeps s (fuseProgramDone blown s) := .of <| by
  unfold fuseProgramDone
  split <;> simp
@[simp] theorem keeps_recWrite : Keeps s (recWrite a s) := .of <| by unfold recWrite; simp

/-! ### Machine/Power.lean -/

@[simp] theorem State.keeps_setPower (f : PowerState → PowerState) : Keeps s (s.setPower f) := .of <| by
  unfold State.setPower
  simp
@[simp] theorem State.keeps_portsDark : Keeps s s.portsDark := .of <| by unfold State.portsDark; simp
@[simp] theorem State.keeps_powerFailure : Keeps s (s.powerFailure cause) := .of <| by unfold State.powerFailure; simp
@[simp] theorem keeps_powerFail : Keeps s (powerFail s) := .of <| by unfold powerFail; simp
@[simp] theorem keeps_droopTrip : Keeps s (droopTrip s) := .of <| by unfold droopTrip; simp
@[simp] theorem keeps_supplyCollapse (written : Nat) : Keeps s (supplyCollapse written s) := .of <| by
  unfold supplyCollapse
  simp
@[simp] theorem State.keeps_setFreq (mhz : Nat) : Keeps s (s.setFreq k mhz) := .of <| by unfold State.setFreq; simp
@[simp] theorem State.keeps_endSprint : Keeps s s.endSprint := .of <| by unfold State.endSprint; simp
@[simp] theorem State.keeps_grantSprint : Keeps s s.grantSprint := .of <| by unfold State.grantSprint; simp
@[simp] theorem keeps_sprintReqWrite : Keeps s (sprintReqWrite who v s) := .of <| by unfold sprintReqWrite; simp
@[simp] theorem State.keeps_raiseLevel : Keeps s (s.raiseLevel l) := .of <| by unfold State.raiseLevel; simp
@[simp] theorem State.keeps_trip (sensor : Nat) (t : Int) : Keeps s (s.trip sensor t) := .of <| by
  unfold State.trip
  simp
@[simp] theorem State.keeps_storeTemps (xs : List Int) : Keeps s (s.storeTemps xs) := .of <| by
  unfold State.storeTemps
  simp
@[simp] theorem State.keeps_averageTick : Keeps s s.averageTick := .of <| by unfold State.averageTick; simp
@[simp] theorem keeps_sensorSample (xs : List Int) : Keeps s (sensorSample xs s) := .of <| by unfold sensorSample; simp
@[simp] theorem State.keeps_shedEngine : Keeps s s.shedEngine := .of <| by
  unfold State.shedEngine
  dsimp only
  split <;> simp
@[simp] theorem keeps_ladderStep : Keeps s (ladderStep s) := .of <| by unfold ladderStep; simp
@[simp] theorem State.keeps_judgeCap : Keeps s s.judgeCap := .of <| by unfold State.judgeCap; simp
@[simp] theorem keeps_powerAverage : Keeps s (powerAverage w s) := .of <| by unfold powerAverage; simp
@[simp] theorem keeps_deepRestEnter : Keeps s (deepRestEnter who s) := .of <| by unfold deepRestEnter; simp
@[simp] theorem keeps_restWrite : Keeps s (restWrite who s) := .of <| by unfold restWrite; simp

/-! ### Machine/Observe.lean -/

@[simp] theorem State.keeps_modBank (f : Bank → Bank) : Keeps s (s.modBank b f) := .of <| by unfold State.modBank; simp
@[simp] theorem keeps_headcountWrite : Keeps s (headcountWrite v s) := .of <| by unfold headcountWrite; simp
@[simp] theorem State.keeps_rearmOvf : Keeps s s.rearmOvf := .of <| by unfold State.rearmOvf; simp
@[simp] theorem State.keeps_captureVfs (values : Store Word) (ns : Nat) :
    Keeps s (s.captureVfs values ns number) := .of <| by
  unfold State.captureVfs
  dsimp only
  simp
@[simp] theorem keeps_capture : Keeps s (capture b s) := .of <| by unfold capture; simp
@[simp] theorem keeps_bankFilled : Keeps s (bankFilled b s) := .of <| by unfold bankFilled; simp
@[simp] theorem keeps_dumpCfgWrite : Keeps s (dumpCfgWrite v s) := .of <| by unfold dumpCfgWrite; simp
@[simp] theorem keeps_periodicDump : Keeps s (periodicDump s) := .of <| by
  unfold periodicDump
  dsimp only
  simp only [kept_ite, State.keeps_count, kept_mk, storesKept_of_state, State.keeps_dma, State.keeps_dumpWritten,
    Kept.refl, true_or, and_self]
@[simp] theorem State.keeps_logStated (e : LogEvent) : Keeps s (s.logStated e) := .of <| by
  unfold State.logStated
  split <;> simp
@[simp] theorem State.keeps_logWrite (e : LogEvent) : Keeps s (s.logWrite e) := .of <| by unfold State.logWrite; simp
@[simp] theorem State.keeps_logSuppress (e : LogEvent) : Keeps s (s.logSuppress e) := .of <| by
  unfold State.logSuppress
  simp
@[simp] theorem keeps_logRecordWrite : Keeps s (logRecordWrite s) := .of <| by
  unfold logRecordWrite
  split <;> simp
@[simp] theorem keeps_logRateWrite : Keeps s (logRateWrite v s) := .of <| by unfold logRateWrite; simp
@[simp] theorem keeps_hoursTick : Keeps s (hoursTick s) := .of <| by unfold hoursTick; simp
@[simp] theorem State.keeps_traceMove : Keeps s (s.traceMove n) := .of <| by unfold State.traceMove; simp
@[simp] theorem State.keeps_traceOut : Keeps s (s.traceOut bs) := .of <| by unfold State.traceOut; simp
@[simp] theorem State.keeps_traceFrame (type : Nat) : Keeps s (s.traceFrame core type payload) := .of <| by
  unfold State.traceFrame
  simp
@[simp] theorem State.keeps_traceSync : Keeps s (s.traceSync core) := .of <| by unfold State.traceSync; simp
@[simp] theorem State.keeps_traceLoss : Keeps s (s.traceLoss core n) := .of <| by unfold State.traceLoss; simp
@[simp] theorem State.keeps_traceOverflow : Keeps s (s.traceOverflow core) := .of <| by unfold State.traceOverflow; simp
@[simp] theorem State.keeps_tracePacketSync : Keeps s (s.tracePacketSync core) := .of <| by
  unfold State.tracePacketSync
  simp
@[simp] theorem keeps_dialSync : Keeps s (dialSync core s) := .of <| by unfold dialSync; simp
@[simp] theorem keeps_powerGap (gated : Bool) (unsent : Nat) : Keeps s (powerGap core gated unsent s) := .of <| by
  unfold powerGap
  simp
@[simp] theorem keeps_idleExit : Keeps s (idleExit core s) := .of <| by unfold idleExit; simp

/-! ### Machine/Life.lean -/

@[simp] theorem State.keeps_rowCorrected (t : ScrubTarget) (row : Nat) : Keeps s (s.rowCorrected t row) := .of <| by
  unfold State.rowCorrected
  simp
@[simp] theorem State.keeps_ingressError : Keeps s s.ingressError := .of <| by unfold State.ingressError; simp
@[simp] theorem State.keeps_retireCore : Keeps s (s.retireCore c) := .of <| by unfold State.retireCore; simp
@[simp] theorem State.keeps_discardItem (item : RowItem) (row : Nat) : Keeps s (s.discardItem item row) := .of <| by
  unfold State.discardItem
  repeat' split
  all_goals simp
@[simp] theorem keeps_memoryScrub (t : ScrubTarget) (place : ScrubPlace) (r : EccResult) :
    Keeps s (memoryScrub t place r s) := .of <| by
  unfold memoryScrub
  split <;> simp
@[simp] theorem keeps_lifeAverageUpdate (tj : Int) (util : Nat) : Keeps s (lifeAverageUpdate tj util s) := .of <| by
  unfold lifeAverageUpdate
  simp
@[simp] theorem keeps_lifeQuery : Keeps s (lifeQuery c s) := .of <| by unfold lifeQuery; simp
@[simp] theorem keeps_laneMarginCheck (low : Bool) : Keeps s (laneMarginCheck lane low s) := .of <| by
  unfold laneMarginCheck
  simp
@[simp] theorem keeps_ageingCheck (margins : List Nat) : Keeps s (ageingCheck margins s) := .of <| by
  unfold ageingCheck
  simp

/-! ### Machine/Sequencer.lean -/

@[simp] theorem keeps_holdStoreArrival : Keeps s (holdStoreArrival pipe s) := .of <| by
  unfold holdStoreArrival
  split <;> simp
@[simp] theorem keeps_mirrorRecord (r : MirrorRec) : Keeps s (mirrorRecord d r s) := .of <| by
  unfold mirrorRecord
  dsimp only
  repeat' split
  all_goals simp
@[simp] theorem State.keeps_seqRefused : Keeps s (s.seqRefused d) := .of <| by unfold State.seqRefused; simp
@[simp] theorem keeps_seqFeedWrite : Keeps s (seqFeedWrite d m v s) := .of <| by unfold seqFeedWrite; simp
@[simp] theorem keeps_seqDomainCfgWrite : Keeps s (seqDomainCfgWrite d v s) := .of <| by unfold seqDomainCfgWrite; simp
@[simp] theorem keeps_seqNextWrite : Keeps s (seqNextWrite d v s) := .of <| by unfold seqNextWrite; simp
@[simp] theorem keeps_seqCfgSet : Keeps s (seqCfgSet c s) := .of <| by unfold seqCfgSet; simp
@[simp] theorem keeps_admitOpen : Keeps s (admitOpen d s) := .of <| by unfold admitOpen; simp
@[simp] theorem keeps_noteOpen : Keeps s (noteOpen d s) := .of <| by unfold noteOpen; simp
@[simp] theorem keeps_decideOpen : Keeps s (decideOpen d s) := .of <| by unfold decideOpen; simp
@[simp] theorem keeps_decideOpens (ds : List Nat) : Keeps s (decideOpens ds s) := .of <| by unfold decideOpens; simp
@[simp] theorem keeps_openCommand : Keeps s (openCommand d s) := .of <| by unfold openCommand; simp
@[simp] theorem keeps_domainOpens : Keeps s (domainOpens d s) := .of <| by unfold domainOpens; simp
@[simp] theorem State.keeps_toClosed (event : Nat) : Keeps s (s.toClosed d event) := .of <| by
  unfold State.toClosed
  simp
@[simp] theorem keeps_closeCommand : Keeps s (closeCommand d s) := .of <| by
  unfold closeCommand
  split <;> simp
@[simp] theorem keeps_domainCloses : Keeps s (domainCloses d s) := .of <| by unfold domainCloses; simp
@[simp] theorem keeps_forceClose : Keeps s (forceClose d s) := .of <| by unfold forceClose; simp
@[simp] theorem keeps_seqCtlWrite : Keeps s (seqCtlWrite d v s) := .of <| by
  unfold seqCtlWrite
  split <;> simp
@[simp] theorem State.keeps_publishAll (ns : List Numbered) : Keeps s (s.publishAll d ns) := .of <| by
  induction ns generalizing s with
  | nil => exact .refl s
  | cons n ns ih => unfold State.publishAll; simp [Keeps.of (ih _)]
@[simp] theorem keeps_takeoverCommand : Keeps s (takeoverCommand v s) := .of <| by unfold takeoverCommand; simp

/-! ### Machine/Tick.lean -/

@[simp] theorem State.keeps_raiseDialFault : Keeps s s.raiseDialFault := .of <| by unfold State.raiseDialFault; simp
@[simp] theorem State.keeps_keepFrontiers : Keeps s s.keepFrontiers := .of <| by unfold State.keepFrontiers; simp
@[simp] theorem State.keeps_sweepBoundary : Keeps s s.sweepBoundary := .of <| by unfold State.sweepBoundary; simp
@[simp] theorem keeps_decideWaiting (ws : List Nat) : Keeps s (decideWaiting ws s) := .of <| by
  unfold decideWaiting
  simp
@[simp] theorem State.keeps_scheduleRate (sec : Nat) : Keeps s (s.scheduleRate n sec) := .of <| by
  unfold State.scheduleRate
  simp
@[simp] theorem State.keeps_summariseDrops : Keeps s (s.summariseDrops n) := .of <| by unfold State.summariseDrops; simp
@[simp] theorem State.keeps_summariseOutside : Keeps s (s.summariseOutside d) := .of <| by
  unfold State.summariseOutside
  simp
@[simp] theorem State.keeps_summariseSuppressed : Keeps s s.summariseSuppressed := .of <| by
  unfold State.summariseSuppressed
  simp
@[simp] theorem keeps_wholeDialSecond : Keeps s (wholeDialSecond s) := .of <| by unfold wholeDialSecond; simp

/-! ### Machine/Registers.lean -/

@[simp] theorem keeps_laneCalWrite : Keeps s (laneCalWrite k n v s) := .of <| by unfold laneCalWrite; simp
@[simp] theorem keeps_templateStage : Keeps s (templateStage k v s) := .of <| by unfold templateStage; simp
@[simp] theorem keeps_portPfcWrite : Keeps s (portPfcWrite n v s) := .of <| by unfold portPfcWrite; simp
@[simp] theorem keeps_seqCopyWrite : Keeps s (seqCopyWrite d v s) := .of <| by unfold seqCopyWrite; simp
@[simp] theorem keeps_galDomWrite : Keeps s (galDomWrite d v s) := .of <| by unfold galDomWrite; simp
@[simp] theorem keeps_galAsymWrite : Keeps s (galAsymWrite i v s) := .of <| by unfold galAsymWrite; simp
@[simp] theorem keeps_mboxToWrite (x : Word) : Keeps s (mboxToWrite p w x s) := .of <| by unfold mboxToWrite; simp
@[simp] theorem keeps_mboxOutWrite (v : Nat) (x : Word) : Keeps s (mboxOutWrite p v w x s) := .of <| by
  unfold mboxOutWrite
  simp
@[simp] theorem keeps_pwrWrite : Keeps s (pwrWrite who k v s) := .of <| by unfold pwrWrite; simp
@[simp] theorem kept_bootWrite (f : State → State) : Kept u (bootWrite who f s) ↔
    Kept u (if who = .pf 0 then f s else s.count Reg.BOOT_CNT_REFUSED) := Iff.rfl
@[simp] theorem keeps_recOffsetWrite : Keeps s (recOffsetWrite v s) := .of <| by unfold recOffsetWrite; simp
@[simp] theorem keeps_recCtlWrite : Keeps s (recCtlWrite v s) := .of <| by unfold recCtlWrite; simp
@[simp] theorem keeps_bootPolicyWrite : Keeps s (bootPolicyWrite v s) := .of <| by unfold bootPolicyWrite; simp
@[simp] theorem keeps_readOnlyWrite : Keeps s (readOnlyWrite who slot s) := .of <| by unfold readOnlyWrite; simp
@[simp] theorem keeps_whileRuns {f : State → State} (h : ∀ s, Kept s (f s)) : Keeps s (whileRuns slot f s) := .of <| by
  unfold whileRuns
  split <;> simp [Keeps.of (h _)]
@[simp] theorem keeps_logWinBaseWrite : Keeps s (logWinBaseWrite v s) := .of <| by unfold logWinBaseWrite; simp
@[simp] theorem keeps_stepCtlWrite : Keeps s (stepCtlWrite v s) := .of <| by unfold stepCtlWrite; simp
@[simp] theorem State.keeps_storeRow (r : RegRow) : Keeps s (s.storeRow r k v) := .of <| by unfold State.storeRow; simp
@[simp] theorem keeps_slotSettle : Keeps s (slotSettle n k s) := .of <| by unfold slotSettle; simp
@[simp] theorem keeps_ppsOutWrite (r : RegRow) : Keeps s (ppsOutWrite r v s) := .of <| by unfold ppsOutWrite; simp
@[simp] theorem keeps_ringWindowWrite (o : Nat) : Keeps s (ringWindowWrite who c o v s) := .of <| by
  unfold ringWindowWrite
  simp
@[simp] theorem State.keeps_writeRow (r : RegRow) (idx : List Nat) : Keeps s (s.writeRow who r idx k v) := .of <| by
  unfold State.writeRow
  split <;> simp
@[simp] theorem keeps_nvmeWindowWrite (o : Nat) (v : BitVec 32) : Keeps s (nvmeWindowWrite f o v s) := .of <| by
  unfold nvmeWindowWrite
  simp
@[simp] theorem State.keeps_writeVf (v o : Nat) (x : Word) : Keeps s (s.writeVf p v o x) := .of <| by
  unfold State.writeVf
  simp
@[simp] theorem keeps_nvmeWrite64 (o : Nat) : Keeps s (nvmeWrite64 f o v s) := .of <| by unfold nvmeWrite64; simp
@[simp] theorem State.keeps_commit (t : Target) : Keeps s (s.commit who t v) := .of <| by
  unfold State.commit
  repeat' split
  all_goals simp
@[simp] theorem State.keeps_commitHalf (t : Target) (hi : Bool) (v : BitVec 32) :
    Keeps s (s.commitHalf who t hi v) := .of <| by
  unfold State.commitHalf
  split <;> simp
@[simp] theorem keeps_onAccess {f : Target → State → State} (h : ∀ x s, Kept s (f x s)) :
    Keeps s (onAccess who a f s) := .of <| by
  unfold onAccess
  dsimp only
  split <;> simp [h]
@[simp] theorem keeps_write64 : Keeps s (write64 who a v s) := .of <| by unfold write64; simp
@[simp] theorem keeps_writeLow (v : BitVec 32) : Keeps s (writeLow who a v s) := .of <| by unfold writeLow; simp
@[simp] theorem keeps_writeHighReady (v : BitVec 32) : Keeps s (writeHighReady who a v s) := .of <| by
  unfold writeHighReady
  simp
@[simp] theorem keeps_writeHigh (v : BitVec 32) : Keeps s (writeHigh who a v s) := .of <| by unfold writeHigh; simp
@[simp] theorem State.keeps_badAccess : Keeps s (s.badAccess who) := .of <| by
  unfold State.badAccess
  split <;> simp
@[simp] theorem keeps_registerWrite (size : Nat) (v : BusValue) : Keeps s (registerWrite who a size v s) := .of <| by
  unfold registerWrite
  simp

/-! ### Commands that move the Dial -/

@[simp] theorem State.keeps_voteDial : Keeps s s.voteDial := .of <| by unfold State.voteDial; simp
@[simp] theorem State.keeps_advance : Keeps s s.advance := .of <| by unfold State.advance; simp
@[simp] theorem keeps_dialTick : Keeps s (dialTick s) := .of <| by unfold dialTick; simp
@[simp] theorem keeps_slewComplete : Keeps s (slewComplete s) := .of <| by unfold slewComplete; simp
@[simp] theorem State.keeps_loadDial (r : StepReq) : Keeps s (s.loadDial r) := .of <| by unfold State.loadDial; simp
@[simp] theorem keeps_stepComplete : Keeps s (stepComplete s) := .of <| by
  unfold stepComplete
  split <;> simp
@[simp] theorem keeps_stepDone : Keeps s (stepDone s) := .of <| by unfold stepDone; simp
@[simp] theorem State.keeps_joinLoad (offset : Int) : Keeps s (s.joinLoad offset) := .of <| by
  unfold State.joinLoad
  simp
@[simp] theorem keeps_dialSample (x : DialSample) : Keeps s (dialSample n x s) := .of <| by unfold dialSample; simp
@[simp] theorem State.keeps_wipe : Keeps s s.wipe := .of <| by
  unfold State.wipe keepRegs
  simp
@[simp] theorem State.keeps_wholeReset : Keeps s (s.wholeReset cause) := .of <| by
  unfold State.wholeReset
  dsimp only
  split <;> simp
@[simp] theorem State.keeps_coldStart : Keeps s (s.coldStart cause inp) := .of <| by unfold State.coldStart; simp
@[simp] theorem keeps_powerOn : Keeps s (powerOn inp s) := .of <| by unfold powerOn; simp
@[simp] theorem keeps_resetNAssert : Keeps s (resetNAssert inp s) := .of <| by
  unfold resetNAssert
  split <;> simp
@[simp] theorem keeps_watchdog : Keeps s (watchdog inp s) := .of <| by unfold watchdog; simp
@[simp] theorem keeps_wake : Keeps s (wake inp s) := .of <| by
  unfold wake
  dsimp only
  repeat' split
  all_goals simp
@[simp] theorem keeps_thermtripRecheck (readings : List Int) :
    Keeps s (thermtripRecheck readings inp s) := .of <| by unfold thermtripRecheck; simp
@[simp] theorem keeps_seqErr : Keeps s (seqErr s) := .of <| by unfold seqErr; simp
@[simp] theorem keeps_pllLockLoss (pll : Pll) : Keeps s (pllLockLoss pll s) := .of <| by
  unfold pllLockLoss
  split <;> simp

end

theorem Kept.of_within {s t u : State} {ok : Bool} (h : Kept s t) (hu : within ok t s = .next u) : Kept s u := by
  cases ok <;> cases hu
  · exact .refl s
  · exact h

/-- Whatever a command does, it keeps the canonical form. -/
theorem kept_exec {c : Instr} {s t : State} (h : exec c s = .next t) : Kept s t := by
  cases c
  all_goals
    refine .of_within ?_ h
    simp

/-- Settles O59: an edit of one of the three stores keeps its canonical form (storesKept_put, storesKept_filter,
storesKept_memWrite, storesKept_nil, staging_wf), and every command is made of operations that keep it (kept_exec). -/
theorem stepKeepsStoresCanonical : Obligations.StepKeepsStoresCanonical := by
  intro s t hs h
  obtain ⟨-, rfl⟩ | ⟨c, rest, -, hc⟩ := step_cases h
  · exact hs
  · exact kept_iff.1 (kept_exec hc) hs

end Sys2Proof.Machine
end

section
namespace Sys2Proof.Machine

open Sys2Proof.Claims

/-! ## AUD beside the registers, and its register writes (R182, R365) -/

theorem State.aud_logEvent (number block : Nat) (params : List Nat) (s : State) :
    (s.logEvent number block params).aud = s.aud := by
  rw [State.logEvent_frame]

theorem State.aud_setReg (k : Nat) (v : Word) (s : State) : (s.setReg k v).aud = s.aud := rfl

theorem State.aud_count (k : Nat) (s : State) : (s.count k).aud = s.aud := rfl

/-- A change of the fill changes FULL and PRESSURE alone of AUD's state beside the registers. -/
theorem State.aud_setFill (n : Nat) (s : State) : ∃ full pressure,
    (s.setFill n).aud = { s.aud with full := full, pressure := pressure } := by
  unfold State.setFill
  dsimp only
  split
  · rw [State.aud_logEvent, State.aud_count, State.aud_setReg]
    exact ⟨_, _, rfl⟩
  · rw [State.aud_setReg]
    exact ⟨_, _, rfl⟩

theorem discarded_aud (who : Party) (key : Nat) (s : State) : (discarded who key s).aud = s.aud := by
  rw [discarded, State.unstage_frame]

/-- A register write of AUD that is taken, which no stopped block holds up. -/
theorem within_auditWrite {who : Party} {ok : Bool} {s : State} (hacc : accepted who s = true) (hok : ok = true)
    (k : Nat) (f : State → State) :
    within ok (pfWrite who false false (whole who k f) s) s = .next (f (discarded who k s)) := by
  rw [hok, within_true, pfWrite_accepted hacc]
  rfl

end Sys2Proof.Machine
end

section
namespace Sys2Proof.Machine

open Sys2Proof.Claims

/-! ## What sealing an epoch changes (R168 to R172) -/

/-- Of the registers, a record written changes the ring's head and fill, and what is counted and logged of the fill. -/
theorem State.reg_auditWrite_ne {k : Nat} (hk : k ∉ [Reg.AUD_FILL, Reg.AUD_CNT_PRESSURE, Reg.LOG_CNT_QUEUE_DROP,
    Reg.AUD_NEXT_INDEX, Reg.AUD_HEAD]) (bs : List Byte) (s : State) : (s.auditWrite bs).reg k = s.reg k := by
  simp only [List.mem_cons, List.not_mem_nil, or_false, not_or] at hk
  obtain ⟨hfill, hpressure, hdrop, hindex, hhead⟩ := hk
  unfold State.auditWrite
  extract_lets i seg _ marked queued indexed
  rw [State.reg_setFill_ne hfill hpressure hdrop, State.reg_setReg_ne hhead, State.reg_setReg_ne hindex]
  unfold queued marked
  split <;> rfl

theorem State.auditPut_index (bs : List Byte) (s : State) :
    (s.auditPut bs).reg Reg.AUD_NEXT_INDEX = s.reg Reg.AUD_NEXT_INDEX + 1 := by
  rw [State.auditPut, State.auditWrite_index, State.reg_count_ne (by decide)]

theorem word_toNat_succ (v : Word) : word (v.toNat + 1) = v + 1 := by
  rw [word, BitVec.ofNat_add]
  exact congrArg (· + 1) (BitVec.ofNat_toNat ..)

/-- A seal is one record more, ends its epoch, and is counted. -/
structure Sealed (s t : State) : Prop where
  epoch : t.aud.epoch = none
  index : t.reg Reg.AUD_NEXT_INDEX = s.reg Reg.AUD_NEXT_INDEX + 1
  number : t.reg Reg.AUD_EPOCH = s.reg Reg.AUD_EPOCH + 1
  counted : counts Reg.AUD_CNT_SEALS 1 s t

theorem State.auditSeal_seals {s : State} {e : Epoch} (he : s.aud.epoch = some e) (hslot : s.auditNoSlot = false)
    (tail reseal : Bool) : Sealed s (s.auditSeal tail reseal) := by
  unfold State.auditSeal
  rw [he]
  dsimp only
  rw [hslot, if_neg Bool.false_ne_true]
  refine ⟨rfl, ?_, ?_, counts_one_iff.2 ?_⟩
  · rw [State.reg_count_ne (by decide), State.reg_setReg_ne (by decide), State.reg_setReg_ne (by decide)]
    exact ((State.reg_setAud ..).trans <| (State.reg_setAud ..).trans <| (State.reg_setAud ..).trans <|
      State.reg_setAud ..).trans (State.auditPut_index ..)
  · rw [State.reg_count_ne (by decide), State.reg_setReg_self, word_toNat_succ]
  · rw [State.reg_count_self, State.reg_setReg_ne (by decide), State.reg_setReg_ne (by decide)]
    refine congrArg (counterPlus 1) (((State.reg_setAud ..).trans <| (State.reg_setAud ..).trans <|
      (State.reg_setAud ..).trans <| State.reg_setAud ..).trans ?_)
    exact (State.reg_auditWrite_ne (by decide) _ _).trans (State.reg_count_ne (by decide) s)

theorem State.auditSeal_of_none {s : State} (he : s.aud.epoch = none) (tail reseal : Bool) :
    s.auditSeal tail reseal = s := by
  simp [State.auditSeal, he]

theorem epochTimeout_due {s : State} {e : Epoch} (he : s.aud.epoch = some e) (hdue : s.epochDue e = true) :
    epochTimeout s = s.auditSeal false false := by
  simp [epochTimeout, he, hdue]

/-! ## The slot whose key the chain runs under (R171) -/

section

variable (s : State)

theorem State.keySlot_setFill (n : Nat) : (s.setFill n).aud.keySlot = s.aud.keySlot := by
  obtain ⟨full, pressure, haud⟩ := s.aud_setFill n
  rw [haud]

theorem State.keySlot_auditWrite (bs : List Byte) : (s.auditWrite bs).aud.keySlot = s.aud.keySlot := by
  unfold State.auditWrite
  extract_lets i seg _ marked queued indexed
  rw [State.keySlot_setFill, State.aud_setReg]
  unfold indexed
  rw [State.aud_setReg]
  unfold queued marked State.ledgerQueue
  split <;> rfl

theorem State.keySlot_ledgerQueue (a : Nat) (ws : List Word) :
    (s.ledgerQueue a ws).aud.keySlot = s.aud.keySlot := rfl

theorem State.keySlot_auditSeal (tail reseal : Bool) : (s.auditSeal tail reseal).aud.keySlot = s.aud.keySlot := by
  unfold State.auditSeal
  split
  · rfl
  · split
    · rfl
    · have hput (bs : List Byte) : (s.auditPut bs).aud.keySlot = s.aud.keySlot := by
        rw [State.auditPut, State.keySlot_auditWrite, State.aud_count]
      dsimp only
      rw [State.aud_count, State.aud_setReg, State.aud_setReg]
      simp only [State.keySlot_ledgerQueue, hput]

theorem State.keySlot_sealDue : s.sealDue.aud.keySlot = s.aud.keySlot := by
  unfold State.sealDue
  split
  · rfl
  · split
    · exact State.keySlot_auditSeal ..
    · rfl

theorem State.keySlot_auditUnplace (n : Nat) : (s.auditUnplace n).aud.keySlot = s.aud.keySlot := by
  unfold State.auditUnplace
  split <;> rfl

theorem State.keySlot_auditStands (rs : List AuditRec) :
    (rs.foldl State.auditStand s).aud.keySlot = s.aud.keySlot := by
  induction rs generalizing s with
  | nil => rfl
  | cons r rs ih => exact (ih _).trans (State.keySlot_auditWrite s _)

theorem State.keySlot_auditJoin (r : AuditRec) : (s.auditJoin r).aud.keySlot = s.aud.keySlot := by
  have hdue := State.keySlot_sealDue s
  unfold State.auditJoin State.auditPlace
  split
  · rw [State.aud_count, hdue]
  · refine (State.keySlot_auditStands ..).trans ?_
    rw [State.keySlot_auditUnplace, State.aud_count, hdue]

theorem State.keySlot_auditGap : s.auditGap.aud.keySlot = s.aud.keySlot := by
  unfold State.auditGap
  split
  · rfl
  · exact State.keySlot_auditJoin ..

/-- Producing a record leaves it. -/
theorem State.keySlot_audit (r : AuditRec) : (s.audit r).aud.keySlot = s.aud.keySlot := by
  have hready : s.auditReady.aud.keySlot = s.aud.keySlot := by
    unfold State.auditReady
    split
    · rfl
    · rw [State.keySlot_sealDue, State.keySlot_auditGap, State.keySlot_sealDue]
  unfold State.audit
  dsimp only
  split
  · rfl
  · split
    · exact hready
    · have hjoin := (State.keySlot_auditJoin s.auditReady r).trans hready
      unfold State.auditAppend
      dsimp only
      split
      · exact (State.keySlot_auditSeal ..).trans hjoin
      · exact hjoin

end

/-! ## A new chain (R165, R171) -/

theorem AuditOnly.auditStart {s t : State} (h : AuditOnly s t) : AuditOnly s t.auditStart :=
  ((h.setReg (by decide) _).ledgerQueue _ _).audit _

/-- START is a record more, and the start count rises. -/
theorem State.auditStart_spec (s : State) : s.auditStart.aud.keySlot = s.aud.keySlot ∧
    s.auditStart.reg Reg.AUD_START_COUNT = s.reg Reg.AUD_START_COUNT + 1 ∧
    s.auditStart.reg Reg.AUD_CHAIN = s.reg Reg.AUD_CHAIN := by
  unfold State.auditStart
  extract_lets n counted queued
  refine ⟨State.keySlot_audit .., (State.reg_audit (by decide) ..).trans ?_, (State.reg_audit (by decide) ..).trans ?_⟩
  · refine (State.reg_setReg_self ..).trans ?_
    exact word_toNat_succ _
  · exact State.reg_setReg_ne (by decide) ..

/-- The open counts begin again. -/
def State.resetOpenCounts (s : State) : State :=
  (List.range 16).foldl (fun s d => (s.setReg (Reg.AUD_OPEN_COUNT d) 0).ledgerQueue (openCountAddr d) [0]) s

theorem AuditOnly.resetOpenCounts {s t : State} (h : AuditOnly s t) : AuditOnly s t.resetOpenCounts := by
  have haud : ∀ d ∈ List.range 16, auditReg (Reg.AUD_OPEN_COUNT d) = true := by decide
  unfold State.resetOpenCounts
  generalize List.range 16 = ds at haud
  induction ds generalizing t with
  | nil => exact h
  | cons d ds ih =>
    obtain ⟨hd, hds⟩ := List.forall_mem_cons.1 haud
    exact ih ((h.setReg hd 0).ledgerQueue _ _) hds

theorem State.reg_resetOpenCounts {k : Nat} (hk : ∀ d < 16, k ≠ Reg.AUD_OPEN_COUNT d) (s : State) :
    s.resetOpenCounts.reg k = s.reg k := by
  have hds : ∀ d ∈ List.range 16, k ≠ Reg.AUD_OPEN_COUNT d := fun d hd => hk d (List.mem_range.1 hd)
  unfold State.resetOpenCounts
  generalize List.range 16 = ds at hds
  induction ds generalizing s with
  | nil => rfl
  | cons d ds ih =>
    obtain ⟨hd, hds⟩ := List.forall_mem_cons.1 hds
    exact (ih _ hds).trans (State.reg_setReg_ne hd 0 s)

/-- The registers of a chain that begins (R171). -/
def State.chainBegun (s : State) : State :=
  let chain := word ((s.chainId + 1) % 2 ^ 32)
  (((s.setReg Reg.AUD_CHAIN chain).ledgerQueue chainIdAddr [chain]).setReg Reg.AUD_EPOCH 0).resetOpenCounts.setReg
    Reg.AUD_START_COUNT 0

/-- A chain begins with GENESIS and START, under the configured key. -/
theorem State.auditGenesis_records (s : State) : ∃ a r, a.keySlot = s.chainBegun.chainKeySlot ∧
    s.auditGenesis = (State.audit r { s.chainBegun with aud := a }).auditStart := ⟨_, _, rfl, rfl⟩

theorem AuditOnly.chainBegun {s t : State} (h : AuditOnly s t) : AuditOnly s t.chainBegun :=
  (((h.setReg (by decide) _).ledgerQueue _ _).setReg (by decide) _).resetOpenCounts.setReg (by decide) _

theorem AuditOnly.auditGenesis {s t : State} (h : AuditOnly s t) : AuditOnly s t.auditGenesis := by
  obtain ⟨a, r, -, hgenesis⟩ := t.auditGenesis_records
  rw [hgenesis]
  exact ((h.chainBegun.setAud a).audit r).auditStart

theorem State.reg_chainBegun {k : Nat} (hchain : k ≠ Reg.AUD_CHAIN) (hepoch : k ≠ Reg.AUD_EPOCH)
    (hopen : ∀ d < 16, k ≠ Reg.AUD_OPEN_COUNT d) (hstart : k ≠ Reg.AUD_START_COUNT) (s : State) :
    s.chainBegun.reg k = s.reg k := by
  unfold State.chainBegun
  dsimp only
  rw [State.reg_setReg_ne hstart, State.reg_resetOpenCounts hopen, State.reg_setReg_ne hepoch]
  exact State.reg_setReg_ne hchain _ s

/-- CHAIN_ID rises. -/
theorem State.chainBegun_chain {s : State} (hlast : s.chainId < 0xFFFFFFFF) :
    s.chainBegun.reg Reg.AUD_CHAIN = word (s.chainId + 1) := by
  have hid : (s.chainId + 1) % 2 ^ 32 = s.chainId + 1 := Nat.mod_eq_of_lt (by omega)
  unfold State.chainBegun
  dsimp only
  rw [State.reg_setReg_ne (by decide), State.reg_resetOpenCounts (by decide), State.reg_setReg_ne (by decide), hid]
  exact State.reg_setReg_self ..

theorem AuditOnly.chainKeySlot {s t : State} (h : AuditOnly s t) (hcfg : t.reg Reg.AUD_CFG = s.reg Reg.AUD_CFG) :
    t.chainKeySlot = s.chainKeySlot := by
  have hlamp : t.lamp = s.lamp := by rw [h.frame]
  unfold State.chainKeySlot State.keySlotAt
  rw [hcfg, hlamp]

/-- The chain begins under the configured key, with the next CHAIN_ID. -/
theorem State.auditGenesis_spec {s : State} (hlast : s.chainId < 0xFFFFFFFF) :
    s.auditGenesis.aud.keySlot = s.chainKeySlot ∧ s.auditGenesis.reg Reg.AUD_START_COUNT = 1 ∧
      s.auditGenesis.reg Reg.AUD_CHAIN = word (s.chainId + 1) := by
  have hcfg : s.chainBegun.reg Reg.AUD_CFG = s.reg Reg.AUD_CFG :=
    State.reg_chainBegun (by decide) (by decide) (by decide) (by decide) s
  have hzero : s.chainBegun.reg Reg.AUD_START_COUNT = 0 := State.reg_setReg_self ..
  obtain ⟨a, r, ha, hgenesis⟩ := s.auditGenesis_records
  have hrecorded {k : Nat} (hk : k ∉ recordRegs) :
      (State.audit r { s.chainBegun with aud := a }).reg k = s.chainBegun.reg k :=
    (State.reg_audit hk _ r).trans (State.reg_setAud ..)
  obtain ⟨hkey, hcount, hstart⟩ := State.auditStart_spec (State.audit r { s.chainBegun with aud := a })
  rw [hgenesis, hkey, hcount, hstart, State.keySlot_audit, hrecorded (by decide), hrecorded (by decide), hzero,
    State.chainBegun_chain hlast]
  exact ⟨ha.trans ((AuditOnly.refl s).chainBegun.chainKeySlot hcfg), rfl, rfl⟩

/-! ## The commands -/

section

variable {s : State}

/-- NEW_CHAIN is decided: what stands before the new chain is sealed, and the chain begins. -/
theorem decideChain_begins (hopen : s.anyOpen = false) (harmed : s.anyArmed = false)
    (hkey : s.chainKeySlot.isSome) (hlast : s.chainId < 0xFFFFFFFF) :
    decideChain s = ((s.auditReady.auditSeal false false).auditGenesis).setReg Reg.AUD_CTL_RESULT 1 := by
  have hnone : s.chainKeySlot.isNone = false := by simpa [Option.isSome_iff_ne_none] using hkey
  simp [decideChain, hopen, harmed, hnone, hlast.ne]

theorem decideChain_refuses (h : (s.anyOpen || s.anyArmed || s.chainKeySlot.isNone) = true) :
    decideChain s = (s.setReg Reg.AUD_CTL_RESULT (if s.anyOpen then 2 else if s.anyArmed then 3 else 4)).count
      Reg.AUD_CNT_CTL_REFUSED := by
  unfold decideChain
  dsimp only
  cases hopen : s.anyOpen
  · cases harmed : s.anyArmed
    · rw [hopen, harmed] at h
      have hkey : s.chainKeySlot.isNone = true := h
      simp [hkey]
    · rfl
  · rfl

end

theorem State.reg_auditReady {k : Nat} (hk : k ∉ recordRegs) (s : State) : s.auditReady.reg k = s.reg k := by
  unfold State.auditReady
  split
  · rfl
  · rw [State.reg_sealDue hk, State.reg_auditGap hk, State.reg_sealDue hk]

/-- A chain that begins raises CHAIN_ID, takes the configured key, counts the start as its first, and reads DONE. -/
theorem decideChain_spec {s : State} (hopen : s.anyOpen = false) (harmed : s.anyArmed = false)
    (hkey : s.chainKeySlot.isSome) (hlast : s.chainId < 0xFFFFFFFF) :
    (decideChain s).reg Reg.AUD_CTL_RESULT = 1 ∧ (decideChain s).reg Reg.AUD_CHAIN = word (s.chainId + 1) ∧
      (decideChain s).reg Reg.AUD_START_COUNT = 1 ∧ (decideChain s).aud.keySlot = s.chainKeySlot ∧
      AuditOnly s (decideChain s) := by
  have hsealed : AuditOnly s (s.auditReady.auditSeal false false) := (AuditOnly.refl s).auditReady.auditSeal _ _
  have hreg {k : Nat} (hk : k ∉ recordRegs) : (s.auditReady.auditSeal false false).reg k = s.reg k :=
    (State.reg_auditSeal hk _ _ _).trans (State.reg_auditReady hk s)
  have hid : (s.auditReady.auditSeal false false).chainId = s.chainId := by
    rw [State.chainId, hreg (by decide), State.chainId]
  obtain ⟨hslot, hstart, hchain⟩ := State.auditGenesis_spec (hid.trans_lt hlast)
  rw [decideChain_begins hopen harmed hkey hlast]
  refine ⟨State.reg_setReg_self .., ?_, ?_, hslot.trans (hsealed.chainKeySlot (hreg (by decide))),
    hsealed.auditGenesis.setReg (by decide) 1⟩
  · rw [State.reg_setReg_ne (by decide), hchain, hid]
  · rw [State.reg_setReg_ne (by decide), hstart]

theorem newChain_alone {s : State} (h : s.openWait = []) : newChain s = decideChain s := if_pos h

theorem newChain_waits {s : State} (h : s.openWait ≠ []) (hnew : s.openWait.contains chainWait = false) :
    newChain s = { s with openWait := s.openWait ++ [chainWait] }.setReg Reg.AUD_CTL_RESULT 0 := by
  rw [newChain, if_neg h, hnew]
  rfl

/-- Nothing that a NEW_CHAIN looks at differs once a staged half has been discarded. -/
theorem discarded_newChain (who : Party) (key : Nat) (s : State) :
    (discarded who key s).openWait = s.openWait ∧ (discarded who key s).anyOpen = s.anyOpen ∧
      (discarded who key s).anyArmed = s.anyArmed ∧ (discarded who key s).chainKeySlot = s.chainKeySlot ∧
      (discarded who key s).chainId = s.chainId := by
  have hreg {k : Nat} (hk : k ≠ Reg.GEN_CNT_SPLIT_DISCARD) : (discarded who key s).reg k = s.reg k :=
    State.reg_unstage_ne _ _ s hk
  have hframe := s.unstage_frame (slotLatch who (key / 0x100000)) (barName key)
  have hlamp : (discarded who key s).lamp = s.lamp := by rw [discarded, hframe]
  have hopen : (discarded who key s).isOpen = s.isOpen := funext fun _ => State.isOpen_discarded ..
  refine ⟨by rw [discarded, hframe], congrArg (List.range 16).any hopen, ?_, ?_, ?_⟩
  · rw [State.anyArmed, State.anyArmed, discarded, hframe]
  · unfold State.chainKeySlot State.keySlotAt
    rw [hreg (by decide), hlamp]
  · rw [State.chainId, hreg (by decide), State.chainId]

/-- Settles O8: a seal is State.auditSeal_seals, a new chain decideChain_spec, and its refusal decideChain_refuses. -/
theorem epochsSealAndChainsBegin : Obligations.EpochsSealAndChainsBegin := by
  unfold Obligations.EpochsSealAndChainsBegin
  refine ⟨⟨fun s e hclock he hdue hslot => ?due, fun who s hacc =>
    ⟨fun hslot => ?sealed, fun hwait hopen harmed hkey hlast => ?begins, fun hwait hnew => ?waits, ?resumes⟩⟩,
    fun who s hacc hwait hbad => ?refused⟩
  case due =>
    have honly := (AuditOnly.refl s).auditSeal false false
    obtain ⟨hepoch, hindex, hnumber, hcounted⟩ := State.auditSeal_seals he hslot false false
    refine ⟨_, within_clocked rfl hclock epochTimeout, ?_⟩
    rw [epochTimeout_due he hdue]
    exact ⟨hepoch, hindex, hnumber, hcounted, honly.frame, fun k hk _ => honly.reg k hk⟩
  case sealed =>
    have haud := discarded_aud who Reg.AUD_CTL s
    have hreg {k : Nat} (hk : k ≠ Reg.GEN_CNT_SPLIT_DISCARD) : (discarded who Reg.AUD_CTL s).reg k = s.reg k :=
      State.reg_unstage_ne _ _ s hk
    have hroom : (discarded who Reg.AUD_CTL s).auditNoSlot = false := by
      rwa [State.auditNoSlot, State.auditFill, hreg (by decide)]
    refine ⟨_, within_auditWrite hacc (accepted_iff.1 hacc).1 _ sealNow, ?_⟩
    cases he : s.aud.epoch with
    | none =>
      have hnone : (discarded who Reg.AUD_CTL s).aud.epoch = none := haud ▸ he
      rw [sealNow, State.auditSeal_of_none hnone]
      exact ⟨hnone, State.reg_setReg_self .., fun h => absurd rfl h, fun _ => onlyRegs_setReg ..⟩
    | some e =>
      have hsome : (discarded who Reg.AUD_CTL s).aud.epoch = some e := haud ▸ he
      obtain ⟨hepoch, -, hnumber, hcounted⟩ := State.auditSeal_seals hsome hroom false false
      refine ⟨hepoch, State.reg_setReg_self .., fun _ => ⟨?_, counts_one_iff.2 ?_⟩, fun h => absurd h (by simp)⟩
      · rw [sealNow, State.reg_setReg_ne (by decide), hnumber, hreg (by decide)]
      · rw [sealNow, State.reg_setReg_ne (by decide), counts_one_iff.1 hcounted, hreg (by decide)]
  case begins =>
    obtain ⟨hw, ho, ha, hk, hi⟩ := discarded_newChain who Reg.AUD_CTL s
    obtain ⟨hresult, hchain, hstart, hslot, honly⟩ := decideChain_spec (ho.trans hopen) (ha.trans harmed)
      (hk ▸ hkey) (hi ▸ hlast)
    refine ⟨_, within_auditWrite hacc (accepted_iff.1 hacc).1 _ newChain, ?_⟩
    rw [newChain_alone (hw.trans hwait)]
    exact ⟨hresult, hi ▸ hchain, hstart, hslot.trans hk, honly.frame, fun k hk _ => honly.reg k hk⟩
  case waits =>
    obtain ⟨hw, -⟩ := discarded_newChain who Reg.AUD_CTL s
    refine ⟨_, within_auditWrite hacc (accepted_iff.1 hacc).1 _ newChain, ?_⟩
    rw [newChain_waits (hw ▸ hwait) (hw ▸ hnew)]
    exact ⟨congrArg (· ++ [chainWait]) hw, rfl, State.reg_setReg_self .., fun k hk => State.reg_setReg_ne hk ..⟩
  case resumes =>
    refine ⟨_, within_auditWrite hacc (accepted_iff.1 hacc).1 _ drainResume, rfl, State.reg_setReg_self .., ?_,
      fun k hk => State.reg_setReg_ne hk ..⟩
    rw [← discarded_aud who Reg.AUD_CTL s]
    rfl
  case refused =>
    obtain ⟨hw, ho, ha, hk, -⟩ := discarded_newChain who Reg.AUD_CTL s
    refine ⟨_, within_auditWrite hacc (accepted_iff.1 hacc).1 _ newChain, ?_⟩
    rw [newChain_alone (hw.trans hwait), decideChain_refuses (by rwa [ho, ha, hk]), ho, ha]
    refine ⟨?_, counts_one_iff.2 ?_, rfl, fun k hk => ?_⟩
    · rw [State.reg_count_ne (by decide), State.reg_setReg_self]
    · rw [State.reg_count_self, State.reg_setReg_ne (by decide), discarded, State.reg_unstage_ne _ _ s (by decide)]
    · simp only [List.mem_cons, List.not_mem_nil, or_false, not_or] at hk
      rw [State.reg_count_ne hk.2, State.reg_setReg_ne hk.1]

end Sys2Proof.Machine
end

section
namespace Sys2Proof.Machine

open Sys2Proof.Claims

/-! ## The drain's writes (R175, R176) -/

/-- A segment's write is issued to a target's root port and namespace. -/
theorem State.issueDrain_emits (k m : Nat) (s : State) : ∃ header data,
    s.issueDrain k m = s.emit (.drain m (s.drainPort m) (s.drainNsid m) k
      ((s.reg (Reg.AUD_DRAIN_BASE m)).toNat + 257 * (k % s.drainSlots)) 257 true header data) := ⟨_, _, rfl⟩

/-- Issuing a segment to several targets emits its writes alone. -/
theorem State.issueDrains_frame (k : Nat) (ts : List Nat) (s : State) :
    ts.foldl (fun s m => s.issueDrain k m) s = { s with out := (ts.foldl (fun s m => s.issueDrain k m) s).out } := by
  induction ts generalizing s with
  | nil => rfl
  | cons m ts ih => rw [List.foldl_cons, ih]; rfl

theorem State.out_issueDrains_of_mem (k : Nat) (ts : List Nat) {s : State} {o : Out} (h : o ∈ s.out) :
    o ∈ (ts.foldl (fun s m => s.issueDrain k m) s).out := by
  induction ts generalizing s with
  | nil => exact h
  | cons m ts ih => exact ih (List.mem_cons_of_mem _ h)

/-- Each target has its write. -/
theorem State.out_issueDrains (k : Nat) {ts : List Nat} {m : Nat} (hm : m ∈ ts) (s : State) : ∃ header data,
    Out.drain m (s.drainPort m) (s.drainNsid m) k ((s.reg (Reg.AUD_DRAIN_BASE m)).toNat + 257 * (k % s.drainSlots)) 257
      true header data ∈ (ts.foldl (fun s m => s.issueDrain k m) s).out := by
  induction ts generalizing s with
  | nil => cases hm
  | cons n ts ih =>
    obtain ⟨header, data, hissue⟩ := s.issueDrain_emits k n
    rw [List.foldl_cons, hissue]
    obtain rfl | hm := List.mem_cons.1 hm
    · exact ⟨_, _, State.out_issueDrains_of_mem k ts (List.mem_cons_self ..)⟩
    · exact ih hm (s.emit _)

/-! ## What is done once a write completes -/

theorem State.drain_setFill (n : Nat) (s : State) : (s.setFill n).aud.drain = s.aud.drain := by
  obtain ⟨full, pressure, haud⟩ := s.aud_setFill n
  rw [haud]

/-- A drained segment is counted, and the drain moves to the next. -/
theorem State.drainAdvance_spec (s : State) : s.drainAdvance.aud.drain = none ∧
    counts Reg.AUD_CNT_SEGMENTS 1 s s.drainAdvance ∧
    s.drainAdvance.reg Reg.AUD_DRAIN_NEXT = s.reg Reg.AUD_DRAIN_NEXT + 1 := by
  unfold State.drainAdvance
  extract_lets k a idle written moved
  refine ⟨State.drain_setFill .., counts_one_iff.2 ?_, ?_⟩
  · rw [State.reg_setFill_ne (by decide) (by decide) (by decide), State.reg_count_self, State.reg_setReg_ne (by decide)]
    exact congrArg (counterPlus 1) (State.reg_setReg_ne (by decide) _ idle)
  · rw [State.reg_setFill_ne (by decide) (by decide) (by decide), State.reg_count_ne (by decide),
      State.reg_setReg_ne (by decide)]
    refine (State.reg_setReg_self _ _ idle).trans ?_
    exact word_toNat_succ _

theorem State.drainSettle_waits {d : Drain} (h : d.waiting ≠ []) (s : State) :
    s.drainSettle d = { s with aud := { s.aud with drain := some d } } := if_pos h

theorem State.drainSettle_done {d : Drain} (hwait : d.waiting = []) (hdone : d.done ≠ []) (s : State) :
    s.drainSettle d = s.drainAdvance := by
  rw [State.drainSettle, if_neg (not_not.2 hwait), if_pos hdone]

/-- A target's register is neither the count of retries nor that of discarded halves. -/
theorem drainTgt_ne {m : Nat} (hm : m < 2) :
    Reg.AUD_DRAIN_TGT m ≠ Reg.AUD_CNT_DRAIN_RETRY ∧ Reg.AUD_DRAIN_TGT m ≠ Reg.GEN_CNT_SPLIT_DISCARD := by
  interval_cases m <;> decide

section

variable {s : State} {d : Drain} {m : Nat}

/-- A write that an awaited target completes. -/
theorem drainWriteComplete_ok (hd : s.aud.drain = some d) (hwait : d.waiting.contains m = true)
    (hdue : (d.due.any fun x => x.1 == m) = false) (hfit : s.drainUnfit m = false) :
    drainWriteComplete m true s =
      s.drainSettle { d with waiting := d.waiting.filter (· ≠ m), done := m :: d.done } := by
  have hmem : m ∈ d.waiting := by simpa using hwait
  simp [drainWriteComplete, hd, hmem, hdue, hfit]

/-- A write whose retry is due is counted and issued again. -/
theorem drainRetry_due (hm : m < 2) (hd : s.aud.drain = some d)
    (hdue : (d.due.any fun x => decide (x.1 = m ∧ x.2 + 1000000 ≤ s.clockNs)) = true) : ∃ lba header data,
    drainRetry m s = ({ s with aud := { s.aud with drain := some { d with due := d.due.filter (·.1 ≠ m) } } }.count
      Reg.AUD_CNT_DRAIN_RETRY).emit (.drain m (s.drainPort m) (s.drainNsid m) d.segment lba 257 true header data) := by
  have hretry : drainRetry m s = ({ s with aud := { s.aud with drain := some { d with
      due := d.due.filter (·.1 ≠ m) } } }.count Reg.AUD_CNT_DRAIN_RETRY).issueDrain d.segment m := by
    rw [drainRetry, hd]
    exact if_pos hdue
  rw [hretry]
  generalize { s.aud with drain := some { d with due := d.due.filter (·.1 ≠ m) } } = a
  have htgt : ({ s with aud := a }.count Reg.AUD_CNT_DRAIN_RETRY).reg (Reg.AUD_DRAIN_TGT m) =
      s.reg (Reg.AUD_DRAIN_TGT m) := State.reg_count_ne (drainTgt_ne hm).1 _
  obtain ⟨header, data, hissue⟩ :=
    State.issueDrain_emits d.segment m ({ s with aud := a }.count Reg.AUD_CNT_DRAIN_RETRY)
  rw [hissue, State.drainPort, State.drainNsid, htgt]
  exact ⟨_, _, _, rfl⟩

end

/-- A segment that is due is issued to every enabled target. -/
theorem drainWrite_of_ready {s : State} (hready : s.drainReady = true) (hpower : s.aud.pwrFail = false)
    (hack : s.ackWait = false) : drainWrite s = s.drainTargets.foldl (fun u m => u.issueDrain s.drainNext m)
      { s with aud := { s.aud with drain := some ⟨s.drainNext, s.drainTargets, [], [], []⟩ } } := by
  unfold drainWrite
  exact if_neg (by simp [hready, hpower, hack])

theorem drainTgtWrite_idle {s : State} (h : s.aud.drain = none) (m : Nat) (v : Word) :
    drainTgtWrite m v s = s.storeMasked (Reg.AUD_DRAIN_TGT m) v := by
  have hidle : (s.storeMasked (Reg.AUD_DRAIN_TGT m) v).aud.drain = none := h
  unfold drainTgtWrite
  dsimp only
  rw [hidle]

/-- Settles O9: a segment's issue is drainWrite_of_ready, its completion drainSettle_waits or drainAdvance_spec, a retry
drainRetry_due; the two register writes store their value. -/
theorem drainRuns : Obligations.DrainRuns := by
  unfold Obligations.DrainRuns
  intro s
  refine ⟨fun hclock hidle hfault hpower htargets hfill hack => ?issue,
    fun m d hm hclock hd => ⟨fun hwait hdue hfit => ?complete, fun hdue => ?retry⟩,
    fun who v hacc => ⟨?ack, fun m hm hidle => ?target⟩⟩
  case issue =>
    have hready : s.drainReady = true := by simp [State.drainReady, hidle, hfault, htargets, hfill]
    refine ⟨_, within_clocked rfl hclock drainWrite, ?_⟩
    rw [drainWrite_of_ready hready hpower hack]
    refine ⟨?_, ?_, fun m hmem => State.out_issueDrains s.drainNext hmem _⟩
    all_goals rw [State.issueDrains_frame]
  case complete =>
    refine ⟨_, within_clocked (decide_eq_true hm) hclock (drainWriteComplete m true), ?_⟩
    rw [drainWriteComplete_ok hd hwait hdue hfit]
    refine ⟨fun hlast => ?_, fun hmore => ?_⟩
    · rw [State.drainSettle_done (by simp [hlast]) (by simp)]
      exact s.drainAdvance_spec
    · rw [State.drainSettle_waits hmore]
      exact ⟨rfl, rfl⟩
  case retry =>
    refine ⟨_, within_clocked (decide_eq_true hm) hclock (drainRetry m), ?_⟩
    obtain ⟨lba, header, data, hretry⟩ := drainRetry_due hm hd hdue
    rw [hretry]
    refine ⟨counts_one_iff.2 ?_, rfl, lba, header, data, rfl⟩
    exact State.reg_count_self Reg.AUD_CNT_DRAIN_RETRY { s with aud := _ }
  case ack =>
    refine ⟨_, within_auditWrite hacc (accepted_iff.1 hacc).1 _ (drainAckWrite v), ?_, onlyRegs_setReg ..⟩
    exact State.reg_setReg_self ..
  case target =>
    refine ⟨_, within_auditWrite hacc (by simp [Instr.wf, (accepted_iff.1 hacc).1, hm]) _ (drainTgtWrite m v), ?_⟩
    rw [drainTgtWrite_idle ((congrArg AudState.drain (discarded_aud ..)).trans hidle)]
    refine ⟨?_, onlyRegs_setReg ..⟩
    rw [State.reg_storeMasked_self, discarded, State.reg_unstage_ne _ _ s (drainTgt_ne hm).2]

end Sys2Proof.Machine
end

section
namespace Sys2Proof.Machine

open Sys2Proof.Claims

/-! ## A frame of a queue beyond 7 on the wire as the droop detector trips (R128, R341)

A frame's queue number is a natural number of any size in QFrame, and the counter REL_CNT_Q_SENT of a queue that no port
has lies at the address of another counter: for queue 0x13E01A of slot 0 that counter is PWR_CNT_DROOP. -/

/-- The queue that no port has. -/
def strayQueue : Nat := 0x13E01A

theorem relCntQSent_strayQueue : Reg.REL_CNT_Q_SENT 0 strayQueue = Reg.PWR_CNT_DROOP := by decide

/-- A device whose slot 0 is UP and has sent the last bit of a frame of that queue. -/
def straySent : State :=
  ({ State.reset with phase := .starting }.modPort 0 fun p => { p with link := .up }).modEgr 0 fun e =>
    { e with wire := some ⟨[], strayQueue, none, none, none⟩ }

/-- The trip counts, and the port's leaving UP counts the frame in the same register. -/
theorem droopTrip_straySent : straySent.reg Reg.PWR_CNT_DROOP = 0 ∧
    (droopTrip straySent).reg Reg.PWR_CNT_DROOP = 2 := by decide

/-- Refutes O27: in a state where the frame on the wire of slot 0 is of queue 0x13E01A, which no clause excludes, a droop
counts twice in PWR_CNT_DROOP. -/
theorem not_powerLossSprintAndRest : ¬ Obligations.PowerLossSprintAndRest := by
  unfold Obligations.PowerLossSprintAndRest
  rintro ⟨hfail, -⟩
  obtain ⟨hclocked, -⟩ := hfail straySent
  obtain ⟨-, t, hexec, -, -, hcounts⟩ := hclocked rfl
  obtain rfl : droopTrip straySent = t := Host.Outcome.next.inj hexec
  obtain ⟨hbefore, hafter⟩ := droopTrip_straySent
  rw [counts_one_iff, hbefore, hafter] at hcounts
  exact absurd hcounts (by decide)

end Sys2Proof.Machine
end
